-- ==== Sys2Proof/Word.lean ====
section
/-! DEFINITION. Word types of the machine and their plainest arithmetic (spec/00_scope.md R3, R4; spec/11_encoding.md R208). -/

namespace Sys2Proof

/-- A byte. -/
abbrev Byte := BitVec 8

/-- One 16-bit instruction word (R199). -/
abbrev Half := BitVec 16

/-- 32 bits: predicates, counters, f32 patterns. -/
abbrev Quad := BitVec 32

/-- 64 bits: scalar registers, state registers, tagged pointers. -/
abbrev Word := BitVec 64

/-- 256 bits: one vector register (R208). -/
abbrev VReg := BitVec 256

/-- A register field of an instruction word (R199). -/
abbrev Reg := BitVec 5

/-- One 128-byte cache line of data (R56). -/
abbrev LineData := BitVec 1024

end Sys2Proof
end

