-- ==== Sys2Proof/Syntax.lean ====
section
/-! DEFINITION. The instructions of the opcode table: one constructor of `Instr` per row of spec/opcode_table.json.
Operand structures follow the operand shapes of spec/11_encoding.md R204, spec/14 R277 and spec/15 R299.
A structure holds what the words say: register numbers, immediates, modifiers and trap bits.
Rows that are steps of the device or the host carry the data that the step arrives with. -/

namespace Sys2Proof

/-- Memory orders (R72, R203). -/
inductive Order | rlx | acq | rel | ar | sc | comm
  deriving DecidableEq, Repr

/-- Scopes (R73, R203). -/
inductive Scope | str | cor | bay | die | pkg | sys
  deriving DecidableEq, Repr

/-- Rounding modes of m[5:3] (R128). -/
inductive Rm | rne | rtz | rdn | rup | sr | dyn
  deriving DecidableEq, Repr

/-- Floating types of class F (R203). -/
inductive FTy | f32 | f16 | bf16
  deriving DecidableEq, Repr

/-- Lane widths of class V (R203). -/
inductive LaneW | w8 | w16 | w32 | w64
  deriving DecidableEq, Repr

/-- Register widths of KREG (R202): single, pair, quad, octet. -/
inductive Grp | g1 | g2 | g4 | g8
  deriving DecidableEq, Repr

/-- A class V modifier (R203). -/
structure VMod where
  unsigned : Bool
  sat : Bool
  lw : LaneW
  deriving DecidableEq, Repr

/-- A class F modifier (R203). -/
structure FMod where
  rm : Rm
  sat : Bool
  ty : FTy
  deriving DecidableEq, Repr

/-- A class Q modifier (R203): scope, credit in bytes, completion counter. -/
structure QMod where
  sysScope : Bool
  bytes : Bool
  k : BitVec 4
  deriving DecidableEq, Repr

/-- Row sizes 64 to 1,024 bytes (R281). -/
inductive RowSize | r64 | r128 | r256 | r512 | r1024
  deriving DecidableEq, Repr

/-- Row element types (R281). -/
inductive RowTy | bf16 | f16 | f32 | s32
  deriving DecidableEq, Repr

/-- The formats of R259, with the MX formats of R304. -/
inductive Fmt
  | f32 | f16 | bf16 | e4m3 | e5m2 | e2m1
  | s8 | s16 | s32 | s64 | n8 | n16 | n32 | n64
  | mxe4m3 | mxe5m2 | mxe2m1
  deriving DecidableEq, Repr

/-- Shape RRR. -/
structure RRR where
  d : Reg
  a : Reg
  b : Reg
  td : Bool
  ta : Bool
  tb : Bool
  deriving DecidableEq, Repr

/-- Shape RR. -/
structure RR where
  d : Reg
  a : Reg
  td : Bool
  ta : Bool
  deriving DecidableEq, Repr

/-- Shape RI. In the form without KIMM register a is register d, and the trap bit of the operand is `td`. -/
structure RI where
  d : Reg
  a : Reg
  imm : Word
  td : Bool
  ta : Bool
  deriving DecidableEq, Repr

/-- Shape IM. -/
structure IM where
  d : Reg
  imm : Word
  td : Bool
  deriving DecidableEq, Repr

/-- Shape BZ: the offset counts 16-bit words. -/
structure BZ where
  d : Reg
  off : Word
  td : Bool
  deriving DecidableEq, Repr

/-- Shape BC. -/
structure BC where
  d : Reg
  a : Reg
  off : Word
  td : Bool
  ta : Bool
  deriving DecidableEq, Repr

/-- Shape MEM with its class M modifier; `w` is the group width where groups are accepted. -/
structure MEM where
  d : Reg
  a : Reg
  imm : Word
  o : Order
  c : Scope
  w : Grp
  td : Bool
  ta : Bool
  deriving DecidableEq, Repr

/-- Shape AT (R277), and LDX, STX (R236) with offset 0. -/
structure AT where
  d : Reg
  a : Reg
  b : Reg
  imm : Word
  o : Order
  c : Scope
  td : Bool
  ta : Bool
  tb : Bool
  deriving DecidableEq, Repr

/-- Shape RW (R277, R281). -/
structure RW where
  d : Reg
  a : Reg
  size : RowSize
  ty : RowTy
  o : Order
  c : Scope
  td : Bool
  ta : Bool
  deriving DecidableEq, Repr

/-- Lane-wise vector integer operands (R248 to R251, R255). -/
structure VOp where
  d : Reg
  a : Reg
  b : Reg
  m : VMod
  pred : BitVec 3
  w : Grp
  td : Bool
  ta : Bool
  tb : Bool
  deriving DecidableEq, Repr

/-- Lane-wise vector floating-point operands (R252). -/
structure FOp where
  d : Reg
  a : Reg
  b : Reg
  m : FMod
  pred : BitVec 3
  w : Grp
  td : Bool
  ta : Bool
  tb : Bool
  deriving DecidableEq, Repr

/-- VCMP and VSHUF operands: `cond` is the condition or the mode. -/
structure VCmpOp where
  d : Reg
  a : Reg
  b : Reg
  m : VMod
  pred : BitVec 3
  cond : BitVec 3
  ta : Bool
  tb : Bool
  deriving DecidableEq, Repr

/-- VFCMP operands (R253). -/
structure FCmpOp where
  d : Reg
  a : Reg
  b : Reg
  m : FMod
  pred : BitVec 3
  cond : BitVec 3
  ta : Bool
  tb : Bool
  deriving DecidableEq, Repr

/-- Integer reductions (R254). -/
structure VRedOp where
  d : Reg
  a : Reg
  m : VMod
  pred : BitVec 3
  ta : Bool
  deriving DecidableEq, Repr

/-- Floating reductions (R254). -/
structure FRedOp where
  d : Reg
  a : Reg
  m : FMod
  pred : BitVec 3
  ta : Bool
  deriving DecidableEq, Repr

/-- VBCAST, VEXT, VINS, VABS operands; `idx` is 0 where there is none. -/
structure VMovOp where
  d : Reg
  a : Reg
  m : VMod
  idx : BitVec 5
  w : Grp
  td : Bool
  ta : Bool
  deriving DecidableEq, Repr

/-- VFSQRT and the SFU instructions (R252, R266). -/
structure FUnOp where
  d : Reg
  a : Reg
  m : FMod
  w : Grp
  td : Bool
  ta : Bool
  deriving DecidableEq, Repr

/-- Conversions (R259 to R262): `b` is the third register where there is one. -/
structure CvtOp where
  d : Reg
  a : Reg
  b : Reg
  rm : Rm
  sat : Bool
  src : Fmt
  dst : Fmt
  ps : BitVec 3
  pd : BitVec 3
  td : Bool
  ta : Bool
  tb : Bool
  deriving DecidableEq, Repr

/-- VLDS, VGATH, VSCAT (R264, R265). -/
structure VIdxOp where
  d : Reg
  a : Reg
  b : Reg
  o : Order
  c : Scope
  w : Grp
  lw : LaneW
  pred : BitVec 3
  td : Bool
  ta : Bool
  tb : Bool
  deriving DecidableEq, Repr

/-- BEXT and BINS (R221). -/
structure BFOp where
  d : Reg
  a : Reg
  lsb : BitVec 6
  width1 : BitVec 6
  signed : Bool
  td : Bool
  ta : Bool
  deriving DecidableEq, Repr

/-- One range of SAFE (R240). -/
structure SafeRange where
  vec : Bool
  first : Reg
  last : Reg
  deriving DecidableEq, Repr

/-- MMA operands (R274). -/
structure MmaOp where
  z : Reg
  qa : Reg
  qb : Reg
  keepa : Bool
  keepb : Bool
  zero : Bool
  deriving DecidableEq, Repr

/-- ZRED operands (R272). -/
structure ZRedOp where
  d : Reg
  z : Reg
  t : Reg
  m : FMod
  w : Grp
  tt : Bool
  deriving DecidableEq, Repr

/-- ZSCALE operands (R273). -/
structure ZScaleOp where
  z : Reg
  a : Reg
  rm : Rm
  sat : Bool
  ta : Bool
  deriving DecidableEq, Repr

/-- CPY and CPY2 (R302, R303). -/
structure CpyOp where
  d : Reg
  a : Reg
  b : Reg
  q : QMod
  chan : BitVec 12
  mask : BitVec 4
  td : Bool
  ta : Bool
  tb : Bool
  deriving DecidableEq, Repr

/-- CPYC (R304). -/
structure CpycOp where
  d : Reg
  a : Reg
  q : QMod
  sat : Bool
  rm : Rm
  src : Fmt
  dst : Fmt
  td : Bool
  ta : Bool
  deriving DecidableEq, Repr

/-- CPYR (R305). -/
structure CpyrOp where
  ring : Reg
  a : Reg
  b : Reg
  q : QMod
  n : BitVec 7
  ta : Bool
  tb : Bool
  deriving DecidableEq, Repr

/-- CPYG and CPYS (R306): rows of 2^e bytes. -/
structure CpyIdxOp where
  d : Reg
  a : Reg
  b : Reg
  q : QMod
  e : BitVec 4
  count : BitVec 16
  td : Bool
  ta : Bool
  tb : Bool
  deriving DecidableEq, Repr

/-- PUTR, PUTV and FLAGR (R307). -/
structure PutOp where
  d : Reg
  a : Reg
  q : QMod
  size : BitVec 2
  mask : BitVec 4
  w : Grp
  td : Bool
  ta : Bool
  deriving DecidableEq, Repr

/-- AMOR (R308). -/
structure AmorOp where
  d : Reg
  a : Reg
  b : Reg
  o : Order
  c : Scope
  op : BitVec 4
  wide : Bool
  td : Bool
  ta : Bool
  tb : Bool
  deriving DecidableEq, Repr

/-- SEND, LAUNCH, SPAWN (template in `n`), FENCE (only d) with class M modifier. -/
structure MsgOp where
  d : Reg
  a : Reg
  o : Order
  c : Scope
  n : BitVec 4
  td : Bool
  ta : Bool
  deriving DecidableEq, Repr

/-- RESUME (R318). -/
structure ResumeOp where
  d : Reg
  a : Reg
  b : Reg
  o : Order
  c : Scope
  ta : Bool
  tb : Bool
  deriving DecidableEq, Repr

/-- CCOPY, CEXPORT, TLBINV, MEASURE and the two-register forms of pages 6 and 7. -/
structure SysOp where
  d : Reg
  a : Reg
  b : Reg
  rights : BitVec 3
  td : Bool
  ta : Bool
  tb : Bool
  deriving DecidableEq, Repr

/-- SYSCALL (R323). -/
structure SyscallOp where
  d : Reg
  service : BitVec 11
  td : Bool
  deriving DecidableEq, Repr

/-- A Span packet: the header of R181 with its payload as sent, in flits (R183). `port` is the port it came by; `vector` says whether its
payload was formed from vector registers, which no field of the header tells (R189; L37). -/
structure Packet where
  ptype : BitVec 8
  flags : BitVec 8
  src : BitVec 12
  dst : BitVec 12
  chan : BitVec 12
  seq : Quad
  flagno : Quad
  offset : Word
  length : BitVec 16
  op : BitVec 8
  size : BitVec 8
  tag : Quad
  a : Word
  b : Word
  zmap : Quad
  check : Quad
  payload : List Byte
  port : Nat
  vector : Bool
  deriving DecidableEq, Repr

/-- A REG_MR request (R351): a range of a job, or a range of the host. -/
inductive MrReq
  | job (job : Nat) (ptr : Word) (len : Nat) (read write : Bool)
  | host (job : Nat) (len : Nat)
  deriving DecidableEq, Repr

/-- A CHAN request (R351, R184, R198). -/
inductive ChanReq
  | openAcc (chan job : Nat) (peer peerSend : BitVec 12) (gapUs : Nat)
  | openSend (chan job : Nat) (peer peerAcc : BitVec 12) (gapUs : Nat) (jbase : Word) (jsize : Nat)
  | closeSend (chan : Nat)
  | closeAcc (chan : Nat)
  deriving DecidableEq, Repr

/-- A gallery window (R58), in units of 64 KiB. -/
structure GalWindow where
  die : Nat
  vbase : Nat
  size : Nat
  pbase : Nat
  read : Bool
  write : Bool
  deriving DecidableEq, Repr

/-- A remote window (R64). -/
structure RemWindow where
  vbase : Nat
  size : Nat
  target : Word
  write : Bool
  read : Bool
  atomic : Bool
  mask : Bool
  deriving DecidableEq, Repr

/-- A queue descriptor (R164); feed 0 unused, 1 host, 2 device, 3 system. -/
structure QueueDesc where
  queue : Nat
  base : Word
  log2size : Nat
  feed : Nat
  job : Nat
  tailAddr : Word
  headAddr : Word
  deriving DecidableEq, Repr

/-- A page mapping of the initial depot mappings (R59, R60, R353): level of the leaf, offset, physical base, rights x, w, rd. -/
structure Mapping where
  level : Nat
  off : Nat
  phys : Nat
  x : Bool
  w : Bool
  r : Bool
  deriving DecidableEq, Repr

/-- A partition of a job at creation (R177): bays as a set of flat bay numbers, resident or switched out, pre-emption area. -/
structure PartReq where
  part : Nat
  bays : BitVec 80
  resident : Bool
  preArea : Word
  preSize : Nat
  deriving DecidableEq, Repr

/-- A JOB_CREATE request (R353) with the places the conservator gives its items (L23). -/
structure JobReq where
  job : Nat
  parts : List PartReq
  codeBase : Word
  codeLimit : Word
  tvec : Word
  ptBase : Nat
  tableArea : Nat
  tableRoom : Nat
  mappings : List Mapping
  allotment : List Nat
  windows : List GalWindow
  remotes : List RemWindow
  queues : List QueueDesc
  creg : Word
  log2n : Nat
  evtab : Word
  spillTable : Word
  spillPool : List Word
  waitOverflow : Nat
  waitArea : Nat
  launchOverflow : Nat
  launchArea : Nat
  matchFirst : Nat
  matchCount : Nat
  matchArea : Word
  accepts : List Nat
  deriving DecidableEq, Repr

/-- An error that the device detects (R380): what it lies in. -/
inductive ErrSite
  | registers (sid : Nat) (control : Bool)
  | icache (core : Nat) (control : Bool)
  | leased (core line : Nat) (control : Bool)
  | updateOnly (core addr : Nat) (control : Bool)
  | speculative (sid tile : Nat) (control : Bool)
  | localMem (addr : Nat) (control : Bool)
  | l2 (die line : Nat) (dirty : Bool)
  | vitrine (sid tile : Nat)
  | directory (bay : Nat)
  | gallery (addr : Nat)
  | depot (addr : Nat)
  | table (unit : Nat) (control : Bool)
  deriving DecidableEq, Repr

/-- What a step of the device or the host arrives with: which step uses which part stands at its constructor in `Instr`
and at its meaning. `id` and `sel` are the first and the second number that the step names. -/
structure StepArg where
  id : Nat := 0
  sel : Nat := 0
  word : Word := 0
  nums : List Nat := []
  yes : Bool := false
  also : Bool := false
  bytes : List Byte := []
  nonce : BitVec 256 := 0
  routes : List (BitVec 12 × BitVec 36) := []
  packet : Option Packet := none
  mr : Option MrReq := none
  chan : Option ChanReq := none
  job : Option JobReq := none
  site : Option ErrSite := none
  code : Option Nat := none
  deriving DecidableEq, Repr

/-- The one type of instructions and steps: one constructor per row of spec/opcode_table.json.
The rows with operands stand first: Lean compiles at most 244 constructors with fields.
The steps of the device and the host find what they arrive with in `State.arg` (L2); TRAPZ, BRK, XABORT, SAFE and
ILLEGAL_ENCODING find their code, ranges and words in `State.ir` (L18). -/
inductive Instr
  /-- MOV (R224). Copies register a into X[d]. -/
  | mov (o : RR)
  /-- MOVI (R224). Writes the sign-extended immediate into X[d]. -/
  | movi (o : IM)
  /-- ADD (R218). Writes a + b modulo 2^64 into X[d]. -/
  | add (o : RRR)
  /-- ADD_IMM (R218). Writes a + imm modulo 2^64 into X[d]. -/
  | addImm (o : RI)
  /-- SUB (R218). Writes a − b modulo 2^64 into X[d]. -/
  | sub (o : RRR)
  /-- NEG (R218). Writes −a modulo 2^64 into X[d]. -/
  | neg (o : RR)
  /-- MUL (R218). Writes the low 64 bits of a × b into X[d]. -/
  | mul (o : RRR)
  /-- MUL_IMM (R218). Writes the low 64 bits of a × imm into X[d]. -/
  | mulImm (o : RI)
  /-- MULH (R218). Writes the high 64 bits of the signed 128-bit product into X[d]. -/
  | mulh (o : RRR)
  /-- MULHN (R218). Writes the high 64 bits of the unsigned 128-bit product into X[d]. -/
  | mulhn (o : RRR)
  /-- DIV (R219). Empties X[d] and starts a signed division whose quotient fills it 36 cycles later. -/
  | div (o : RRR)
  /-- DIVN (R219). Empties X[d] and starts an unsigned division whose quotient fills it later. -/
  | divn (o : RRR)
  /-- REM (R219). Empties X[d] and starts a signed remainder that fills it later. -/
  | rem (o : RRR)
  /-- REMN (R219). Empties X[d] and starts an unsigned remainder that fills it later. -/
  | remn (o : RRR)
  /-- ABS (R218). Writes the absolute value of signed a into X[d], wrapping at −2^63. -/
  | abs (o : RR)
  /-- MIN (R218). Writes the lesser of signed a and b into X[d]. -/
  | min (o : RRR)
  /-- MAX (R218). Writes the greater of signed a and b into X[d]. -/
  | max (o : RRR)
  /-- MINN (R218). Writes the lesser of unsigned a and b into X[d]. -/
  | minn (o : RRR)
  /-- MAXN (R218). Writes the greater of unsigned a and b into X[d]. -/
  | maxn (o : RRR)
  /-- BR (R229). Branches unconditionally to a PC-relative target. -/
  | br (o : BZ)
  /-- BEQZ (R229). Branches when X[d] is zero. -/
  | beqz (o : BZ)
  /-- BNEZ (R229). Branches when X[d] is not zero. -/
  | bnez (o : BZ)
  /-- BLTZ (R229). Branches when X[d] is negative. -/
  | bltz (o : BZ)
  /-- BGEZ (R229). Branches when X[d] is not negative. -/
  | bgez (o : BZ)
  /-- BEQ (R230). Branches when X[d] equals a. -/
  | beq (o : BC)
  /-- BNE (R230). Branches when X[d] differs from a. -/
  | bne (o : BC)
  /-- BLT (R230). Branches when X[d] is less than a, signed. -/
  | blt (o : BC)
  /-- BGE (R230). Branches when X[d] is at least a, signed. -/
  | bge (o : BC)
  /-- BLTN (R230). Branches when X[d] is less than a, unsigned. -/
  | bltn (o : BC)
  /-- BGEN (R230). Branches when X[d] is at least a, unsigned. -/
  | bgen (o : BC)
  /-- CALL (R231). Writes the return address into x1 and branches to a relative target. -/
  | call (o : BZ)
  /-- CALLR (R231). Reads the target from a register, writes x1 and jumps. -/
  | callr (o : RR)
  /-- JMPR (R231). Jumps to the pointer in a register. -/
  | jmpr (o : RR)
  /-- LOOP (R232). Decrements X[d] and branches while it is not zero. -/
  | loop (o : BZ)
  /-- LD_S8 (R234). Loads one byte sign-extended into X[d] with the modifier's order and scope. -/
  | ldS8 (o : MEM)
  /-- LD_S16 (R234). Loads two bytes sign-extended into X[d]. -/
  | ldS16 (o : MEM)
  /-- LD_S32 (R234). Loads four bytes sign-extended into X[d]. -/
  | ldS32 (o : MEM)
  /-- LD_S64 (R234). Loads eight bytes into X[d]. -/
  | ldS64 (o : MEM)
  /-- LDZ_N8 (R234). Loads one byte zero-extended into X[d]. -/
  | ldzN8 (o : MEM)
  /-- LDZ_N16 (R234). Loads two bytes zero-extended into X[d]. -/
  | ldzN16 (o : MEM)
  /-- LDZ_N32 (R234). Loads four bytes zero-extended into X[d]. -/
  | ldzN32 (o : MEM)
  /-- ST_S8 (R234). Stores the low byte of X[d]. -/
  | stS8 (o : MEM)
  /-- ST_S16 (R234). Stores the low two bytes of X[d]. -/
  | stS16 (o : MEM)
  /-- ST_S32 (R234). Stores the low four bytes of X[d]. -/
  | stS32 (o : MEM)
  /-- ST_S64 (R234). Stores all eight bytes of X[d]. -/
  | stS64 (o : MEM)
  /-- LDX (R236). Loads eight bytes from a + b × 8 into X[d]. -/
  | ldx (o : AT)
  /-- STX (R236). Stores X[d] to a + b × 8. -/
  | stx (o : AT)
  /-- PREF (R237). Renews or fills a GAL or DEP line in L1 without any visible effect. -/
  | pref (o : MEM)
  /-- TRAP (R241). Raises BREAK with a code when X[d] is not zero. -/
  | trap (o : IM)
  /-- AND (R220). Writes a & b into X[d]. -/
  | and (o : RRR)
  /-- AND_IMM (R220). Writes a & imm into X[d]. -/
  | andImm (o : RI)
  /-- OR (R220). Writes a | b into X[d]. -/
  | or (o : RRR)
  /-- OR_IMM (R220). Writes a | imm into X[d]. -/
  | orImm (o : RI)
  /-- XOR (R220). Writes a ^ b into X[d]. -/
  | xor (o : RRR)
  /-- XOR_IMM (R220). Writes a ^ imm into X[d]. -/
  | xorImm (o : RI)
  /-- ANDN (R220). Writes a & ~b into X[d]. -/
  | andn (o : RRR)
  /-- NOT (R220). Writes ~a into X[d]. -/
  | not (o : RR)
  /-- SLL (R220). Shifts a left by b[5:0]. -/
  | sll (o : RRR)
  /-- SLL_IMM (R220). Shifts a left by an unsigned immediate. -/
  | sllImm (o : RI)
  /-- SRL (R220). Shifts a right logically by b[5:0]. -/
  | srl (o : RRR)
  /-- SRL_IMM (R220). Shifts a right logically by an immediate. -/
  | srlImm (o : RI)
  /-- SRA (R220). Shifts a right arithmetically by b[5:0]. -/
  | sra (o : RRR)
  /-- SRA_IMM (R220). Shifts a right arithmetically by an immediate. -/
  | sraImm (o : RI)
  /-- ROL (R220). Rotates a left by b[5:0]. -/
  | rol (o : RRR)
  /-- ROL_IMM (R220). Rotates a left by an immediate. -/
  | rolImm (o : RI)
  /-- ROR (R220). Rotates a right by b[5:0]. -/
  | ror (o : RRR)
  /-- CLZ (R220). Counts leading zero bits of a. -/
  | clz (o : RR)
  /-- CTZ (R220). Counts trailing zero bits of a. -/
  | ctz (o : RR)
  /-- POPC (R220). Counts the set bits of a. -/
  | popc (o : RR)
  /-- BSWAP (R220). Reverses the eight bytes of a. -/
  | bswap (o : RR)
  /-- BEXT (R221). Extracts a bit field of a, sign- or zero-extended, into X[d]. -/
  | bext (o : BFOp)
  /-- BINS (R221). Inserts the low bits of a into a bit field of X[d]. -/
  | bins (o : BFOp)
  /-- CMPEQ (R222). Writes 1 when a equals b, else 0. -/
  | cmpeq (o : RRR)
  /-- CMPEQ_IMM (R222). Writes 1 when a equals imm, else 0. -/
  | cmpeqImm (o : RI)
  /-- CMPNE (R222). Writes 1 when a differs from b. -/
  | cmpne (o : RRR)
  /-- CMPLT (R222). Writes 1 when signed a is less than b. -/
  | cmplt (o : RRR)
  /-- CMPLT_IMM (R222). Writes 1 when signed a is less than imm. -/
  | cmpltImm (o : RI)
  /-- CMPLTN (R222). Writes 1 when unsigned a is less than b. -/
  | cmpltn (o : RRR)
  /-- CMPLE (R222). Writes 1 when signed a is at most b. -/
  | cmple (o : RRR)
  /-- CMPLEN (R222). Writes 1 when unsigned a is at most b. -/
  | cmplen (o : RRR)
  /-- SEL (R223). Writes a when X[d] is non-zero, else b. -/
  | sel (o : RRR)
  /-- LDPC (R225). Writes a DEP pointer relative to the PC into X[d]. -/
  | ldpc (o : IM)
  /-- GETS (R226). Reads a state register into X[d]. -/
  | gets (o : IM)
  /-- PUTS (R226). Writes X[d] to a state register that has no behaviour of its own. -/
  | puts (o : IM)
  /-- PUTS_SEED (R130). Writes %seed and reloads %lfsr from the seed, troupe and strand. -/
  | putsSeed (o : IM)
  /-- PUTS_LFSR (R130). Writes the LFSR state, storing a written 0 as 1. -/
  | putsLfsr (o : IM)
  /-- PUTS_XAGE (R92). Sets %xage to 0 whatever value is written. -/
  | putsXage (o : IM)
  /-- PUTS_ROUND (R128). Writes the rounding mode, storing rne for values 5 to 7. -/
  | putsRound (o : IM)
  /-- PUTS_CAUSE (R361). Writes %cause, clearing busy when 0 is written so the handler becomes stoppable. -/
  | putsCause (o : IM)
  /-- PTAG (R227). Builds a tagged pointer from space, owner and offset. -/
  | ptag (o : RRR)
  /-- PSPC (R227). Extracts the space field of a pointer. -/
  | pspc (o : RR)
  /-- POWN (R227). Extracts the owner field of a pointer. -/
  | pown (o : RR)
  /-- POFF (R227). Extracts the offset field of a pointer. -/
  | poff (o : RR)
  /-- PADD (R227). Adds b to a pointer's offset modulo 2^48. -/
  | padd (o : RRR)
  /-- PADD_IMM (R227). Adds imm to a pointer's offset modulo 2^48. -/
  | paddImm (o : RI)
  /-- RDTIME (R242). Writes global time into X[d]. -/
  | rdtime (d : Reg)
  /-- RDCYC (R242). Writes the core's cycle count into X[d]. -/
  | rdcyc (d : Reg)
  /-- VADD (R248). Adds vector integer lanes, wrapping or saturating. -/
  | vadd (o : VOp)
  /-- VSUB (R248). Subtracts vector integer lanes. -/
  | vsub (o : VOp)
  /-- VMUL (R248). Multiplies vector integer lanes, keeping the low bits. -/
  | vmul (o : VOp)
  /-- VMULH (R248). Keeps the high half of each lane product. -/
  | vmulh (o : VOp)
  /-- VMIN (R248). Takes the lesser of each lane pair. -/
  | vmin (o : VOp)
  /-- VMAX (R248). Takes the greater of each lane pair. -/
  | vmax (o : VOp)
  /-- VABS (R248). Takes the absolute value of each lane. -/
  | vabs (o : VMovOp)
  /-- VAND (R248). Ands vector lanes. -/
  | vand (o : VOp)
  /-- VOR (R248). Ors vector lanes. -/
  | vor (o : VOp)
  /-- VXOR (R248). Exclusive-ors vector lanes. -/
  | vxor (o : VOp)
  /-- VSLL (R249). Shifts each lane left by the matching lane of b. -/
  | vsll (o : VOp)
  /-- VSRL (R249). Shifts each lane right with zeros. -/
  | vsrl (o : VOp)
  /-- VSRA (R249). Shifts each lane right with the sign. -/
  | vsra (o : VOp)
  /-- VCMP (R250). Compares integer lanes and writes a predicate. -/
  | vcmp (o : VCmpOp)
  /-- VSEL (R251). Selects each lane from a or b by a selector predicate. -/
  | vsel (o : VOp)
  /-- VRSUM_INT (R254). Sums integer lanes in a fixed tree into X[d]. -/
  | vrsumInt (o : VRedOp)
  /-- VRMAX_INT (R254). Takes the maximum integer lane into X[d]. -/
  | vrmaxInt (o : VRedOp)
  /-- VRMIN_INT (R254). Takes the minimum integer lane into X[d]. -/
  | vrminInt (o : VRedOp)
  /-- VPERM (R255). Permutes lanes of a by indices in b. -/
  | vperm (o : VOp)
  /-- VSHUF (R256). Zips, unzips or reverses lanes of two registers. -/
  | vshuf (o : VCmpOp)
  /-- VBCAST (R257). Broadcasts a scalar into every lane. -/
  | vbcast (o : VMovOp)
  /-- VEXT (R257). Extracts one lane into an x register. -/
  | vext (o : VMovOp)
  /-- VINS (R257). Inserts a scalar into one lane. -/
  | vins (o : VMovOp)
  /-- PSET (R258). Sets a predicate from an immediate. -/
  | pset (o : IM)
  /-- PAND (R258). Ands two predicates. -/
  | pand (o : RRR)
  /-- POR (R258). Ors two predicates. -/
  | por (o : RRR)
  /-- PNOT (R258). Inverts a predicate. -/
  | pnot (o : RR)
  /-- PCNT (R258). Counts set predicate bits into X[d]. -/
  | pcnt (o : RR)
  /-- PFIRST (R258). Writes the lowest set predicate bit index into X[d]. -/
  | pfirst (o : RR)
  /-- VLD (R263). Loads 32-byte vector registers. -/
  | vld (o : MEM)
  /-- VST (R263). Stores 32-byte vector registers. -/
  | vst (o : MEM)
  /-- VLDS (R264). Loads a register group with a stride. -/
  | vlds (o : VIdxOp)
  /-- VGATH (R265). Gathers lanes from indexed addresses. -/
  | vgath (o : VIdxOp)
  /-- VSCAT (R265). Scatters lanes to indexed addresses. -/
  | vscat (o : VIdxOp)
  /-- VFADD (R252). Adds float lanes with one rounding. -/
  | vfadd (o : FOp)
  /-- VFSUB (R252). Subtracts float lanes. -/
  | vfsub (o : FOp)
  /-- VFMUL (R252). Multiplies float lanes. -/
  | vfmul (o : FOp)
  /-- VFMA (R252). Computes a × b + d with one rounding. -/
  | vfma (o : FOp)
  /-- VFMS (R252). Computes a × b − d with one rounding. -/
  | vfms (o : FOp)
  /-- VFNMA (R252). Computes d − a × b with one rounding. -/
  | vfnma (o : FOp)
  /-- VFMIN (R252). Takes the float minimum of each lane pair. -/
  | vfmin (o : FOp)
  /-- VFMAX (R252). Takes the float maximum of each lane pair. -/
  | vfmax (o : FOp)
  /-- VFCMP (R253). Compares float lanes and writes a predicate. -/
  | vfcmp (o : FCmpOp)
  /-- VFDIV (R252). Divides float lanes in the divide part of the unit. -/
  | vfdiv (o : FOp)
  /-- VFSQRT (R252). Takes the square root of float lanes. -/
  | vfsqrt (o : FUnOp)
  /-- VRSUM_FLOAT (R254). Sums float lanes in a fixed rounded tree into X[d]. -/
  | vrsumFloat (o : FRedOp)
  /-- VRMAX_FLOAT (R254). Takes the float maximum lane into X[d]. -/
  | vrmaxFloat (o : FRedOp)
  /-- VRMIN_FLOAT (R254). Takes the float minimum lane into X[d]. -/
  | vrminFloat (o : FRedOp)
  /-- VCVT (R260). Converts one part of a register between formats. -/
  | vcvt (o : CvtOp)
  /-- VPACK (R261). Converts two registers into one narrower register. -/
  | vpack (o : CvtOp)
  /-- VUNPACK (R261). Converts one register into a wider register pair. -/
  | vunpack (o : CvtOp)
  /-- VQNT (R262). Quantises a 32-element block to an MX format with its scale in X[t]. -/
  | vqnt (o : CvtOp)
  /-- VDQNT (R262). Dequantises an MX block using the scale in X[t]. -/
  | vdqnt (o : CvtOp)
  /-- VEXP2 (R266). Queues SFU requests computing 2^a per lane. -/
  | vexp2 (o : FUnOp)
  /-- VLOG2 (R266). Queues SFU requests computing log2 a. -/
  | vlog2 (o : FUnOp)
  /-- VRSQRT (R266). Queues SFU requests computing 1/sqrt a. -/
  | vrsqrt (o : FUnOp)
  /-- VRCP (R266). Queues SFU requests computing 1/a. -/
  | vrcp (o : FUnOp)
  /-- VSINCOS (R266). Queues SFU requests computing sin and cos of pi a. -/
  | vsincos (o : FUnOp)
  /-- VTANH (R266). Queues SFU requests computing tanh a. -/
  | vtanh (o : FUnOp)
  /-- RNGDEF (R268). Binds or unbinds an operand ring from a 32-byte definition. -/
  | rngdef (o : RR)
  /-- RNGADV (R269). Marks n program-written ring slots ready and releases them. -/
  | rngadv (o : IM)
  /-- RNGSTAT (R270). Reads a ring definition into a v register. -/
  | rngstat (o : RR)
  /-- MMA (R275). Issues a matrix multiply-accumulate of one A and one B panel into an accumulator. -/
  | mma (o : MmaOp)
  /-- ZCLR (R271). Zeroes a held accumulator. -/
  | zclr (d : Reg)
  /-- ZLD (R271). Starts loading an accumulator from own LM. -/
  | zld (o : MEM)
  /-- ZST (R271). Starts storing an accumulator to own LM. -/
  | zst (o : MEM)
  /-- ZRED (R272). Reads out part of an accumulator row into v registers. -/
  | zred (o : ZRedOp)
  /-- ZSCALE (R273). Scales accumulator columns by vector factors on the matrix array. -/
  | zscale (o : ZScaleOp)
  /-- ZCLAIM (R271). Waits for and claims an accumulator. -/
  | zclaim (d : Reg)
  /-- ZFREE (R271). Frees a held accumulator after its MMAs retire. -/
  | zfree (d : Reg)
  /-- AMOADD_S32 (R278). Atomically adds to a 4-byte word at its home and returns the old value, or deposits with comm. -/
  | amoaddS32 (o : AT)
  /-- AMOADD_S64 (R278). Atomically adds to an 8-byte word. -/
  | amoaddS64 (o : AT)
  /-- AMOAND_S32 (R278). Atomically ands a 4-byte word. -/
  | amoandS32 (o : AT)
  /-- AMOAND_S64 (R278). Atomically ands an 8-byte word. -/
  | amoandS64 (o : AT)
  /-- AMOOR_S32 (R278). Atomically ors a 4-byte word. -/
  | amoorS32 (o : AT)
  /-- AMOOR_S64 (R278). Atomically ors an 8-byte word. -/
  | amoorS64 (o : AT)
  /-- AMOXOR_S32 (R278). Atomically exclusive-ors a 4-byte word. -/
  | amoxorS32 (o : AT)
  /-- AMOXOR_S64 (R278). Atomically exclusive-ors an 8-byte word. -/
  | amoxorS64 (o : AT)
  /-- AMOMIN_S32 (R278). Atomic signed minimum on a 4-byte word. -/
  | amominS32 (o : AT)
  /-- AMOMIN_S64 (R278). Atomic signed minimum on an 8-byte word. -/
  | amominS64 (o : AT)
  /-- AMOMIN_N32 (R278). Atomic unsigned minimum on a 4-byte word. -/
  | amominN32 (o : AT)
  /-- AMOMIN_N64 (R278). Atomic unsigned minimum on an 8-byte word. -/
  | amominN64 (o : AT)
  /-- AMOMAX_S32 (R278). Atomic signed maximum on a 4-byte word. -/
  | amomaxS32 (o : AT)
  /-- AMOMAX_S64 (R278). Atomic signed maximum on an 8-byte word. -/
  | amomaxS64 (o : AT)
  /-- AMOMAX_N32 (R278). Atomic unsigned maximum on a 4-byte word. -/
  | amomaxN32 (o : AT)
  /-- AMOMAX_N64 (R278). Atomic unsigned maximum on an 8-byte word. -/
  | amomaxN64 (o : AT)
  /-- AMOSWP_S32 (R278). Atomically swaps a 4-byte word. -/
  | amoswpS32 (o : AT)
  /-- AMOSWP_S64 (R278). Atomically swaps an 8-byte word. -/
  | amoswpS64 (o : AT)
  /-- AMOCAS_S32 (R278). Compare-and-swap on a 4-byte word, comparing with X[d]. -/
  | amocasS32 (o : AT)
  /-- AMOCAS_S64 (R278). Compare-and-swap on an 8-byte word. -/
  | amocasS64 (o : AT)
  /-- AMOBADD_N32 (R278). Bounded add on a 4-byte word, writing only when the sum stays within X[d]. -/
  | amobaddN32 (o : AT)
  /-- AMOBADD_N64 (R278). Bounded add on an 8-byte word. -/
  | amobaddN64 (o : AT)
  /-- AMOFADD_F32 (R278). Atomic f32 add rounded rne at the home, or a comm deposit. -/
  | amofaddF32 (o : AT)
  /-- ROWADD (R282). Adds an LM delta row to a GAL or DEP row atomically, or deposits it with comm. -/
  | rowadd (o : RW)
  /-- ROWMAX (R282). Takes the element-wise maximum of a row and an LM delta row. -/
  | rowmax (o : RW)
  /-- LDROW_FRESH (R284). Reads a whole row at its home after merging deposits and writes it to LM. -/
  | ldrowFresh (o : RW)
  /-- LDROW_STALE (R284). Reads a row's home copy at once, counting %stale.p when deposits are outstanding. -/
  | ldrowStale (o : RW)
  /-- TOPK (R286). Inserts a score and expert into a top-k record at its home and returns the position. -/
  | topk (o : AT)
  /-- LDFE (R288). Waits for a tagged word to be full, reads it and empties it. -/
  | ldfe (o : MEM)
  /-- LDFF (R288). Reads a tagged word without changing its tag. -/
  | ldff (o : MEM)
  /-- STFE (R288). Waits for a tagged word to be empty, writes it and sets it full. -/
  | stfe (o : MEM)
  /-- STFF (R288). Writes a tagged word and sets it full. -/
  | stff (o : MEM)
  /-- FEPOLL (R288). Reads whether a tagged word is full. -/
  | fepoll (o : MEM)
  /-- FECLR (R288). Sets a tagged word empty. -/
  | feclr (o : MEM)
  /-- FENCE (R291). Orders the strand's accesses and returns and clears the fence status latch. -/
  | fence (o : MsgOp)
  /-- XBEGIN (R91). Begins or nests a transaction, taking the checkpoint at depth 0. -/
  | xbegin (o : BZ)
  /-- XTEST (R294). Reads the transaction depth. -/
  | xtest (d : Reg)
  /-- XSTAT (R294). Reads the abort status. -/
  | xstat (d : Reg)
  /-- KSET (R295). Sets a completion counter. -/
  | kset (o : IM)
  /-- KADD (R295). Adds to a completion counter. -/
  | kadd (o : IM)
  /-- KWAIT (R296). Waits until a counter reaches n, subtracts n and acquires credited destinations. -/
  | kwait (o : IM)
  /-- KREAD (R295). Reads a completion counter into X[d]. -/
  | kread (o : RR)
  /-- EVSIG (R297). Sends an event addition to the Registrar as a pkg release. -/
  | evsig (o : RR)
  /-- EVWAIT (R297). Waits until an event reaches a target. -/
  | evwait (o : RR)
  /-- WAITW (R298). Waits until a watched word differs from X[d]. -/
  | waitw (o : MEM)
  /-- CPY (R302). Queues a copy-engine command copying bytes between spaces. -/
  | cpy (o : CpyOp)
  /-- CPY2 (R303). Queues a two-dimensional block copy. -/
  | cpy2 (o : CpyOp)
  /-- CPYC (R304). Queues a converting copy between element formats. -/
  | cpyc (o : CpycOp)
  /-- CPYR (R305). Queues a copy of panels and scales into ring slots. -/
  | cpyr (o : CpyrOp)
  /-- CPYG (R306). Queues a gather of indexed rows. -/
  | cpyg (o : CpyIdxOp)
  /-- CPYS (R306). Queues a scatter to indexed rows. -/
  | cpys (o : CpyIdxOp)
  /-- PUTR (R307). Sends one counted WRITE of a scalar on %chan. -/
  | putr (o : PutOp)
  /-- PUTV (R307). Sends one counted WRITE of vector registers on %chan. -/
  | putv (o : PutOp)
  /-- FLAGR (R307). Sends a FLAG covering all earlier writes on %chan. -/
  | flagr (o : PutOp)
  /-- AMOR (R308). Sends a remote AMO and fills X[d] with the old value. -/
  | amor (o : AmorOp)
  /-- GETR (R309). Sends a remote READ filling one or more x registers. -/
  | getr (o : MEM)
  /-- SEND_START (R311). Sends a START mailbox entry that starts a handler troupe. -/
  | sendStart (o : MsgOp)
  /-- SEND_POST (R311). Sends a POST mailbox entry for RECV. -/
  | sendPost (o : MsgOp)
  /-- RECV (R312). Waits for and takes the oldest POST entry into eight registers. -/
  | recv (o : RR)
  /-- SPAWN (R313). Creates a troupe from a template of the launch. -/
  | spawn (o : MsgOp)
  /-- LAUNCH (R314). Appends a launch record to a device-fed queue. -/
  | launch (o : MsgOp)
  /-- CANCEL (R315). Asks the Registrar to cancel a launch. -/
  | cancel (o : RR)
  /-- SUSPEND (R317). Reserves a serial and asks for the troupe to be captured into an object. -/
  | suspend (o : RR)
  /-- RESUME_HERE (R318). Resumes a continuation object in the resumer's bay. -/
  | resumeHere (o : ResumeOp)
  /-- RESUME_ANY (R318). Resumes a continuation object in a bay the Registrar chooses. -/
  | resumeAny (o : ResumeOp)
  /-- CCOPY (R319). Asks for a copy of a continuation object under a new serial. -/
  | ccopy (o : SysOp)
  /-- CDISCARD (R319). Asks for a continuation object to be retired without running. -/
  | cdiscard (o : RR)
  /-- CSIZE (R320). Computes the largest object size for a shape. -/
  | csize (o : RR)
  /-- TLBINV (R321). Starts a shootdown over a DEP range of the job. -/
  | tlbinv (o : SysOp)
  /-- SYSCALL_NOP (R323). System call service 0, returning 0. -/
  | syscallNop (o : SyscallOp)
  /-- SYSCALL_MAP (R323). Maps zeroed pages from the job's depot allotment. -/
  | syscallMap (o : SyscallOp)
  /-- SYSCALL_UNMAP (R323). Removes leaves, runs a shootdown and returns the pages. -/
  | syscallUnmap (o : SyscallOp)
  /-- SYSCALL_SWITCH (R323). Requests a partition switch between two partitions of the job. -/
  | syscallSwitch (o : SyscallOp)
  /-- SYSCALL_RIGHTS (R323). Rewrites the rights of mapped leaves. -/
  | syscallRights (o : SyscallOp)
  /-- SYSCALL_UNASSIGNED (R323). An unassigned service number, answered with −1. -/
  | syscallUnassigned (o : SyscallOp)
  /-- CEXPORT (R324). Asks the conservator to move an object to another job. -/
  | cexport (o : SysOp)
  /-- MEASURE (R325). Asks the conservator to extend the job's measurement with a region digest. -/
  | measure (o : SysOp)
  /-- TRAPZ (R241). Raises TRAPZ precisely; every word 0x0000 decodes as this instruction. Its operands are read from the words in hand. -/
  | trapz
  /-- NOP (R238). Has no effect. -/
  | nop
  /-- RET (R231). Jumps to the address in x1. -/
  | ret
  /-- END (R239). Ends the strand, frees its slot and accumulators, and lets its troupe end under R39. -/
  | endStrand
  /-- SAFE (R240). Marks a safe point with a live register mask. Its operands are read from the words in hand. -/
  | safe
  /-- BRK (R241). Raises BREAK with a 10-bit code after the instruction. Its operands are read from the words in hand. -/
  | brk
  /-- FENCEI (R292). Makes later fetches observe earlier-published code. -/
  | fencei
  /-- TBAR (R293). Waits at the troupe barrier. -/
  | tbar
  /-- LBAR (R293). Waits at the launch barrier of a cohort launch. -/
  | lbar
  /-- XEND (R91). Leaves a nesting level, or at depth 1 starts the commit. -/
  | xend
  /-- XABORT (R294). Aborts the transaction with cause EXPLICIT and a code. Its operands are read from the words in hand. -/
  | xabort
  /-- YIELD (R316). Makes the strand not ready for 16 cycles. -/
  | yield
  /-- SRET (R361). Checks %epc, clears busy and returns from the trap handler. -/
  | sret
  /-- POWER_ON (R349). VIN is applied and PWRGD rises once regulators are in regulation. -/
  | powerOn
  /-- RESET_ASSERT (R349). RSTN falls and the whole module resets. -/
  | resetAssert
  /-- RESET_RELEASE (R349). RSTN rises, global time starts and bring-up steps 5 to 7 run. Argument: trained, zeroed. -/
  | resetRelease
  /-- IDENT (R351). Sets the package identifier and initial route table. Argument: ident, routes. -/
  | ident
  /-- ATTEST (R352). Returns the signed measurement log and job value for a nonce. Argument: nonce, job. -/
  | attest
  /-- REG_MR (R351). Registers a job range or host range for RDMA. Argument: r. -/
  | regMr
  /-- JOB_CREATE (R353). Creates a job with its bays, partitions, windows, queues and areas. Argument: r. -/
  | jobCreate
  /-- JOB_DESTROY (R351). Stops and frees a job and zeroes its memory with tags full. Argument: job. -/
  | jobDestroy
  /-- CHAN (R198). Binds, opens or frees send and accession channels. Argument: r. -/
  | chan
  /-- SWITCH (R178). Management request for a partition switch at a time T. Argument: outJob, outPart, inJob, inPart, t. -/
  | switch
  /-- ROUTE (R351). Rewrites the Span route table. Argument: routes. -/
  | route
  /-- HOST_RDMA_WRITE (R121). A host RDMA WRITE is translated, checked and applied as a store at the home. Argument: rkey, off, data. -/
  | hostRdmaWrite
  /-- HOST_RDMA_READ (R121). A host RDMA READ is served as a fresh read at the home. Argument: rkey, off, len. -/
  | hostRdmaRead
  /-- RECORD_TAKEN (R165). The Registrar takes a record from a queue whose tail advanced, checks it and lists it. Argument: queue. -/
  | recordTaken
  /-- LAUNCH_ADMISSION (R166). The Registrar admits the chosen eligible record, computes shares and sends the wake. -/
  | launchAdmission
  /-- PRIORITY_AGING (R166). A record's effective priority rises by one after each millisecond of resident waiting. Argument: queue, recno. -/
  | priorityAging
  /-- WAKE_MESSAGE (R33). A bay receives the wake message, forwards it and takes its share. Argument: bay, launch. -/
  | wakeMessage
  /-- TROUPE_PLACEMENT (R32). A bay places a waiting troupe once cores, slots and LM are free and starts its strands. Argument: uid. -/
  | troupePlacement
  /-- BAY_WAKE (R354). A gated bay completes waking for work placed on it. Argument: bay. -/
  | bayWake
  /-- BAY_GATE (R354). An idle bay held by no resident partition is gated after 100 µs. Argument: bay. -/
  | bayGate
  /-- SPAWN_RECORD (R313). The Registrar records a SPAWN or SEND.START request and assigns its troupe index and bay. Argument: id. -/
  | spawnRecord
  /-- TROUPE_DONE (R39). A troupe whose strands ended and whose child count is zero reports to its parent. Argument: uid. -/
  | troupeDone
  /-- EVENT_ADD (R167). The Registrar adds an EVSIG amount to an event and releases met waiters. Argument: id. -/
  | eventAdd
  /-- OVERFLOW_WAIT_TEST (R169). A wait-list overflow entry is tested within 2 µs of its event's change. Argument: job, idx. -/
  | overflowWaitTest
  /-- CANCEL_BROADCAST (R175). The cancel broadcast reaches a bay, ending waiting troupes and marking strands. Argument: bay, launch. -/
  | cancelBroadcast
  /-- LAUNCH_OVERFLOW_APPEND (R314). A record kept in the launch overflow area is appended as a queue slot frees. Argument: job. -/
  | launchOverflowAppend
  /-- SWITCH_TIME (R44). At time T the strands of the outgoing partition stop at safe points. Argument: id. -/
  | switchTime
  /-- SWITCH_FORCED_STOP (R44). At T + 20 µs strands without a safe point stop at their next boundary. Argument: id. -/
  | switchForcedStop
  /-- TROUPE_CAPTURE (R150). Once all strands have stopped and pending work has drained, the troupe is written as a continuation object. Argument: uid. -/
  | troupeCapture
  /-- CAPTURE_WATCHDOG (R398). A capture not complete within 1 ms stops the job. Argument: uid. -/
  | captureWatchdog
  /-- SWITCH_COMPLETE (R178). Every troupe is written; the incoming partition's bays are cleared and its objects resumed. Argument: id. -/
  | switchComplete
  /-- MAILBOX_ARRIVAL (R38). A message reaches a core and goes to its mailbox, spill ring or parking buffer. Argument: id. -/
  | mailboxArrival
  /-- HANDLER_START (R38). A START entry starts its handler troupe once a slot and LM are free. Argument: core. -/
  | handlerStart
  /-- SPILL_RETURN (R123). A spill-ring entry returns to the mailbox as an entry frees. Argument: core. -/
  | spillReturn
  /-- ACCEPT_CHANNEL_COMMAND (R187). The hub accepts a command from a send channel's queue, forms WRITE or FLAG packets and journals them. Argument: chan. -/
  | acceptChannelCommand
  /-- REMOTE_REQUEST_SEND (R196). An AMO or READ request takes a free tag and is sent. Argument: id. -/
  | remoteRequestSend
  /-- WRITE (R189). A WRITE packet arrives; duplicates are dropped, otherwise it is translated and written. Argument: p. -/
  | write
  /-- WRITE_LANDS (R189). Every copy of a WRITE is performed; its bit is set, lwm advances and flags are tested. Argument: chan, seq. -/
  | writeLands
  /-- FLAG (R191). A FLAG packet arrives and is released or held. Argument: p. -/
  | flag
  /-- FLAG_RELEASE (R193). A releasable flag is written, match entries fire and LANDED is sent. Argument: chan. -/
  | flagRelease
  /-- AMO (R196). An AMO request is translated and performed at the home and a RESPONSE returned. Argument: p. -/
  | amo
  /-- READ (R196). A READ request is performed at the home and a RESPONSE returned. Argument: p. -/
  | read
  /-- LANDED (R195). A LANDED reply frees journal records and credits a FLAGR. Argument: p. -/
  | landed
  /-- GAP (R388). A GAP arrives at the sender, which replays the listed records or breaks on round 9. Argument: p. -/
  | gap
  /-- RESPONSE (R196). A RESPONSE completes a remote request into its tag and registers. Argument: p. -/
  | response
  /-- LANDED_TIMER (R194). A LANDED is sent when lwm moved and 5 µs have passed. Argument: chan. -/
  | landedTimer
  /-- GAP_TIMEOUT (R387). A gap lasting gap_us sends a GAP round or breaks the channel. Argument: chan. -/
  | gapTimeout
  /-- SENDER_TIMEOUT (R389). No progress for 2 × gap_us resends the newest record or breaks the channel. Argument: chan. -/
  | senderTimeout
  /-- REMOTE_TIMEOUT (R393). A remote request unanswered after 8 × gap_us frees its tag and traps. Argument: tag. -/
  | remoteTimeout
  /-- PORT_REMOVAL (R390). A port with 64 check drops in 1 ms is removed from every route mask. Argument: port. -/
  | portRemoval
  /-- CHANNEL_DRAINED (R198). A closing send channel with nothing outstanding goes to state 0. Argument: chan. -/
  | channelDrained
  /-- LEASE_RENEWAL (R109). A serving slice extends a read lease and returns stamps and data. Argument: id. -/
  | leaseRenewal
  /-- LOAD_RETURN (R109). A memory result returns to its core, raising lt and filling the register. Argument: id. -/
  | loadReturn
  /-- STORE_APPLY (R110). A serving slice applies a write-through store and stamps it. Argument: id. -/
  | storeApply
  /-- STORE_ACK (R110). The store's wts returns and the core updates lt and its L1 copy. Argument: id. -/
  | storeAck
  /-- PROXY_READ_MISS (R115). The home serves a proxy read miss and updates its directory state. Argument: line, die. -/
  | proxyReadMiss
  /-- PROXY_WRITE (R115). The home invalidates other proxies and grants M to the writer. Argument: line, die. -/
  | proxyWrite
  /-- PROXY_EVICTION (R115). The home takes an evicted M or O line and its rts. Argument: line, die. -/
  | proxyEviction
  /-- FRESH_READ (R119). The home recalls deposits and dirty data, then serves the read. Argument: line. -/
  | freshRead
  /-- RECALL (R118). An L1 or proxy answers a recall or invalidation after its earlier merges. Argument: line, agent. -/
  | recall
  /-- TRANSITION_ANSWER (R115). An answer to an invalidation, downgrade or recall reaches the home, possibly ending the transition. Argument: line, die. -/
  | transitionAnswer
  /-- DEPOSIT_REGISTRATION (R118). A first deposit sets a mask bit and a proxy registers U at the home. Argument: core, row. -/
  | depositRegistration
  /-- DEPOSIT_MERGE (R118). An update-only line's accumulators are applied at the home as one write. Argument: core, row. -/
  | depositMerge
  /-- COHERENCE_RETRY (R116). A refused requester retries after its back-off expires. Argument: id. -/
  | coherenceRetry
  /-- RESERVATION_PASS (R117). An unclaimed starvation reservation passes to the next oldest after 16,384 cycles. Argument: line. -/
  | reservationPass
  /-- REBASE (R112). A stamp reaching 2^47 starts a package-wide rebase of logical time. -/
  | rebase
  /-- REBASE_END (R112). The rebase ends and slices accept renewals and stores again. -/
  | rebaseEnd
  /-- POSTED_STORE_APPLY (R54). A target core applies or refuses a posted store and acknowledges it. Argument: core, seq. -/
  | postedStoreApply
  /-- POSTED_STORE_ACK (R54). An acknowledgement frees a journal entry, with POSTED_REFUSED pending on refusal. Argument: core, seq. -/
  | postedStoreAck
  /-- REMOTE_READ (R53). A target core serves a read of its LM and returns the value. Argument: id. -/
  | remoteRead
  /-- TAGGED_WORD_REQUEST (R288). A tagged-word request is performed or queued at its bank or home. Argument: id. -/
  | taggedWordRequest
  /-- FE_TIMEOUT (R369). An LDFE or STFE wait reaching %fewait is withdrawn and traps. Argument: id. -/
  | feTimeout
  /-- ATOMIC_AT_HOME (R278). An AMO request is performed as one read-modify-write at the home slice. Argument: id. -/
  | atomicAtHome
  /-- ROW_AT_HOME (R282). A row operation or LDROW is performed at the home slice. Argument: id. -/
  | rowAtHome
  /-- TOPK_AT_HOME (R286). A TOPK insertion is performed on the record at its home. Argument: id. -/
  | topkAtHome
  /-- TRANSACTIONAL_REGISTRATION (R97). A first transactional access reaches the home, which registers it or decides a conflict. Argument: id. -/
  | transactionalRegistration
  /-- CONFLICT_ABORT (R103). An abort message reaches a transactional strand, which restores its checkpoint and goes to the handler. Argument: sid. -/
  | conflictAbort
  /-- TRANSACTION_COMMIT (R105). Every registration is granted; the transaction commits and releases deposits and held commands. Argument: sid. -/
  | transactionCommit
  /-- COMMIT_APPLY (R115). A home invalidates proxies and makes speculative versions committed. Argument: sid, slice. -/
  | commitApply
  /-- DIVIDE_COMPLETE (R219). A division finishes and fills its register. Argument: id. -/
  | divideComplete
  /-- SFU_SERVICE (R267). The bay SFU serves the oldest queued request. Argument: bay. -/
  | sfuService
  /-- SFU_RESULT (R267). An SFU result is written to its register 12 cycles after service. Argument: id. -/
  | sfuResult
  /-- MMA_START (R276). The matrix array accepts the next MMA or ZSCALE. Argument: core. -/
  | mmaStart
  /-- MMA_RETIRE (R275). An MMA retires, writing the accumulator and advancing consumed rings. Argument: core. -/
  | mmaRetire
  /-- ZSCALE_RETIRE (R273). A ZSCALE retires with its scaled accumulator. Argument: core. -/
  | zscaleRetire
  /-- ZMOVE_COMPLETE (R271). A ZLD or ZST move of 16 KiB completes. Argument: id. -/
  | zmoveComplete
  /-- YIELD_END (R316). The 16 cycles of a YIELD expire and the strand becomes ready. Argument: sid. -/
  | yieldEnd
  /-- ASYNC_TRAP_DELIVERY (R358). A pending asynchronous trap is delivered at a boundary to the handler or stops the job. Argument: sid. -/
  | asyncTrapDelivery
  /-- ENGINE_COMMAND_START (R301). A copy engine takes a command from its queue and begins it. Argument: engine. -/
  | engineCommandStart
  /-- ENGINE_PAGE_BOUNDARY (R63). An engine reaches a page boundary, translates afresh, pauses for a shootdown or faults. Argument: id, n. -/
  | enginePageBoundary
  /-- ENGINE_COMMAND_COMPLETE (R302). An engine command completes and credits its counter or pending word. Argument: id. -/
  | engineCommandComplete
  /-- CPYR_RESERVE (R305). A waiting CPYR reserves its ring slots once enough are free. Argument: id. -/
  | cpyrReserve
  /-- SHOOTDOWN_ANSWER (R62). A bay, engine or the hub answers a shootdown; the last answer completes TLBINV. Argument: id, agent. -/
  | shootdownAnswer
  /-- SHOOTDOWN_TIMEOUT (R379). An agent silent for 100 µs in a shootdown is checked and possibly fenced. Argument: id, agent. -/
  | shootdownTimeout
  /-- COMPARE_AND_CLEAR (R153). The hub checks a resumed object and clears its registry serial, then restores the troupe. Argument: id. -/
  | compareAndClear
  /-- CCOPY_WRITE (R155). Once bound fields are zero, the copy of an object is written under a new serial. Argument: id. -/
  | ccopyWrite
  /-- CDISCARD_CLEAR (R156). Once bound fields are zero, the object's serial is cleared and its record marked ended. Argument: id. -/
  | cdiscardClear
  /-- CEXPORT_SERVICE (R158). The conservator moves an object to the target job and reseals it. Argument: id. -/
  | cexportService
  /-- MEASUREMENT_EXTENSION (R325). The conservator reads the region and extends J and the log. Argument: id. -/
  | measurementExtension
  /-- ERROR_DETECTED (R380). A detected error is retried once and classed transient or lasting. Argument: site. -/
  | errorDetected
  /-- PATROL_SCRUB (R380). The gallery patrol scrub checks every word once in 24 hours. Argument: addr. -/
  | patrolScrub
  /-- AGENT_DEAD (R385). An agent silent for two 100 µs periods is declared dead and restarted. Argument: die. -/
  | agentDead
  /-- ILLEGAL_ENCODING (R206). An instruction word group that breaks the encoding rules, such as an unassigned cell, a KEXT word or a page 8 to 31, raises ILLEGAL precisely at its first word. Its operands are read from the words in hand. -/
  | illegalEncoding
  /-- VIN_LOSS (R348). VIN is removed or an on-module regulator leaves regulation, and PWRGD falls. -/
  | vinLoss
  deriving DecidableEq, Repr

/-- Whether an instruction is a step of the device or the host, not one that a strand fetches. -/
def Instr.isEvent : Instr → Bool
  | .trapz => false
  | .nop => false
  | .mov _ => false
  | .movi _ => false
  | .add _ => false
  | .addImm _ => false
  | .sub _ => false
  | .neg _ => false
  | .mul _ => false
  | .mulImm _ => false
  | .mulh _ => false
  | .mulhn _ => false
  | .div _ => false
  | .divn _ => false
  | .rem _ => false
  | .remn _ => false
  | .abs _ => false
  | .min _ => false
  | .max _ => false
  | .minn _ => false
  | .maxn _ => false
  | .br _ => false
  | .beqz _ => false
  | .bnez _ => false
  | .bltz _ => false
  | .bgez _ => false
  | .beq _ => false
  | .bne _ => false
  | .blt _ => false
  | .bge _ => false
  | .bltn _ => false
  | .bgen _ => false
  | .call _ => false
  | .callr _ => false
  | .ret => false
  | .jmpr _ => false
  | .loop _ => false
  | .ldS8 _ => false
  | .ldS16 _ => false
  | .ldS32 _ => false
  | .ldS64 _ => false
  | .ldzN8 _ => false
  | .ldzN16 _ => false
  | .ldzN32 _ => false
  | .stS8 _ => false
  | .stS16 _ => false
  | .stS32 _ => false
  | .stS64 _ => false
  | .ldx _ => false
  | .stx _ => false
  | .pref _ => false
  | .endStrand => false
  | .safe => false
  | .brk => false
  | .trap _ => false
  | .and _ => false
  | .andImm _ => false
  | .or _ => false
  | .orImm _ => false
  | .xor _ => false
  | .xorImm _ => false
  | .andn _ => false
  | .not _ => false
  | .sll _ => false
  | .sllImm _ => false
  | .srl _ => false
  | .srlImm _ => false
  | .sra _ => false
  | .sraImm _ => false
  | .rol _ => false
  | .rolImm _ => false
  | .ror _ => false
  | .clz _ => false
  | .ctz _ => false
  | .popc _ => false
  | .bswap _ => false
  | .bext _ => false
  | .bins _ => false
  | .cmpeq _ => false
  | .cmpeqImm _ => false
  | .cmpne _ => false
  | .cmplt _ => false
  | .cmpltImm _ => false
  | .cmpltn _ => false
  | .cmple _ => false
  | .cmplen _ => false
  | .sel _ => false
  | .ldpc _ => false
  | .gets _ => false
  | .puts _ => false
  | .putsSeed _ => false
  | .putsLfsr _ => false
  | .putsXage _ => false
  | .putsRound _ => false
  | .putsCause _ => false
  | .ptag _ => false
  | .pspc _ => false
  | .pown _ => false
  | .poff _ => false
  | .padd _ => false
  | .paddImm _ => false
  | .rdtime _ => false
  | .rdcyc _ => false
  | .vadd _ => false
  | .vsub _ => false
  | .vmul _ => false
  | .vmulh _ => false
  | .vmin _ => false
  | .vmax _ => false
  | .vabs _ => false
  | .vand _ => false
  | .vor _ => false
  | .vxor _ => false
  | .vsll _ => false
  | .vsrl _ => false
  | .vsra _ => false
  | .vcmp _ => false
  | .vsel _ => false
  | .vrsumInt _ => false
  | .vrmaxInt _ => false
  | .vrminInt _ => false
  | .vperm _ => false
  | .vshuf _ => false
  | .vbcast _ => false
  | .vext _ => false
  | .vins _ => false
  | .pset _ => false
  | .pand _ => false
  | .por _ => false
  | .pnot _ => false
  | .pcnt _ => false
  | .pfirst _ => false
  | .vld _ => false
  | .vst _ => false
  | .vlds _ => false
  | .vgath _ => false
  | .vscat _ => false
  | .vfadd _ => false
  | .vfsub _ => false
  | .vfmul _ => false
  | .vfma _ => false
  | .vfms _ => false
  | .vfnma _ => false
  | .vfmin _ => false
  | .vfmax _ => false
  | .vfcmp _ => false
  | .vfdiv _ => false
  | .vfsqrt _ => false
  | .vrsumFloat _ => false
  | .vrmaxFloat _ => false
  | .vrminFloat _ => false
  | .vcvt _ => false
  | .vpack _ => false
  | .vunpack _ => false
  | .vqnt _ => false
  | .vdqnt _ => false
  | .vexp2 _ => false
  | .vlog2 _ => false
  | .vrsqrt _ => false
  | .vrcp _ => false
  | .vsincos _ => false
  | .vtanh _ => false
  | .rngdef _ => false
  | .rngadv _ => false
  | .rngstat _ => false
  | .mma _ => false
  | .zclr _ => false
  | .zld _ => false
  | .zst _ => false
  | .zred _ => false
  | .zscale _ => false
  | .zclaim _ => false
  | .zfree _ => false
  | .amoaddS32 _ => false
  | .amoaddS64 _ => false
  | .amoandS32 _ => false
  | .amoandS64 _ => false
  | .amoorS32 _ => false
  | .amoorS64 _ => false
  | .amoxorS32 _ => false
  | .amoxorS64 _ => false
  | .amominS32 _ => false
  | .amominS64 _ => false
  | .amominN32 _ => false
  | .amominN64 _ => false
  | .amomaxS32 _ => false
  | .amomaxS64 _ => false
  | .amomaxN32 _ => false
  | .amomaxN64 _ => false
  | .amoswpS32 _ => false
  | .amoswpS64 _ => false
  | .amocasS32 _ => false
  | .amocasS64 _ => false
  | .amobaddN32 _ => false
  | .amobaddN64 _ => false
  | .amofaddF32 _ => false
  | .rowadd _ => false
  | .rowmax _ => false
  | .ldrowFresh _ => false
  | .ldrowStale _ => false
  | .topk _ => false
  | .ldfe _ => false
  | .ldff _ => false
  | .stfe _ => false
  | .stff _ => false
  | .fepoll _ => false
  | .feclr _ => false
  | .fence _ => false
  | .fencei => false
  | .tbar => false
  | .lbar => false
  | .xbegin _ => false
  | .xend => false
  | .xabort => false
  | .xtest _ => false
  | .xstat _ => false
  | .kset _ => false
  | .kadd _ => false
  | .kwait _ => false
  | .kread _ => false
  | .evsig _ => false
  | .evwait _ => false
  | .waitw _ => false
  | .cpy _ => false
  | .cpy2 _ => false
  | .cpyc _ => false
  | .cpyr _ => false
  | .cpyg _ => false
  | .cpys _ => false
  | .putr _ => false
  | .putv _ => false
  | .flagr _ => false
  | .amor _ => false
  | .getr _ => false
  | .sendStart _ => false
  | .sendPost _ => false
  | .recv _ => false
  | .spawn _ => false
  | .launch _ => false
  | .cancel _ => false
  | .yield => false
  | .suspend _ => false
  | .resumeHere _ => false
  | .resumeAny _ => false
  | .ccopy _ => false
  | .cdiscard _ => false
  | .csize _ => false
  | .tlbinv _ => false
  | .sret => false
  | .syscallNop _ => false
  | .syscallMap _ => false
  | .syscallUnmap _ => false
  | .syscallSwitch _ => false
  | .syscallRights _ => false
  | .syscallUnassigned _ => false
  | .cexport _ => false
  | .measure _ => false
  | .powerOn => true
  | .resetAssert => true
  | .resetRelease => true
  | .ident => true
  | .attest => true
  | .regMr => true
  | .jobCreate => true
  | .jobDestroy => true
  | .chan => true
  | .switch => true
  | .route => true
  | .hostRdmaWrite => true
  | .hostRdmaRead => true
  | .recordTaken => true
  | .launchAdmission => true
  | .priorityAging => true
  | .wakeMessage => true
  | .troupePlacement => true
  | .bayWake => true
  | .bayGate => true
  | .spawnRecord => true
  | .troupeDone => true
  | .eventAdd => true
  | .overflowWaitTest => true
  | .cancelBroadcast => true
  | .launchOverflowAppend => true
  | .switchTime => true
  | .switchForcedStop => true
  | .troupeCapture => true
  | .captureWatchdog => true
  | .switchComplete => true
  | .mailboxArrival => true
  | .handlerStart => true
  | .spillReturn => true
  | .acceptChannelCommand => true
  | .remoteRequestSend => true
  | .write => true
  | .writeLands => true
  | .flag => true
  | .flagRelease => true
  | .amo => true
  | .read => true
  | .landed => true
  | .gap => true
  | .response => true
  | .landedTimer => true
  | .gapTimeout => true
  | .senderTimeout => true
  | .remoteTimeout => true
  | .portRemoval => true
  | .channelDrained => true
  | .leaseRenewal => true
  | .loadReturn => true
  | .storeApply => true
  | .storeAck => true
  | .proxyReadMiss => true
  | .proxyWrite => true
  | .proxyEviction => true
  | .freshRead => true
  | .recall => true
  | .transitionAnswer => true
  | .depositRegistration => true
  | .depositMerge => true
  | .coherenceRetry => true
  | .reservationPass => true
  | .rebase => true
  | .rebaseEnd => true
  | .postedStoreApply => true
  | .postedStoreAck => true
  | .remoteRead => true
  | .taggedWordRequest => true
  | .feTimeout => true
  | .atomicAtHome => true
  | .rowAtHome => true
  | .topkAtHome => true
  | .transactionalRegistration => true
  | .conflictAbort => true
  | .transactionCommit => true
  | .commitApply => true
  | .divideComplete => true
  | .sfuService => true
  | .sfuResult => true
  | .mmaStart => true
  | .mmaRetire => true
  | .zscaleRetire => true
  | .zmoveComplete => true
  | .yieldEnd => true
  | .asyncTrapDelivery => true
  | .engineCommandStart => true
  | .enginePageBoundary => true
  | .engineCommandComplete => true
  | .cpyrReserve => true
  | .shootdownAnswer => true
  | .shootdownTimeout => true
  | .compareAndClear => true
  | .ccopyWrite => true
  | .cdiscardClear => true
  | .cexportService => true
  | .measurementExtension => true
  | .errorDetected => true
  | .patrolScrub => true
  | .agentDead => true
  | .illegalEncoding => false
  | .vinLoss => true

end Sys2Proof
end

