-- ==== Sys2Proof/WellFormed.lean ====
section
/-! DEFINITION. Which terms of `Instr` are instructions that words can say (spec/11 R201 to R206, spec/12 to spec/15):
the ranges of immediates, the trap bits that a form has room for, register numbers and control fields.
Decoding the encoding of a well-formed instruction gives it back. -/

namespace Sys2Proof

/-- A value that n chunks hold, sign-extended (R201). -/
def fitsChunks (n : Nat) (v : Word) : Bool :=
  decide (-(2 : Int) ^ (11 * n - 1) ≤ v.toInt) && decide (v.toInt < (2 : Int) ^ (11 * n - 1))

/-- A value that the s field holds, sign-extended. -/
def fits5 (v : Word) : Bool := decide (-16 ≤ v.toInt) && decide (v.toInt ≤ 15)

/-- A value that the s field holds, zero-extended. -/
def fitsU5 (v : Word) : Bool := decide (v.toNat < 32)

/-- Chunks left beside the other prefixes (R200). -/
def room (page : Bool) (kreg : Bool) : Nat := 4 - page.toNat - kreg.toNat

def RRR.wf (o : RRR) (readsD : Bool) : Bool := !o.td || readsD
def RR.wf (o : RR) (readsD : Bool) : Bool := !o.td || readsD

/-- Without KIMM the register operand is d, with its own trap bit. -/
def RI.wf (o : RI) (page uns : Bool) : Bool :=
  if o.td then o.a = o.d && !o.ta && (if uns then fitsU5 o.imm else fits5 o.imm)
  else (o.a = o.d && !o.ta && (if uns then fitsU5 o.imm else fits5 o.imm)) || fitsChunks (room page o.ta) o.imm

def IM.wf (o : IM) (page readsD : Bool) : Bool :=
  (!o.td || readsD) && (fits5 o.imm || fitsChunks (room page o.td) o.imm)

def BZ.wf (o : BZ) (page readsD : Bool) : Bool :=
  (if readsD then true else o.d = 0 && !o.td) && (fits5 o.off || fitsChunks (room page o.td) o.off)

def BC.wf (o : BC) : Bool := fitsChunks (room false (o.td || o.ta)) o.off

/-- Memory operands: a KPAGE stands when the page or the modifier is not 0. -/
def MEM.wf (o : MEM) (page readsD group : Bool) (orders : List Order) (most : Nat) : Bool :=
  (!o.td || readsD) && (group || o.w == .g1) && orders.contains o.o &&
    (o.imm = 0 || fitsChunks (min most (room (page || o.o != .rlx || o.c != .str) (o.td || o.ta || o.w != .g1))) o.imm)

def ordersLd : List Order := [.rlx, .acq, .sc]
def ordersSt : List Order := [.rlx, .rel, .sc]
def ordersRmw : List Order := [.rlx, .acq, .rel, .ar, .sc]
def ordersAll : List Order := [.rlx, .acq, .rel, .ar, .sc, .comm]

def AT.wf (o : AT) (readsD : Bool) (orders : List Order) (most : Nat) : Bool :=
  (!o.td || readsD) && orders.contains o.o && (o.imm = 0 || (decide (0 < most) && fitsChunks (min 2 most) o.imm))

def VOp.wf (o : VOp) (sat readsD group : Bool) : Bool :=
  (sat || !o.m.sat) && (!o.td || readsD || o.pred != 0) && (group || o.w == .g1) &&
    [o.d, o.a, o.b].all (fun r => r.toNat % (match o.w with | .g1 => 1 | .g2 => 2 | .g4 => 4 | .g8 => 8) == 0)

def FOp.wf (o : FOp) (readsD : Bool) : Bool :=
  (!o.td || readsD || o.pred != 0) &&
    [o.d, o.a, o.b].all (fun r => r.toNat % (match o.w with | .g1 => 1 | .g2 => 2 | .g4 => 4 | .g8 => 8) == 0)

/-- Registers of a group; a register number that a group may begin at (R204). -/
def Grp.size : Grp → Nat | .g1 => 1 | .g2 => 2 | .g4 => 4 | .g8 => 8
def Grp.fits (g : Grp) (r : Reg) : Bool := r.toNat % g.size == 0

/-- Lanes of a vector register (R246). -/
def lanesOf : LaneW → Nat | .w8 => 32 | .w16 => 16 | .w32 => 8 | .w64 => 4

/-- Bits of one element of a format; an MX format counts its elements. -/
def fmtWidth : Fmt → Nat
  | .f32 => 32 | .f16 => 16 | .bf16 => 16 | .e4m3 => 8 | .e5m2 => 8 | .e2m1 => 4
  | .s8 => 8 | .s16 => 16 | .s32 => 32 | .s64 => 64 | .n8 => 8 | .n16 => 16 | .n32 => 32 | .n64 => 64
  | .mxe4m3 => 8 | .mxe5m2 => 8 | .mxe2m1 => 4

/-- The parts of VCVT are legal (R260). -/
def vcvtParts (o : CvtOp) : Bool :=
  let sb := fmtWidth o.src
  let db := fmtWidth o.dst
  let mx := max sb db
  decide (mx / min sb db ≤ 8) && decide (o.ps.toNat < mx / sb) && decide (o.pd.toNat < mx / db)

/-- The registers of one MX block of a floating format: 4 for f32, 2 for f16 and bf16 (R262). -/
def blockRegs : Fmt → Nat | .f32 => 4 | _ => 2

def isWideFloat (f : Fmt) : Bool := f == .f32 || f == .f16 || f == .bf16
def isMxElem (f : Fmt) : Bool := f == .e4m3 || f == .e5m2 || f == .e2m1

/-- The formats of the register conversions: those without a scale of their own (R259). -/
def Fmt.plain : Fmt → Bool
  | .mxe4m3 | .mxe5m2 | .mxe2m1 => false
  | _ => true

def CvtOp.plain (o : CvtOp) : Bool := o.src.plain && o.dst.plain

/-- State registers that GETS may read and that PUTS may write (R209). -/
def getsOk (n : Nat) : Bool :=
  decide (n ≤ 0x1C) || (decide (0x20 ≤ n) && decide (n ≤ 0x24)) || (decide (0x28 ≤ n) && decide (n ≤ 0x2A)) ||
    (decide (0x30 ≤ n) && decide (n ≤ 0x35))
def putsOk (n : Nat) : Bool :=
  (decide (0x07 ≤ n) && decide (n ≤ 0x0C)) || (decide (0x10 ≤ n) && decide (n ≤ 0x1C)) ||
    (decide (0x20 ≤ n) && decide (n ≤ 0x24)) || (decide (0x30 ≤ n) && decide (n ≤ 0x35))

/-- An accumulator number (R208). -/
def zOk (r : Reg) : Bool := decide (r.toNat < 2)

/-- A ring or predicate number (R208). -/
def r8 (r : Reg) : Bool := decide (r.toNat < 8)

/-- Well-formed terms. Steps of the device and the host have no words, and the rows that find their operands in the
words in hand have nothing to check here. -/
def Instr.wf : Instr → Bool
  | .mov o | .neg o | .abs o | .not o | .clz o | .ctz o | .popc o | .bswap o | .pspc o | .pown o | .poff o
  | .csize o | .suspend o | .cdiscard o => o.wf false
  | .evsig o | .evwait o => o.wf true
  | .callr o | .jmpr o => o.wf false && o.d == 0
  | .cancel o => o.a == 0 && !o.ta
  | .recv o => (o.d == 8 || o.d == 16 || o.d == 24) && o.a == 0 && !o.ta && !o.td
  | .rngdef o => o.wf false && r8 o.d
  | .rngstat o => !o.td && !o.ta && r8 o.a
  | .pnot o => !o.td && !o.ta && r8 o.d && r8 o.a
  | .pcnt o | .pfirst o => !o.td && !o.ta && r8 o.a
  | .kread o => !o.td && !o.ta && decide (o.a.toNat < 16)
  | .pand o | .por o => !o.td && !o.ta && !o.tb && r8 o.d && r8 o.a && r8 o.b
  | .add o | .sub o | .mul o | .mulh o | .mulhn o | .div o | .divn o | .rem o | .remn o | .min o | .max o | .minn o
  | .maxn o | .and o | .or o | .xor o | .andn o | .sll o | .srl o | .sra o | .rol o | .ror o | .cmpeq o | .cmpne o
  | .cmplt o | .cmpltn o | .cmple o | .cmplen o | .ptag o | .padd o => o.wf false
  | .sel o => o.wf true
  | .addImm o | .mulImm o => o.wf false false
  | .andImm o | .orImm o | .xorImm o | .cmpeqImm o | .cmpltImm o | .paddImm o => o.wf true false
  | .sllImm o | .srlImm o | .sraImm o | .rolImm o => o.wf true true
  | .movi o => o.wf false false
  | .trap o => o.wf false true
  | .ldpc o => o.wf true false
  | .gets o => o.wf true false && getsOk o.imm.toNat
  | .puts o => o.wf true true && putsOk o.imm.toNat && !([0x08, 0x09, 0x0A, 0x0B, 0x30].contains o.imm.toNat)
  | .putsRound o => o.imm == 0x08
  | .putsSeed o => o.imm == 0x09
  | .putsLfsr o => o.imm == 0x0A
  | .putsXage o => o.imm == 0x0B
  | .putsCause o => o.imm == 0x30
  | .pset o => o.wf true false && r8 o.d
  | .rngadv o => !o.td && r8 o.d && (fitsU5 o.imm || fitsChunks 3 o.imm)
  | .kset o | .kadd o | .kwait o => o.wf true false && decide (o.d.toNat < 16)
  | .br o | .call o => o.wf false false
  | .xbegin o => o.wf true false
  | .beqz o | .bnez o | .bltz o | .bgez o | .loop o => o.wf false true
  | .beq o | .bne o | .blt o | .bge o | .bltn o | .bgen o => o.wf
  | .ldS8 o | .ldS16 o | .ldS32 o | .ldS64 o | .ldzN8 o | .ldzN16 o | .ldzN32 o => o.wf false false false ordersLd 4
  | .stS8 o | .stS16 o | .stS32 o | .stS64 o => o.wf false true false ordersSt 4
  | .pref o => o.wf false false false [.rlx] 4 && o.d == 0 && o.c == .str
  | .vld o => o.wf true false true ordersLd 3 && o.w.fits o.d
  | .vst o => o.wf true true true ordersSt 3 && o.w.fits o.d
  | .zld o | .zst o => o.wf true false false [.rlx] 3 && o.c == .str && zOk o.d
  | .ldfe o | .ldff o | .fepoll o => o.wf true false false ordersLd 3
  | .stfe o | .stff o => o.wf true true false ordersSt 3
  | .feclr o => o.wf true false false ordersSt 3 && o.d == 0
  | .waitw o => o.wf true true false ordersLd 3
  | .getr o => o.wf true false true ordersLd 3 && o.w.fits o.d
  | .ldx o => o.wf false ordersLd 0
  | .stx o => o.wf true ordersSt 0
  | .topk o => o.wf false ordersRmw 2
  | .amoaddS32 o | .amoaddS64 o | .amoandS32 o | .amoandS64 o | .amoorS32 o | .amoorS64 o | .amoxorS32 o | .amoxorS64 o
  | .amominS32 o | .amominS64 o | .amominN32 o | .amominN64 o | .amomaxS32 o | .amomaxS64 o | .amomaxN32 o
  | .amomaxN64 o | .amofaddF32 o => o.wf false ordersAll 2
  | .amoswpS32 o | .amoswpS64 o => o.wf false ordersRmw 2
  | .amocasS32 o | .amocasS64 o | .amobaddN32 o | .amobaddN64 o => o.wf true ordersRmw 2
  | .rowadd o | .rowmax o => ordersAll.contains o.o
  | .ldrowFresh o | .ldrowStale o => ordersLd.contains o.o && o.ty == .bf16
  | .bext o => !o.td
  | .bins o => !o.signed
  | .zclr d | .zclaim d | .zfree d => zOk d
  | .vadd o | .vsub o | .vmul o => o.wf true false true
  | .vmulh o | .vmin o | .vmax o | .vand o | .vor o | .vxor o | .vsll o | .vsrl o | .vsra o => o.wf false false true
  | .vsel o => o.wf false false true && !o.td
  | .vperm o => o.wf false false false && o.pred == 0
  | .vcmp o => !o.m.sat && r8 o.d && decide (o.cond.toNat < 6)
  | .vshuf o => !o.m.sat && decide (o.cond.toNat < 5) && o.pred == 0 && (!o.tb || o.cond != 4)
  | .vfcmp o => r8 o.d
  | .vrsumInt o | .vrmaxInt o | .vrminInt o => !o.m.sat
  | .vrsumFloat o | .vrmaxFloat o | .vrminFloat o => !o.m.sat
  | .mma o => zOk o.z && r8 o.qa && r8 o.qb && o.qa != o.qb
  | .zred o => zOk o.z && o.w.fits o.d
  | .zscale o => zOk o.z && o.a.toNat % 8 == 0
  | .vfadd o | .vfsub o | .vfmul o | .vfmin o | .vfmax o | .vfdiv o => o.wf false
  | .vfma o | .vfms o | .vfnma o => o.wf true
  | .vabs o => !o.m.unsigned && !o.td && o.idx == 0 && o.w.fits o.d && o.w.fits o.a
  | .vbcast o => !o.m.sat && !o.td && o.idx == 0 && o.w.fits o.d
  | .vext o => !o.m.sat && !o.td && o.w == .g1 && decide (o.idx.toNat < lanesOf o.m.lw)
  | .vins o => !o.m.sat && o.w == .g1 && decide (o.idx.toNat < lanesOf o.m.lw)
  | .vlds o => ordersLd.contains o.o && !o.td && o.w.fits o.d && o.lw == .w8 && o.pred == 0
  | .vgath o => ordersLd.contains o.o && (!o.td || o.pred != 0) && o.w == .g1
  | .vscat o => ordersSt.contains o.o && o.w == .g1
  | .vfsqrt o | .vexp2 o | .vlog2 o | .vrsqrt o | .vrcp o | .vtanh o => !o.td && o.w.fits o.d && o.w.fits o.a
  | .vsincos o => !o.td && o.w.fits o.a && o.d.toNat % (2 * o.w.size) == 0
  | .vcvt o => o.plain && o.b == 0 && !o.tb && (!o.td || decide (fmtWidth o.dst < fmtWidth o.src)) && vcvtParts o
  | .vpack o => o.plain && !o.td && fmtWidth o.dst * 2 == fmtWidth o.src && o.ps == 0 && o.pd == 0
  | .vunpack o => o.plain && o.b == 0 && !o.td && !o.tb && fmtWidth o.dst == fmtWidth o.src * 2 && o.ps == 0 && o.pd == 0 &&
      !o.d.getLsbD 0
  | .vqnt o => !o.tb && (!o.td || o.dst == .e2m1) && isWideFloat o.src && isMxElem o.dst && o.a.toNat % blockRegs o.src == 0 &&
      o.ps == 0 && (if o.dst == .e2m1 then decide (o.pd.toNat ≤ 1) else o.pd == 0)
  | .vdqnt o => !o.td && isWideFloat o.dst && isMxElem o.src && o.d.toNat % blockRegs o.dst == 0 && o.pd == 0 &&
      (if o.src == .e2m1 then decide (o.ps.toNat ≤ 1) else o.ps == 0)
  | .cpyc o => o.rm != .dyn
  | .putr o => o.w == .g1
  | .putv o => o.size == 3 && o.w.fits o.d
  | .flagr o => o.w == .g1 && o.size == 3 && o.mask == 0
  | .cpyr o => r8 o.ring
  | .amor o => ordersRmw.contains o.o && decide (o.op.toNat < 12) && !(o.op == 11 && o.wide) &&
      (!o.td || o.op == 9 || o.op == 10)
  | .fence o => !o.td && !o.ta && o.a == 0 && o.n == 0
  | .sendStart o | .sendPost o | .launch o => ordersSt.contains o.o && o.n == 0
  | .spawn o => ordersSt.contains o.o
  | .resumeHere o | .resumeAny o => ordersSt.contains o.o
  | .tlbinv o | .measure o => o.rights == 7 && !o.td
  | .ccopy o | .cexport o => !o.td
  | .syscallNop o => o.service == 0
  | .syscallMap o => o.service == 1
  | .syscallUnmap o => o.service == 2
  | .syscallSwitch o => o.service == 3
  | .syscallRights o => o.service == 4
  | .syscallUnassigned o => decide (5 ≤ o.service.toNat)
  | _ => true

end Sys2Proof
end

