-- ==== Sys2Proof/Decode.lean ====
section
/-! DEFINITION. Decoding words to instructions, and the encoder.
The word formats are those of spec/11_encoding.md R199 to R207; illegal sub-codes those of spec/19 R365.
`decodeWords` is total on any list of words; an encoding the spec calls illegal becomes `illegalEncoding`
with the lowest sub-code that applies (R365). -/

namespace Sys2Proof

/-- The KREG prefix (R202). -/
structure KReg where
  t : Reg
  w : BitVec 2
  ts : Bool
  tt : Bool
  td : Bool
  low : Bool
  deriving DecidableEq, Repr

/-- The fields of one word group whose prefixes are well formed (R199, R200). -/
structure Raw where
  page : Nat
  m : BitVec 6
  kreg : Option KReg
  chunks : List (BitVec 11)
  op : Nat
  d : Reg
  s : Reg
  deriving DecidableEq, Repr

/-! ### Words -/

/-- Bits [15:13] = 0b111 mark a prefix word (R199). -/
def isPrefixWord (w : Half) : Bool := w.extractLsb' 13 3 == 7

/-- Kind of a prefix word, bits [12:11] (R200): 0 KIMM, 1 KREG, 2 KPAGE, 3 KEXT. -/
def prefixKind (w : Half) : Nat := (w.extractLsb' 11 2).toNat

/-- A KEXT word (R200). -/
def isKext (w : Half) : Bool := isPrefixWord w && prefixKind w == 3

/-- The words of the group that begins here: up to the operation word, a KEXT word or the fifth word (R199, R200).
`none` means that more words are needed. -/
def takeGroup : Nat → List Half → Option (List Half)
  | 0, _ => some []
  | _, [] => none
  | n + 1, w :: ws =>
    if isPrefixWord w && !isKext w && n != 0 then (takeGroup n ws).map (w :: ·) else some [w]

/-- Rank in the order KPAGE, KREG, KIMM (R200). -/
def prefixRank (w : Half) : Nat :=
  match prefixKind w with
  | 2 => 0
  | 1 => 1
  | _ => 2

/-- Prefixes in order, at most one KPAGE and one KREG (R200). -/
def prefixOrder : List Half → Bool
  | [] => true
  | [_] => true
  | a :: b :: rest =>
    (if prefixRank a == 2 then prefixRank b == 2 else prefixRank a < prefixRank b) && prefixOrder (b :: rest)

/-- KPAGE naming page 8 to 31 (R206). -/
def highPage (w : Half) : Bool := prefixKind w == 2 && decide (8 ≤ (w.extractLsb' 6 5).toNat)

/-- The prefix fault of a word group with the lowest sub-code (R365: 0x01 to 0x04), or 0. -/
def prefixFault (g : List Half) : Nat :=
  let pre := g.filter isPrefixWord
  if pre.any isKext then 1
  else if g.length == 5 && pre.length == 5 then 2
  else if !prefixOrder pre then 3
  else if pre.any highPage then 4
  else 0

/-- KREG fields (R202). -/
def kregOf (w : Half) : KReg :=
  { t := w.extractLsb' 6 5, w := w.extractLsb' 4 2, ts := w.getLsbD 3, tt := w.getLsbD 2,
    td := w.getLsbD 1, low := w.getLsbD 0 }

/-- The fields of a group whose prefixes are well formed. -/
def rawOf (g : List Half) : Raw :=
  let pre := g.filter isPrefixWord
  let ow := g.getLast?.getD 0
  let kp := (pre.find? (fun w => prefixKind w == 2)).getD 0xF000
  { page := (kp.extractLsb' 6 5).toNat, m := kp.extractLsb' 0 6,
    kreg := (pre.find? (fun w => prefixKind w == 1)).map kregOf,
    chunks := (pre.filter (fun w => prefixKind w == 0)).map (fun w => w.extractLsb' 0 11),
    op := (ow.extractLsb' 10 6).toNat, d := ow.extractLsb' 5 5, s := ow.extractLsb' 0 5 }

/-- The words of a group (R199, R200, R202). KPAGE is left out on page 0 with m = 0. -/
def Raw.words (r : Raw) : List Half :=
  (if r.page == 0 && r.m == 0 then []
    else [(0b111#3 ++ 0b10#2 ++ BitVec.ofNat 5 r.page ++ r.m : BitVec 16)]) ++
  (match r.kreg with
    | none => []
    | some k => [(0b111#3 ++ 0b01#2 ++ k.t ++ k.w ++ BitVec.ofBool k.ts ++ BitVec.ofBool k.tt ++
        BitVec.ofBool k.td ++ BitVec.ofBool k.low : BitVec 16)]) ++
  r.chunks.map (fun c => (0b111#3 ++ 0b00#2 ++ c : BitVec 16)) ++
  [(BitVec.ofNat 6 r.op ++ r.d ++ r.s : BitVec 16)]

/-! ### Fields -/

/-- The concatenation of the chunks, first most significant, sign-extended (R201). -/
def sextChunks (cs : List (BitVec 11)) : Word :=
  match cs with
  | [] => 0
  | c :: rest => rest.foldl (fun acc k => (acc <<< 11) ||| k.setWidth 64) (c.signExtend 64)

/-- The concatenation of the chunks, zero-extended: a control field (R299). -/
def zextChunks (cs : List (BitVec 11)) : Word :=
  cs.foldl (fun acc k => (acc <<< 11) ||| k.setWidth 64) 0

/-- The signed immediate of R201. -/
def Raw.imm (r : Raw) : Word := if r.chunks.isEmpty then r.s.signExtend 64 else sextChunks r.chunks

/-- The immediate of R201 where the description marks it unsigned. -/
def Raw.immU (r : Raw) : Word := if r.chunks.isEmpty then r.s.setWidth 64 else sextChunks r.chunks

/-- `n` chunks that hold the low 11n bits of a value, most significant first (R201). -/
def chunksOf : Nat → Word → List (BitVec 11)
  | 0, _ => []
  | n + 1, v => (v.extractLsb' (11 * n) 11) :: chunksOf n v

/-- The fewest chunks, at least `lo`, that hold a signed value (R201). -/
def chunkCount (lo : Nat) (v : Word) : Nat :=
  if lo ≤ 1 ∧ fitsChunks 1 v then max lo 1
  else if lo ≤ 2 ∧ fitsChunks 2 v then 2
  else if lo ≤ 3 ∧ fitsChunks 3 v then 3 else 4

def grpOf (w : BitVec 2) : Grp :=
  match w.toNat with | 0 => .g1 | 1 => .g2 | 2 => .g4 | _ => .g8

def grpBits : Grp → BitVec 2 | .g1 => 0 | .g2 => 1 | .g4 => 2 | .g8 => 3

def orderOf (m : BitVec 6) : Option Order :=
  match (m.extractLsb' 3 3).toNat with
  | 0 => some .rlx | 1 => some .acq | 2 => some .rel | 3 => some .ar | 4 => some .sc | 5 => some .comm | _ => none

def orderBits : Order → BitVec 3 | .rlx => 0 | .acq => 1 | .rel => 2 | .ar => 3 | .sc => 4 | .comm => 5

def scopeOf (m : BitVec 6) : Option Scope :=
  match (m.extractLsb' 0 3).toNat with
  | 0 => some .str | 1 => some .cor | 2 => some .bay | 3 => some .die | 4 => some .pkg | 5 => some .sys | _ => none

def scopeBits : Scope → BitVec 3 | .str => 0 | .cor => 1 | .bay => 2 | .die => 3 | .pkg => 4 | .sys => 5

def rmOf (b : BitVec 3) : Option Rm :=
  match b.toNat with
  | 0 => some .rne | 1 => some .rtz | 2 => some .rdn | 3 => some .rup | 4 => some .sr | 5 => some .dyn | _ => none

def rmBits : Rm → BitVec 3 | .rne => 0 | .rtz => 1 | .rdn => 2 | .rup => 3 | .sr => 4 | .dyn => 5

def ftyOf (b : BitVec 2) : Option FTy :=
  match b.toNat with | 0 => some .f32 | 1 => some .f16 | 2 => some .bf16 | _ => none

def ftyBits : FTy → BitVec 2 | .f32 => 0 | .f16 => 1 | .bf16 => 2

def lwOf (b : BitVec 2) : LaneW :=
  match b.toNat with | 0 => .w8 | 1 => .w16 | 2 => .w32 | _ => .w64

def lwBits : LaneW → BitVec 2 | .w8 => 0 | .w16 => 1 | .w32 => 2 | .w64 => 3

def vmodOf (m : BitVec 6) : VMod :=
  { unsigned := m.getLsbD 3, sat := m.getLsbD 2, lw := lwOf (m.extractLsb' 0 2) }

def vmodBits (v : VMod) : BitVec 6 :=
  0#2 ++ BitVec.ofBool v.unsigned ++ BitVec.ofBool v.sat ++ lwBits v.lw

def fmodOf (m : BitVec 6) : FMod :=
  { rm := (rmOf (m.extractLsb' 3 3)).getD .rne, sat := m.getLsbD 2, ty := (ftyOf (m.extractLsb' 0 2)).getD .f32 }

def fmodBits (f : FMod) : BitVec 6 := rmBits f.rm ++ BitVec.ofBool f.sat ++ ftyBits f.ty

def qmodOf (m : BitVec 6) : QMod :=
  { sysScope := m.getLsbD 5, bytes := m.getLsbD 4, k := m.extractLsb' 0 4 }

def qmodBits (q : QMod) : BitVec 6 := BitVec.ofBool q.sysScope ++ BitVec.ofBool q.bytes ++ q.k

def memBits (o : Order) (c : Scope) : BitVec 6 := orderBits o ++ scopeBits c

/-- Format codes of R259 and R304. -/
def fmtOf (mx : Bool) (b : BitVec 5) : Option Fmt :=
  match b.toNat with
  | 0x00 => some .f32 | 0x01 => some .f16 | 0x02 => some .bf16 | 0x03 => some .e4m3 | 0x04 => some .e5m2
  | 0x05 => some .e2m1 | 0x08 => some .s8 | 0x09 => some .s16 | 0x0A => some .s32 | 0x0B => some .s64
  | 0x0C => some .n8 | 0x0D => some .n16 | 0x0E => some .n32 | 0x0F => some .n64
  | 0x11 => if mx then some .mxe4m3 else none
  | 0x12 => if mx then some .mxe5m2 else none
  | 0x13 => if mx then some .mxe2m1 else none
  | _ => none

def fmtBits : Fmt → BitVec 5
  | .f32 => 0x00 | .f16 => 0x01 | .bf16 => 0x02 | .e4m3 => 0x03 | .e5m2 => 0x04 | .e2m1 => 0x05
  | .s8 => 0x08 | .s16 => 0x09 | .s32 => 0x0A | .s64 => 0x0B | .n8 => 0x0C | .n16 => 0x0D | .n32 => 0x0E
  | .n64 => 0x0F | .mxe4m3 => 0x11 | .mxe5m2 => 0x12 | .mxe2m1 => 0x13

def rowSizeOf (b : BitVec 3) : Option RowSize :=
  match b.toNat with
  | 0 => some .r64 | 1 => some .r128 | 2 => some .r256 | 3 => some .r512 | 4 => some .r1024 | _ => none

def rowSizeBits : RowSize → BitVec 3 | .r64 => 0 | .r128 => 1 | .r256 => 2 | .r512 => 3 | .r1024 => 4

def rowTyOf (b : BitVec 2) : RowTy := match b.toNat with | 0 => .bf16 | 1 => .f16 | 2 => .f32 | _ => .s32

def rowTyBits : RowTy → BitVec 2 | .bf16 => 0 | .f16 => 1 | .f32 => 2 | .s32 => 3

/-! ### Checks: each answers the sub-codes of R365 that apply -/

/-- A sub-code when a condition holds. -/
def sub (c : Bool) (n : Nat) : List Nat := if c then [n] else []

/-- The instruction, or the lowest sub-code (R365). -/
def fin (faults : List Nat) (i : Instr) : Except Nat Instr :=
  match faults with
  | [] => .ok i
  | f :: fs => .error (fs.foldl min f)

/-- Class N: m is 0 (R203). -/
def Raw.clsN (r : Raw) : List Nat := sub (r.m != 0) 6

/-- Class M with the orders the access takes (R72, R203). -/
def Raw.clsM (r : Raw) (os : List Order) : List Nat :=
  sub ((match orderOf r.m with | none => true | some o => !os.contains o) || (scopeOf r.m).isNone) 6

/-- Class F (R203). -/
def Raw.clsF (r : Raw) : List Nat :=
  sub ((rmOf (r.m.extractLsb' 3 3)).isNone || (ftyOf (r.m.extractLsb' 0 2)).isNone) 6

/-- Class V (R203). -/
def Raw.clsV (r : Raw) : List Nat := sub (r.m.extractLsb' 4 2 != 0) 6

/-- Class V where .sat is illegal. -/
def Raw.noSat (r : Raw) : List Nat := sub (r.m.getLsbD 2) 6

/-- No KIMM chunk is taken. -/
def Raw.noImm (r : Raw) : List Nat := sub (!r.chunks.isEmpty) 8

/-- Exactly `n` chunks. -/
def Raw.immN (r : Raw) (n : Nat) : List Nat := sub (r.chunks.length != n) 8

/-- At most `n` chunks. -/
def Raw.immLe (r : Raw) (n : Nat) : List Nat := sub (decide (n < r.chunks.length)) 8

/-- d is 0. -/
def Raw.d0 (r : Raw) : List Nat := sub (r.d != 0) 8

/-- s is 0. -/
def Raw.s0 (r : Raw) : List Nat := sub (r.s != 0) 8

/-- With KIMM, s is 0 (shapes IM and BZ). -/
def Raw.s0imm (r : Raw) : List Nat := sub (!r.chunks.isEmpty && r.s != 0) 8

/-- A group starts at a multiple of its size (R202). -/
def aligned (w : BitVec 2) (x : Reg) : Bool := x.toNat % 2 ^ w.toNat == 0

/-- KREG: bit 0 clear, trap bits only where allowed, no group (R202). -/
def Raw.kr (r : Raw) (ts tt td : Bool) : List Nat :=
  match r.kreg with
  | none => []
  | some k => sub (k.low || (k.ts && !ts) || (k.tt && !tt) || (k.td && !td) || k.w != 0) 7

/-- KREG where groups are accepted on the registers named. -/
def Raw.krG (r : Raw) (ts tt td : Bool) (regs : List Reg) : List Nat :=
  match r.kreg with
  | none => []
  | some k => sub (k.low || (k.ts && !ts) || (k.tt && !tt) || (k.td && !td) || !(regs.all (aligned k.w))) 7

/-- The t field is not used and holds 0 (R204). -/
def Raw.t0 (r : Raw) : List Nat :=
  match r.kreg with
  | none => []
  | some k => sub (k.t != 0) 8

/-- A KREG is required (R236, R299): without one the sub-code is that of KREG misuse (L93). -/
def Raw.kReq (r : Raw) : List Nat := sub r.kreg.isNone 7

def Raw.k (r : Raw) : KReg := r.kreg.getD ⟨0, 0, false, false, false, false⟩

/-- A register number beyond a file of `n` (R208). -/
def beyond (n : Nat) (x : Reg) : List Nat := sub (decide (n ≤ x.toNat)) 9

/-- The KREG to write for third register, width and trap bits, when one is needed. -/
def mkK (need : Bool) (t : Reg) (w : Grp) (ts tt td : Bool) : Option KReg :=
  if need || w != .g1 || ts || tt || td then some ⟨t, grpBits w, ts, tt, td, false⟩ else none

/-! ### Shapes: `d…` reads a shape, `r…` writes it -/

def dN (r : Raw) (i : Instr) : Except Nat Instr :=
  fin (r.clsN ++ r.kr false false false ++ r.t0 ++ r.noImm ++ r.d0 ++ r.s0) i

def rN (page op : Nat) : Raw := ⟨page, 0, none, [], op, 0, 0⟩

def dRR (r : Raw) (mk : RR → Instr) : Except Nat Instr :=
  fin (r.clsN ++ r.kr true false false ++ r.t0 ++ r.noImm) (mk ⟨r.d, r.s, false, r.k.ts⟩)

def dRRd (r : Raw) (mk : RR → Instr) : Except Nat Instr :=
  fin (r.clsN ++ r.kr true false true ++ r.t0 ++ r.noImm) (mk ⟨r.d, r.s, r.k.td, r.k.ts⟩)

def rRR (page op : Nat) (o : RR) : Raw := ⟨page, 0, mkK false 0 .g1 o.ta false o.td, [], op, o.d, o.a⟩

def dRRRg (r : Raw) (rd : Bool) (mk : RRR → Instr) : Except Nat Instr :=
  match r.kreg with
  | none => fin (r.clsN ++ r.noImm) (mk ⟨r.d, r.d, r.s, false, false, false⟩)
  | some k => fin (r.clsN ++ r.kr true true rd ++ r.noImm) (mk ⟨r.d, r.s, k.t, k.td, k.ts, k.tt⟩)

def dRRR (r : Raw) (mk : RRR → Instr) : Except Nat Instr := dRRRg r false mk

def dRRRd (r : Raw) (mk : RRR → Instr) : Except Nat Instr := dRRRg r true mk

def rRRR (page op : Nat) (o : RRR) : Raw :=
  if o.a = o.d ∧ !o.td ∧ !o.ta ∧ !o.tb then ⟨page, 0, none, [], op, o.d, o.b⟩
  else ⟨page, 0, some ⟨o.b, 0, o.ta, o.tb, o.td, false⟩, [], op, o.d, o.a⟩

def dRIg (r : Raw) (v : Word) (mk : RI → Instr) : Except Nat Instr :=
  if r.chunks.isEmpty then
    fin (r.clsN ++ r.kr false false true ++ r.t0) (mk ⟨r.d, r.d, v, r.k.td, false⟩)
  else fin (r.clsN ++ r.kr true false false ++ r.t0) (mk ⟨r.d, r.s, v, false, r.k.ts⟩)

def dRI (r : Raw) (mk : RI → Instr) : Except Nat Instr := dRIg r r.imm mk

def dRIu (r : Raw) (mk : RI → Instr) : Except Nat Instr := dRIg r r.immU mk

def rRIg (fits5 : Bool) (page op : Nat) (o : RI) : Raw :=
  if o.a = o.d ∧ !o.ta ∧ fits5 then ⟨page, 0, mkK false 0 .g1 false false o.td, [], op, o.d, o.imm.extractLsb' 0 5⟩
  else ⟨page, 0, mkK false 0 .g1 o.ta false o.td, chunksOf (chunkCount 1 o.imm) o.imm, op, o.d, o.a⟩

def rRI (page op : Nat) (o : RI) : Raw := rRIg (fits5 o.imm) page op o

def rRIu (page op : Nat) (o : RI) : Raw := rRIg (fitsU5 o.imm) page op o

/-- The shape IM and BZ immediate: in s, or in chunks with s = 0. -/
def immS (v : Word) : Reg := if fits5 v then v.extractLsb' 0 5 else 0

def immC (v : Word) : List (BitVec 11) := if fits5 v then [] else chunksOf (chunkCount 1 v) v

def dIMg (r : Raw) (rd : Bool) (more : List Nat) (mk : IM → Instr) : Except Nat Instr :=
  fin (r.clsN ++ r.kr false false rd ++ r.t0 ++ r.s0imm ++ more) (mk ⟨r.d, r.imm, r.k.td⟩)

def dIM (r : Raw) (mk : IM → Instr) : Except Nat Instr := dIMg r false [] mk

def dIMd (r : Raw) (mk : IM → Instr) : Except Nat Instr := dIMg r true [] mk

/-- BRK and XABORT: d is 0; the code is read from the words in hand. -/
def dIM0 (r : Raw) (i : Instr) : Except Nat Instr := dIMg r false r.d0 (fun _ => i)

def dKim (r : Raw) (mk : IM → Instr) : Except Nat Instr := dIMg r false (beyond 16 r.d) mk

def dPset (r : Raw) (mk : IM → Instr) : Except Nat Instr := dIMg r false (beyond 8 r.d) mk

def dRngadv (r : Raw) (mk : IM → Instr) : Except Nat Instr :=
  fin (r.clsN ++ r.kr false false false ++ r.t0 ++ r.s0imm ++ beyond 8 r.d) (mk ⟨r.d, r.immU, false⟩)

def rIM (page op : Nat) (o : IM) : Raw :=
  ⟨page, 0, mkK false 0 .g1 false false o.td, immC o.imm, op, o.d, immS o.imm⟩

def rIMu (page op : Nat) (o : IM) : Raw :=
  if fitsU5 o.imm then ⟨page, 0, none, [], op, o.d, o.imm.extractLsb' 0 5⟩
  else ⟨page, 0, none, chunksOf (chunkCount 1 o.imm) o.imm, op, o.d, 0⟩

def dBZ (r : Raw) (mk : BZ → Instr) : Except Nat Instr :=
  fin (r.clsN ++ r.kr false false true ++ r.t0 ++ r.s0imm) (mk ⟨r.d, r.imm, r.k.td⟩)

def dBZ0 (r : Raw) (mk : BZ → Instr) : Except Nat Instr :=
  fin (r.clsN ++ r.kr false false false ++ r.t0 ++ r.s0imm ++ r.d0) (mk ⟨r.d, r.imm, false⟩)

def rBZ (page op : Nat) (o : BZ) : Raw :=
  ⟨page, 0, mkK false 0 .g1 false false o.td, immC o.off, op, o.d, immS o.off⟩

def dBC (r : Raw) (mk : BC → Instr) : Except Nat Instr :=
  fin (r.clsN ++ r.kr true false true ++ r.t0 ++ sub r.chunks.isEmpty 8) (mk ⟨r.d, r.s, r.imm, r.k.td, r.k.ts⟩)

def rBC (page op : Nat) (o : BC) : Raw :=
  ⟨page, 0, mkK false 0 .g1 o.ta false o.td, chunksOf (chunkCount 1 o.off) o.off, op, o.d, o.a⟩

def dJr (r : Raw) (mk : RR → Instr) : Except Nat Instr :=
  fin (r.clsN ++ r.kr true false false ++ r.t0 ++ r.noImm ++ r.d0) (mk ⟨r.d, r.s, false, r.k.ts⟩)

def dD (r : Raw) (mk : Reg → Instr) : Except Nat Instr :=
  fin (r.clsN ++ r.kr false false false ++ r.t0 ++ r.noImm ++ r.s0) (mk r.d)

def dZ (r : Raw) (mk : Reg → Instr) : Except Nat Instr :=
  fin (r.clsN ++ r.kr false false false ++ r.t0 ++ r.noImm ++ r.s0 ++ beyond 2 r.d) (mk r.d)

def rD (page op : Nat) (d : Reg) : Raw := ⟨page, 0, none, [], op, d, 0⟩

/-! Memory shapes. -/

def ordLd : List Order := [.rlx, .acq, .sc]
def ordSt : List Order := [.rlx, .rel, .sc]
def ordRmw : List Order := [.rlx, .acq, .rel, .ar, .sc]
def ordAll : List Order := [.rlx, .acq, .rel, .ar, .sc, .comm]

def Raw.o (r : Raw) : Order := (orderOf r.m).getD .rlx
def Raw.c (r : Raw) : Scope := (scopeOf r.m).getD .str

/-- The byte offset of a memory operand: the chunks, or 0 (R204). -/
def Raw.off (r : Raw) : Word := sextChunks r.chunks

def Raw.mem (r : Raw) : MEM := ⟨r.d, r.s, r.off, r.o, r.c, grpOf r.k.w, r.k.td, r.k.ts⟩

def dMEMg (r : Raw) (os : List Order) (rd : Bool) (more : List Nat) (mk : MEM → Instr) : Except Nat Instr :=
  fin (r.clsM os ++ r.kr true false rd ++ r.t0 ++ more) (mk r.mem)

def dLd (r : Raw) (mk : MEM → Instr) : Except Nat Instr := dMEMg r ordLd false [] mk
def dSt (r : Raw) (mk : MEM → Instr) : Except Nat Instr := dMEMg r ordSt true [] mk
def dTl (r : Raw) (mk : MEM → Instr) : Except Nat Instr := dMEMg r ordLd false (r.immLe 3) mk
def dTs (r : Raw) (mk : MEM → Instr) : Except Nat Instr := dMEMg r ordSt true (r.immLe 3) mk
def dTc (r : Raw) (mk : MEM → Instr) : Except Nat Instr := dMEMg r ordSt false (r.immLe 3 ++ r.d0) mk
def dWaitw (r : Raw) (mk : MEM → Instr) : Except Nat Instr := dMEMg r ordLd true (r.immLe 3) mk

/-- PREF: m and d are 0 (R237). -/
def dPref (r : Raw) (mk : MEM → Instr) : Except Nat Instr :=
  fin (r.clsN ++ r.kr true false false ++ r.t0 ++ r.d0) (mk r.mem)

def dVld (r : Raw) (mk : MEM → Instr) : Except Nat Instr :=
  fin (r.clsM ordLd ++ r.krG true false false [r.d] ++ r.t0) (mk r.mem)

def dVst (r : Raw) (mk : MEM → Instr) : Except Nat Instr :=
  fin (r.clsM ordSt ++ r.krG true false true [r.d] ++ r.t0) (mk r.mem)

def dGetr (r : Raw) (mk : MEM → Instr) : Except Nat Instr :=
  fin (r.clsM ordLd ++ r.krG true false false [r.d] ++ r.t0 ++ r.immLe 3) (mk r.mem)

/-- ZLD and ZST: class N, d an accumulator (R271). -/
def dZmem (r : Raw) (mk : MEM → Instr) : Except Nat Instr :=
  fin (r.clsN ++ r.kr true false false ++ r.t0 ++ beyond 2 r.d) (mk r.mem)

/-- The chunks of a byte offset: none for 0. -/
def offC (v : Word) : List (BitVec 11) := if v = 0 then [] else chunksOf (chunkCount 1 v) v

def rMEM (page op : Nat) (o : MEM) : Raw :=
  ⟨page, memBits o.o o.c, mkK false 0 o.w o.ta false o.td, offC o.imm, op, o.d, o.a⟩

def dATg (r : Raw) (os : List Order) (rd : Bool) (more : List Nat) (mk : AT → Instr) : Except Nat Instr :=
  fin (r.clsM os ++ r.kReq ++ r.kr true true rd ++ more)
    (mk ⟨r.d, r.s, r.k.t, r.off, r.o, r.c, r.k.td, r.k.ts, r.k.tt⟩)

def dLdx (r : Raw) (mk : AT → Instr) : Except Nat Instr := dATg r ordLd false r.noImm mk
def dStx (r : Raw) (mk : AT → Instr) : Except Nat Instr := dATg r ordSt true r.noImm mk
def dAt (r : Raw) (mk : AT → Instr) : Except Nat Instr := dATg r ordRmw false (r.immLe 2) mk
def dAtc (r : Raw) (mk : AT → Instr) : Except Nat Instr := dATg r ordAll false (r.immLe 2) mk
def dAtd (r : Raw) (mk : AT → Instr) : Except Nat Instr := dATg r ordRmw true (r.immLe 2) mk

def rAT (page op : Nat) (o : AT) : Raw :=
  ⟨page, memBits o.o o.c, mkK true o.b .g1 o.ta o.tb o.td, offC o.imm, op, o.d, o.a⟩

/-- The row control of R281. -/
def Raw.ctl (r : Raw) : Word := zextChunks r.chunks

def rowFaults (r : Raw) : List Nat :=
  r.kr true false true ++ r.t0 ++ r.immN 1 ++ sub (r.ctl.extractLsb' 6 5 != 0) 8 ++
    sub (rowSizeOf (r.ctl.extractLsb' 0 3)).isNone 10

def Raw.row (r : Raw) : RW :=
  ⟨r.d, r.s, (rowSizeOf (r.ctl.extractLsb' 0 3)).getD .r64, rowTyOf (r.ctl.extractLsb' 3 2), r.o, r.c, r.k.td, r.k.ts⟩

def dRowc (r : Raw) (mk : RW → Instr) : Except Nat Instr :=
  fin (r.clsM ordAll ++ rowFaults r ++ sub (r.ctl.getLsbD 5) 8) (mk r.row)

/-- LDROW: the type is 0b00; bit 5 tells the stale form (R281, R284). -/
def dLdrow (r : Raw) : Except Nat Instr :=
  fin (r.clsM ordLd ++ rowFaults r ++ sub (r.ctl.extractLsb' 3 2 != 0) 8)
    (if r.ctl.getLsbD 5 then .ldrowStale r.row else .ldrowFresh r.row)

def rRW (stale : Bool) (page op : Nat) (o : RW) : Raw :=
  ⟨page, memBits o.o o.c, mkK false 0 .g1 o.ta false o.td,
    [(0#5 ++ BitVec.ofBool stale ++ rowTyBits o.ty ++ rowSizeBits o.size : BitVec 11)], op, o.d, o.a⟩

/-! Bit fields, SAFE and state registers. -/

def dBF (r : Raw) (sgn : Bool) (rd : Bool) (mk : BFOp → Instr) : Except Nat Instr :=
  fin (r.clsN ++ r.kr true false rd ++ r.t0 ++ r.immN 2 ++
      sub (r.ctl.extractLsb' 13 9 != 0 || (r.ctl.getLsbD 12 && !sgn)) 8)
    (mk ⟨r.d, r.s, r.ctl.extractLsb' 0 6, r.ctl.extractLsb' 6 6, r.ctl.getLsbD 12, r.k.td, r.k.ts⟩)

def dBext (r : Raw) (mk : BFOp → Instr) : Except Nat Instr := dBF r true false mk
def dBins (r : Raw) (mk : BFOp → Instr) : Except Nat Instr := dBF r false true mk

def rBF (page op : Nat) (o : BFOp) : Raw :=
  ⟨page, 0, mkK false 0 .g1 o.ta false o.td,
    chunksOf 2 ((BitVec.ofBool o.signed ++ o.width1 ++ o.lsb : BitVec 13).setWidth 64), op, o.d, o.a⟩

def safeRange (c : BitVec 11) : SafeRange := ⟨c.getLsbD 10, c.extractLsb' 5 5, c.extractLsb' 0 5⟩

def dSafe (r : Raw) (i : Instr) : Except Nat Instr :=
  fin (r.clsN ++ r.kr false false false ++ r.t0 ++ r.d0 ++ r.s0 ++
      sub (r.chunks.any (fun c => decide ((c.extractLsb' 0 5).toNat < (c.extractLsb' 5 5).toNat))) 10)
    i

/-- The ranges that a SAFE's chunks name (R240). -/
def Raw.safeRanges (r : Raw) : List SafeRange := r.chunks.map safeRange

def rSafe (page op : Nat) (l : List SafeRange) : Raw :=
  ⟨page, 0, none, l.map (fun g => (BitVec.ofBool g.vec ++ g.first ++ g.last : BitVec 11)), op, 0, 0⟩

/-- State-register numbers that exist (R209). -/
def stateRegs : List Nat :=
  List.range 0x10 ++ (List.range 8).map (· + 0x10) ++ (List.range 5).map (· + 0x18) ++ (List.range 5).map (· + 0x20) ++
    [0x28, 0x29, 0x2A] ++ (List.range 6).map (· + 0x30)

/-- State registers that PUTS may write (R209). -/
def writableRegs : List Nat :=
  [0x07, 0x08, 0x09, 0x0A, 0x0B, 0x0C] ++ (List.range 8).map (· + 0x10) ++ (List.range 5).map (· + 0x18) ++
    (List.range 5).map (· + 0x20) ++ (List.range 6).map (· + 0x30)

def dGets (r : Raw) (mk : IM → Instr) : Except Nat Instr :=
  dIMg r false (sub (!stateRegs.contains r.imm.toNat) 9) mk

/-- PUTS: the rows of the table that name one register are told apart by the number (R209). -/
def dPuts (r : Raw) : Except Nat Instr :=
  dIMg r true (sub (!writableRegs.contains r.imm.toNat) 9)
    (match r.imm.toNat with
      | 0x08 => .putsRound
      | 0x09 => .putsSeed
      | 0x0A => .putsLfsr
      | 0x0B => .putsXage
      | 0x30 => .putsCause
      | _ => .puts)

/-! Vector shapes. -/

/-- The predicate chunk of R205: none, or one with bits [10:3] = 0. -/
def Raw.predF (r : Raw) : List Nat := r.immLe 1 ++ sub (r.ctl.extractLsb' 3 8 != 0) 8

def Raw.pred (r : Raw) : BitVec 3 := r.ctl.extractLsb' 0 3

def predC (p : BitVec 3) : List (BitVec 11) := if p = 0 then [] else [p.setWidth 11]

def dVg (r : Raw) (faults : List Nat) (rd grp : Bool) (mk : VOp → Instr) : Except Nat Instr :=
  match r.kreg with
  | none => fin (r.clsV ++ faults ++ r.predF) (mk ⟨r.d, r.d, r.s, vmodOf r.m, r.pred, .g1, false, false, false⟩)
  | some k => fin (r.clsV ++ faults ++ (if grp then r.krG true true rd [r.d, r.s, k.t] else r.kr true true rd) ++ r.predF)
      (mk ⟨r.d, r.s, k.t, vmodOf r.m, r.pred, grpOf k.w, k.td, k.ts, k.tt⟩)

def dV (r : Raw) (mk : VOp → Instr) : Except Nat Instr := dVg r [] (r.pred != 0) true mk
def dVns (r : Raw) (mk : VOp → Instr) : Except Nat Instr := dVg r r.noSat (r.pred != 0) true mk
def dVsel (r : Raw) (mk : VOp → Instr) : Except Nat Instr := dVg r r.noSat false true mk
def dVperm (r : Raw) (mk : VOp → Instr) : Except Nat Instr := dVg r (r.noSat ++ r.noImm) false false mk

def rV (page op : Nat) (o : VOp) : Raw :=
  if o.a = o.d ∧ !o.td ∧ !o.ta ∧ !o.tb ∧ o.w = .g1 then ⟨page, vmodBits o.m, none, predC o.pred, op, o.d, o.b⟩
  else ⟨page, vmodBits o.m, some ⟨o.b, grpBits o.w, o.ta, o.tb, o.td, false⟩, predC o.pred, op, o.d, o.a⟩

def dFg (r : Raw) (rd : Bool) (mk : FOp → Instr) : Except Nat Instr :=
  match r.kreg with
  | none => fin (r.clsF ++ r.predF) (mk ⟨r.d, r.d, r.s, fmodOf r.m, r.pred, .g1, false, false, false⟩)
  | some k => fin (r.clsF ++ r.krG true true rd [r.d, r.s, k.t] ++ r.predF)
      (mk ⟨r.d, r.s, k.t, fmodOf r.m, r.pred, grpOf k.w, k.td, k.ts, k.tt⟩)

def dF (r : Raw) (mk : FOp → Instr) : Except Nat Instr := dFg r (r.pred != 0) mk
def dFd (r : Raw) (mk : FOp → Instr) : Except Nat Instr := dFg r true mk

def rF (page op : Nat) (o : FOp) : Raw :=
  if o.a = o.d ∧ !o.td ∧ !o.ta ∧ !o.tb ∧ o.w = .g1 then ⟨page, fmodBits o.m, none, predC o.pred, op, o.d, o.b⟩
  else ⟨page, fmodBits o.m, some ⟨o.b, grpBits o.w, o.ta, o.tb, o.td, false⟩, predC o.pred, op, o.d, o.a⟩

/-- VCMP (R250). -/
def dVcmp (r : Raw) (mk : VCmpOp → Instr) : Except Nat Instr :=
  fin (r.clsV ++ r.noSat ++ r.kReq ++ r.kr true true false ++ r.immN 1 ++ sub (r.ctl.extractLsb' 6 5 != 0) 8 ++
      sub (decide (6 ≤ (r.ctl.extractLsb' 3 3).toNat)) 8 ++ beyond 8 r.d)
    (mk ⟨r.d, r.s, r.k.t, vmodOf r.m, r.pred, r.ctl.extractLsb' 3 3, r.k.ts, r.k.tt⟩)

/-- VSHUF (R256): mode in bits [2:0]; in mode 4 register t is not read. -/
def dVshuf (r : Raw) (mk : VCmpOp → Instr) : Except Nat Instr :=
  fin (r.clsV ++ r.noSat ++ r.kReq ++ r.kr true (r.pred != 4) false ++ r.immN 1 ++
      sub (r.ctl.extractLsb' 3 8 != 0 || decide (5 ≤ r.pred.toNat)) 8)
    (mk ⟨r.d, r.s, r.k.t, vmodOf r.m, 0, r.pred, r.k.ts, r.k.tt⟩)

def rVcmp (page op : Nat) (o : VCmpOp) : Raw :=
  ⟨page, vmodBits o.m, mkK true o.b .g1 o.ta o.tb false, [(0#5 ++ o.cond ++ o.pred : BitVec 11)], op, o.d, o.a⟩

def rVshuf (page op : Nat) (o : VCmpOp) : Raw :=
  ⟨page, vmodBits o.m, mkK true o.b .g1 o.ta o.tb false, [o.cond.setWidth 11], op, o.d, o.a⟩

def dFcmp (r : Raw) (mk : FCmpOp → Instr) : Except Nat Instr :=
  fin (r.clsF ++ r.kReq ++ r.kr true true false ++ r.immN 1 ++ sub (r.ctl.extractLsb' 6 5 != 0) 8 ++ beyond 8 r.d)
    (mk ⟨r.d, r.s, r.k.t, fmodOf r.m, r.pred, r.ctl.extractLsb' 3 3, r.k.ts, r.k.tt⟩)

def rFcmp (page op : Nat) (o : FCmpOp) : Raw :=
  ⟨page, fmodBits o.m, mkK true o.b .g1 o.ta o.tb false, [(0#5 ++ o.cond ++ o.pred : BitVec 11)], op, o.d, o.a⟩

def dVred (r : Raw) (mk : VRedOp → Instr) : Except Nat Instr :=
  fin (r.clsV ++ r.noSat ++ r.kr true false false ++ r.t0 ++ r.predF) (mk ⟨r.d, r.s, vmodOf r.m, r.pred, r.k.ts⟩)

def rVred (page op : Nat) (o : VRedOp) : Raw :=
  ⟨page, vmodBits o.m, mkK false 0 .g1 o.ta false false, predC o.pred, op, o.d, o.a⟩

def dFred (r : Raw) (mk : FRedOp → Instr) : Except Nat Instr :=
  fin (r.clsF ++ r.noSat ++ r.kr true false false ++ r.t0 ++ r.predF) (mk ⟨r.d, r.s, fmodOf r.m, r.pred, r.k.ts⟩)

def rFred (page op : Nat) (o : FRedOp) : Raw :=
  ⟨page, fmodBits o.m, mkK false 0 .g1 o.ta false false, predC o.pred, op, o.d, o.a⟩

def Raw.vmov (r : Raw) (idx : BitVec 5) : VMovOp := ⟨r.d, r.s, vmodOf r.m, idx, grpOf r.k.w, r.k.td, r.k.ts⟩

/-- VABS (R248): shape RR, signed only. -/
def dVabs (r : Raw) (mk : VMovOp → Instr) : Except Nat Instr :=
  fin (r.clsV ++ sub (r.m.getLsbD 3) 6 ++ r.krG true false false [r.d, r.s] ++ r.t0 ++ r.noImm) (mk (r.vmov 0))

def dVbcast (r : Raw) (mk : VMovOp → Instr) : Except Nat Instr :=
  fin (r.clsV ++ r.noSat ++ r.krG true false false [r.d] ++ r.t0 ++ r.noImm) (mk (r.vmov 0))

def dVidx (r : Raw) (rd : Bool) (mk : VMovOp → Instr) : Except Nat Instr :=
  fin (r.clsV ++ r.noSat ++ r.kr true false rd ++ r.t0 ++ r.immN 1 ++
      sub (r.ctl.extractLsb' 5 6 != 0 || decide (lanesOf (vmodOf r.m).lw ≤ (r.ctl.extractLsb' 0 5).toNat)) 8)
    (mk (r.vmov (r.ctl.extractLsb' 0 5)))

def dVext (r : Raw) (mk : VMovOp → Instr) : Except Nat Instr := dVidx r false mk
def dVins (r : Raw) (mk : VMovOp → Instr) : Except Nat Instr := dVidx r true mk

def rVmov (idx : Bool) (page op : Nat) (o : VMovOp) : Raw :=
  ⟨page, vmodBits o.m, mkK false 0 o.w o.ta false o.td, if idx then [o.idx.setWidth 11] else [], op, o.d, o.a⟩

def dPpp (r : Raw) (mk : RRR → Instr) : Except Nat Instr :=
  match r.kreg with
  | none => fin (r.clsN ++ r.noImm ++ beyond 8 r.d ++ beyond 8 r.s) (mk ⟨r.d, r.d, r.s, false, false, false⟩)
  | some k => fin (r.clsN ++ r.kr false false false ++ r.noImm ++ beyond 8 r.d ++ beyond 8 r.s ++ beyond 8 k.t)
      (mk ⟨r.d, r.s, k.t, false, false, false⟩)

def dPp (r : Raw) (mk : RR → Instr) : Except Nat Instr :=
  fin (r.clsN ++ r.kr false false false ++ r.t0 ++ r.noImm ++ beyond 8 r.d ++ beyond 8 r.s) (mk ⟨r.d, r.s, false, false⟩)

def dXp (r : Raw) (mk : RR → Instr) : Except Nat Instr :=
  fin (r.clsN ++ r.kr false false false ++ r.t0 ++ r.noImm ++ beyond 8 r.s) (mk ⟨r.d, r.s, false, false⟩)

def dKread (r : Raw) (mk : RR → Instr) : Except Nat Instr :=
  fin (r.clsN ++ r.kr false false false ++ r.t0 ++ r.noImm ++ beyond 16 r.s) (mk ⟨r.d, r.s, false, false⟩)

def Raw.vidx (r : Raw) (pred : BitVec 3) (lw : LaneW) : VIdxOp :=
  ⟨r.d, r.s, r.k.t, r.o, r.c, grpOf r.k.w, lw, pred, r.k.td, r.k.ts, r.k.tt⟩

def dVlds (r : Raw) (mk : VIdxOp → Instr) : Except Nat Instr :=
  fin (r.clsM ordLd ++ r.kReq ++ r.krG true true false [r.d] ++ r.noImm) (mk (r.vidx 0 .w8))

def dVgs (r : Raw) (os : List Order) (rd : Bool) (mk : VIdxOp → Instr) : Except Nat Instr :=
  fin (r.clsM os ++ r.kReq ++ r.kr true true rd ++ r.immN 1 ++ sub (r.ctl.extractLsb' 5 6 != 0) 8)
    (mk (r.vidx r.pred (lwOf (r.ctl.extractLsb' 3 2))))

def dVgath (r : Raw) (mk : VIdxOp → Instr) : Except Nat Instr := dVgs r ordLd (r.pred != 0) mk
def dVscat (r : Raw) (mk : VIdxOp → Instr) : Except Nat Instr := dVgs r ordSt true mk

def rVidx (ctl : Bool) (page op : Nat) (o : VIdxOp) : Raw :=
  ⟨page, memBits o.o o.c, mkK true o.b o.w o.ta o.tb o.td,
    if ctl then [(0#6 ++ lwBits o.lw ++ o.pred : BitVec 11)] else [], op, o.d, o.a⟩

def dFun (r : Raw) (mk : FUnOp → Instr) : Except Nat Instr :=
  fin (r.clsF ++ r.krG true false false [r.d, r.s] ++ r.t0 ++ r.noImm)
    (mk ⟨r.d, r.s, fmodOf r.m, grpOf r.k.w, r.k.td, r.k.ts⟩)

/-- VSINCOS: d is a multiple of 2G (R266). -/
def dSincos (r : Raw) (mk : FUnOp → Instr) : Except Nat Instr :=
  fin (r.clsF ++ r.krG true false false [r.d, r.s] ++ r.t0 ++ r.noImm ++ sub (r.d.toNat % (2 * 2 ^ r.k.w.toNat) != 0) 8)
    (mk ⟨r.d, r.s, fmodOf r.m, grpOf r.k.w, r.k.td, r.k.ts⟩)

def rFun (page op : Nat) (o : FUnOp) : Raw :=
  ⟨page, fmodBits o.m, mkK false 0 o.w o.ta false o.td, [], op, o.d, o.a⟩

/-! Conversions (R259 to R262). -/

/-- The source format in a conversion control of two chunks; none where the code is unassigned (R259). -/
def Raw.srcFmt (r : Raw) : Option Fmt := if r.chunks.length = 2 then fmtOf false (r.ctl.extractLsb' 5 5) else none

/-- The destination format in the same control. -/
def Raw.dstFmt (r : Raw) : Option Fmt := if r.chunks.length = 2 then fmtOf false (r.ctl.extractLsb' 0 5) else none

/-- `bad` holds of both formats. A code that names no format makes no fault but its own 0x0A (R365). -/
def Raw.fmts (r : Raw) (bad : Fmt → Fmt → Bool) : Bool := r.srcFmt.any fun a => r.dstFmt.any fun d => bad a d

/-- The fields of the conversion control; a format that `cvtFaults` refuses stands as f32. -/
def Raw.cvt (r : Raw) : CvtOp :=
  ⟨r.d, r.s, r.k.t, (rmOf (r.m.extractLsb' 3 3)).getD .rne, r.m.getLsbD 2, r.srcFmt.getD .f32, r.dstFmt.getD .f32,
    r.ctl.extractLsb' 10 3, r.ctl.extractLsb' 13 3, r.k.td, r.k.ts, r.k.tt⟩

/-- The faults the conversions share: class S modifier, two chunks, reserved bits, formats. -/
def cvtFaults (r : Raw) : List Nat :=
  sub ((rmOf (r.m.extractLsb' 3 3)).isNone || r.m.extractLsb' 0 2 != 0) 6 ++ r.immN 2 ++
    sub (r.ctl.extractLsb' 16 6 != 0) 8 ++ sub (r.srcFmt.isNone || r.dstFmt.isNone) 10

/-- VCVT takes no KREG but for a trap bit on an operand it reads (R202, R260). -/
def dVcvt (r : Raw) (mk : CvtOp → Instr) : Except Nat Instr :=
  fin (cvtFaults r ++ r.kr true false (!r.fmts fun a d => decide (fmtWidth a ≤ fmtWidth d)) ++ r.t0 ++
      sub (r.fmts fun _ _ => !vcvtParts r.cvt) 8) (mk r.cvt)

def dVpack (r : Raw) (mk : CvtOp → Instr) : Except Nat Instr :=
  fin (cvtFaults r ++ r.kr true true false ++
      sub ((r.fmts fun a d => fmtWidth d * 2 != fmtWidth a) || r.cvt.ps != 0 || r.cvt.pd != 0) 8)
    (mk (match r.kreg with | none => { r.cvt with a := r.d, b := r.s } | some _ => r.cvt))

def dVunpack (r : Raw) (mk : CvtOp → Instr) : Except Nat Instr :=
  fin (cvtFaults r ++ r.kr true false false ++ r.t0 ++
      sub ((r.fmts fun a d => fmtWidth d != fmtWidth a * 2) || r.cvt.ps != 0 || r.cvt.pd != 0 || r.d.getLsbD 0) 8) (mk r.cvt)

/-- VQNT reads d only where the other half of it is kept; a format its description forbids is 0x06 (R262, R365). -/
def dVqnt (r : Raw) (mk : CvtOp → Instr) : Except Nat Instr :=
  fin (cvtFaults r ++ r.kReq ++ r.kr true false (r.cvt.dst == .e2m1) ++
      sub ((r.srcFmt.any fun f => !isWideFloat f) || (r.dstFmt.any fun f => !isMxElem f)) 6 ++
      sub ((r.srcFmt.any fun f => r.s.toNat % blockRegs f != 0) || r.cvt.ps != 0 ||
        (if r.cvt.dst == .e2m1 then decide (1 < r.cvt.pd.toNat) else r.cvt.pd != 0)) 8) (mk r.cvt)

def dVdqnt (r : Raw) (mk : CvtOp → Instr) : Except Nat Instr :=
  fin (cvtFaults r ++ r.kReq ++ r.kr true true false ++
      sub ((r.dstFmt.any fun f => !isWideFloat f) || (r.srcFmt.any fun f => !isMxElem f)) 6 ++
      sub ((r.dstFmt.any fun f => r.d.toNat % blockRegs f != 0) || r.cvt.pd != 0 ||
        (if r.cvt.src == .e2m1 then decide (1 < r.cvt.ps.toNat) else r.cvt.ps != 0)) 8) (mk r.cvt)

def cvtC (o : CvtOp) : List (BitVec 11) :=
  chunksOf 2 ((o.pd ++ o.ps ++ fmtBits o.src ++ fmtBits o.dst : BitVec 16).setWidth 64)

def rCvt (kreg : Bool) (page op : Nat) (o : CvtOp) : Raw :=
  ⟨page, rmBits o.rm ++ BitVec.ofBool o.sat ++ 0#2, mkK kreg o.b .g1 o.ta o.tb o.td, cvtC o, op, o.d, o.a⟩

def rVpack (page op : Nat) (o : CvtOp) : Raw :=
  if o.a = o.d ∧ !o.ta ∧ !o.tb then
    ⟨page, rmBits o.rm ++ BitVec.ofBool o.sat ++ 0#2, none, cvtC o, op, o.d, o.b⟩
  else rCvt true page op o

/-! Rings and accumulators. -/

def dRngdef (r : Raw) (mk : RR → Instr) : Except Nat Instr :=
  fin (r.clsN ++ r.kr true false false ++ r.t0 ++ r.noImm ++ beyond 8 r.d) (mk ⟨r.d, r.s, false, r.k.ts⟩)

def dRngstat (r : Raw) (mk : RR → Instr) : Except Nat Instr :=
  fin (r.clsN ++ r.kr false false false ++ r.t0 ++ r.noImm ++ beyond 8 r.s) (mk ⟨r.d, r.s, false, false⟩)

/-- MMA (R274). -/
def dMma (r : Raw) (mk : MmaOp → Instr) : Except Nat Instr :=
  fin (sub (r.m.extractLsb' 3 3 != 0) 6 ++ r.kReq ++ r.kr false false false ++ r.noImm ++
      sub (r.s == r.k.t) 8 ++ beyond 2 r.d ++ beyond 8 r.s ++ beyond 8 r.k.t)
    (mk ⟨r.d, r.s, r.k.t, r.m.getLsbD 0, r.m.getLsbD 1, r.m.getLsbD 2⟩)

def rMma (page op : Nat) (o : MmaOp) : Raw :=
  ⟨page, 0#3 ++ BitVec.ofBool o.zero ++ BitVec.ofBool o.keepb ++ BitVec.ofBool o.keepa, mkK true o.qb .g1 false false false,
    [], op, o.z, o.qa⟩

def dZred (r : Raw) (mk : ZRedOp → Instr) : Except Nat Instr :=
  fin (r.clsF ++ r.kReq ++ r.krG false true false [r.d] ++ r.noImm ++ beyond 2 r.s)
    (mk ⟨r.d, r.s, r.k.t, fmodOf r.m, grpOf r.k.w, r.k.tt⟩)

def rZred (page op : Nat) (o : ZRedOp) : Raw :=
  ⟨page, fmodBits o.m, mkK true o.t o.w false o.tt false, [], op, o.d, o.z⟩

def dZscale (r : Raw) (mk : ZScaleOp → Instr) : Except Nat Instr :=
  fin (r.clsF ++ sub (r.m.extractLsb' 0 2 != 0) 6 ++ r.kr true false false ++ r.t0 ++ r.noImm ++
      sub (r.s.toNat % 8 != 0) 8 ++ beyond 2 r.d)
    (mk ⟨r.d, r.s, (fmodOf r.m).rm, r.m.getLsbD 2, r.k.ts⟩)

def rZscale (page op : Nat) (o : ZScaleOp) : Raw :=
  ⟨page, rmBits o.rm ++ BitVec.ofBool o.sat ++ 0#2, mkK false 0 .g1 o.ta false false, [], op, o.z, o.a⟩

/-! Pages 5 to 7. -/

def Raw.msg (r : Raw) : MsgOp := ⟨r.d, r.s, r.o, r.c, r.ctl.extractLsb' 0 4, r.k.td, r.k.ts⟩

def dFence (r : Raw) (mk : MsgOp → Instr) : Except Nat Instr :=
  fin (r.clsM ordAll ++ r.kr false false false ++ r.t0 ++ r.noImm ++ r.s0) (mk r.msg)

def dSend (r : Raw) (mk : MsgOp → Instr) : Except Nat Instr :=
  fin (r.clsM ordSt ++ r.kr true false true ++ r.t0 ++ r.noImm) (mk r.msg)

def dSpawn (r : Raw) (mk : MsgOp → Instr) : Except Nat Instr :=
  fin (r.clsM ordSt ++ r.kr true false true ++ r.t0 ++ r.immN 1 ++ sub (r.ctl.extractLsb' 4 7 != 0) 8) (mk r.msg)

def rMsg (chunk : Bool) (page op : Nat) (o : MsgOp) : Raw :=
  ⟨page, memBits o.o o.c, mkK false 0 .g1 o.ta false o.td, if chunk then [o.n.setWidth 11] else [], op, o.d, o.a⟩

def dCpy (r : Raw) (mk : CpyOp → Instr) : Except Nat Instr :=
  fin (r.kReq ++ r.kr true true true ++ r.immLe 2 ++ sub (r.ctl.extractLsb' 16 6 != 0) 8)
    (mk ⟨r.d, r.s, r.k.t, qmodOf r.m, r.ctl.extractLsb' 0 12, r.ctl.extractLsb' 12 4, r.k.td, r.k.ts, r.k.tt⟩)

def rCpy (page op : Nat) (o : CpyOp) : Raw :=
  ⟨page, qmodBits o.q, mkK true o.b .g1 o.ta o.tb o.td,
    if o.chan = 0 ∧ o.mask = 0 then [] else chunksOf 2 ((o.mask ++ o.chan : BitVec 16).setWidth 64), op, o.d, o.a⟩

/-- CPYC (R304): formats with the MX codes; modes 0 to 4. -/
def dCpyc (r : Raw) (mk : CpycOp → Instr) : Except Nat Instr :=
  fin (r.kr true false true ++ r.t0 ++ r.immN 2 ++ sub (r.ctl.extractLsb' 14 8 != 0) 8 ++
      sub (decide (5 ≤ (r.ctl.extractLsb' 10 3).toNat) || (fmtOf true (r.ctl.extractLsb' 5 5)).isNone ||
        (fmtOf true (r.ctl.extractLsb' 0 5)).isNone) 10)
    (mk ⟨r.d, r.s, qmodOf r.m, r.ctl.getLsbD 13, (rmOf (r.ctl.extractLsb' 10 3)).getD .rne,
      (fmtOf true (r.ctl.extractLsb' 5 5)).getD .f32, (fmtOf true (r.ctl.extractLsb' 0 5)).getD .f32, r.k.td, r.k.ts⟩)

def rCpyc (page op : Nat) (o : CpycOp) : Raw :=
  ⟨page, qmodBits o.q, mkK false 0 .g1 o.ta false o.td,
    chunksOf 2 ((BitVec.ofBool o.sat ++ rmBits o.rm ++ fmtBits o.src ++ fmtBits o.dst : BitVec 14).setWidth 64),
    op, o.d, o.a⟩

def dCpyr (r : Raw) (mk : CpyrOp → Instr) : Except Nat Instr :=
  fin (r.kReq ++ r.kr true true false ++ r.immN 1 ++ sub (r.ctl.extractLsb' 7 4 != 0) 8 ++ beyond 8 r.d)
    (mk ⟨r.d, r.s, r.k.t, qmodOf r.m, r.ctl.extractLsb' 0 7, r.k.ts, r.k.tt⟩)

def rCpyr (page op : Nat) (o : CpyrOp) : Raw :=
  ⟨page, qmodBits o.q, mkK true o.b .g1 o.ta o.tb false, [o.n.setWidth 11], op, o.ring, o.a⟩

/-- CPYG and CPYS (R306): every exponent is decoded; one outside 3 to 10 traps when the instruction issues (R300, R366). -/
def dCpyx (r : Raw) (mk : CpyIdxOp → Instr) : Except Nat Instr :=
  fin (r.kReq ++ r.kr true true true ++ r.immN 2 ++ sub (r.ctl.extractLsb' 20 2 != 0) 8)
    (mk ⟨r.d, r.s, r.k.t, qmodOf r.m, r.ctl.extractLsb' 0 4, r.ctl.extractLsb' 4 16, r.k.td, r.k.ts, r.k.tt⟩)

def rCpyx (page op : Nat) (o : CpyIdxOp) : Raw :=
  ⟨page, qmodBits o.q, mkK true o.b .g1 o.ta o.tb o.td, chunksOf 2 ((o.count ++ o.e : BitVec 20).setWidth 64), op, o.d, o.a⟩

def Raw.put (r : Raw) (size : BitVec 2) (mask : BitVec 4) : PutOp :=
  ⟨r.d, r.s, qmodOf r.m, size, mask, grpOf r.k.w, r.k.td, r.k.ts⟩

/-- PUTR (R307): 8 bytes and no mask without a chunk. -/
def dPutr (r : Raw) (mk : PutOp → Instr) : Except Nat Instr :=
  fin (r.kr true false true ++ r.t0 ++ r.immLe 1 ++ sub (r.ctl.extractLsb' 6 5 != 0) 8)
    (mk (if r.chunks.isEmpty then r.put 3 0 else r.put (r.ctl.extractLsb' 0 2) (r.ctl.extractLsb' 2 4)))

def dPutv (r : Raw) (mk : PutOp → Instr) : Except Nat Instr :=
  fin (r.krG true false true [r.d] ++ r.t0 ++ r.immLe 1 ++ sub (r.ctl.extractLsb' 4 7 != 0) 8)
    (mk (r.put 3 (r.ctl.extractLsb' 0 4)))

def dFlagr (r : Raw) (mk : PutOp → Instr) : Except Nat Instr :=
  fin (r.kr true false true ++ r.t0 ++ r.noImm) (mk (r.put 3 0))

def rPutr (page op : Nat) (o : PutOp) : Raw :=
  ⟨page, qmodBits o.q, mkK false 0 o.w o.ta false o.td,
    if o.size = 3 ∧ o.mask = 0 then [] else [(0#5 ++ o.mask ++ o.size : BitVec 11)], op, o.d, o.a⟩

def rPutv (page op : Nat) (o : PutOp) : Raw :=
  ⟨page, qmodBits o.q, mkK false 0 o.w o.ta false o.td, if o.mask = 0 then [] else [o.mask.setWidth 11], op, o.d, o.a⟩

/-- AMOR (R308): d is read by ops 0x09 and 0x0A. -/
def dAmor (r : Raw) (mk : AmorOp → Instr) : Except Nat Instr :=
  let op := r.ctl.extractLsb' 0 4
  fin (r.clsM ordRmw ++ r.kReq ++ r.kr true true (op == 9 || op == 10) ++ r.immN 1 ++
      sub (r.ctl.extractLsb' 5 6 != 0 || decide (12 ≤ op.toNat) || (op == 11 && r.ctl.getLsbD 4)) 8)
    (mk ⟨r.d, r.s, r.k.t, r.o, r.c, op, r.ctl.getLsbD 4, r.k.td, r.k.ts, r.k.tt⟩)

def rAmor (page op : Nat) (o : AmorOp) : Raw :=
  ⟨page, memBits o.o o.c, mkK true o.b .g1 o.ta o.tb o.td, [(0#6 ++ BitVec.ofBool o.wide ++ o.op : BitVec 11)], op, o.d, o.a⟩

/-- RECV writes x[d] to x[d+7]: d is 8, 16 or 24 (R299). -/
def dRecv (r : Raw) (mk : RR → Instr) : Except Nat Instr :=
  fin (r.clsN ++ r.kr false false false ++ r.t0 ++ r.noImm ++ r.s0 ++ sub (r.d != 8 && r.d != 16 && r.d != 24) 8)
    (mk ⟨r.d, 0, false, false⟩)

def dCancel (r : Raw) (mk : RR → Instr) : Except Nat Instr :=
  fin (r.clsN ++ r.kr false false true ++ r.t0 ++ r.noImm ++ r.s0) (mk ⟨r.d, 0, r.k.td, false⟩)

def dSusp (r : Raw) (mk : RR → Instr) : Except Nat Instr := dRR r mk

def dDa (r : Raw) (mk : RR → Instr) : Except Nat Instr := dRR r mk

def dResume (r : Raw) (mk : ResumeOp → Instr) : Except Nat Instr :=
  fin (r.clsM ordSt ++ r.kReq ++ r.kr true true false ++ r.noImm) (mk ⟨r.d, r.s, r.k.t, r.o, r.c, r.k.ts, r.k.tt⟩)

def rResume (page op : Nat) (o : ResumeOp) : Raw :=
  ⟨page, memBits o.o o.c, mkK true o.b .g1 o.ta o.tb false, [], op, o.d, o.a⟩

/-- The rights of CCOPY and CEXPORT: all three when no chunk is present (R319, R324). -/
def Raw.rights (r : Raw) : BitVec 3 := if r.chunks.isEmpty then 7 else r.ctl.extractLsb' 0 3

def dCcopy (r : Raw) (mk : SysOp → Instr) : Except Nat Instr :=
  fin (r.clsN ++ r.kReq ++ r.kr true true false ++ r.immLe 1 ++ sub (r.ctl.extractLsb' 3 8 != 0) 8)
    (mk ⟨r.d, r.s, r.k.t, r.rights, false, r.k.ts, r.k.tt⟩)

def dCexport (r : Raw) (mk : SysOp → Instr) : Except Nat Instr := dCcopy r mk

def dDab (r : Raw) (mk : SysOp → Instr) : Except Nat Instr :=
  fin (r.clsN ++ r.kReq ++ r.kr true true false ++ r.noImm) (mk ⟨r.d, r.s, r.k.t, 7, false, r.k.ts, r.k.tt⟩)

def rSys (page op : Nat) (o : SysOp) : Raw :=
  ⟨page, 0, mkK true o.b .g1 o.ta o.tb false, if o.rights = 7 then [] else [o.rights.setWidth 11], op, o.d, o.a⟩

/-- The row of a service number: one for each service, and one for the numbers unassigned (R323). -/
def syscallRow (o : SyscallOp) : Instr :=
  match o.service.toNat with
  | 0 => .syscallNop o
  | 1 => .syscallMap o
  | 2 => .syscallUnmap o
  | 3 => .syscallSwitch o
  | 4 => .syscallRights o
  | _ => .syscallUnassigned o

/-- SYSCALL (R323). -/
def dSyscall (r : Raw) : Except Nat Instr :=
  fin (r.clsN ++ r.kr false false true ++ r.t0 ++ r.immLe 1 ++ r.s0imm)
    (syscallRow ⟨r.d, if r.chunks.isEmpty then r.s.setWidth 11 else r.ctl.extractLsb' 0 11, r.k.td⟩)

def rSyscall (page op : Nat) (o : SyscallOp) : Raw :=
  if o.service.toNat < 32 then ⟨page, 0, mkK false 0 .g1 false false o.td, [], op, o.d, o.service.extractLsb' 0 5⟩
  else ⟨page, 0, mkK false 0 .g1 false false o.td, [o.service], op, o.d, 0⟩

/-! ### The opcode map -/

/-- Page 0 of the opcode map (R207). -/
def decodePage0 (r : Raw) : Except Nat Instr :=
  match r.op with
  | 1 => dN r .nop
  | 2 => dRR r .mov
  | 3 => dIM r .movi
  | 4 => dRRR r .add
  | 5 => dRI r .addImm
  | 6 => dRRR r .sub
  | 7 => dRR r .neg
  | 8 => dRRR r .mul
  | 9 => dRI r .mulImm
  | 10 => dRRR r .mulh
  | 11 => dRRR r .mulhn
  | 12 => dRRR r .div
  | 13 => dRRR r .divn
  | 14 => dRRR r .rem
  | 15 => dRRR r .remn
  | 16 => dRR r .abs
  | 17 => dRRR r .min
  | 18 => dRRR r .max
  | 19 => dRRR r .minn
  | 20 => dRRR r .maxn
  | 21 => dBZ0 r .br
  | 22 => dBZ r .beqz
  | 23 => dBZ r .bnez
  | 24 => dBZ r .bltz
  | 25 => dBZ r .bgez
  | 26 => dBC r .beq
  | 27 => dBC r .bne
  | 28 => dBC r .blt
  | 29 => dBC r .bge
  | 30 => dBC r .bltn
  | 31 => dBC r .bgen
  | 32 => dBZ0 r .call
  | 33 => dJr r .callr
  | 34 => dN r .ret
  | 35 => dJr r .jmpr
  | 36 => dBZ r .loop
  | 37 => dLd r .ldS8
  | 38 => dLd r .ldS16
  | 39 => dLd r .ldS32
  | 40 => dLd r .ldS64
  | 41 => dLd r .ldzN8
  | 42 => dLd r .ldzN16
  | 43 => dLd r .ldzN32
  | 44 => dSt r .stS8
  | 45 => dSt r .stS16
  | 46 => dSt r .stS32
  | 47 => dSt r .stS64
  | 48 => dLdx r .ldx
  | 49 => dStx r .stx
  | 50 => dPref r .pref
  | 51 => dN r .endStrand
  | 52 => dSafe r .safe
  | 53 => dIM0 r .brk
  | 54 => dIMd r .trap
  | _ => .error 5

/-- Page 1 of the opcode map (R207). -/
def decodePage1 (r : Raw) : Except Nat Instr :=
  match r.op with
  | 1 => dRRR r .and
  | 2 => dRI r .andImm
  | 3 => dRRR r .or
  | 4 => dRI r .orImm
  | 5 => dRRR r .xor
  | 6 => dRI r .xorImm
  | 7 => dRRR r .andn
  | 8 => dRR r .not
  | 9 => dRRR r .sll
  | 10 => dRIu r .sllImm
  | 11 => dRRR r .srl
  | 12 => dRIu r .srlImm
  | 13 => dRRR r .sra
  | 14 => dRIu r .sraImm
  | 15 => dRRR r .rol
  | 16 => dRIu r .rolImm
  | 17 => dRRR r .ror
  | 18 => dRR r .clz
  | 19 => dRR r .ctz
  | 20 => dRR r .popc
  | 21 => dRR r .bswap
  | 22 => dBext r .bext
  | 23 => dBins r .bins
  | 24 => dRRR r .cmpeq
  | 25 => dRI r .cmpeqImm
  | 26 => dRRR r .cmpne
  | 27 => dRRR r .cmplt
  | 28 => dRI r .cmpltImm
  | 29 => dRRR r .cmpltn
  | 30 => dRRR r .cmple
  | 31 => dRRR r .cmplen
  | 32 => dRRRd r .sel
  | 33 => dIM r .ldpc
  | 34 => dGets r .gets
  | 35 => dPuts r
  | 36 => dRRR r .ptag
  | 37 => dRR r .pspc
  | 38 => dRR r .pown
  | 39 => dRR r .poff
  | 40 => dRRR r .padd
  | 41 => dRI r .paddImm
  | 42 => dD r .rdtime
  | 43 => dD r .rdcyc
  | _ => .error 5

/-- Page 2 of the opcode map (R207). -/
def decodePage2 (r : Raw) : Except Nat Instr :=
  match r.op with
  | 1 => dV r .vadd
  | 2 => dV r .vsub
  | 3 => dV r .vmul
  | 4 => dVns r .vmulh
  | 5 => dVns r .vmin
  | 6 => dVns r .vmax
  | 7 => dVabs r .vabs
  | 8 => dVns r .vand
  | 9 => dVns r .vor
  | 10 => dVns r .vxor
  | 11 => dVns r .vsll
  | 12 => dVns r .vsrl
  | 13 => dVns r .vsra
  | 14 => dVcmp r .vcmp
  | 15 => dVsel r .vsel
  | 16 => dVred r .vrsumInt
  | 17 => dVred r .vrmaxInt
  | 18 => dVred r .vrminInt
  | 19 => dVperm r .vperm
  | 20 => dVshuf r .vshuf
  | 21 => dVbcast r .vbcast
  | 22 => dVext r .vext
  | 23 => dVins r .vins
  | 24 => dPset r .pset
  | 25 => dPpp r .pand
  | 26 => dPpp r .por
  | 27 => dPp r .pnot
  | 28 => dXp r .pcnt
  | 29 => dXp r .pfirst
  | 32 => dVld r .vld
  | 33 => dVst r .vst
  | 34 => dVlds r .vlds
  | 35 => dVgath r .vgath
  | 36 => dVscat r .vscat
  | _ => .error 5

/-- Page 3 of the opcode map (R207). -/
def decodePage3 (r : Raw) : Except Nat Instr :=
  match r.op with
  | 1 => dF r .vfadd
  | 2 => dF r .vfsub
  | 3 => dF r .vfmul
  | 4 => dFd r .vfma
  | 5 => dFd r .vfms
  | 6 => dFd r .vfnma
  | 7 => dF r .vfmin
  | 8 => dF r .vfmax
  | 9 => dFcmp r .vfcmp
  | 10 => dF r .vfdiv
  | 11 => dFun r .vfsqrt
  | 12 => dFred r .vrsumFloat
  | 13 => dFred r .vrmaxFloat
  | 14 => dFred r .vrminFloat
  | 16 => dVcvt r .vcvt
  | 17 => dVpack r .vpack
  | 18 => dVunpack r .vunpack
  | 19 => dVqnt r .vqnt
  | 20 => dVdqnt r .vdqnt
  | 24 => dFun r .vexp2
  | 25 => dFun r .vlog2
  | 26 => dFun r .vrsqrt
  | 27 => dFun r .vrcp
  | 28 => dSincos r .vsincos
  | 29 => dFun r .vtanh
  | _ => .error 5

/-- Page 4 of the opcode map (R207). -/
def decodePage4 (r : Raw) : Except Nat Instr :=
  match r.op with
  | 1 => dRngdef r .rngdef
  | 2 => dRngadv r .rngadv
  | 3 => dRngstat r .rngstat
  | 4 => dMma r .mma
  | 5 => dZ r .zclr
  | 6 => dZmem r .zld
  | 7 => dZmem r .zst
  | 8 => dZred r .zred
  | 9 => dZscale r .zscale
  | 10 => dZ r .zclaim
  | 11 => dZ r .zfree
  | _ => .error 5

/-- Page 5 of the opcode map (R207). -/
def decodePage5 (r : Raw) : Except Nat Instr :=
  match r.op with
  | 1 => dAtc r .amoaddS32
  | 2 => dAtc r .amoaddS64
  | 3 => dAtc r .amoandS32
  | 4 => dAtc r .amoandS64
  | 5 => dAtc r .amoorS32
  | 6 => dAtc r .amoorS64
  | 7 => dAtc r .amoxorS32
  | 8 => dAtc r .amoxorS64
  | 9 => dAtc r .amominS32
  | 10 => dAtc r .amominS64
  | 11 => dAtc r .amominN32
  | 12 => dAtc r .amominN64
  | 13 => dAtc r .amomaxS32
  | 14 => dAtc r .amomaxS64
  | 15 => dAtc r .amomaxN32
  | 16 => dAtc r .amomaxN64
  | 17 => dAt r .amoswpS32
  | 18 => dAt r .amoswpS64
  | 19 => dAtd r .amocasS32
  | 20 => dAtd r .amocasS64
  | 21 => dAtd r .amobaddN32
  | 22 => dAtd r .amobaddN64
  | 23 => dAtc r .amofaddF32
  | 24 => dRowc r .rowadd
  | 25 => dRowc r .rowmax
  | 26 => dLdrow r
  | 27 => dAt r .topk
  | 28 => dTl r .ldfe
  | 29 => dTl r .ldff
  | 30 => dTs r .stfe
  | 31 => dTs r .stff
  | 32 => dTl r .fepoll
  | 33 => dTc r .feclr
  | 34 => dFence r .fence
  | 35 => dN r .fencei
  | 36 => dN r .tbar
  | 37 => dN r .lbar
  | 38 => dBZ0 r .xbegin
  | 39 => dN r .xend
  | 40 => dIM0 r .xabort
  | 41 => dD r .xtest
  | 42 => dD r .xstat
  | 43 => dKim r .kset
  | 44 => dKim r .kadd
  | 45 => dKim r .kwait
  | 46 => dKread r .kread
  | 47 => dRRd r .evsig
  | 48 => dRRd r .evwait
  | 49 => dWaitw r .waitw
  | _ => .error 5

/-- Page 6 of the opcode map (R207). -/
def decodePage6 (r : Raw) : Except Nat Instr :=
  match r.op with
  | 1 => dCpy r .cpy
  | 2 => dCpy r .cpy2
  | 3 => dCpyc r .cpyc
  | 4 => dCpyr r .cpyr
  | 5 => dCpyx r .cpyg
  | 6 => dCpyx r .cpys
  | 7 => dPutr r .putr
  | 8 => dPutv r .putv
  | 9 => dFlagr r .flagr
  | 10 => dAmor r .amor
  | 11 => dGetr r .getr
  | 12 => dSend r .sendStart
  | 13 => dSend r .sendPost
  | 14 => dRecv r .recv
  | 15 => dSpawn r .spawn
  | 16 => dSend r .launch
  | 17 => dCancel r .cancel
  | 18 => dN r .yield
  | 19 => dSusp r .suspend
  | 20 => dResume r .resumeHere
  | 21 => dResume r .resumeAny
  | 22 => dCcopy r .ccopy
  | 23 => dDa r .cdiscard
  | 24 => dDa r .csize
  | _ => .error 5

/-- Page 7 of the opcode map (R207). -/
def decodePage7 (r : Raw) : Except Nat Instr :=
  match r.op with
  | 1 => dDab r .tlbinv
  | 2 => dN r .sret
  | 3 => dSyscall r
  | 4 => dCexport r .cexport
  | 5 => dDab r .measure
  | _ => .error 5

/-- The fields of a core instruction; none for TRAPZ and illegal words, which carry their words, and for steps. -/
def Instr.raw : Instr → Option Raw
  | .nop => some (rN 0 1)
  | .mov o => some (rRR 0 2 o)
  | .movi o => some (rIM 0 3 o)
  | .add o => some (rRRR 0 4 o)
  | .addImm o => some (rRI 0 5 o)
  | .sub o => some (rRRR 0 6 o)
  | .neg o => some (rRR 0 7 o)
  | .mul o => some (rRRR 0 8 o)
  | .mulImm o => some (rRI 0 9 o)
  | .mulh o => some (rRRR 0 10 o)
  | .mulhn o => some (rRRR 0 11 o)
  | .div o => some (rRRR 0 12 o)
  | .divn o => some (rRRR 0 13 o)
  | .rem o => some (rRRR 0 14 o)
  | .remn o => some (rRRR 0 15 o)
  | .abs o => some (rRR 0 16 o)
  | .min o => some (rRRR 0 17 o)
  | .max o => some (rRRR 0 18 o)
  | .minn o => some (rRRR 0 19 o)
  | .maxn o => some (rRRR 0 20 o)
  | .br o => some (rBZ 0 21 o)
  | .beqz o => some (rBZ 0 22 o)
  | .bnez o => some (rBZ 0 23 o)
  | .bltz o => some (rBZ 0 24 o)
  | .bgez o => some (rBZ 0 25 o)
  | .beq o => some (rBC 0 26 o)
  | .bne o => some (rBC 0 27 o)
  | .blt o => some (rBC 0 28 o)
  | .bge o => some (rBC 0 29 o)
  | .bltn o => some (rBC 0 30 o)
  | .bgen o => some (rBC 0 31 o)
  | .call o => some (rBZ 0 32 o)
  | .callr o => some (rRR 0 33 o)
  | .ret => some (rN 0 34)
  | .jmpr o => some (rRR 0 35 o)
  | .loop o => some (rBZ 0 36 o)
  | .ldS8 o => some (rMEM 0 37 o)
  | .ldS16 o => some (rMEM 0 38 o)
  | .ldS32 o => some (rMEM 0 39 o)
  | .ldS64 o => some (rMEM 0 40 o)
  | .ldzN8 o => some (rMEM 0 41 o)
  | .ldzN16 o => some (rMEM 0 42 o)
  | .ldzN32 o => some (rMEM 0 43 o)
  | .stS8 o => some (rMEM 0 44 o)
  | .stS16 o => some (rMEM 0 45 o)
  | .stS32 o => some (rMEM 0 46 o)
  | .stS64 o => some (rMEM 0 47 o)
  | .ldx o => some (rAT 0 48 o)
  | .stx o => some (rAT 0 49 o)
  | .pref o => some (rMEM 0 50 o)
  | .endStrand => some (rN 0 51)
  | .trap o => some (rIM 0 54 o)
  | .and o => some (rRRR 1 1 o)
  | .andImm o => some (rRI 1 2 o)
  | .or o => some (rRRR 1 3 o)
  | .orImm o => some (rRI 1 4 o)
  | .xor o => some (rRRR 1 5 o)
  | .xorImm o => some (rRI 1 6 o)
  | .andn o => some (rRRR 1 7 o)
  | .not o => some (rRR 1 8 o)
  | .sll o => some (rRRR 1 9 o)
  | .sllImm o => some (rRIu 1 10 o)
  | .srl o => some (rRRR 1 11 o)
  | .srlImm o => some (rRIu 1 12 o)
  | .sra o => some (rRRR 1 13 o)
  | .sraImm o => some (rRIu 1 14 o)
  | .rol o => some (rRRR 1 15 o)
  | .rolImm o => some (rRIu 1 16 o)
  | .ror o => some (rRRR 1 17 o)
  | .clz o => some (rRR 1 18 o)
  | .ctz o => some (rRR 1 19 o)
  | .popc o => some (rRR 1 20 o)
  | .bswap o => some (rRR 1 21 o)
  | .bext o => some (rBF 1 22 o)
  | .bins o => some (rBF 1 23 o)
  | .cmpeq o => some (rRRR 1 24 o)
  | .cmpeqImm o => some (rRI 1 25 o)
  | .cmpne o => some (rRRR 1 26 o)
  | .cmplt o => some (rRRR 1 27 o)
  | .cmpltImm o => some (rRI 1 28 o)
  | .cmpltn o => some (rRRR 1 29 o)
  | .cmple o => some (rRRR 1 30 o)
  | .cmplen o => some (rRRR 1 31 o)
  | .sel o => some (rRRR 1 32 o)
  | .ldpc o => some (rIM 1 33 o)
  | .gets o => some (rIM 1 34 o)
  | .puts o => some (rIM 1 35 o)
  | .putsSeed o => some (rIM 1 35 o)
  | .putsLfsr o => some (rIM 1 35 o)
  | .putsXage o => some (rIM 1 35 o)
  | .putsRound o => some (rIM 1 35 o)
  | .putsCause o => some (rIM 1 35 o)
  | .ptag o => some (rRRR 1 36 o)
  | .pspc o => some (rRR 1 37 o)
  | .pown o => some (rRR 1 38 o)
  | .poff o => some (rRR 1 39 o)
  | .padd o => some (rRRR 1 40 o)
  | .paddImm o => some (rRI 1 41 o)
  | .rdtime o => some (rD 1 42 o)
  | .rdcyc o => some (rD 1 43 o)
  | .vadd o => some (rV 2 1 o)
  | .vsub o => some (rV 2 2 o)
  | .vmul o => some (rV 2 3 o)
  | .vmulh o => some (rV 2 4 o)
  | .vmin o => some (rV 2 5 o)
  | .vmax o => some (rV 2 6 o)
  | .vabs o => some (rVmov false 2 7 o)
  | .vand o => some (rV 2 8 o)
  | .vor o => some (rV 2 9 o)
  | .vxor o => some (rV 2 10 o)
  | .vsll o => some (rV 2 11 o)
  | .vsrl o => some (rV 2 12 o)
  | .vsra o => some (rV 2 13 o)
  | .vcmp o => some (rVcmp 2 14 o)
  | .vsel o => some (rV 2 15 o)
  | .vrsumInt o => some (rVred 2 16 o)
  | .vrmaxInt o => some (rVred 2 17 o)
  | .vrminInt o => some (rVred 2 18 o)
  | .vperm o => some (rV 2 19 o)
  | .vshuf o => some (rVshuf 2 20 o)
  | .vbcast o => some (rVmov false 2 21 o)
  | .vext o => some (rVmov true 2 22 o)
  | .vins o => some (rVmov true 2 23 o)
  | .pset o => some (rIM 2 24 o)
  | .pand o => some (rRRR 2 25 o)
  | .por o => some (rRRR 2 26 o)
  | .pnot o => some (rRR 2 27 o)
  | .pcnt o => some (rRR 2 28 o)
  | .pfirst o => some (rRR 2 29 o)
  | .vld o => some (rMEM 2 32 o)
  | .vst o => some (rMEM 2 33 o)
  | .vlds o => some (rVidx false 2 34 o)
  | .vgath o => some (rVidx true 2 35 o)
  | .vscat o => some (rVidx true 2 36 o)
  | .vfadd o => some (rF 3 1 o)
  | .vfsub o => some (rF 3 2 o)
  | .vfmul o => some (rF 3 3 o)
  | .vfma o => some (rF 3 4 o)
  | .vfms o => some (rF 3 5 o)
  | .vfnma o => some (rF 3 6 o)
  | .vfmin o => some (rF 3 7 o)
  | .vfmax o => some (rF 3 8 o)
  | .vfcmp o => some (rFcmp 3 9 o)
  | .vfdiv o => some (rF 3 10 o)
  | .vfsqrt o => some (rFun 3 11 o)
  | .vrsumFloat o => some (rFred 3 12 o)
  | .vrmaxFloat o => some (rFred 3 13 o)
  | .vrminFloat o => some (rFred 3 14 o)
  | .vcvt o => some (rCvt false 3 16 o)
  | .vpack o => some (rVpack 3 17 o)
  | .vunpack o => some (rCvt false 3 18 o)
  | .vqnt o => some (rCvt true 3 19 o)
  | .vdqnt o => some (rCvt true 3 20 o)
  | .vexp2 o => some (rFun 3 24 o)
  | .vlog2 o => some (rFun 3 25 o)
  | .vrsqrt o => some (rFun 3 26 o)
  | .vrcp o => some (rFun 3 27 o)
  | .vsincos o => some (rFun 3 28 o)
  | .vtanh o => some (rFun 3 29 o)
  | .rngdef o => some (rRR 4 1 o)
  | .rngadv o => some (rIMu 4 2 o)
  | .rngstat o => some (rRR 4 3 o)
  | .mma o => some (rMma 4 4 o)
  | .zclr o => some (rD 4 5 o)
  | .zld o => some (rMEM 4 6 o)
  | .zst o => some (rMEM 4 7 o)
  | .zred o => some (rZred 4 8 o)
  | .zscale o => some (rZscale 4 9 o)
  | .zclaim o => some (rD 4 10 o)
  | .zfree o => some (rD 4 11 o)
  | .amoaddS32 o => some (rAT 5 1 o)
  | .amoaddS64 o => some (rAT 5 2 o)
  | .amoandS32 o => some (rAT 5 3 o)
  | .amoandS64 o => some (rAT 5 4 o)
  | .amoorS32 o => some (rAT 5 5 o)
  | .amoorS64 o => some (rAT 5 6 o)
  | .amoxorS32 o => some (rAT 5 7 o)
  | .amoxorS64 o => some (rAT 5 8 o)
  | .amominS32 o => some (rAT 5 9 o)
  | .amominS64 o => some (rAT 5 10 o)
  | .amominN32 o => some (rAT 5 11 o)
  | .amominN64 o => some (rAT 5 12 o)
  | .amomaxS32 o => some (rAT 5 13 o)
  | .amomaxS64 o => some (rAT 5 14 o)
  | .amomaxN32 o => some (rAT 5 15 o)
  | .amomaxN64 o => some (rAT 5 16 o)
  | .amoswpS32 o => some (rAT 5 17 o)
  | .amoswpS64 o => some (rAT 5 18 o)
  | .amocasS32 o => some (rAT 5 19 o)
  | .amocasS64 o => some (rAT 5 20 o)
  | .amobaddN32 o => some (rAT 5 21 o)
  | .amobaddN64 o => some (rAT 5 22 o)
  | .amofaddF32 o => some (rAT 5 23 o)
  | .rowadd o => some (rRW false 5 24 o)
  | .rowmax o => some (rRW false 5 25 o)
  | .ldrowFresh o => some (rRW false 5 26 o)
  | .ldrowStale o => some (rRW true 5 26 o)
  | .topk o => some (rAT 5 27 o)
  | .ldfe o => some (rMEM 5 28 o)
  | .ldff o => some (rMEM 5 29 o)
  | .stfe o => some (rMEM 5 30 o)
  | .stff o => some (rMEM 5 31 o)
  | .fepoll o => some (rMEM 5 32 o)
  | .feclr o => some (rMEM 5 33 o)
  | .fence o => some (rMsg false 5 34 o)
  | .fencei => some (rN 5 35)
  | .tbar => some (rN 5 36)
  | .lbar => some (rN 5 37)
  | .xbegin o => some (rBZ 5 38 o)
  | .xend => some (rN 5 39)
  | .xtest o => some (rD 5 41 o)
  | .xstat o => some (rD 5 42 o)
  | .kset o => some (rIM 5 43 o)
  | .kadd o => some (rIM 5 44 o)
  | .kwait o => some (rIM 5 45 o)
  | .kread o => some (rRR 5 46 o)
  | .evsig o => some (rRR 5 47 o)
  | .evwait o => some (rRR 5 48 o)
  | .waitw o => some (rMEM 5 49 o)
  | .cpy o => some (rCpy 6 1 o)
  | .cpy2 o => some (rCpy 6 2 o)
  | .cpyc o => some (rCpyc 6 3 o)
  | .cpyr o => some (rCpyr 6 4 o)
  | .cpyg o => some (rCpyx 6 5 o)
  | .cpys o => some (rCpyx 6 6 o)
  | .putr o => some (rPutr 6 7 o)
  | .putv o => some (rPutv 6 8 o)
  | .flagr o => some (rPutv 6 9 o)
  | .amor o => some (rAmor 6 10 o)
  | .getr o => some (rMEM 6 11 o)
  | .sendStart o => some (rMsg false 6 12 o)
  | .sendPost o => some (rMsg false 6 13 o)
  | .recv o => some (rRR 6 14 o)
  | .spawn o => some (rMsg true 6 15 o)
  | .launch o => some (rMsg false 6 16 o)
  | .cancel o => some (rRR 6 17 o)
  | .yield => some (rN 6 18)
  | .suspend o => some (rRR 6 19 o)
  | .resumeHere o => some (rResume 6 20 o)
  | .resumeAny o => some (rResume 6 21 o)
  | .ccopy o => some (rSys 6 22 o)
  | .cdiscard o => some (rRR 6 23 o)
  | .csize o => some (rRR 6 24 o)
  | .tlbinv o => some (rSys 7 1 o)
  | .sret => some (rN 7 2)
  | .syscallNop o => some (rSyscall 7 3 o)
  | .syscallMap o => some (rSyscall 7 3 o)
  | .syscallUnmap o => some (rSyscall 7 3 o)
  | .syscallSwitch o => some (rSyscall 7 3 o)
  | .syscallRights o => some (rSyscall 7 3 o)
  | .syscallUnassigned o => some (rSyscall 7 3 o)
  | .cexport o => some (rSys 7 4 o)
  | .measure o => some (rSys 7 5 o)
  | .trapz => none
  | .safe => none
  | .brk => none
  | .xabort => none
  | .powerOn => none
  | .resetAssert => none
  | .resetRelease => none
  | .ident => none
  | .attest => none
  | .regMr => none
  | .jobCreate => none
  | .jobDestroy => none
  | .chan => none
  | .switch => none
  | .route => none
  | .hostRdmaWrite => none
  | .hostRdmaRead => none
  | .recordTaken => none
  | .launchAdmission => none
  | .priorityAging => none
  | .wakeMessage => none
  | .troupePlacement => none
  | .bayWake => none
  | .bayGate => none
  | .spawnRecord => none
  | .troupeDone => none
  | .eventAdd => none
  | .overflowWaitTest => none
  | .cancelBroadcast => none
  | .launchOverflowAppend => none
  | .switchTime => none
  | .switchForcedStop => none
  | .troupeCapture => none
  | .captureWatchdog => none
  | .switchComplete => none
  | .mailboxArrival => none
  | .handlerStart => none
  | .spillReturn => none
  | .acceptChannelCommand => none
  | .remoteRequestSend => none
  | .write => none
  | .writeLands => none
  | .flag => none
  | .flagRelease => none
  | .amo => none
  | .read => none
  | .landed => none
  | .gap => none
  | .response => none
  | .landedTimer => none
  | .gapTimeout => none
  | .senderTimeout => none
  | .remoteTimeout => none
  | .portRemoval => none
  | .channelDrained => none
  | .leaseRenewal => none
  | .loadReturn => none
  | .storeApply => none
  | .storeAck => none
  | .proxyReadMiss => none
  | .proxyWrite => none
  | .proxyEviction => none
  | .freshRead => none
  | .recall => none
  | .transitionAnswer => none
  | .depositRegistration => none
  | .depositMerge => none
  | .coherenceRetry => none
  | .reservationPass => none
  | .rebase => none
  | .rebaseEnd => none
  | .postedStoreApply => none
  | .postedStoreAck => none
  | .remoteRead => none
  | .taggedWordRequest => none
  | .feTimeout => none
  | .atomicAtHome => none
  | .rowAtHome => none
  | .topkAtHome => none
  | .transactionalRegistration => none
  | .conflictAbort => none
  | .transactionCommit => none
  | .commitApply => none
  | .divideComplete => none
  | .sfuService => none
  | .sfuResult => none
  | .mmaStart => none
  | .mmaRetire => none
  | .zscaleRetire => none
  | .zmoveComplete => none
  | .yieldEnd => none
  | .asyncTrapDelivery => none
  | .engineCommandStart => none
  | .enginePageBoundary => none
  | .engineCommandComplete => none
  | .cpyrReserve => none
  | .shootdownAnswer => none
  | .shootdownTimeout => none
  | .compareAndClear => none
  | .ccopyWrite => none
  | .cdiscardClear => none
  | .cexportService => none
  | .measurementExtension => none
  | .errorDetected => none
  | .patrolScrub => none
  | .agentDead => none
  | .illegalEncoding => none
  | .vinLoss => none

/-- The cell a group names. Opcode 0 of page 0 is TRAPZ whatever the other fields hold (R206). -/
def decodeRaw (r : Raw) : Except Nat Instr :=
  match r.page with
  | 0 => if r.op = 0 then .ok .trapz else decodePage0 r
  | 1 => decodePage1 r
  | 2 => decodePage2 r
  | 3 => decodePage3 r
  | 4 => decodePage4 r
  | 5 => decodePage5 r
  | 6 => decodePage6 r
  | 7 => decodePage7 r
  | _ => .error 4

/-- A whole word group: the instruction, or the sub-code of ILLEGAL (R206, R365). -/
def decodeSub (g : List Half) : Except Nat Instr :=
  match prefixFault g with
  | 0 => decodeRaw (rawOf g)
  | n => .error n

/-- A whole word group as an instruction: an illegal one is `illegalEncoding`, whose words stand in hand. -/
def decodeGroup (g : List Half) : Instr :=
  match decodeSub g with
  | .ok i => i
  | .error _ => .illegalEncoding

/-- The sub-code of an illegal word group (R365); 0 for a legal one. -/
def illegalSub (g : List Half) : Nat :=
  match decodeSub g with
  | .ok _ => 0
  | .error n => n

/-- Decode the words that stand at a PC: the instruction and its words; `none` when the words end too soon. -/
def decodeWords (ws : List Half) : Option (Instr × List Half) :=
  (takeGroup 5 ws).map (fun g => (decodeGroup g, g))

/-- The words of an instruction, written from the encoding tables of spec/11 to spec/15; none for a step and for the
rows that find their operands in the words in hand. -/
def encode (i : Instr) : List Half :=
  match i.raw with
  | some r => r.words
  | none => []

/-- The words of the rows that find their operands in the words in hand: TRAPZ, BRK, XABORT and SAFE. -/
def encodeTrapz (d s : Reg) : List Half := (⟨0, 0, none, [], 0, d, s⟩ : Raw).words
def encodeBrk (code : Word) : List Half := (rIM 0 53 ⟨0, code, false⟩).words
def encodeXabort (code : Word) : List Half := (rIM 5 40 ⟨0, code, false⟩).words
def encodeSafe (l : List SafeRange) : List Half := (rSafe 0 52 l).words

/-- The words of a number of the opcode table (see `decodeTableWord`). A two-word row is numbered by the table with its
first word in bits 31..16, and a first word that is a prefix says so; otherwise the first word is bits 15..0 (L12). -/
def tableWords (nbits w : Nat) : List Half :=
  if nbits = 0 then []
  else if nbits ≤ 16 then [BitVec.ofNat 16 w]
  else
    let lo : Half := BitVec.ofNat 16 w
    let hi : Half := BitVec.ofNat 16 (w / 65536)
    if isPrefixWord hi then [hi, lo] else [lo, hi]

/-- The instruction the decoder reads from the words of a row of the opcode table, zeros standing after them. -/
def decodeTableWord (nbits w : Nat) : Option Instr :=
  match tableWords nbits w with
  | [] => none
  | ws =>
    match decodeWords (ws ++ [0, 0, 0, 0]) with
    | some (.illegalEncoding, _) => none
    | some (i, _) => some i
    | none => none

end Sys2Proof
end

