-- ==== Sys2Proof/Config.lean ====
section
/-! DEFINITION. What an implementation fixes and the values the spec leaves open.
Each constant is opaque: no proof can see what it is, so a statement holds whatever it is.
The assumption log's entry is named at each. -/

namespace Sys2Proof.Config

/-- Which of several cores issues next at this tick count (L2). -/
opaque choiceOf : Nat → Nat

/-- How far a die's clock stands before the others', in nanoseconds, taken modulo 5 (R6, R242, L3). -/
opaque skew : Nat → Nat

/-- Nanoseconds that pass before the step with this tick count (L3). -/
opaque elapsed : Nat → Nat

/-- Which of the pending steps comes next at this tick count; 0 lets an instruction issue (L2). -/
opaque pick : Nat → Nat

/-- Whether a fetch at this tick count returns the word the core holds already, or reads memory (R84, L16). -/
opaque fetchHit : Nat → Nat → Bool

/-- The addresses whose words an instruction cache takes in ahead of their fetch at this tick count (R84, L16). -/
opaque prefetched : Nat → List Nat

/-- Whether the next instruction of the strand in a slot of a core has been fetched when the core issues at this tick count
(R22, L2). -/
opaque fetched : Nat → Nat → Bool

/-- The hash of R57 that names one of the 80 slices of a die for an address, taken modulo 80 (L8). -/
opaque sliceHash : Nat → Nat

/-- The sensor class of a bay, 0 cool, 1 normal, 2 hot, at a tick count, taken modulo 3 (R31, L21). -/
opaque sensorClass : Nat → Nat → Nat

/-- The seal key of a job that the conservator draws at the given draw (R148, R353, L10). -/
opaque sealKey : Nat → Nat → BitVec 256

/-- The RSA-3072 PSS signature of the device over a digest (R352, L10). -/
opaque deviceSignature : BitVec 256 → BitVec 3072

/-- The certificate of the device identity key (R352, L10). -/
opaque deviceCertificate : List Byte

/-- Whether a signature over a digest is the vendor's (R350, L10). -/
opaque vendorSigned : BitVec 256 → List Byte → Bool

/-- The f32 result of a special function where R138 bounds it and does not fix it, within those bounds:
function number, input pattern (L7). -/
opaque sfuResult : Nat → Quad → Quad

/-- Whether the retry of a detected error succeeds, at a tick count (R380, L28). -/
opaque retrySucceeds : Nat → Bool

/-- A byte read from the host's memory, which lies outside the module: region, offset, tick count (R65, L20). -/
opaque hostByte : Nat → Nat → Nat → Byte

/-- Whether a home slice holds a line that differs from memory, at a tick count and a line (R383, R385, L41). -/
opaque homeDirty : Nat → Nat → Bool

/-- Whether a cache still holds an entry when it is looked up, at a tick count: key 0 the translation caches (L30),
key n + 1 the L1's copy of line n (L33). -/
opaque keeps : Nat → Nat → Bool

/-- What a byte of a poisoned word reads as where R381 names no outcome: a panel an MMA reads, a unit ZLD loads: address, tick
count (L36). -/
opaque poisonByte : Nat → Nat → Byte

/-- What a register holds after a resume when the continuation object does not save it: tick count, number (R144, L39). -/
opaque unsaved : Nat → Nat → BitVec 256

/-- Whether a Span port has credit for a packet's virtual lane: tick count, port (R180, L27). -/
opaque portCredit : Nat → Nat → Bool

/-- A power or temperature reading on the SMBus: register, tick count (R348, L56). -/
opaque smbusReading : Nat → Nat → Byte

/-- Which way an event the spec lets fall either way falls, at a tick count (L2). -/
opaque choice : Nat → Bool

end Sys2Proof.Config
end

