-- ==== Sys2Proof/Machine/State.lean ====
section
/-! DEFINITION. The state of the machine, as plain data, and the state after reset.
INVENTORY.md, "State", lists every piece with the rule that names it. -/

namespace Sys2Proof.Machine

/-! ### Traps -/

/-- The causes of R355. -/
inductive Cause
  | illegal | trapz | fetchLimit | misalign | space | translate | protect | emptyReg | feTimeout | arith
  | postedRefused | doubleResume | badCont | registry | channelBroken | remoteTimeout | poison | cancel | brk
  | soft | watchdog
  deriving DecidableEq, Repr

/-- A trap with its cause registers (R364) and, for a pending one, the time it became pending (R144). -/
structure Trap where
  cause : Cause
  c0 : Word
  c1 : Word
  c2 : Word
  c3 : Word
  time : Nat
  deriving DecidableEq, Repr

/-! ### Strands -/

/-- Where a strand is in its life: the focus holds `vacant` when no strand exists; the stop codes are those of R144. -/
inductive Mode
  | vacant
  | running
  | stopped (code : Nat)
  | ended
  deriving DecidableEq, Repr

/-- The waits of R42. -/
inductive Wait
  | kwait (k : Nat) (n : Quad)
  | event (id : Nat)
  | tbar
  | lbar
  | empty
  | tagged (req : Nat)
  | watch (addr : Nat) (reg : Reg) (old : Word)
  | recv (reg : Reg)
  | zclaim (z : Nat)
  deriving DecidableEq, Repr

/-- The checkpoint of R93. -/
structure Ckpt where
  x : Vector Word 32
  v : Vector VReg 32
  p : Vector Quad 8
  xfull : Quad
  vfull : Quad
  deriving DecidableEq, Repr

/-- A tile of a transaction: physical tile number, whether read, whether written, whether its data lie in the vitrine,
the order of its last write, its pointer bits for the abort status (R94, R95, R104). -/
structure TxTile where
  tile : Nat
  read : Bool
  write : Bool
  vitrine : Bool
  last : Nat
  ptr : Word
  deriving DecidableEq, Repr

/-- A commutative access: physical address of the unit, bytes of the unit, operation, element type, deltas by element
(R82, R101, R118), and its place among the machine's accesses, for a shootdown (R62). Operation codes are those of R196, 0x0B the float add and 0x05 a maximum;
`elem` is 0 s32, 1 s64, 2 n32, 3 n64, 4 f32, 5 bf16, 6 f16. -/
structure Deposit where
  unit : Nat
  bytes : Nat
  op : Nat
  elem : Nat
  deltas : List (Nat × Word)
  id : Nat
  deriving DecidableEq, Repr

/-- The transaction state of a strand (R91 to R104). Speculative bytes are by physical address;
`doomed` holds the pointer of the conflict once a home has decided one against the transaction (R97). -/
structure Tx where
  depth : Nat
  handler : Word
  ckpt : Option Ckpt
  tiles : List TxTile
  spec : List Host.Cell
  comm : List Deposit
  committing : Bool
  doomed : Option Word
  status : Word
  deriving DecidableEq, Repr

/-- The state registers that belong to a strand (R209, R356, R394). -/
structure SRegs where
  strand : Nat
  chan : Word
  round : Word
  seed : Word
  lfsr : Word
  xage : Word
  fewait : Word
  cause : Word
  epc : Word
  c0 : Word
  c1 : Word
  c2 : Word
  c3 : Word
  fstat : Word
  deriving DecidableEq, Repr

/-- One strand (R21). `troupe` is the number of its troupe's record; `slot` its place among its troupe's strands of the core,
`hw` its strand slot. `skip` is the address after the instruction it waits at; `blocked` names the request an issued
instruction goes on with (R413); `fencei` bounds the accesses that lie before its last FENCEI (R292); `safe` says that the strand stands at a safe
point that is no wait, with `live` its live registers: right after a SAFE (R43), or where a resume has started it (R153); `stopAs` is the code with
which it stops there (R144). -/
structure Strand where
  sid : Nat
  mode : Mode
  core : Nat
  slot : Nat
  hw : Nat
  troupe : Nat
  pc : Word
  x : Vector Word 32
  v : Vector VReg 32
  p : Vector Quad 8
  k : Vector Quad 16
  xfull : Quad
  vfull : Quad
  sr : SRegs
  tx : Tx
  wait : Option Wait
  skip : Word
  blocked : Option Nat
  stalled : Bool
  yield : Bool
  pend : List Trap
  cancelDue : Bool
  cancelTaken : Bool
  stopDue : Nat
  live : Quad × Quad
  safe : Bool
  stopAs : Nat
  came : Word
  fencei : Nat
  deriving DecidableEq, Repr

/-! ### Cores -/

/-- A leased copy of a line in an L1 (R108, R109). -/
structure Lease where
  line : Nat
  wts : Nat
  rts : Nat
  data : LineData
  deriving DecidableEq, Repr

/-- Update-only lines of one deposit unit (R118, R283): accumulators by element, contributing strands,
whether they are registered at the home, and when the first deposit came. -/
structure UpdUnit where
  dep : Deposit
  sids : List Nat
  registered : Bool
  age : Nat
  deriving DecidableEq, Repr

/-- An operand ring (R69, R275): its definition, the claim count, the bound troupe, slots reserved by CPYRs with
the command that fills each and whether it is done, CPYRs that wait to reserve. -/
structure Ring where
  base : Nat
  count : Nat
  fmt : Nat
  flags : Nat
  sbase : Nat
  head : Nat
  ready : Nat
  pend : Nat
  claim : Nat
  troupe : Nat
  slots : List (Nat × Bool)
  waiting : List Nat
  deriving DecidableEq, Repr

/-- A posted-store journal entry (R55): state 0 free, 1 sent, 2 not yet sent; `sid` the issuing strand,
`refused` the reason of R372 once the target has refused it, `applied` once the target has answered, `id` its place
among the strand's accesses, `op` the page and opcode of its instruction as R364 packs them, `again` whether a resume has entered it
again from a snapshot (R147). -/
structure JEntry where
  id : Nat
  dest : Word
  data : VReg
  size : Nat
  slot : Nat
  mod : Nat
  state : Nat
  seq : Quad
  sid : Nat
  applied : Bool
  refused : Nat
  op : Word
  again : Bool
  deriving DecidableEq, Repr

/-- A panel as an MMA has read it: ring format, 2 KiB of rows, scale bytes (R70). -/
structure Panel where
  fmt : Nat
  rows : List Byte
  scales : List Byte
  deriving DecidableEq, Repr

/-- An MMA or ZSCALE issued and not yet retired (R275, R276): an MMA holds the panels it read at issue. -/
inductive ArrayOp
  | mma (sid troupe z qa qb : Nat) (a b : Panel) (keepa keepb zero started : Bool) (pc : Word)
  | zscale (sid troupe z : Nat) (rm : Rm) (sat : Bool) (lfsr : Quad) (cols : List Quad) (started : Bool) (pc : Word)
  deriving DecidableEq, Repr

/-- A message (R37, R310): its eight words, the launch and the parent troupe of a START entry (0 for none),
and the troupe index the Registrar gave a START. -/
structure Message where
  id : Nat
  core : Nat
  start : Bool
  words : List Word
  job : Nat
  launch : Word
  parent : Nat
  index : Option Nat
  sender : Nat
  deriving DecidableEq, Repr

/-- One core (R11). A core without a record has every field as `Core.fresh` gives it. `acks` holds, by request, the line as the
acknowledgement of a store carries it back (R110); `acquired` is the model's own tick at which its strands last acquired (L76). -/
structure Core where
  num : Nat
  lt : Nat
  acquired : Nat
  l1 : List Lease
  acks : List (Nat × Lease)
  upd : List UpdUnit
  rings : Vector Ring 8
  z : Vector (BitVec 131072) 2
  zholder : Vector (Option Nat) 2
  zwait : Vector (List Nat) 2
  zfreeing : Vector Bool 2
  array : List ArrayOp
  journal : List JEntry
  jseq : Quad
  replay : List JEntry
  starts : List Message
  posts : List Message
  parked : List Message
  spillMeta : List Message
  icache : List (Nat × Half)
  rr : Nat
  deriving DecidableEq, Repr

/-! ### Requests in flight -/

/-- What a split-phase request does. Element types of rows and deposits as in `Deposit`; `watch` is the access of a WAITW that registers
its tile (R94). -/
inductive ReqKind
  | load (bytes : Nat) (signed : Bool) (reg : Reg)
  | vload (reg : Reg)
  | vlane (reg : Reg) (lane bytes : Nat)
  | pref
  | store (bytes : Nat) (data : VReg)
  | atomic (op : Nat) (bytes : Nat) (signed : Bool) (a b : Word) (reg : Reg)
  | row (op : Nat) (elem : Nat) (bytes : Nat) (delta : List Byte)
  | ldrow (bytes : Nat) (stale : Bool) (lm : Nat) (data : List Byte) (left : List Nat)
  | topk (score : Quad) (expert : BitVec 16) (reg : Reg)
  | tagged (op : Nat) (data : Word) (reg : Reg)
  | watch
  | remote (bytes : Nat) (signed : Bool) (reg : Reg)
  | remoteVec (reg : Reg)
  | remRead (bytes : Nat) (signed : Bool) (reg : Reg) (vec : Bool)
  | remAmo (op : Nat) (bytes : Nat) (signed : Bool) (a b : Word) (reg : Reg)
  | divide (value : Word) (reg : Reg)
  | recv (words : List Word) (reg : Reg)
  | fill (value : Word) (reg : Reg)
  | conserv (reg : Reg)
  | fence (reg : Reg)
  deriving DecidableEq, Repr

/-- Where a request is: waiting for its home or target, queued at its tagged word, refused and backing off,
answered, or performed and on its way back. -/
inductive ReqState
  | sent
  | queued
  | refused
  | answered (value : VReg) (ok : Bool)
  | sentRemote (tag : Nat)
  | performed
  deriving DecidableEq, Repr

/-- A request of a strand (R109, R110, R116, R196, R277, R290). `addr` is physical where there is one;
`lt` and `wts` are the stamps carried; `time` is that of its first attempt (R117), `refusals` counts
refusals (R116, R117), `retryAt` is the time of the next retry, or
that of the start of its wait at a tagged word with `turn` its place among the starts (R289), `group` the first request of its
instruction. -/
structure Req where
  id : Nat
  sid : Nat
  core : Nat
  kind : ReqKind
  ptr : Word
  addr : Nat
  order : Order
  scope : Scope
  state : ReqState
  tx : Bool
  lt : Nat
  wts : Nat
  time : Option Nat
  limit : Nat
  page : Nat
  opcode : Nat
  pc : Word
  chan : Nat
  refusals : Nat
  retryAt : Nat
  turn : Nat
  group : Nat
  deriving DecidableEq, Repr

/-- An SFU request (R267): one destination register; `lfsr` is the strand's LFSR
where the register's draws begin. A served request has left the queue and its result is on its way. -/
structure SfuReq where
  id : Nat
  bay : Nat
  sid : Nat
  fn : Nat
  ty : FTy
  rm : Rm
  sat : Bool
  reg : Reg
  input : VReg
  lfsr : Quad
  served : Bool
  page : Nat
  opcode : Nat
  pc : Word
  deriving DecidableEq, Repr

/-- A move of an LM range in progress: ZLD, ZST (R271); `left` the units still to move. -/
structure Move where
  id : Nat
  sid : Nat
  core : Nat
  lm : Nat
  bytes : Nat
  z : Nat
  store : Bool
  left : List Nat
  deriving DecidableEq, Repr

/-! ### Engine commands -/

/-- The parts of an engine command (R302 to R307). -/
inductive CmdKind
  | copy (src dst : Word) (len : Nat) (rows : Nat) (sstride dstride : Word)
  | convert (dst src dscale sscale : Word) (n : Nat) (sf df : Fmt) (rm : Rm) (sat : Bool) (lfsr : Quad)
  | ring (core ring n fmt : Nat) (src scales : Word) (slots : List Nat)
  | gather (src dst : Word) (rowBytes idx count : Nat)
  | scatter (src dst : Word) (rowBytes idx count : Nat)
  | put (dst : Word) (data : List Byte)
  | flag (dst : Word) (value : Word)
  deriving DecidableEq, Repr

/-- States of a command: held by a transaction (R102), queued, waiting for ring slots, active, paused by a shootdown,
in its channel's queue, sent and waiting for LANDED, moved and ready to complete. -/
inductive CmdState
  | held | queued | reserving | active | paused | channel | sent | done
  deriving DecidableEq, Repr

/-- A translation that an engine holds for the page it works in (R61, R63), and whether it is the page of scale bytes (R304). -/
structure Xlat where
  base : Word
  len : Nat
  phys : Nat
  scale : Bool
  deriving DecidableEq, Repr

/-- Who issued a command, for the report of a job that stops when the strand has ended (R360, R378): strand slot, partition, troupe index,
launch. -/
structure Issuer where
  slot : Nat
  part : Nat
  troupe : Nat
  launch : Word
  deriving DecidableEq, Repr

/-- An engine command (R301). `pos` is the first unit of the row in hand; of that row `loaded` holds what has been read and not
yet used up, by number, nothing where the word read was poisoned, and `moved` the numbers of what has been written;
`sx` and `dx` are the pages of source and destination in hand; `bound` is the physical address of the pending word of a continuation object with the object's troupe (R146). -/
structure Cmd where
  id : Nat
  sid : Nat
  job : Nat
  core : Nat
  troupe : Nat
  kind : CmdKind
  page : Nat
  opcode : Nat
  k : Nat
  bytes : Bool
  credit : Nat
  scope : Scope
  chan : Nat
  mask : Nat
  engine : Nat
  state : CmdState
  pos : Nat
  moved : List Nat
  packets : Nat
  sx : List Xlat
  dx : List Xlat
  loaded : List (Nat × Option (List Byte))
  bound : Option (Nat × Nat)
  pc : Word
  issuer : Issuer
  deriving DecidableEq, Repr

/-! ### Troupes, launches, jobs -/

/-- Where a troupe is: `reserved` is one of a cohort whose resources are taken and whose wake has not started it (R35). -/
inductive Place
  | waiting
  | reserved
  | placed
  | ended
  | object
  | done
  deriving DecidableEq, Repr

/-- A capture (R150): the object's pointer, its kind, the suspending strand and register, the reserved serial, when it started,
when its last strand stopped, whether its completion word has been written 0, and for PREEMPT the switch time. -/
structure Capture where
  ptr : Word
  kind : Nat
  suspSid : Nat
  suspReg : Reg
  serial : Nat
  start : Nat
  allStopped : Option Nat
  zeroed : Bool
  t : Nat
  deriving DecidableEq, Repr

/-- What a waiting troupe starts with: a fresh start, or a continuation object to restore (R27, R153): its pointer, its bytes as they
were checked, the value of the RESUME, and for PREEMPT the core that held core_index 0. -/
inductive Start
  | fresh (arg : Word) (payload : List Word)
  | object (ptr : Word) (image : List Byte) (value : Option Word) (home : Option Nat)
  deriving DecidableEq, Repr

/-- A troupe with its termination record (R24, R39, R40). `uid` is the reference of the record; parent 0 is the launch root.
Its arithmetic counters and limits are shared by its strands (R209, R370). While it lies in an object, `object` is the object's
pointer, `serial` the object's serial, `sids` names its strands by strand index and
`slots` the strand slots that they had (R55), `taken` those that have taken CANCEL, `faults` holds the traps of their engine
commands (R378), and `replayed` names those whose FENCE latch a GAP has reached meanwhile (R394). -/
structure Troupe where
  uid : Nat
  job : Nat
  launch : Word
  index : Nat
  part : Nat
  parent : Nat
  children : Nat
  c : Nat
  s : Nat
  lm : Nat
  entry : Nat
  start : Start
  seed : Quad
  place : Place
  bay : Nat
  named : Option Nat
  core0 : Nat
  lmOff : Nat
  strandsLeft : Nat
  arith : Vector Quad 5
  alimit : Vector Quad 5
  capture : Option Capture
  object : Word
  serial : Nat
  sids : List Nat
  slots : List Nat
  taken : List Nat
  faults : List (Nat × Trap)
  replayed : List Nat
  deriving DecidableEq, Repr

/-- A template (R161). -/
structure Template where
  entry : Nat
  c : Nat
  s : Nat
  lm : Nat
  deriving DecidableEq, Repr

/-- An admitted launch (R163). `shares` gives (bay, first index, share); `wakePending` and `cancelPending` the bays that the wake and
the cancel broadcast reach next, `cancelReached` those it has reached; `ran` the bays that held its troupes. -/
structure Launch where
  ident : Word
  job : Nat
  part : Nat
  entry : Nat
  c : Nat
  s : Nat
  lm : Nat
  arg : Word
  seed : Quad
  scope : Scope
  signal : Option Nat
  cohort : Bool
  system : Bool
  setMask : BitVec 256
  templates : List Template
  rootCount : Nat
  nextIndex : Nat
  shares : List (Nat × Nat × Nat)
  wakePending : List Nat
  ran : List Nat
  cancelBit : Bool
  cancelPending : List Nat
  cancelReached : List Nat
  complete : Bool
  deriving DecidableEq, Repr

/-- A record taken from a queue (R161, R166, R168): its 64 bytes, the wait slots met, resident time gathered. -/
structure Record where
  queue : Nat
  recno : Nat
  job : Nat
  words : List Word
  met : List Bool
  prio : Nat
  waited : Nat
  since : Option Nat
  deriving DecidableEq, Repr

/-- States of a partition (R177). -/
inductive PartState
  | unused | resident | out | switching
  deriving DecidableEq, Repr

/-- A partition of a job (R177). -/
structure Part where
  bays : BitVec 80
  state : PartState
  preArea : Word
  preSize : Nat
  preNext : Nat
  objects : List (Nat × Word × Bool)
  deriving DecidableEq, Repr

/-- A job (R41, R353). `sealDraw` is the number of the draw of its seal key, `allotment` the free 64 KiB frames of its depot allotment,
`tableArea` the place of its lower page tables, 4 KiB each, `tableRoom` how many there is room for and `tables` how many stand there (L9);
`memory` the ranges of the depot that are the job's own and `pages` those that it was created with mapped; `overflow` holds the records that wait for a full queue: the
queue, the place in the launch overflow area, the record (R314). -/
structure Job where
  num : Nat
  parts : Vector Part 8
  codeBase : Word
  codeLimit : Word
  tvec : Word
  ptBase : Nat
  allotment : List Nat
  tableArea : Nat
  tableRoom : Nat
  tables : Nat
  memory : List (Nat × Nat)
  pages : List (Nat × Nat)
  windows : List GalWindow
  remotes : List RemWindow
  creg : Word
  log2n : Nat
  serial : Nat
  sealDraw : Nat
  evtab : Word
  spillTable : Word
  spillPool : List Word
  waitOverflow : Nat
  waitArea : Nat
  launchOverflow : Nat
  launchArea : Nat
  overflow : List (Nat × Nat × List Word)
  matchFirst : Nat
  matchCount : Nat
  matchArea : Word
  accepts : List Nat
  measure : BitVec 256
  stale : Vector Word 8
  admissions : Nat
  stopped : Bool
  stopReported : Bool
  deriving DecidableEq, Repr

/-! ### Registrar -/

/-- A wait-list entry (R169): event, launch slot or EVWAIT, target, whom it serves, whether in hardware, whether it is to be tested after a
change of its event, and its place in the overflow area. -/
structure WaitEntry where
  id : Nat
  job : Nat
  event : Nat
  target : Quad
  slot : Option (Nat × Nat × Nat)
  sid : Nat
  hardware : Bool
  changed : Bool
  place : Nat
  deriving DecidableEq, Repr

/-- A request on its way to the Registrar or the hub: SPAWN, SEND.START, EVSIG, LAUNCH completions (R36, R297, R313). -/
inductive RegReq
  | spawn (troupe : Nat) (tmpl : Nat) (named : Option Nat) (arg : Word) (sid : Nat)
  | sendStart (troupe : Nat) (msg : Nat) (sid : Nat)
  | event (job : Nat) (event : Nat) (amount : Quad) (sid : Nat) (core : Nat) (launch : Option Word)
  deriving DecidableEq, Repr

/-- Work on a continuation object (R153, R155, R156, R158): the issuing strand and its register. -/
structure ContReq where
  id : Nat
  kind : Nat
  sid : Nat
  troupe : Nat
  job : Nat
  obj : Word
  reg : Reg
  value : Word
  dest : Word
  rights : Nat
  target : Nat
  any : Bool
  bay : Nat
  deriving DecidableEq, Repr

/-- A switch (R178, R44). Phase 0 announced, 1 stopping, 2 forced, 3 complete. -/
structure Switch where
  id : Nat
  outJob : Nat
  outPart : Nat
  inJob : Nat
  inPart : Nat
  t : Nat
  phase : Nat
  deriving DecidableEq, Repr

/-- A shootdown (R62): range, the agents that have not answered (bays 0 to 79, engines 80 to 103, hub 104),
the strand and register of TLBINV, pages to return, whether it is an UNMAP's, whether an agent was fenced; `drops` gives what each agent
has dropped: the agent, the number that no access before it reaches, a range of depot offsets. -/
structure Shoot where
  id : Nat
  job : Nat
  start : Nat
  len : Nat
  waiting : List Nat
  sid : Nat
  reg : Reg
  free : List Nat
  call : Bool
  fenced : Bool
  time : Nat
  drops : List (Nat × Nat × Nat × Nat)
  deriving DecidableEq, Repr

/-- A measurement on its way (R325). -/
structure MeasReq where
  id : Nat
  job : Nat
  sid : Nat
  ptr : Word
  len : Nat
  reg : Reg
  deriving DecidableEq, Repr

/-- A translation-cache entry (R61): unit 0 to 79 a bay, 104 the hub; tagged with the job. -/
structure TlbEntry where
  unit : Nat
  job : Nat
  space : Nat
  die : Nat
  base : Nat
  len : Nat
  phys : Nat
  r : Bool
  w : Bool
  x : Bool
  deriving DecidableEq, Repr

/-- The Registrar (09, 02). `heads` gives the records taken of each queue, `reserved` the cohort that a partition is held back for
(R174): job, partition, queue, record number. -/
structure Registrar where
  queues : List QueueDesc
  heads : List (Nat × Nat)
  records : List Record
  lastServed : Vector Nat 8
  lastAdmit : Option Nat
  waits : List WaitEntry
  vector : BitVec 256
  requests : List (Nat × RegReq)
  messages : List Message
  conts : List ContReq
  switches : List Switch
  shoots : List Shoot
  measures : List MeasReq
  reserved : List (Nat × Nat × Nat × Nat)
  deriving DecidableEq, Repr

/-! ### Hub -/

/-- A replay-journal record (R195) with the strand whose FLAGR or write it is, its command, whether that is a plain store to REM, whether
it sends vector registers, and its channel's ring place. -/
structure JRec where
  seq : Quad
  flagno : Quad
  flag : Bool
  mask : Nat
  offset : Word
  value : Word
  payload : List Byte
  place : Nat
  size : Nat
  cmd : Nat
  sid : Nat
  plain : Bool
  vector : Bool
  deriving DecidableEq, Repr

/-- A send channel (R185) with its queue of commands, its rounds (R389), the strands that have sent on it, the strands
told of its break and the side that broke it (R392). -/
structure SendChan where
  num : Nat
  job : Nat
  peer : BitVec 12
  peerAcc : BitVec 12
  state : Nat
  flagsOut : Nat
  nextSeq : Quad
  landed : Quad
  nextFlag : Quad
  gapUs : Nat
  jbase : Word
  jsize : Nat
  jhead : Nat
  jtail : Nat
  queue : List Nat
  journal : List JRec
  progress : Nat
  rounds : Nat
  users : List Nat
  told : List Nat
  side : Nat
  deriving DecidableEq, Repr

/-- A held flag (R192): whether it lies in the hub's table, else its place in the overflow area. -/
structure HeldFlag where
  chan : Nat
  flagno : Quad
  through : Quad
  offset : Word
  value : Word
  hardware : Bool
  place : Nat
  deriving DecidableEq, Repr

/-- A WRITE that has arrived and whose copies are being performed (R189, R190): the units still to write, each a physical
address, an offset in the payload and a length; `id` is its place among the machine's accesses (R62). -/
structure Landing where
  chan : Nat
  seq : Quad
  left : List (Nat × Nat × Nat)
  payload : List Byte
  id : Nat
  deriving DecidableEq, Repr

/-- An accession channel (R186, R386). `bits` holds bit q mod 2,048; `failed` is the status of R377; `lastLanded` and `lastGap`
are the times of the last LANDED, if one was sent, and of the last GAP of round 9. -/
structure AccChan where
  num : Nat
  job : Nat
  peer : BitVec 12
  peerSend : BitVec 12
  state : Nat
  lwm : Quad
  nextFlag : Quad
  held : Nat
  since : Quad
  bits : BitVec 2048
  gapUs : Nat
  gapStart : Nat
  round : Nat
  lastLanded : Option Nat
  lastGap : Nat
  failed : Nat
  deriving DecidableEq, Repr

/-- The Span side of the hub (10, 21). `own` is the package identifier; `drops` the port and time of each packet dropped for its
check; `tags` the tags in use, each with its generation and request; `gens` the generations; `outbox` the packets sent;
`flagArea` the depot address of the flag overflow area (R192). -/
structure Hub where
  own : BitVec 12
  routes : List (BitVec 12 × BitVec 36)
  removed : BitVec 36
  drops : List (Nat × Nat)
  sends : List SendChan
  accs : List AccChan
  flags : List HeldFlag
  landings : List Landing
  tags : List (Nat × Nat × Nat)
  gens : List (Nat × Nat)
  outbox : List Packet
  counts : List (Nat × Nat)
  flagArea : Nat
  deriving DecidableEq, Repr

/-! ### Coherence -/

/-- Sharing states of a line at its home (R114). -/
inductive Share
  | i | s | e | m | o
  deriving DecidableEq, Repr

/-- A line's record at its home (R108, R114, R116): stamps, sharing state, proxies (4-bit mask), owner die,
U mask, cores with deposits, answers awaited (L34) and since when, starving requesters and reservation. The stamps count while the
home slice holds the line (`cached`); of a line that it does not hold they are its floor (R111). `stale` is the home copy
while a proxy holds a newer one, whose first store got the stamp `staleWts` at the model's own tick `staleAt` (L76). -/
structure Line where
  line : Nat
  cached : Bool
  wts : Nat
  rts : Nat
  share : Share
  proxies : BitVec 4
  owner : Nat
  umask : BitVec 4
  cores : List Nat
  awaiting : List Nat
  askedAt : Nat
  starving : List (Nat × Nat)
  reserved : Option Nat
  reservedAt : Nat
  stale : Option LineData
  staleWts : Nat
  staleAt : Nat
  deriving DecidableEq, Repr

/-- A proxy's stamps of a line (R113). -/
structure Proxy where
  line : Nat
  die : Nat
  wts : Nat
  rts : Nat
  deriving DecidableEq, Repr

/-- The coherence machinery (06). `mts` holds floors by (die, slice); `rehomed` slices moved by a fence. -/
structure Coherence where
  lines : List Line
  proxies : List Proxy
  mts : List (Nat × Nat × Nat)
  rebasing : Bool
  rehomed : List (Nat × Nat × Nat)
  deriving DecidableEq, Repr

/-! ### Conservator -/

/-- An RDMA region (R351): rkey or handle, a range of a job or of the host. -/
structure Region where
  key : Nat
  host : Bool
  job : Nat
  ptr : Word
  len : Nat
  r : Bool
  w : Bool
  deriving DecidableEq, Repr

/-- A measurement-log entry (R350). -/
structure LogEntry where
  kind : Nat
  index : Nat
  digest : BitVec 256
  deriving DecidableEq, Repr

/-- What the conservator sends to the host: replies (R351, R403), fault reports (R360), memory reports (R385),
fabric reports (R401), RDMA answers and the attestation reply (R352). -/
inductive Sent
  | reply (code status value : Nat)
  | attest (status : Nat) (entries : List LogEntry) (j : Option (BitVec 256)) (sig : BitVec 3072) (certificate : List Byte)
  | fault (job part slot core flags troupe : Nat) (launch cause epc c0 c1 c2 c3 : Word) (time : Nat)
  | memory (kind store job site incarnation transients : Nat) (address : Word) (time : Nat)
  | fabric (kind detail job site peer count : Nat) (value : Word) (time : Nat)
  | rdmaAck (rkey : Nat)
  | rdmaData (rkey : Nat) (bytes : List Byte)
  | rdmaNak (rkey : Nat)
  deriving DecidableEq, Repr

/-- Bay power states (R354). -/
inductive BayPower
  | active | waking | gated
  deriving DecidableEq, Repr

/-- A bay's record: power, last work, whether fenced, nanoseconds spent gated and since when. -/
structure Bay where
  num : Nat
  power : BayPower
  idleSince : Nat
  fenced : Bool
  gatedNs : Nat
  gatedAt : Nat
  deriving DecidableEq, Repr

/-- The conservator and the module's signals (18, 20, 21); `refclkA` and `refclkB`: the reference clocks are stable; `fencedEngines`: the
copy engines taken out of service (R379). -/
structure Mgmt where
  powered : Bool
  refclkA : Bool
  refclkB : Bool
  inReset : Bool
  boot : Nat
  identDone : Bool
  flash : List Byte
  log : List LogEntry
  regions : List Region
  bays : List Bay
  fencedEngines : List Nat
  incarnation : Vector Nat 5
  transients : List (Nat × Nat × Nat)
  hubError : Bool
  draws : Nat
  sent : List Sent
  deriving DecidableEq, Repr

/-! ### The machine -/

/-- An entry of the agenda: a step of the device or the host with what it arrives with. -/
structure Happening where
  step : Instr
  arg : StepArg
  deriving DecidableEq, Repr

/-- The whole machine. `mem` holds bytes by physical address in canonical form: a space in bits [63:60], a core or die
in bits [59:48], an offset below; an unlisted byte reads as 0. `empties` lists the words whose tag is empty and
`poison` the poisoned words, both rising. The fields from `ir` to `tried` are the model's own (INVENTORY.md): `tried` names the strand that its core
let issue last, by core, strand slot and number, until the round-robin pointer has moved for it (R22). -/
structure State where
  cur : Strand
  rest : List Strand
  mem : List Host.Cell
  empties : List Nat
  poison : List Nat
  cores : List Core
  troupes : List Troupe
  launches : List Launch
  jobs : List Job
  tlb : List TlbEntry
  reqs : List Req
  sfu : List SfuReq
  moves : List Move
  cmds : List Cmd
  reg : Registrar
  hub : Hub
  coh : Coherence
  mgmt : Mgmt
  now : Nat
  ir : List Half
  arg : StepArg
  agenda : List Happening
  ticks : Nat
  nextId : Nat
  tried : Option (Nat × Nat × Nat)
  deriving DecidableEq, Repr

/-- Why the machine cannot take a step at all. Raised by `step` alone, never by an instruction. -/
inductive Fault
  /-- Raised by `step`: VIN is absent and no step is on the agenda (R348, R349). Safe: nothing runs without power. -/
  | noPower
  /-- Raised by `step`: RSTN is low and no step is on the agenda (R349). Safe: nothing runs in reset. -/
  | heldInReset
  /-- Raised by `step`: the boot failed, the module waits for RSTN and no step is on the agenda (R402).
  Safe: nothing runs past a failed check. -/
  | bootFailed
  deriving DecidableEq, Repr

/-- Why an instruction has no meaning. -/
inductive Refusal
  /-- Raised by an arm of `exec` whose instruction is not modelled yet. Safe: the model stops. -/
  | notModelled (mnemonic : String)
  deriving DecidableEq, Repr

/-- The outcome of a step. -/
abbrev Out (σ : Type) := Host.Outcome σ Fault Refusal

/-! ### Reset -/

def SRegs.reset : SRegs :=
  { strand := 0, chan := 0, round := 0, seed := 0, lfsr := 1, xage := 0, fewait := 0, cause := 0, epc := 0,
    c0 := 0, c1 := 0, c2 := 0, c3 := 0, fstat := 0 }

def Tx.none : Tx :=
  { depth := 0, handler := 0, ckpt := Option.none, tiles := [], spec := [], comm := [], committing := false,
    doomed := Option.none, status := 0 }

/-- A strand with every register 0 and full (L6). -/
def Strand.blank : Strand :=
  { sid := 0, mode := .vacant, core := 0, slot := 0, hw := 0, troupe := 0, pc := 0,
    x := Vector.replicate 32 0, v := Vector.replicate 32 0, p := Vector.replicate 8 0, k := Vector.replicate 16 0,
    xfull := BitVec.allOnes 32, vfull := BitVec.allOnes 32, sr := SRegs.reset, tx := Tx.none, wait := none,
    skip := 0, blocked := none, stalled := false, yield := false, pend := [], cancelDue := false, cancelTaken := false,
    stopDue := 0, live := (BitVec.allOnes 32, BitVec.allOnes 32), safe := false, stopAs := 0, came := 0, fencei := 0 }

/-- The bytes of the flag overflow area, and where the conservator reserves it at bring-up: at the end of the depot (R192; DESIGN CHOICE,
L54). -/
def flagAreaBytes : Nat := 2 ^ 21
def flagAreaBase : Nat := 2 ^ 41 - 2 ^ 21

/-- An unbound ring (R69). -/
def Ring.unbound : Ring :=
  { base := 0, count := 0, fmt := 0, flags := 0, sbase := 0, head := 0, ready := 0, pend := 0, claim := 0,
    troupe := 0, slots := [], waiting := [] }

/-- A core as it stands after reset. -/
def Core.fresh (n : Nat) : Core :=
  { num := n, lt := 0, acquired := 0, l1 := [], acks := [], upd := [], rings := Vector.replicate 8 Ring.unbound, z := Vector.replicate 2 0,
    zholder := Vector.replicate 2 none, zwait := Vector.replicate 2 [], zfreeing := Vector.replicate 2 false,
    array := [], journal := [], jseq := 0, replay := [], starts := [], posts := [], parked := [], spillMeta := [],
    icache := [], rr := 0 }

/-- The Registrar at reset: queue 0 comes first at every level (L25). -/
def Registrar.reset : Registrar :=
  { queues := [], heads := [], records := [], lastServed := Vector.replicate 8 255, lastAdmit := none, waits := [],
    vector := 0, requests := [], messages := [], conts := [], switches := [], shoots := [],
    measures := [], reserved := [] }

/-- The hub before IDENT (L26). -/
def Hub.reset : Hub :=
  { own := 0, routes := [], removed := 0, drops := [], sends := [], accs := [], flags := [], landings := [],
    tags := [], gens := [], outbox := [], counts := [], flagArea := flagAreaBase }

def Coherence.reset : Coherence :=
  { lines := [], proxies := [], mts := [], rebasing := false, rehomed := [] }

def Mgmt.reset : Mgmt :=
  { powered := true, refclkA := true, refclkB := true, inReset := false, boot := 1, identDone := false, flash := [], log := [], regions := [],
    bays := [], fencedEngines := [], incarnation := Vector.replicate 5 1, transients := [], hubError := false, draws := 0, sent := [] }

/-- The machine right after reset: bring-up has ended with step 7 of R349, no job exists and no strand runs (L4, L6). -/
def State.reset : State :=
  { cur := Strand.blank, rest := [], mem := [], empties := [], poison := [], cores := [], troupes := [],
    launches := [], jobs := [], tlb := [], reqs := [], sfu := [], moves := [], cmds := [], reg := Registrar.reset,
    hub := Hub.reset, coh := Coherence.reset, mgmt := Mgmt.reset, now := 0, ir := [], arg := {}, agenda := [],
    ticks := 0, nextId := 1, tried := none }

end Sys2Proof.Machine
end

