-- ==== Sys2Proof/Machine/Memory.lean ====
section
/-! DEFINITION. The bytes, tags and poison of local memory, gallery, depot and host regions (spec/03 R49, R51, R58, R59, R66;
spec/00 R4; spec/20 R381). A physical address is a number laid out like a pointer: the space in bits [63:60], a core, die
or region in bits [59:48], an offset below. Every byte of the address space that is not listed reads as 0 (R349; L5). -/

namespace Sys2Proof.Machine

/-- A byte memory: address and byte, addresses rising, no byte 0. -/
abbrev Memory := List Host.Cell

/-- The canonical form: addresses strictly rise and no entry holds what an unlisted address reads as. -/
def Memory.wf : Memory → Bool
  | [] => true
  | [(_, b)] => b != 0
  | (a, b) :: (a', b') :: r => b != 0 && decide (a < a') && Memory.wf ((a', b') :: r)

/-- What a byte reads as: an unlisted one reads 0 (R349; L5). -/
def Memory.get : Memory → Nat → Byte
  | [], _ => 0
  | (a', b') :: r, a => if a = a' then b' else Memory.get r a

/-- Write one byte, keeping the canonical form. -/
def Memory.set : Memory → Nat → Byte → Memory
  | [], a, b => if b = 0 then [] else [(a, b)]
  | (a', b') :: r, a, b =>
    if a < a' then (if b = 0 then (a', b') :: r else (a, b) :: (a', b') :: r)
    else if a = a' then (if b = 0 then r else (a, b) :: r)
    else (a', b') :: Memory.set r a b

/-- `n` bytes from an address, lowest first. -/
def Memory.bytes (m : Memory) (a : Nat) : Nat → List Byte
  | 0 => []
  | n + 1 => m.get a :: Memory.bytes m (a + 1) n

/-- Write bytes from an address on, lowest first. -/
def Memory.setBytes (m : Memory) (a : Nat) : List Byte → Memory
  | [] => m
  | b :: bs => Memory.setBytes (m.set a b) (a + 1) bs

/-- The number that bytes stand for, least significant first (R4). -/
def leNat : List Byte → Nat
  | [] => 0
  | b :: bs => b.toNat + 256 * leNat bs

/-- The `n` low bytes of a number, least significant first (R4). -/
def natBytes : Nat → Nat → List Byte
  | 0, _ => []
  | n + 1, v => BitVec.ofNat 8 v :: natBytes n (v / 256)

/-- A little-endian value of `n` bytes (R4). -/
def Memory.readN (m : Memory) (a n : Nat) : Nat := leNat (m.bytes a n)

/-- Write the `n` low bytes of a value, little-endian (R4). -/
def Memory.writeN (m : Memory) (a n v : Nat) : Memory := m.setBytes a (natBytes n v)

/-- Every byte from `lo` to below `hi` becomes 0. -/
def Memory.clear (m : Memory) (lo hi : Nat) : Memory := m.filter (fun c => decide (c.1 < lo) || decide (hi ≤ c.1))

/-! ### Sets of words, as rising lists -/

/-- Put a number into a rising list. -/
def insertNat : List Nat → Nat → List Nat
  | [], a => [a]
  | b :: r, a => if a < b then a :: b :: r else if a = b then b :: r else b :: insertNat r a

/-- Take a number out. -/
def eraseNat (l : List Nat) (a : Nat) : List Nat := l.filter (· != a)

/-- Take a range out. -/
def eraseRange (l : List Nat) (lo hi : Nat) : List Nat := l.filter (fun a => decide (a < lo) || decide (hi ≤ a))

/-! ### Physical addresses -/

/-- A physical address of a space, a core, die or region, and an offset. -/
def physAddr (space unit off : Nat) : Nat := space * 2 ^ 60 + unit * 2 ^ 48 + off

def lmAddr (core off : Nat) : Nat := physAddr 1 core off
def galAddr (die off : Nat) : Nat := physAddr 2 die off
def depAddr (off : Nat) : Nat := physAddr 3 0 off
def hstAddr (region off : Nat) : Nat := physAddr 5 region off

/-- Fields of a physical address. -/
def addrSpace (a : Nat) : Nat := a / 2 ^ 60
def addrUnit (a : Nat) : Nat := a / 2 ^ 48 % 2 ^ 12
def addrOff (a : Nat) : Nat := a % 2 ^ 48

/-- The aligned word, 128-byte line and 2 KiB tile of an address (R74, R56, R67). -/
def wordOf (a : Nat) : Nat := a / 8 * 8
def lineOf (a : Nat) : Nat := a / 128
def tileOf (a : Nat) : Nat := a / 2048

/-- The die that is home to a physical address (R12, R57): depot bits [40:39], the gallery's own die. -/
def homeDie (a : Nat) : Nat := if addrSpace a = 3 then addrOff a / 2 ^ 39 % 4 else addrUnit a

/-- Whether words of a space carry a full/empty tag (R66). -/
def tagged (a : Nat) : Bool := addrSpace a == 1 || addrSpace a == 2

/-! ### Cores, bays, dies (R10) -/

def bayOfCore (core : Nat) : Nat := core / 8
def dieOfCore (core : Nat) : Nat := core / 160
def dieOfBay (bay : Nat) : Nat := bay / 20

/-! ### Bytes of the machine -/

/-- `n` bytes as a number (R4). -/
def State.readN (s : State) (a n : Nat) : Nat := Memory.readN s.mem a n

/-- One aligned word. -/
def State.word (s : State) (a : Nat) : Word := BitVec.ofNat 64 (Memory.readN s.mem a 8)

/-- The data of a 128-byte line as it now stands. -/
def State.lineData (s : State) (ln : Nat) : LineData := BitVec.ofNat 1024 (Memory.readN s.mem (ln * 128) 128)

/-- Whether an aligned word is poisoned (R381). -/
def State.isPoison (s : State) (a : Nat) : Bool := s.poison.contains (wordOf a)

/-- The aligned words that `n` bytes at an address touch. -/
def wordsOf (a n : Nat) : List Nat :=
  if n = 0 then [] else (List.range ((a + n - 1) / 8 - a / 8 + 1)).map (fun i => (a / 8 + i) * 8)

/-- Whether any of the words touched is poisoned. -/
def State.anyPoison (s : State) (a n : Nat) : Bool := (wordsOf a n).any s.isPoison

/-- The tag of a word: true for full (R66). -/
def State.tagFull (s : State) (a : Nat) : Bool := !s.empties.contains (wordOf a)

/-- Set a word's tag. -/
def State.setTag (s : State) (a : Nat) (full : Bool) : State :=
  { s with empties := if full then eraseNat s.empties (wordOf a) else insertNat s.empties (wordOf a) }

/-- Bytes written with no look at poison or tags. -/
def State.poke (s : State) (a : Nat) (bs : List Byte) : State := { s with mem := Memory.setBytes s.mem a bs }

/-- Poison a word (R381). -/
def State.poisonWord (s : State) (a : Nat) : State := { s with poison := insertNat s.poison (wordOf a) }

/-- A whole-word write clears the poison and makes the tag of an LM or gallery word full (R381). -/
def State.unpoison (s : State) (a : Nat) : State :=
  { s with poison := eraseNat s.poison (wordOf a), empties := eraseNat s.empties (wordOf a) }

/-- Zero a range and set its tags full (R52, R58, R66). -/
def State.zeroRange (s : State) (lo hi : Nat) : State :=
  { s with mem := Memory.clear s.mem lo hi, empties := eraseRange s.empties lo hi, poison := eraseRange s.poison lo hi }

/-- The words of a list of bytes, eight at a time. -/
def wordsOfBytes : List Byte → List Word
  | a :: b :: c :: d :: e :: f :: g :: h :: r => BitVec.ofNat 64 (leNat [a, b, c, d, e, f, g, h]) :: wordsOfBytes r
  | _ => []

/-- The bytes of words, each little-endian. -/
def bytesOfWords (ws : List Word) : List Byte := (ws.map (fun w => natBytes 8 w.toNat)).flatten

/-- Read a field of n bytes at an offset of a list of bytes. -/
def fieldAt (bs : List Byte) (off n : Nat) : Nat := leNat ((bs.drop off).take n)

/-- Put n bytes of a value at an offset of a list of bytes. -/
def putField (bs : List Byte) (off n v : Nat) : List Byte := bs.take off ++ natBytes n v ++ bs.drop (off + n)

/-- n zero bytes. -/
def zeros (n : Nat) : List Byte := List.replicate n 0

end Sys2Proof.Machine
end

