-- ==== Sys2Proof/Machine/Numbers.lean ====
section
/-! DEFINITION. Number formats and arithmetic (spec/07 R124 to R137): exact values, rounding, conversion, MX blocks,
the matrix rule. Values are exact dyadic numbers; a mark says that a quotient or root lies just above its digits. -/

namespace Sys2Proof.Machine

/-! ### Formats (R124, R125) -/

/-- A floating-point format: exponent and fraction width, bias, whether it has infinities, whether it has NaNs. -/
structure FF where
  eb : Nat
  fb : Nat
  bias : Nat
  hasInf : Bool
  hasNan : Bool
  deriving DecidableEq, Repr

def ffF32 : FF := ⟨8, 23, 127, true, true⟩
def ffF16 : FF := ⟨5, 10, 15, true, true⟩
def ffBf16 : FF := ⟨8, 7, 127, true, true⟩
def ffE4m3 : FF := ⟨4, 3, 7, false, true⟩
def ffE5m2 : FF := ⟨5, 2, 15, true, true⟩
def ffE2m1 : FF := ⟨2, 1, 1, false, false⟩

def FF.width (f : FF) : Nat := 1 + f.eb + f.fb

/-- The format of a class F type. -/
def ftyFF : FTy → FF
  | .f32 => ffF32 | .f16 => ffF16 | .bf16 => ffBf16

/-- The floating format of a format code; none for integers (R259). MX formats give their element's (R126). -/
def fmtFF : Fmt → Option FF
  | .f32 => some ffF32 | .f16 => some ffF16 | .bf16 => some ffBf16
  | .e4m3 | .mxe4m3 => some ffE4m3 | .e5m2 | .mxe5m2 => some ffE5m2 | .e2m1 | .mxe2m1 => some ffE2m1
  | .s8 | .s16 | .s32 | .s64 | .n8 | .n16 | .n32 | .n64 => none

/-- Signedness of an integer format (R127). -/
def fmtSigned : Fmt → Bool
  | .s8 | .s16 | .s32 | .s64 => true
  | _ => false

/-- A value: NaN, an infinity, or (−1)^neg × m × 2^e. -/
inductive Num
  | nan
  | inf (neg : Bool)
  | fin (neg : Bool) (m : Nat) (e : Int)
  deriving DecidableEq, Repr

/-- The canonical NaN of a format (R125). -/
def FF.nanBits (f : FF) : Nat :=
  if f = ffE4m3 then 0x7F else (2 ^ f.eb - 1) * 2 ^ f.fb + 2 ^ (f.fb - 1)

/-- The value of a bit pattern (R124, R125). -/
def FF.decode (f : FF) (b : Nat) : Num :=
  let frac := b % 2 ^ f.fb
  let ex := b / 2 ^ f.fb % 2 ^ f.eb
  let neg := b / 2 ^ (f.eb + f.fb) % 2 == 1
  if f.hasInf && ex == 2 ^ f.eb - 1 then (if frac = 0 then .inf neg else .nan)
  else if f.hasNan && !f.hasInf && ex == 2 ^ f.eb - 1 && frac == 2 ^ f.fb - 1 then .nan
  else if ex = 0 then .fin neg frac (1 - f.bias - f.fb)
  else .fin neg (2 ^ f.fb + frac) (ex - f.bias - f.fb)

/-- The largest finite magnitude: significand and exponent (R124). -/
def FF.largest (f : FF) : Nat × Int :=
  if f.hasInf then (2 ^ (f.fb + 1) - 1, (2 ^ f.eb - 2 : Int) - f.bias - f.fb)
  else if f.hasNan then (2 ^ (f.fb + 1) - 2, (2 ^ f.eb - 1 : Int) - f.bias - f.fb)
  else (2 ^ (f.fb + 1) - 1, (2 ^ f.eb - 1 : Int) - f.bias - f.fb)

/-- The pattern of a value on the grid of a format. Infinities of a format without them follow R129. -/
def FF.encode (f : FF) (v : Num) : Nat :=
  let sgn (neg : Bool) : Nat := if neg then 2 ^ (f.eb + f.fb) else 0
  match v with
  | .nan => if f.hasNan then f.nanBits else 0
  | .inf neg =>
    if f.hasInf then sgn neg + (2 ^ f.eb - 1) * 2 ^ f.fb
    else if f.hasNan then f.nanBits
    else sgn neg + (2 ^ (f.eb + f.fb) - 1)
  | .fin neg m e =>
    if m = 0 then sgn neg
    else
      let lg : Int := Nat.log2 m + e
      let q : Int := max lg (1 - f.bias) - f.fb
      let n : Nat := if q ≤ e then m * 2 ^ (e - q).toNat else m / 2 ^ (q - e).toNat
      if lg < 1 - f.bias then sgn neg + n
      else sgn neg + (lg + f.bias).toNat * 2 ^ f.fb + (n - 2 ^ f.fb)

/-! ### Exact values and rounding (R128 to R130) -/

/-- An exact magnitude: m × 2^e, and with `more` something strictly between that and (m + 1) × 2^e. -/
structure Ex where
  neg : Bool
  m : Nat
  e : Int
  more : Bool
  deriving DecidableEq, Repr

/-- An exact result before rounding: NaN, an infinity or an exact value. -/
inductive Exact
  | nan
  | inf (neg : Bool)
  | ex (x : Ex)
  deriving DecidableEq, Repr

/-- A value as an exact result. -/
def Num.exact : Num → Exact
  | .nan => .nan
  | .inf n => .inf n
  | .fin n m e => .ex ⟨n, m, e, false⟩

/-- floor(log2) of a magnitude. -/
def Ex.lg (x : Ex) : Int := Nat.log2 x.m + x.e

/-- Exponent of the spacing of a format's grid at a magnitude (R129). -/
def FF.spacing (f : FF) (x : Ex) : Int := (if x.m = 0 then 1 - (f.bias : Int) else max x.lg (1 - f.bias)) - f.fb

/-- One step of the LFSR with polynomial x^32 + x^22 + x^2 + x + 1 (R130). -/
def lfsrStep (s : Quad) : Quad :=
  (s <<< 1) ||| ((s >>> 31 ^^^ s >>> 21 ^^^ s >>> 1 ^^^ s) &&& 1)

/-- The magnitude, in units of 2^q, that a mode rounds an exact magnitude to (R128, R130).
`r` and `d` are the random bits and their count for sr. -/
def roundUnits (x : Ex) (q : Int) (rm : Rm) (d : Nat) (s : Quad) : Nat :=
  if q ≤ x.e then x.m * 2 ^ (x.e - q).toNat
  else
    let sh := (q - x.e).toNat
    let hi := x.m / 2 ^ sh
    let lo := x.m % 2 ^ sh
    let half := 2 ^ (sh - 1)
    match rm with
    | .rne | .dyn =>
      if lo > half ∨ (lo = half ∧ (x.more ∨ hi % 2 = 1)) then hi + 1 else hi
    | .rtz => hi
    | .rdn => if x.neg ∧ (lo ≠ 0 ∨ x.more) then hi + 1 else hi
    | .rup => if ¬ x.neg ∧ (lo ≠ 0 ∨ x.more) then hi + 1 else hi
    | .sr => (x.m * 2 ^ d + s.toNat % 2 ^ d * 2 ^ sh) / 2 ^ (sh + d)

/-- The value an exact value rounds to before saturation: on the grid, the largest finite, or an infinity (R129). -/
def FF.roundNum (f : FF) (x : Ex) (rm : Rm) (d : Nat) (s : Quad) : Num :=
  let q := f.spacing x
  let n := roundUnits x q rm d s
  let (lm, le) := f.largest
  let tooBig : Bool := decide (q + Nat.log2 n > le + Nat.log2 lm) ||
    (decide (q + Nat.log2 n = le + Nat.log2 lm) &&
      (if q ≤ le then decide (lm * 2 ^ (le - q).toNat < n) else decide (lm < n * 2 ^ (q - le).toNat)))
  if n ≠ 0 ∧ tooBig then
    match rm with
    | .rtz => .fin x.neg lm le
    | .rdn => if x.neg then .inf true else .fin false lm le
    | .rup => if x.neg then .fin true lm le else .inf false
    | _ => .inf x.neg
  else .fin x.neg n q

/-- A rounded result with the LFSR after it and the events of R247. -/
structure Rounded where
  bits : Nat
  lfsr : Quad
  nan : Bool
  inf : Bool
  sat : Bool
  deriving DecidableEq, Repr

/-- Round an exact result to a format (R129, R130): one draw for sr; .sat clamps infinities; NaN is canonical (R132).
`src` is none for arithmetic. For a conversion it is the least exponent a source value of that size can occupy, and d counts
every bit position from there up to the spacing, also those above a value that lies wholly below the spacing (L59: the model's
reading of R130).
`inNan` and `inInf` say whether an input is NaN or infinite. -/
def FF.finish (f : FF) (v : Exact) (rm : Rm) (sat : Bool) (lfsr : Quad) (src : Option Int) (inNan inInf : Bool) : Rounded :=
  let s := if rm = .sr then lfsrStep lfsr else lfsr
  match v with
  | .nan => ⟨f.encode .nan, s, f.hasNan && !inNan, false, false⟩
  | .inf neg =>
    let (lm, le) := f.largest
    if sat then ⟨f.encode (.fin neg lm le), s, false, false, true⟩
    else ⟨f.encode (.inf neg), s, f.hasNan && !f.hasInf, f.hasInf && !inInf, false⟩
  | .ex x =>
    let q := f.spacing x
    let d : Nat := match src with
      | none => 16
      | some lsb => min 16 (q - lsb).toNat
    match f.roundNum x rm d s with
    | .inf neg =>
      let (lm, le) := f.largest
      if sat then ⟨f.encode (.fin neg lm le), s, false, false, true⟩
      else ⟨f.encode (.inf neg), s, f.hasNan && !f.hasInf, f.hasInf && !inInf, false⟩
    | n => ⟨f.encode n, s, false, false, false⟩

/-! ### Arithmetic on values (R132) -/

def Num.isNan : Num → Bool | .nan => true | _ => false
def Num.isInf : Num → Bool | .inf _ => true | _ => false
def Num.isZero : Num → Bool | .fin _ m _ => m == 0 | _ => false
def Num.sign : Num → Bool | .nan => false | .inf n => n | .fin n _ _ => n

def Num.negate : Num → Num
  | .nan => .nan | .inf n => .inf (!n) | .fin n m e => .fin (!n) m e

/-- A signed integer over a power of two. -/
def sint (neg : Bool) (m : Nat) : Int := if neg then -(m : Int) else m

/-- The exact sum. An exact zero of operands of different signs is +0, or −0 in rdn (R132). -/
def Num.add (rdn : Bool) : Num → Num → Num
  | .nan, _ => .nan
  | _, .nan => .nan
  | .inf a, .inf b => if a = b then .inf a else .nan
  | .inf a, _ => .inf a
  | _, .inf b => .inf b
  | .fin n1 m1 e1, .fin n2 m2 e2 =>
    let e := min e1 e2
    let t := sint n1 (m1 * 2 ^ (e1 - e).toNat) + sint n2 (m2 * 2 ^ (e2 - e).toNat)
    if t = 0 then .fin (if n1 = n2 then n1 else rdn) 0 e else .fin (decide (t < 0)) t.natAbs e

/-- The exact product. -/
def Num.mul : Num → Num → Num
  | .nan, _ => .nan
  | _, .nan => .nan
  | .inf a, b => if b.isZero then .nan else .inf (a != b.sign)
  | a, .inf b => if a.isZero then .nan else .inf (a.sign != b)
  | .fin n1 m1 e1, .fin n2 m2 e2 => .fin (n1 != n2) (m1 * m2) (e1 + e2)

/-- The quotient to more digits than any format keeps, marked when it is not exact (R252). -/
def Num.div : Num → Num → Exact
  | .nan, _ => .nan
  | _, .nan => .nan
  | .inf _, .inf _ => .nan
  | .inf a, b => .inf (a != b.sign)
  | a, .inf b => .ex ⟨a.sign != b, 0, 0, false⟩
  | .fin n1 m1 e1, .fin n2 m2 e2 =>
    if m2 = 0 then (if m1 = 0 then .nan else .inf (n1 != n2))
    else
      let k : Nat := 96 + Nat.log2 m2
      .ex ⟨n1 != n2, m1 * 2 ^ k / m2, e1 - e2 - k, m1 * 2 ^ k % m2 != 0⟩

/-- The integer square root, bit by bit from bit `n`. -/
def isqrt (v : Nat) : Nat → Nat → Nat
  | 0, r => if (r + 1) * (r + 1) ≤ v then r + 1 else r
  | n + 1, r => isqrt v n (if (r + 2 ^ (n + 1)) * (r + 2 ^ (n + 1)) ≤ v then r + 2 ^ (n + 1) else r)

/-- The square root to more digits than any format keeps (R132, R252). -/
def Num.sqrt : Num → Exact
  | .nan => .nan
  | .inf n => if n then .nan else .inf false
  | .fin n m e =>
    if m = 0 then .ex ⟨n, 0, 0, false⟩
    else if n then .nan
    else
      let k : Nat := 96 + (if e % 2 = 0 then 0 else 1)
      let v := m * 2 ^ k
      let r := isqrt v (Nat.log2 v / 2 + 1) 0
      .ex ⟨false, r, (e - k) / 2, r * r != v⟩

/-- Order of two values that are not NaN, −0 below +0 (R132): less than. -/
def Num.below (a b : Num) : Bool :=
  match a, b with
  | .nan, _ => false
  | _, .nan => false
  | .inf x, .inf y => x && !y
  | .inf x, _ => x
  | _, .inf y => !y
  | .fin n1 m1 e1, .fin n2 m2 e2 =>
    let e := min e1 e2
    let x := sint n1 (m1 * 2 ^ (e1 - e).toNat)
    let y := sint n2 (m2 * 2 ^ (e2 - e).toNat)
    if x = 0 ∧ y = 0 then n1 && !n2 else decide (x < y)

/-- Numeric comparison: less than, with −0 equal to +0 (R253). -/
def Num.lt (a b : Num) : Bool := a.below b && !(a.isZero && b.isZero)

/-- Numeric equality (R253). -/
def Num.eq (a b : Num) : Bool :=
  match a, b with
  | .nan, _ => false
  | _, .nan => false
  | a, b => (!a.below b && !b.below a) || (a.isZero && b.isZero)

/-- VFMAX and VFMIN of bit patterns (R132): the operand returned, or the canonical NaN. -/
def FF.pick (f : FF) (wantMax : Bool) (a b : Nat) : Nat :=
  let x := f.decode a
  let y := f.decode b
  if x.isNan && y.isNan then f.nanBits
  else if x.isNan then b
  else if y.isNan then a
  else if wantMax then (if x.below y then b else a) else (if y.below x then b else a)

/-! ### Arithmetic operations on patterns -/

/-- Two-operand operations of R252. -/
inductive FBin | add | sub | mul | div
  deriving DecidableEq, Repr

def FF.bin (f : FF) (op : FBin) (a b : Nat) (rm : Rm) (sat : Bool) (lfsr : Quad) : Rounded :=
  let x := f.decode a
  let y := f.decode b
  let v := match op with
    | .add => (Num.add (rm = .rdn) x y).exact
    | .sub => (Num.add (rm = .rdn) x y.negate).exact
    | .mul => (x.mul y).exact
    | .div => x.div y
  f.finish v rm sat lfsr none (x.isNan || y.isNan) (x.isInf || y.isInf)

/-- a × b + c, the product or the addend negated as asked, rounded once (R252). -/
def FF.fma (f : FF) (a b c : Nat) (negP negC : Bool) (rm : Rm) (sat : Bool) (lfsr : Quad) : Rounded :=
  let x := f.decode a
  let y := f.decode b
  let z := f.decode c
  let p := if negP then (x.mul y).negate else x.mul y
  f.finish (Num.add (rm = .rdn) p (if negC then z.negate else z)).exact rm sat lfsr none
    (x.isNan || y.isNan || z.isNan) (x.isInf || y.isInf || z.isInf)

def FF.root (f : FF) (a : Nat) (rm : Rm) (sat : Bool) (lfsr : Quad) : Rounded :=
  let x := f.decode a
  f.finish x.sqrt rm sat lfsr none x.isNan x.isInf

/-- VFMIN and VFMAX with .sat, which clamps an infinity that is returned (R252). -/
def FF.pickSat (f : FF) (wantMax sat : Bool) (a b : Nat) (lfsr : Quad) : Rounded :=
  let r := f.pick wantMax a b
  match f.decode r with
  | .inf neg => if sat then ⟨f.encode (.fin neg f.largest.1 f.largest.2), lfsr, false, false, true⟩ else ⟨r, lfsr, false, false, false⟩
  | _ => ⟨r, lfsr, false, false, false⟩

/-! ### Integers (R127) -/

/-- The integer a pattern of n bits stands for. -/
def intOf (signed : Bool) (n b : Nat) : Int := if signed then (BitVec.ofNat n b).toInt else (b % 2 ^ n : Nat)

/-- The least and the greatest value of an integer format. -/
def intMin (signed : Bool) (n : Nat) : Int := if signed then -(2 ^ (n - 1) : Nat) else 0
def intMax (signed : Bool) (n : Nat) : Int := if signed then (2 ^ (n - 1) : Nat) - 1 else (2 ^ n : Nat) - 1

/-- The low n bits of an integer. -/
def wrapInt (n : Nat) (v : Int) : Nat := (v % (2 ^ n : Nat)).toNat

/-- An integer in n bits, wrapped or clamped; whether it was clamped. -/
def narrowInt (signed : Bool) (n : Nat) (sat : Bool) (v : Int) : Nat × Bool :=
  if sat ∧ v < intMin signed n then (wrapInt n (intMin signed n), true)
  else if sat ∧ v > intMax signed n then (wrapInt n (intMax signed n), true)
  else (wrapInt n v, false)

/-! ### Conversion (R131) -/

/-- The exponent of the least significant bit a source value can occupy. -/
def srcLsb (f : Fmt) (x : Num) : Int :=
  match (fmtFF f), x with
  | some ff, .fin n m e => ff.spacing ⟨n, m, e, false⟩
  | _, _ => 0

/-- Bits of an element. -/
def fmtBits : Fmt → Nat
  | .f32 => 32 | .f16 => 16 | .bf16 => 16 | .e4m3 | .mxe4m3 => 8 | .e5m2 | .mxe5m2 => 8 | .e2m1 | .mxe2m1 => 4
  | .s8 => 8 | .s16 => 16 | .s32 => 32 | .s64 => 64 | .n8 => 8 | .n16 => 16 | .n32 => 32 | .n64 => 64

/-- The value of an element. -/
def fmtValue (f : Fmt) (b : Nat) : Num :=
  match (fmtFF f) with
  | some ff => ff.decode b
  | none =>
    let v := intOf (fmtSigned f) (fmtBits f) b
    .fin (decide (v < 0)) v.natAbs 0

/-- Convert a value into a format that is not MX; `lsb` is the least exponent its source can occupy (R131).
To an integer in sr, d counts the positions of that value below the binary point (L60: the model's reading of "the source fraction bits"). -/
def convertNum (x : Num) (lsb : Int) (dst : Fmt) (rm : Rm) (sat : Bool) (lfsr : Quad) : Rounded :=
  let s := if rm = .sr then lfsrStep lfsr else lfsr
  match (fmtFF dst) with
  | some ff => ff.finish x.exact rm sat lfsr (some lsb) x.isNan x.isInf
  | none =>
    match x with
    | .nan => ⟨0, s, false, false, false⟩
    | .inf neg =>
      if sat then ⟨wrapInt (fmtBits dst) (if neg then intMin (fmtSigned dst) (fmtBits dst) else intMax (fmtSigned dst) (fmtBits dst)), s, false, false, true⟩
      else ⟨0, s, false, false, false⟩
    | .fin neg m e =>
      let u := roundUnits ⟨neg, m, e, false⟩ 0 rm (min 16 (0 - lsb).toNat) s
      let (r, c) := narrowInt (fmtSigned dst) (fmtBits dst) sat (sint neg u)
      ⟨r, s, false, false, c⟩

/-- Convert one element between formats that are not MX (R131, R259). -/
def convert (src dst : Fmt) (b : Nat) (rm : Rm) (sat : Bool) (lfsr : Quad) : Rounded :=
  if src = dst then ⟨b % 2 ^ (fmtBits dst), if rm = .sr then lfsrStep lfsr else lfsr, false, false, false⟩
  else convertNum ((fmtValue src) b) (srcLsb src ((fmtValue src) b)) dst rm sat lfsr

/-! ### MX blocks (R126, R133, R134) -/

/-- emax of an element format (R133). -/
def mxEmax (f : FF) : Int := if f = ffE4m3 then 8 else if f = ffE5m2 then 15 else 2

/-- A quantised block: scale byte, element patterns, LFSR, elements saturated in order, whether X was clamped above, below. -/
structure MxBlock where
  scale : Nat
  elems : List Nat
  lfsr : Quad
  sats : List Bool
  above : Bool
  below : Bool
  deriving DecidableEq, Repr

/-- Round the elements of a block, ascending (R133). `lsb` is the least exponent the source can occupy. -/
def mxElems (f : FF) (x : Int) (rm : Rm) (lfsr : Quad) : List (Num × Int) → List Rounded × Quad
  | [] => ([], lfsr)
  | (v, lsb) :: r =>
    let w : Num := match v with
      | .fin n m e => .fin n m (e - x)
      | o => o
    let h := f.finish w.exact rm true lfsr (some (lsb - x)) false false
    let (t, l) := mxElems f x rm h.lfsr r
    (h :: t, l)

/-- Quantise values, each with the least exponent its source can occupy (R133). -/
def quantiseNum (f : FF) (vals : List (Num × Int)) (rm : Rm) (lfsr : Quad) : MxBlock :=
  let xs := vals.map (·.1)
  if xs.any (fun v => v.isNan || v.isInf) then
    let l := if rm = .sr then vals.foldl (fun s _ => lfsrStep s) lfsr else lfsr
    ⟨0xFF, vals.map (fun _ => 0), l, vals.map (fun _ => false), false, false⟩
  else
    let lg : Option Int := xs.foldl (fun acc v => match v with
      | .fin _ m e => if m = 0 then acc else
          match acc with
          | none => some ((Nat.log2 m : Int) + e)
          | some a => some (max a ((Nat.log2 m : Int) + e))
      | _ => acc) none
    let x0 : Int := match lg with
      | none => -127
      | some a => a - mxEmax f
    let x := min (max x0 (-127)) 127
    let (rs, l) := mxElems f x rm lfsr vals
    ⟨(x + 127).toNat, rs.map (·.bits), l, rs.map (·.sat), decide (127 < x0), decide (x0 < -127)⟩

/-- Quantise the elements of a format (R133). -/
def quantise (f : FF) (src : Fmt) (vals : List Nat) (rm : Rm) (lfsr : Quad) : MxBlock :=
  quantiseNum f (vals.map (fun b => ((fmtValue src) b, srcLsb src ((fmtValue src) b)))) rm lfsr

/-- scale × element, exact (R126, R134). -/
def mxValue (f : FF) (scale b : Nat) : Num :=
  if scale = 0xFF then .nan
  else match f.decode b with
    | .fin n m e => .fin n m (e + scale - 127)
    | o => o

/-- The least exponent that a dequantised element can occupy. -/
def mxLsb (f : FF) (scale b : Nat) : Int :=
  match f.decode b with
  | .fin n m e => f.spacing ⟨n, m, e, false⟩ + scale - 127
  | _ => 0

/-- Dequantise one element into a format (R134). -/
def dequantise (f : FF) (scale b : Nat) (dst : Fmt) (rm : Rm) (sat : Bool) (lfsr : Quad) : Rounded :=
  convertNum (mxValue f scale b) (mxLsb f scale b) dst rm sat lfsr

/-! ### The matrix rule (R135, R136) -/

/-- The terms' greatest exponent, over those that are not zero. -/
def topExp (ts : List Num) : Option Int :=
  ts.foldl (fun acc t => match t with
    | .fin _ m e => if m = 0 then acc else
        match acc with
        | none => some ((Nat.log2 m : Int) + e)
        | some a => some (max a ((Nat.log2 m : Int) + e))
    | _ => acc) none

/-- A term cut toward zero onto weights of 2^lo and above. -/
def cutTerm (lo : Int) : Num → Int
  | .fin n m e => sint n (if lo ≤ e then m * 2 ^ (e - lo).toNat else m / 2 ^ (lo - e).toNat)
  | _ => 0

/-- R135 over the terms c and the products: the f32 pattern. -/
def matrixSum (ts : List Num) : Nat :=
  if ts.any Num.isNan || (ts.any (· == .inf false) && ts.any (· == .inf true)) then 0x7FC00000
  else if ts.any (· == .inf false) then ffF32.encode (.inf false)
  else if ts.any (· == .inf true) then ffF32.encode (.inf true)
  else
    let lo := (topExp ts).getD 0 - 79
    let sm := (ts.map (cutTerm lo)).foldl (· + ·) 0
    if sm = 0 then (if ts.all (fun t => t.isZero && t.sign) then 0x80000000 else 0)
    else (ffF32.finish (.ex ⟨decide (sm < 0), sm.natAbs, lo, false⟩) .rne false 0 none false false).bits

/-! ### Reductions (R137) -/

/-- One level of the pairwise tree: neighbours combined left to right, a state carried along. -/
def pairLevel {α σ : Type} (f : σ → α → α → α × σ) : σ → List α → List α × σ
  | s, a :: b :: r =>
    let (c, s1) := f s a b
    let (t, s2) := pairLevel f s1 r
    (c :: t, s2)
  | s, l => (l, s)

/-- The tree over 2^n values. -/
def pairTree {α σ : Type} (f : σ → α → α → α × σ) : Nat → σ → List α → List α × σ
  | 0, s, l => (l, s)
  | n + 1, s, l =>
    let (l1, s1) := pairLevel f s l
    pairTree f n s1 l1

end Sys2Proof.Machine
end

