-- ==== Sys2Proof/Machine/Ops.lean ====
section
/-! DEFINITION. The named operations over records, registers, the program counter, waits, transactions and traps
that every family of instructions and steps uses. Taking a trap (spec/19 R358, R359, R382), returning from one (R361),
ending a strand (spec/12 R239) and aborting a transaction (spec/05 R103) stand here once. -/

namespace Sys2Proof

/-- How many registers a group width names (R202). -/
def Grp.count : Grp → Nat
  | .g1 => 1 | .g2 => 2 | .g4 => 4 | .g8 => 8

/-- Whether an order has an acquire part, and whether it has a release part. -/
def Order.acquires : Order → Bool
  | .acq | .ar | .sc => true
  | _ => false
def Order.releases : Order → Bool
  | .rel | .ar | .sc => true
  | _ => false

/-- How wide a scope is (R73). -/
def Scope.rank : Scope → Nat
  | .str => 0 | .cor => 1 | .bay => 2 | .die => 3 | .pkg => 4 | .sys => 5

end Sys2Proof

namespace Sys2Proof.Machine

/-! ### Records by number -/

/-- A record that stands for a troupe that does not exist. -/
def Troupe.blank : Troupe :=
  { uid := 0, job := 0, launch := 0, index := 0, part := 0, parent := 0, children := 0, c := 1, s := 1, lm := 16,
    entry := 0, start := .fresh 0 [], seed := 0, place := .done, bay := 0, named := none, core0 := 0, lmOff := 0,
    strandsLeft := 0, arith := Vector.replicate 5 0, alimit := Vector.replicate 5 0, capture := none, object := 0, serial := 0,
    sids := [], slots := [], taken := [], faults := [], replayed := [] }

/-- A record that stands for a partition that does not exist (R177). -/
def Part.blank : Part := { bays := 0, state := .unused, preArea := 0, preSize := 0, preNext := 0, objects := [] }

/-- A record that stands for a job that does not exist. -/
def Job.blank : Job :=
  { num := 0, parts := Vector.replicate 8 Part.blank, codeBase := 0, codeLimit := 0, tvec := 0, ptBase := 0,
    allotment := [], tableArea := 0, tableRoom := 0, tables := 0, memory := [], pages := [], windows := [], remotes := [], creg := 0, log2n := 0, serial := 0, sealDraw := 0, evtab := 0,
    spillTable := 0, spillPool := [], waitOverflow := 0, waitArea := 0, launchOverflow := 0, launchArea := 0, overflow := [], matchFirst := 0,
    matchCount := 0, matchArea := 0, accepts := [], measure := 0, stale := Vector.replicate 8 0, admissions := 0,
    stopped := false, stopReported := false }

def State.troupe? (s : State) (u : Nat) : Option Troupe := s.troupes.find? (fun t => t.uid == u)
def State.troupe (s : State) (u : Nat) : Troupe := (s.troupe? u).getD Troupe.blank
def State.setTroupe (s : State) (u : Nat) (f : Troupe → Troupe) : State :=
  { s with troupes := s.troupes.map (fun t => if t.uid == u then f t else t) }

def State.job? (s : State) (n : Nat) : Option Job := s.jobs.find? (fun j => j.num == n)
def State.job (s : State) (n : Nat) : Job := (s.job? n).getD Job.blank
def State.setJob (s : State) (n : Nat) (f : Job → Job) : State :=
  { s with jobs := s.jobs.map (fun j => if j.num == n then f j else j) }

def State.launch? (s : State) (l : Word) : Option Launch := s.launches.find? (fun x => x.ident == l)
def State.setLaunch (s : State) (l : Word) (f : Launch → Launch) : State :=
  { s with launches := s.launches.map (fun x => if x.ident == l then f x else x) }

/-- The record of a core; a core without a record stands as after reset. -/
def State.core (s : State) (n : Nat) : Core := (s.cores.find? (fun c => c.num == n)).getD (Core.fresh n)
def State.setCore (s : State) (n : Nat) (f : Core → Core) : State :=
  if s.cores.any (fun c => c.num == n) then
    { s with cores := s.cores.map (fun c => if c.num == n then f c else c) }
  else { s with cores := s.cores ++ [f (Core.fresh n)] }

def State.bay (s : State) (b : Nat) : Bay :=
  (s.mgmt.bays.find? (fun x => x.num == b)).getD
    { num := b, power := .active, idleSince := 0, fenced := false, gatedNs := 0, gatedAt := 0 }
def State.setBay (s : State) (b : Nat) (f : Bay → Bay) : State :=
  if s.mgmt.bays.any (fun x => x.num == b) then
    { s with mgmt := { s.mgmt with bays := s.mgmt.bays.map (fun x => if x.num == b then f x else x) } }
  else { s with mgmt := { s.mgmt with bays := s.mgmt.bays ++ [f (s.bay b)] } }

/-- Every strand, the one in hand first. -/
def State.strands (s : State) : List Strand := s.cur :: s.rest

/-- Whether a strand has not ended: it runs or has been stopped. -/
def Strand.exists? (t : Strand) : Bool := t.mode != .vacant && t.mode != .ended

def State.strand? (s : State) (sid : Nat) : Option Strand := s.strands.find? (fun t => t.sid == sid && t.exists?)
def State.setStrand (s : State) (sid : Nat) (f : Strand → Strand) : State :=
  { s with cur := if s.cur.sid == sid && s.cur.exists? then f s.cur else s.cur,
           rest := s.rest.map (fun t => if t.sid == sid && t.exists? then f t else t) }

/-- Take a strand in hand. -/
def State.focus (s : State) (sid : Nat) : State :=
  match s.rest.find? (fun t => t.sid == sid && t.exists?) with
  | none => s
  | some t =>
    if s.cur.sid == sid then s
    else { s with cur := t, rest := (if s.cur.mode = .vacant then [] else [s.cur]) ++ s.rest.filter (fun x => x.sid != sid) }

/-- A fresh number for a record of the model's own. -/
def State.fresh (s : State) : Nat × State := (s.nextId, { s with nextId := s.nextId + 1 })

def State.req? (s : State) (id : Nat) : Option Req := s.reqs.find? (fun r => r.id == id)
def State.setReq (s : State) (id : Nat) (f : Req → Req) : State :=
  { s with reqs := s.reqs.map (fun r => if r.id == id then f r else r) }
def State.dropReq (s : State) (id : Nat) : State := { s with reqs := s.reqs.filter (fun r => r.id != id) }

def State.cmd? (s : State) (id : Nat) : Option Cmd := s.cmds.find? (fun c => c.id == id)
def State.setCmd (s : State) (id : Nat) (f : Cmd → Cmd) : State :=
  { s with cmds := s.cmds.map (fun c => if c.id == id then f c else c) }
def State.dropCmd (s : State) (id : Nat) : State := { s with cmds := s.cmds.filter (fun c => c.id != id) }

/-- The troupe and the job of the strand in hand. -/
def State.myTroupe (s : State) : Troupe := s.troupe s.cur.troupe
def State.myJob (s : State) : Job := s.job s.myTroupe.job

/-- What the conservator sends to the host. -/
def State.send (s : State) (m : Sent) : State := { s with mgmt := { s.mgmt with sent := s.mgmt.sent ++ [m] } }

/-- The job number of a report that concerns none. -/
def noJob : Nat := 0xFFFF

/-- How many events of a kind the hub has counted, modulo 2^32 (R401). -/
def State.eventsOf (s : State) (kind : Nat) : Nat := ((s.hub.counts.find? (fun c => c.1 == kind)).map (·.2)).getD 0
def State.countEvent (s : State) (kind : Nat) : State :=
  { s with hub := { s.hub with
    counts := (kind, (s.eventsOf kind + 1) % 2 ^ 32) :: s.hub.counts.filter (fun c => c.1 != kind) } }

/-- One report of R401, with the count of its kind. -/
def State.fabric (s : State) (kind detail job site peer : Nat) (value : Word) : State :=
  (s.countEvent kind).send (.fabric kind detail job site peer ((s.eventsOf kind + 1) % 2 ^ 32) value s.now)

/-- A trap is dropped because its strand has ended: the hub reports it with kind 8 (R401). -/
def State.reportDropped (s : State) (sid : Nat) : State :=
  match s.strands.find? (fun t => t.sid == sid) with
  | some t => s.fabric 8 0 (s.troupe t.troupe).job t.core 0 0
  | none => s.fabric 8 0 noJob 0 0 0

/-! ### Registers of a strand (R208) -/

/-- X[r]; x0 reads 0. -/
def Strand.getX (t : Strand) (r : Reg) : Word := if r = 0 then 0 else t.x[r.toNat]'r.isLt
/-- Write X[r]; a write to x0 is ignored. -/
def Strand.putX (t : Strand) (r : Reg) (w : Word) : Strand := if r = 0 then t else { t with x := t.x.set r.toNat w r.isLt }
def Strand.getV (t : Strand) (r : Reg) : VReg := t.v[r.toNat]'r.isLt
def Strand.putV (t : Strand) (r : Reg) (w : VReg) : Strand := { t with v := t.v.set r.toNat w r.isLt }
/-- p0 reads all ones. -/
def Strand.getP (t : Strand) (r : BitVec 3) : Quad := if r = 0 then BitVec.allOnes 32 else t.p[r.toNat]'r.isLt
def Strand.putP (t : Strand) (r : BitVec 3) (w : Quad) : Strand := if r = 0 then t else { t with p := t.p.set r.toNat w r.isLt }
def Strand.getK (t : Strand) (r : BitVec 4) : Quad := t.k[r.toNat]'r.isLt
def Strand.putK (t : Strand) (r : BitVec 4) (w : Quad) : Strand := { t with k := t.k.set r.toNat w r.isLt }

/-- Whether X[r] is full; x0 always is. -/
def Strand.fullX (t : Strand) (r : Reg) : Bool := r == 0 || t.xfull.getLsbD r.toNat
def Strand.fullV (t : Strand) (r : Reg) : Bool := t.vfull.getLsbD r.toNat

/-- A mask with one bit set. -/
def bitAt (r : Reg) : Quad := 1 <<< r.toNat

/-- Empty a register as its fill starts; x0 is never emptied. -/
def Strand.emptyX (t : Strand) (r : Reg) : Strand := if r = 0 then t else { t with xfull := t.xfull &&& ~~~(bitAt r) }
def Strand.emptyV (t : Strand) (r : Reg) : Strand := { t with vfull := t.vfull &&& ~~~(bitAt r) }

/-- A wait for a register ends when a fill comes: the instruction runs again (R42). -/
def Strand.wake (t : Strand) : Strand := if t.wait = some .empty then { t with wait := none } else t

/-- A fill: the register is written and set full. -/
def Strand.fillX (t : Strand) (r : Reg) (w : Word) : Strand :=
  if r = 0 then t else { (t.putX r w).wake with xfull := t.xfull ||| bitAt r }
def Strand.fillV (t : Strand) (r : Reg) (w : VReg) : Strand := { (t.putV r w).wake with vfull := t.vfull ||| bitAt r }

/-- The registers of a group, ascending. -/
def groupRegs (w : Grp) (r : Reg) : List Reg := (List.range w.count).map (fun i => r + BitVec.ofNat 5 i)

/-! ### Registers of the strand in hand -/

def State.x (s : State) (r : Reg) : Word := s.cur.getX r
def State.setX (s : State) (r : Reg) (w : Word) : State := { s with cur := s.cur.putX r w }
def State.v (s : State) (r : Reg) : VReg := s.cur.getV r
def State.setV (s : State) (r : Reg) (w : VReg) : State := { s with cur := s.cur.putV r w }
def State.p (s : State) (r : BitVec 3) : Quad := s.cur.getP r
def State.setP (s : State) (r : BitVec 3) (w : Quad) : State := { s with cur := s.cur.putP r w }
def State.k (s : State) (r : BitVec 4) : Quad := s.cur.getK r
def State.setK (s : State) (r : BitVec 4) (w : Quad) : State := { s with cur := s.cur.putK r w }
def State.emptyX (s : State) (r : Reg) : State := { s with cur := s.cur.emptyX r }
def State.emptyV (s : State) (r : Reg) : State := { s with cur := s.cur.emptyV r }

/-! ### Pointers and the program counter (R48, R228) -/

def ptrSpace (p : Word) : Nat := (p.extractLsb' 60 4).toNat
def ptrOwner (p : Word) : Nat := (p.extractLsb' 48 12).toNat
def ptrOff (p : Word) : Nat := (p.extractLsb' 0 48).toNat

/-- PADD: the offset advances modulo 2^48; space and owner stay. -/
def padd (p n : Word) : Word := (p.extractLsb' 48 16) ++ (p.extractLsb' 0 48 + n.extractLsb' 0 48)

/-- The pointer of an access `n` bytes further on. -/
def ptrAt (p : Word) (n : Nat) : Word := padd p (BitVec.ofNat 64 n)

/-- The address after the instruction in hand (R231: the PC advanced by twice the instruction's word count). -/
def State.nextPc (s : State) : Word := padd s.cur.pc (BitVec.ofNat 64 (2 * s.ir.length))

/-- The target of a relative branch: `imm` counts 16-bit words (R228). -/
def State.target (s : State) (imm : Word) : Word := padd s.cur.pc (imm + imm)

/-- Move the PC in sequence. -/
def State.advance (s : State) : State :=
  { s with cur := { s.cur with pc := s.nextPc, came := 0, wait := none, blocked := none, stalled := false, safe := false } }

/-- Move the PC to the target of a transfer, whose own PC stays for FETCH_LIMIT (R364). -/
def State.jump (s : State) (t : Word) : State :=
  { s with cur := { s.cur with pc := t, came := s.cur.pc, wait := none, blocked := none, stalled := false, safe := false } }

/-- The strand waits at the instruction in hand (R42), all its registers live: a SAFE before it has no part in this (R43). -/
def State.waitFor (s : State) (w : Wait) : State :=
  { s with cur := { s.cur with wait := some w, skip := s.nextPc, stalled := false, safe := false } }

/-- The instruction is not ready: the strand tries again later (R22). -/
def State.notReady (s : State) : State := { s with cur := { s.cur with stalled := true } }

/-- A waiter's instruction is done: the strand goes on after it. -/
def Strand.finishWait (t : Strand) : Strand := { t with pc := t.skip, came := 0, wait := none, stalled := false, safe := false }

/-- First the check: its outcome if it has one, else the rest. -/
def orElse (c : Option State) (k : Unit → State) : State :=
  match c with
  | some t => t
  | none => k ()

/-! ### Causes (R355) -/

def Cause.code : Cause → Nat
  | .illegal => 0x01 | .trapz => 0x02 | .fetchLimit => 0x03 | .misalign => 0x04 | .space => 0x05 | .translate => 0x06
  | .protect => 0x07 | .emptyReg => 0x08 | .feTimeout => 0x09 | .arith => 0x0A | .postedRefused => 0x0B
  | .doubleResume => 0x0C | .badCont => 0x0D | .registry => 0x0E | .channelBroken => 0x0F | .remoteTimeout => 0x10
  | .poison => 0x11 | .cancel => 0x12 | .brk => 0x13 | .soft => 0x14 | .watchdog => 0x15

/-- Priority between pending asynchronous traps, lowest first (R355). -/
def Cause.priority : Cause → Nat
  | .soft | .watchdog => 1 | .postedRefused => 2 | .poison => 3 | .channelBroken => 4 | .remoteTimeout => 5
  | .translate | .protect => 6 | .doubleResume => 7 | .badCont => 8 | .registry => 9 | .arith => 10 | .cancel => 11
  | _ => 12

/-- The causes that go to the conservator (R355). -/
def Cause.fatal : Cause → Bool
  | .soft | .watchdog => true
  | _ => false

/-- Whether %cause.busy is 1 (R356). -/
def Strand.busy (t : Strand) : Bool := t.sr.cause.getLsbD 15

/-- Whether CANCEL is due and can become pending (R175, R399). -/
def cancelHere (t : Strand) : Bool := t.cancelDue && !t.busy && !t.cancelTaken

/-! ### Leaving a wait (R413, R44) -/

/-- What a strand's wait holds elsewhere is given up: a queued tagged request is withdrawn (R289, R290),
the wait-list entry of an EVWAIT goes (R297), the place in an accumulator's queue goes (R271). -/
def State.leaveWait (s : State) (t : Strand) : State :=
  match t.wait with
  | some (.tagged id) => (s.dropReq id).setStrand t.sid (fun u => { u with wait := none })
  | some (.event _) =>
    { (s.setStrand t.sid (fun u => { u with wait := none })) with
      reg := { s.reg with waits := s.reg.waits.filter (fun w => w.sid != t.sid || w.slot.isSome) } }
  | some (.zclaim z) =>
    (s.setStrand t.sid (fun u => { u with wait := none })).setCore t.core (fun c =>
      { c with zwait := Vector.ofFn (fun i => if i.val = z then c.zwait[i].filter (· != t.sid) else c.zwait[i]) })
  | _ => s.setStrand t.sid (fun u => { u with wait := none })

/-- A partition of a job. -/
def Job.part (j : Job) (p : Nat) : Part := (j.parts.toList).getD p Part.blank

/-! ### Room in a bay (R24, R26, R32) -/

/-- Whether the work of a partition of a job goes on in its bays: it is resident, or its switch has been announced and has not come
to T (R44). -/
def State.partOpen (s : State) (job part : Nat) : Bool :=
  ((s.job job).part part).state == .resident
    || s.reg.switches.any (fun w => w.outJob == job && w.outPart == part && w.phase == 0)

/-- Whether a partition of a job holds its bays: it is resident, or a switch that takes it out is not over. -/
def State.partHolds (s : State) (job part : Nat) : Bool :=
  ((s.job job).part part).state == .resident || s.reg.switches.any (fun w => w.outJob == job && w.outPart == part)

/-- Whether a troupe's resources are taken: it is placed, or one of a cohort whose partition holds its bays (R35). -/
def State.takesRoom (s : State) (u : Troupe) : Bool := u.place == .placed || (u.place == .reserved && s.partHolds u.job u.part)

/-- Strand slots of a core that are taken: those of its strands and those reserved for a cohort. -/
def State.slotsUsed (s : State) (core : Nat) : Nat :=
  (s.strands.filter (fun t => t.core == core && t.exists?)).length
    + ((s.troupes.filter (fun u => u.place == .reserved && s.partHolds u.job u.part && decide (u.core0 ≤ core)
        && decide (core < u.core0 + u.c))).map (·.s)).sum

/-- LM windows on a core. -/
def State.windows (s : State) (core : Nat) : List (Nat × Nat) :=
  (s.troupes.filter (fun u => s.takesRoom u && decide (u.core0 ≤ core) && decide (core < u.core0 + u.c))).map (fun u =>
    (u.lmOff, u.lmOff + u.lm * 1024))

/-- The lowest 16 KiB step at which a window is free of those listed. -/
def freeOffset (wins : List (Nat × Nat)) (len : Nat) : Option Nat :=
  ((List.range 24).map (· * 16384)).find? (fun o =>
    decide (o + len ≤ 0x60000) && wins.all (fun w => decide (o + len ≤ w.1) || decide (w.2 ≤ o)))

/-- The lowest aligned core group of a bay with room for a shape, with its window: the one with a named core if there is one.
`ok` is a further condition on a group's first core and each core. -/
def State.fit (s : State) (bay c n l : Nat) (named : Option Nat) (ok : Nat → Nat → Bool) : Option (Nat × Nat) :=
  let groups := (List.range (8 / max c 1)).map (fun i => 8 * bay + i * c)
  let mine := groups.filter (fun g => match named with
    | some k => decide (g ≤ k) && decide (k < g + c)
    | none => true)
  mine.findSome? (fun g =>
    let cores := (List.range c).map (g + ·)
    if cores.all (fun k => decide (s.slotsUsed k + n ≤ 4) && ok g k) then
      (freeOffset (List.flatten (cores.map s.windows)) (l * 1024)).map (fun o => (g, o))
    else none)

/-- Whether a bay serves a partition of a job now: the partition's work goes on, it holds the bay, its job runs, and the bay is awake
and not fenced (R10, R354). -/
def State.bayServes (s : State) (job part bay : Nat) : Bool :=
  s.partOpen job part && ((s.job job).part part).bays.getLsbD bay && !(s.job job).stopped && (s.bay bay).power == .active
    && !(s.bay bay).fenced

/-- Whether troupes may be placed in a bay for a partition of a job now: the bay serves it, and no cohort's reservation takes what is
free (R174). That a reservation keeps waiting troupes and START entries of its partition from what is free already, too, is the
model's choice (DESIGN CHOICE, L52). -/
def State.baysOpen (s : State) (job part bay : Nat) : Bool :=
  s.bayServes job part bay && !s.reg.reserved.any (fun x => x.1 == job && x.2.1 == part)

/-- Troupes that wait in a bay to be placed. -/
def State.waitingIn (s : State) (bay : Nat) : List Troupe := s.troupes.filter (fun u => u.bay == bay && u.place == .waiting)

/-- What a continuation object needs of a core (R154): the rings of its section unbound, its accumulators held by no strand. -/
def State.takesSection (s : State) (image : List Byte) (g k : Nat) : Bool :=
  let off := fieldAt image 88 8 + (List.range (k - g)).foldl (fun o _ => o + fieldAt image (fieldAt image 88 8 + o + 8) 4) 0
  let c := s.core k
  (List.range 8).all (fun q => fieldAt image (off + 4) 1 / 2 ^ q % 2 == 0 || (c.rings.toList.getD q Ring.unbound).count == 0)
    && (List.range 2).all (fun z => fieldAt image (off + 1) 1 / 2 ^ z % 2 == 0 || (c.zholder.toList.getD z none).isNone)

/-- What a waiting troupe needs of a core beyond slots and LM. -/
def State.takes (s : State) (u : Troupe) (g k : Nat) : Bool :=
  match u.start with
  | .fresh _ _ => true
  | .object _ image _ home => s.takesSection image g k && (match home with | some h => g == h | none => true)

/-- Where a waiting troupe can be placed in its bay now: it is the first of its launch, by index, that waits there (R32). Between
troupes of different launches the spec gives no order: any launch's first one may go (DESIGN CHOICE, L51). -/
def State.roomFor (s : State) (u : Troupe) : Option (Nat × Nat) :=
  if u.place = .waiting ∧ s.baysOpen u.job u.part u.bay ∧
      (s.waitingIn u.bay).all (fun v => v.launch != u.launch || decide (u.index < v.index)
        || (v.index == u.index && decide (u.uid ≤ v.uid))) then
    s.fit u.bay u.c u.s u.lm u.named (s.takes u)
  else none

/-- A troupe out of an object that waits in a core's bay, could be placed were the core's accumulators free, and needs one. -/
def State.wantsZ (s : State) (core : Nat) : Option Troupe :=
  (s.waitingIn (bayOfCore core)).find? (fun u => match u.start, s.roomFor u with
    | .object _ _ _ _, some (g, _) => decide (g ≤ core) && decide (core < g + u.c)
    | _, _ => false)

/-! ### Accumulators (R29, R271) -/

/-- Whether an issued array operation of a strand on an accumulator has not retired. -/
def ArrayOp.isOn (o : ArrayOp) (sid z : Nat) : Bool :=
  match o with
  | .mma s _ z' .. => s == sid && z' == z
  | .zscale s _ z' .. => s == sid && z' == z

/-- The first strand that waits for a free accumulator gets it. -/
def State.grantZ (s : State) (core : Nat) (z : Fin 2) : State :=
  match (s.core core).zholder[z], (s.core core).zwait[z] with
  | none, w :: r =>
    (s.setCore core (fun c => { c with zholder := c.zholder.set z (some w), zwait := c.zwait.set z r })).setStrand w
      Strand.finishWait
  | _, _ => s

/-- An accumulator becomes free: a troupe out of an object that can now be placed on it comes first (R154), then the strands that
wait for it. -/
def State.passZ (s : State) (core : Nat) (z : Fin 2) : State :=
  let s1 := s.setCore core (fun c => { c with zholder := c.zholder.set z none, zfreeing := c.zfreeing.set z false })
  match s1.wantsZ core with
  | some u =>
    if (s1.core core).zwait[z].isEmpty then s1
    else { s1 with agenda := s1.agenda ++ [⟨.troupePlacement, { id := u.uid }⟩] }
  | none => s1.grantZ core z

/-- Free an accumulator: at once, or after the strand's array operations on it have retired. -/
def State.freeZ (s : State) (core sid : Nat) (z : Fin 2) : State :=
  if (s.core core).zholder[z] = some sid then
    if (s.core core).array.any (fun o => o.isOn sid z.val) then
      s.setCore core (fun c => { c with zfreeing := c.zfreeing.set z true })
    else s.passZ core z
  else s

/-! ### Acquiring (R77 to R81, R86 to R88) -/

/-- Whether a transaction that commits has a tile that is not applied yet (R105). -/
def State.committingOn (s : State) (tile : Nat) : Bool :=
  s.strands.any (fun t => t.exists? && t.tx.committing && t.tx.tiles.any (fun x => x.tile == tile))

/-- Whether a copy of a line shows memory as it stands: no word of it poisoned, and no commit on its way to it (R105). -/
def State.shows (s : State) (l : Lease) : Bool :=
  l.data == s.lineData l.line && !s.anyPoison (l.line * 128) 128 && !s.committingOn (l.line / 16)

/-- A core acquires: of the leased copies in its L1, and of those that acknowledgements bring, only the ones that still show memory as it
stands are kept, so that no later load of its strands hits a value older than a write that happens before it (L35). The stamps are
untouched; the core remembers when it acquired (R79; L76). -/
def State.acquire (s : State) (core : Nat) : State :=
  s.setCore core (fun c =>
    { c with l1 := c.l1.filter s.shows, acks := c.acks.filter (fun a => s.shows a.2), acquired := s.ticks })

/-! ### What a release waits for (R54, R72, R80, R82, R83, R110) -/

/-- Whether a request's access has been performed. -/
def Req.done (r : Req) : Bool :=
  match r.state with
  | .answered _ _ | .performed => true
  | _ => false

/-- Whether a request is a memory access that reads (R83). -/
def ReqKind.reads : ReqKind → Bool
  | .load _ _ _ | .vload _ | .vlane _ _ _ | .atomic _ _ _ _ _ _ | .row _ _ _ _ | .ldrow _ _ _ _ _ | .topk _ _ _
  | .tagged _ _ _ | .watch | .remote _ _ _ | .remoteVec _ | .remRead _ _ _ _ | .remAmo _ _ _ _ _ _ => true
  | _ => false

/-- Whether a request is a memory access that writes (R83). -/
def ReqKind.writes : ReqKind → Bool
  | .store _ _ | .atomic _ _ _ _ _ _ | .row _ _ _ _ | .topk _ _ _ | .remAmo _ _ _ _ _ _ => true
  | .tagged op _ _ => op = 0 || op = 2 || op = 3 || op = 5
  | _ => false

/-- An outstanding read with an acquire part holds back every later access of its strand (R72, R109, R235). -/
def State.held (s : State) : Bool :=
  s.reqs.any (fun q => q.sid == s.cur.sid && q.order.acquires && q.kind.reads)

/-- Whether a scope of a strand on a core includes the strands of another core (R73). -/
def inScope (c : Scope) (core other : Nat) : Bool :=
  match c with
  | .str => false
  | .cor => core == other
  | .bay => bayOfCore core == bayOfCore other
  | .die => dieOfCore core == dieOfCore other
  | .pkg | .sys => true

/-- The number of a completion counter that takes no credit: a plain store to REM. -/
def noCounter : Nat := 16

/-- Whether a strand's plain stores to REM before `id` are performed at their destination, as LANDED has reported (R72, R80). -/
def State.remLanded (s : State) (sid id : Nat) : Bool :=
  s.cmds.all (fun c => c.sid != sid || c.k != noCounter || decide (id ≤ c.id))
    && s.hub.sends.all (fun h => h.journal.all (fun j => j.sid != sid || !j.plain || decide (id ≤ j.cmd)))

/-- Whether everything of a strand before a release has happened but for its counted writes: its reads are performed, its writes
acknowledged, so that its lt covers their stamps (R110), its journal entries in scope acknowledged, those that wait for
the journal too, and at die scope or wider its deposits merged (R54, R82). `id` bounds the accesses before it. -/
def State.localReady (s : State) (sid core : Nat) (scope : Scope) (id : Nat) : Bool :=
  s.reqs.all (fun q => q.sid != sid || decide (id ≤ q.id) || (q.done && !q.kind.writes) || !(q.kind.reads || q.kind.writes))
    && s.moves.all (fun m => m.sid != sid || decide (id ≤ m.id))
    && ((s.core core).journal ++ (s.core core).replay).all (fun e =>
      e.sid != sid || decide (id ≤ e.id) || !inScope scope core (ptrOwner e.dest))
    && (decide (scope.rank < 3) || (s.core core).upd.all (fun u => !u.sids.contains sid))

/-- Whether everything of a strand before a release has happened (R72, R83): also its plain stores to REM have landed. -/
def State.releaseReady (s : State) (sid core : Nat) (scope : Scope) (id : Nat) : Bool :=
  s.localReady sid core scope id && s.remLanded sid id

/-- The scope that covers a launch's bays. -/
def State.launchScope (s : State) (l : Word) : Scope :=
  let shares := match s.launch? l with | some x => (x.shares.filter (fun e => e.2.2 != 0)).map (·.1) | none => []
  let bays := shares ++ (s.troupes.filter (fun u => u.launch == l)).map (·.bay)
  match bays with
  | [] => .pkg
  | b :: r => if r.all (· == b) then .bay else if r.all (fun x => dieOfBay x == dieOfBay b) then .die else .pkg

/-! ### Barriers (R28, R35, R293) -/

/-- Open the troupe barrier when every strand of the troupe that has not ended waits at it. -/
def State.openTbar (s : State) (u : Nat) : State :=
  let mine := s.strands.filter (fun t => t.troupe == u && t.exists?)
  if (s.troupe u).place = .placed ∧ mine ≠ [] ∧ mine.all (fun t => t.mode = .running && t.wait = some .tbar) then
    mine.foldl (fun a t => (a.setStrand t.sid Strand.finishWait).acquire t.core) s
  else s

/-- Open the launch barrier when every troupe of the launch has started or ended and every strand of it that has not
ended waits at the barrier. It opens with a release at the scope of the launch as it then is: a strand that has more to wait for, as the
launch has spread since it arrived, leaves the barrier and arrives again (R35; L81). -/
def State.openLbar (s : State) (l : Word) : State :=
  let us := s.troupes.filter (fun t => t.launch == l)
  let mine := s.strands.filter (fun t => us.any (fun u => u.uid == t.troupe) && t.exists?)
  let started := us.all (fun u => u.place = .placed || u.place = .ended || u.place = .done)
  if started ∧ mine ≠ [] ∧ mine.all (fun t => t.mode = .running && t.wait = some .lbar) then
    let late := mine.filter (fun t => !s.releaseReady t.sid t.core (s.launchScope l) s.nextId)
    if late.isEmpty then mine.foldl (fun a t => (a.setStrand t.sid Strand.finishWait).acquire t.core) s
    else late.foldl (fun a t => a.setStrand t.sid (fun u => { u with wait := none })) s
  else s

/-! ### Aborting a transaction (R103, R104) -/

/-- The tile fields of the abort status from a pointer into the tile. -/
def tileFields (p : Word) : Word :=
  if ptrSpace p = 2 then BitVec.ofNat 64 (2 ^ 42 + ptrOwner p % 4 * 2 ^ 40 + ptrOff p / 2048)
  else if ptrSpace p = 3 then BitVec.ofNat 64 (2 * 2 ^ 42 + ptrOff p / 2048)
  else 0

/-- The abort status (R104). -/
def abortStatus (t : Tx) (cause code : Nat) (tile : Option Word) : Word :=
  BitVec.ofNat 64 (cause * 2 ^ 60 + t.depth * 2 ^ 56 + code % 256 * 2 ^ 48
    + min ((t.status.extractLsb' 44 4).toNat + 1) 15 * 2 ^ 44) ||| (match tile with | some p => tileFields p | none => 0)

/-- The strand's part of an abort: the checkpoint, the status, depth 0, the handler. -/
def Strand.abort (t : Strand) (cause code : Nat) (tile : Option Word) : Strand :=
  let k := t.tx.ckpt.getD ⟨t.x, t.v, t.p, t.xfull, t.vfull⟩
  { t with x := k.x, v := k.v, p := k.p, xfull := k.xfull, vfull := k.vfull, came := t.pc, pc := t.tx.handler,
           wait := none, blocked := none, stalled := false, yield := false, safe := false,
           tx := { Tx.none with handler := t.tx.handler, status := abortStatus t.tx cause code tile } }

/-- Causes of an abort (R104). -/
def xConflict : Nat := 1
def xCapacity : Nat := 2
def xExplicit : Nat := 3
def xRemote : Nat := 4
def xLocal : Nat := 5
def xSuspend : Nat := 6
def xPreempt : Nat := 7
def xNest : Nat := 8
def xFault : Nat := 9

/-- Abort a strand's transaction: speculative tiles, registrations and buffered accesses go with the transaction's record,
held commands and the transaction's requests are dropped, the registers come back from the checkpoint. The local-memory bytes that an
LDROW has already written stay (L83). -/
def State.abortTx (s : State) (sid cause code : Nat) (tile : Option Word) : State :=
  { (s.setStrand sid (fun t => t.abort cause code tile)) with
    cmds := s.cmds.filter (fun c => !(c.sid == sid && c.state = .held)),
    reqs := s.reqs.filter (fun r => !(r.sid == sid && r.tx)),
    sfu := s.sfu.filter (fun q => q.sid != sid) }

/-! ### Stopping a job (R359, R360) -/

/-- Whether a strand of a stopped job keeps a request: not one that its transaction, given up with it, or a wait at a tagged word
left undone. -/
def Req.outlives (r : Req) (t : Strand) : Bool :=
  (!r.tx || t.tx.committing) && !((match r.kind with | .tagged _ _ _ => true | _ => false)
    && (r.state == .sent || r.state == .queued || r.state == .refused))

/-- Stop every strand of a job and drop its engine commands, its waits on events, its requests on objects and the signals of its
launches. One whose transaction commits is not stopped before that is over (R105). -/
def State.haltJob (s : State) (n : Nat) : State :=
  let mine (u : Strand) : Bool := u.exists? && (s.troupe u.troupe).job == n
  let stop (u : Strand) : Strand :=
    if mine u then { u with mode := .stopped 5, wait := none, blocked := none, stalled := false, stopDue := 0,
                            tx := if u.tx.committing then u.tx else Tx.none } else u
  { s with cur := stop s.cur, rest := s.rest.map stop, cmds := s.cmds.filter (fun c => c.job != n),
           reqs := s.reqs.filter (fun r => s.strands.all (fun t => t.sid != r.sid || !mine t || r.outlives t)),
           reg := { s.reg with
             waits := s.reg.waits.filter (fun w => !(w.job == n && w.slot.isNone)),
             conts := s.reg.conts.filter (fun c => c.job != n),
             requests := s.reg.requests.filter (fun r => match r.2 with
               | .event j _ _ _ _ (some _) => j != n
               | _ => true) },
           jobs := s.jobs.map (fun j => if j.num == n then { j with stopped := true, stopReported := true } else j) }

/-- The conservator stops a job and reports it, once (R359, R360). -/
def State.stopJob (s : State) (n : Nat) (report : Sent) : State := if (s.job n).stopReported then s else (s.haltJob n).send report

/-- The %cause of an asynchronous trap or of a precise one (R356). -/
def causeWord (async : Bool) (c : Cause) : Word := BitVec.ofNat 64 (2 ^ 15 + async.toNat * 2 ^ 14 + c.code)

/-- The fault report of a strand (R360) and the stop of its job. `flags`: bit 0 double trap, bit 1 no handler,
bit 2 issuing strand gone, bit 3 pending-trap overflow. -/
def State.stopFor (s : State) (t : Strand) (flags : Nat) (async : Bool) (c : Cause) (c0 c1 c2 c3 epc : Word) : State :=
  let u := s.troupe t.troupe
  s.stopJob u.job (.fault u.job u.part t.hw t.core flags u.index u.launch (causeWord async c) epc c0 c1 c2 c3 s.now)

/-- A job stops for a reason that concerns none of its strands. -/
def State.stopBare (s : State) (job part core : Nat) (c : Cause) (c0 c1 c2 : Word) : State :=
  s.stopJob job (.fault job part 0 core 0 0 0 (causeWord true c) 0 c0 c1 c2 0 s.now)

/-! ### Ending a strand (R239) -/

/-- When the last strand of a troupe that is being captured has stopped, its capture's time limit begins (R398). -/
def State.noteStopped (s : State) (u : Nat) : State :=
  let mine := s.strands.filter (fun t => t.troupe == u && t.exists?)
  if mine ≠ [] ∧ mine.all (fun t => t.mode != .running) then
    s.setTroupe u (fun x => { x with capture := x.capture.map (fun c =>
      { c with allStopped := match c.allStopped with | some n => some n | none => some s.now }) })
  else s

/-- The troupe's last END frees its cores: its rings are unbound (R40, R68). -/
def State.unbindRings (s : State) (u : Nat) : State :=
  { s with cores := s.cores.map (fun c =>
      { c with rings := c.rings.map (fun r => if r.troupe == u then Ring.unbound else r) }) }

/-- The strand in hand ends: it frees its slot and its accumulators, stops counting toward the barriers, and its troupe
has one strand less. A refusal of a posted store that is still pending stops the job (R362, R372); another pending trap is dropped and
reported (R401). -/
def State.endStrand (s : State) : State :=
  let t := s.cur
  let s1 := if t.tx.depth = 0 then s else s.abortTx t.sid xLocal 0 none
  let s2 := { s1 with cur := { s1.cur with mode := .ended, wait := none, blocked := none, stalled := false, pend := [] } }
  let s3 := s2.setTroupe t.troupe (fun u =>
    { u with strandsLeft := u.strandsLeft - 1, place := if u.strandsLeft ≤ 1 then .ended else u.place,
             capture := if u.strandsLeft ≤ 1 then none else u.capture })
  let s4 := if (s3.troupe t.troupe).place = .ended then s3.unbindRings t.troupe else (s3.noteStopped t.troupe).openTbar t.troupe
  let s5 := (s4.freeZ t.core t.sid 0).freeZ t.core t.sid 1
  let s6 := s5.openLbar (s5.troupe t.troupe).launch
  let s7 := (t.pend.filter (fun p => p.cause != .postedRefused)).foldl (fun a _ => a.reportDropped t.sid) s6
  match t.pend.find? (fun p => p.cause = .postedRefused) with
  | some p => s7.stopFor t 4 true p.cause p.c0 p.c1 p.c2 p.c3 t.pc
  | none => s7

/-! ### Taking a trap (R358, R382) -/

/-- Deliver a trap to the strand in hand: save the resume point and the information, set busy, go to the handler. -/
def State.deliver (s : State) (async : Bool) (c : Cause) (c0 c1 c2 c3 epc : Word) : State :=
  let j := s.myJob
  { s with cur := { s.cur with
      sr := { s.cur.sr with epc := epc, c0 := c0, c1 := c1, c2 := c2, c3 := c3,
                            cause := BitVec.ofNat 64 (2 ^ 15 + async.toNat * 2 ^ 14 + c.code) },
      pc := padd j.codeBase j.tvec, came := 0, wait := none, blocked := none, stalled := false, safe := false } }

/-- Take a trap: stop the job when it is fatal, end the strand when a CANCEL finds no handler, else abort a transaction
and deliver. `epc` is the resume point outside a transaction; inside, it is the handler (R382). -/
def State.takeTrap (s : State) (async : Bool) (c : Cause) (c0 c1 c2 c3 epc : Word) : State :=
  let t := s.cur
  let at' := if t.tx.depth = 0 then epc else t.tx.handler
  let noHandler := s.myJob.tvec == 0 && c != .cancel
  if c.fatal || t.busy || noHandler then
    s.stopFor t (t.busy.toNat + 2 * noHandler.toNat) async c c0 c1 c2 c3 at'
  else if s.myJob.tvec = 0 then s.endStrand
  else
    let tile := if c = .translate ∨ c = .protect ∨ c = .poison then some c0 else none
    ((if t.tx.depth = 0 then s else s.abortTx t.sid xFault c.code tile).deliver async c c0 c1 c2 c3 at')

/-- A precise trap at the instruction in hand; after `advance`, one that comes after the instruction (R357). -/
def State.trap (s : State) (c : Cause) (c0 c1 c2 c3 : Word) : State := s.takeTrap false c c0 c1 c2 c3 s.cur.pc

/-- The first five words of an instruction as R364 lays them out for ILLEGAL. -/
def wordsInfo (ws : List Half) : Word × Word :=
  let w (i : Nat) : Nat := (ws.getD i 0).toNat
  (BitVec.ofNat 64 (w 0 + w 1 * 2 ^ 16 + w 2 * 2 ^ 32 + w 3 * 2 ^ 48),
   BitVec.ofNat 64 (w 4 + ws.length % 16 * 2 ^ 16))

/-- An ILLEGAL trap with its sub-code (R364, R365). -/
def State.illegal (s : State) (sub : Nat) : State :=
  s.trap .illegal (wordsInfo s.ir).1 (wordsInfo s.ir).2 (BitVec.ofNat 64 sub) 0

/-- The page and opcode of the words in hand, as R364 packs them for an access. -/
def opOf (ws : List Half) : Word :=
  let page : Nat := match ws with
    | w :: _ => if w.extractLsb' 11 5 = 0b11110 then (w.extractLsb' 6 5).toNat else 0
    | [] => 0
  BitVec.ofNat 64 (page % 64 * 256 + ((ws.getLastD 0).extractLsb' 10 6).toNat)

/-- Kinds of access (R364). -/
def accLoad : Nat := 0
def accStore : Nat := 1
def accRmw : Nat := 2
def accFetch : Nat := 3
def accJump : Nat := 4
def accSrc : Nat := 5
def accDst : Nat := 6

/-- Whether a trap comes from a copy engine (R378). -/
def Trap.ofEngine (p : Trap) : Bool := p.cause != .channelBroken && p.c3.extractLsb' 8 4 == 2

/-- Whether such a trap says that its command has ended: a scale byte that a poisoned word refuses ends none (R378, R381, R394). -/
def Trap.endsCommand (p : Trap) : Bool := p.ofEngine && !(p.cause == .poison && p.c1.extractLsb' 0 16 == BitVec.ofNat 16 accDst)

/-- %cinfo.1 of a memory trap (R364). -/
def accInfo (acc size : Nat) : Word := BitVec.ofNat 64 (acc + size % 2 ^ 32 * 2 ^ 16)

/-- %cinfo.3 of TRANSLATE, PROTECT and POISON (R375): where 0 the core, 1 the destination package, 2 an engine. -/
def whyInfo (reason whence level : Nat) : Word := BitVec.ofNat 64 (reason + whence * 256 + level * 4096)

/-- A memory trap of the instruction in hand. -/
def State.memTrap (s : State) (c : Cause) (ptr : Word) (acc size reason level : Nat) : State :=
  s.trap c ptr (accInfo acc size) (opOf s.ir) (whyInfo reason 0 level)

/-- A MISALIGN or SPACE trap of the instruction in hand. -/
def State.spaceTrap (s : State) (c : Cause) (ptr : Word) (acc size : Nat) : State :=
  s.trap c ptr (accInfo acc size) (opOf s.ir) 0

/-! ### Asynchronous traps (R357, R363, R372) -/

/-- A trap becomes pending for a strand: the seventeenth stops the job; one for a strand that has ended is dropped and reported (R401). -/
def State.pendTrap (s : State) (sid : Nat) (p : Trap) : State :=
  match s.strand? sid with
  | some t =>
    if t.mode = .stopped 5 then s
    else if t.pend.length ≥ 16 then s.stopFor t (8 + t.busy.toNat) true p.cause p.c0 p.c1 p.c2 p.c3 t.pc
    else s.setStrand sid (fun u => { u with pend := u.pend ++ [p] })
  | none => s.reportDropped sid

/-- The pending trap that is delivered first: lowest priority number, then lowest cause code, then the oldest. -/
def firstTrap (ps : List Trap) : Option Trap :=
  ps.foldl (fun acc p => match acc with
    | none => some p
    | some q =>
      if p.cause.priority < q.cause.priority ∨ (p.cause.priority = q.cause.priority ∧ p.cause.code < q.cause.code) then some p
      else some q) none

/-- Take out the first entry equal to a trap. -/
def dropTrap (p : Trap) : List Trap → List Trap
  | [] => []
  | q :: r => if q = p then r else q :: dropTrap p r

/-! ### Return from a trap (R361, R322) -/

/-- Whether a register target has bit 0 clear (R228). -/
def targetOk (t : Word) : Bool := !t.getLsbD 0

/-- SRET: check the target, clear busy, go there. -/
def State.returnTrap (s : State) : State :=
  let e := s.cur.sr.epc
  if targetOk e then
    let s1 := s.jump e
    { s1 with cur := { s1.cur with sr := { s1.cur.sr with cause := s1.cur.sr.cause &&& ~~~(0x8000 : Word) } } }
  else s.spaceTrap .misalign e accJump 2

end Sys2Proof.Machine
end

