-- ==== Sys2Proof/Machine/Deposits.lean ====
section
/-! DEFINITION. The arithmetic of read-modify-writes, rows and deposits (spec/10 R196, spec/14 R278 to R283, spec/07 R140,
spec/06 R118), and a word as a fresh read finds it (R82, R105, R119). -/

namespace Sys2Proof.Machine

/-! ### Operations of read-modify-writes (R196, R278) -/

/-- The value an operation gives on n bytes, and whether it writes (codes of R196). -/
def amoResult (op n old a b : Nat) : Nat × Bool :=
  let w := 8 * n
  let sg (v : Nat) : Int := (BitVec.ofNat w v).toInt
  match op with
  | 0x00 => ((old + a) % 2 ^ w, true)
  | 0x01 => (old &&& a, true)
  | 0x02 => (old ||| a, true)
  | 0x03 => (old ^^^ a, true)
  | 0x04 => (if sg old ≤ sg a then old else a, true)
  | 0x05 => (if sg old ≤ sg a then a else old, true)
  | 0x06 => (if old ≤ a then old else a, true)
  | 0x07 => (if old ≤ a then a else old, true)
  | 0x08 => (a, true)
  | 0x09 => (a, old == b)
  | 0x0A => ((old + a) % 2 ^ w, decide (old + a ≤ b))
  | _ => ((ffF32.bin .add old a .rne false 0).bits, true)

/-- Element types of deposits and rows: 0 s32, 1 s64, 2 n32, 3 n64, 4 f32, 5 bf16, 6 f16. -/
def elemBytes (e : Nat) : Nat := if e = 1 ∨ e = 3 then 8 else if e = 5 ∨ e = 6 then 2 else 4
def elemFmt (e : Nat) : FF := if e = 5 then ffBf16 else if e = 6 then ffF16 else ffF32
def elemFloat (e : Nat) : Bool := decide (4 ≤ e)
def rowElem : RowTy → Nat | .s32 => 0 | .f32 => 4 | .bf16 => 5 | .f16 => 6

/-- One element of a row operation without comm: op 0x0B adds, 0x05 takes the greater (R282). -/
def rowElement (op e old delta : Nat) : Nat :=
  if elemFloat e then
    (if op = 0x05 then (elemFmt e).pick true old delta else ((elemFmt e).bin .add old delta .rne false 0).bits)
  else (amoResult (if op = 0x05 then 0x05 else 0x00) (elemBytes e) old delta 0).1

/-! ### Deposits (R82, R118, R140, R283) -/

/-- A delta as an accumulator holds it: bf16 and f16 as f32. -/
def accOf (e v : Nat) : Nat := if e = 5 ∨ e = 6 then ffF32.encode ((elemFmt e).decode v) else v

/-- The accumulator at the identity of its operation (R118): −0 for a float sum, −∞ for a float maximum, 0, all ones,
or the greatest or least value. -/
def accStart (op e : Nat) : Nat :=
  if elemFloat e then (if op = 0x05 then ffF32.encode (.inf true) else 2 ^ 31)
  else
    let w := 8 * elemBytes e
    match op with
    | 0x01 => 2 ^ w - 1
    | 0x04 => 2 ^ (w - 1) - 1
    | 0x05 => 2 ^ (w - 1)
    | 0x06 => 2 ^ w - 1
    | _ => 0

/-- One deposit into an accumulator: f32 for every float type (R140). -/
def accAdd (op e acc v : Nat) : Nat :=
  if elemFloat e then
    (if op = 0x05 then ffF32.pick true acc v else (ffF32.bin .add acc v .rne false 0).bits)
  else (amoResult op (elemBytes e) acc v 0).1

/-- The merge of an accumulator into its element at the home: rounded once (R140). -/
def accMerge (op e home acc : Nat) : Nat :=
  if elemFloat e then
    let f := elemFmt e
    if op = 0x05 then f.encode (ffF32.decode (ffF32.pick true (ffF32.encode (f.decode home)) acc))
    else (f.finish (Num.add false (f.decode home) (ffF32.decode acc)).exact .rne false 0 none false false).bits
  else (amoResult op (elemBytes e) home acc 0).1

/-- Deposit a delta at an address: the accumulator of that address takes it. -/
def depositInto (op e : Nat) (a v : Nat) : List (Nat × Word) → List (Nat × Word)
  | [] => [(a, BitVec.ofNat 64 (accAdd op e (accStart op e) v))]
  | (a', x) :: r => if a' = a then (a, BitVec.ofNat 64 (accAdd op e x.toNat v)) :: r else (a', x) :: depositInto op e a v r

/-- Whether two deposits are of one unit and kind. -/
def Deposit.sameUnit (p q : Deposit) : Bool := p.unit == q.unit && p.bytes == q.bytes && p.op == q.op && p.elem == q.elem

/-- Whether a deposit's unit overlaps n bytes at a. -/
def Deposit.overlaps (p : Deposit) (a n : Nat) : Bool := decide (p.unit < a + n) && decide (a < p.unit + p.bytes)

/-- Update-only lines that a unit occupies: one covers 128 bytes, or 64 of bf16 or f16 (R118, R283). -/
def unitLines (d : Deposit) : Nat :=
  if d.elem = 5 ∨ d.elem = 6 then (d.bytes + 63) / 64 else (d.bytes + 127) / 128

/-- Deposit everything of q into p. -/
def Deposit.absorb (p q : Deposit) : Deposit :=
  { p with deltas := q.deltas.foldl (fun l d => depositInto p.op p.elem d.1 d.2.toNat l) p.deltas, id := min p.id q.id }

/-- The bytes that the update-only line of a core for an address covers, as start and length: 64 of bf16 or f16, else 128 (R118). -/
def Core.updateLine (c : Core) (a : Nat) : Nat × Nat :=
  if c.upd.any (fun u => u.dep.overlaps a 1 && (u.dep.elem == 5 || u.dep.elem == 6)) then (a / 64 * 64, 64) else (a / 128 * 128, 128)

/-- The update-only units of a core without what they hold for some addresses (R380). -/
def Core.loseDeposits (c : Core) (lost : Nat → Bool) : Core :=
  let kept (d : Deposit) : Deposit := { d with deltas := d.deltas.filter (fun e => !lost e.1) }
  { c with upd := (c.upd.map (fun u => { u with dep := kept u.dep })).filter (fun u => !u.dep.deltas.isEmpty) }

/-- A deposit reaches the core's L1 (R118). The unit registers later; a unit of another kind there merges first. -/
def Core.deposit (c : Core) (sid : Nat) (q : Deposit) (now : Nat) : Core :=
  if c.upd.any (fun u => u.dep.sameUnit q) then
    { c with upd := c.upd.map (fun u => if u.dep.sameUnit q then
        { u with dep := u.dep.absorb q, sids := if u.sids.contains sid then u.sids else u.sids ++ [sid] } else u) }
  else { c with upd := c.upd ++ [⟨Deposit.absorb { q with deltas := [] } q, [sid], false, now⟩] }

/-! ### A word as a fresh read finds it -/

/-- A byte with the version of a committing transaction whose home has yet to apply it (R105). -/
def State.committedByte (s : State) (a : Nat) : Byte :=
  match s.strands.find? (fun t => t.exists? && t.tx.committing && t.tx.spec.any (fun c => c.1 == a)) with
  | some t => ((t.tx.spec.find? (fun c => c.1 == a)).map (·.2)).getD (Memory.get s.mem a)
  | none => Memory.get s.mem a

/-- A word at w of bytes bs after the deltas of a deposit that lie in it. -/
def Deposit.onWord (d : Deposit) (w : Nat) (bs : List Byte) : List Byte :=
  let n := elemBytes d.elem
  d.deltas.foldl (fun b e =>
    if w ≤ e.1 ∧ e.1 + n ≤ w + 8 then putField b (e.1 - w) n (accMerge d.op d.elem (fieldAt b (e.1 - w) n) e.2.toNat) else b) bs

/-- An aligned word as a fresh read of it answers: commits finished, registered deposits merged (R105, R119). -/
def State.freshWord (s : State) (a : Nat) : Word :=
  let bs := (List.range 8).map (fun i => s.committedByte (a + i))
  BitVec.ofNat 64 (leNat (s.cores.foldl (fun b c => (c.upd.filter (·.registered)).foldl (fun b u => u.dep.onWord a b) b) bs))

end Sys2Proof.Machine
end

