-- ==== Sys2Proof/Machine/Operands.lean ====
section
/-! DEFINITION. Operands: the check of full/empty bits before an instruction issues (spec/02 R42, spec/12 R216, spec/19 R368),
lanes of vector registers (spec/13 R244, R245), pointers of memory operands (spec/12 R233) and the state that forbids a use. -/

namespace Sys2Proof.Machine

/-! ### Full/empty at issue -/

/-- An operand that an instruction reads: its place (0 d, 1 s, 2 t), its file, its registers, its trap bit. -/
structure Src where
  op : Nat
  vec : Bool
  regs : List Reg
  trap : Bool
  deriving DecidableEq, Repr

/-- Registers that an instruction writes. -/
structure Dst where
  vec : Bool
  regs : List Reg
  deriving DecidableEq, Repr

def rx (op : Nat) (r : Reg) (trap : Bool) : Src := ⟨op, false, [r], trap⟩
def rv (op : Nat) (w : Grp) (r : Reg) (trap : Bool) : Src := ⟨op, true, groupRegs w r, trap⟩
def wx (r : Reg) : Dst := ⟨false, [r]⟩
def wv (w : Grp) (r : Reg) : Dst := ⟨true, groupRegs w r⟩

/-- Whether a register is full. -/
def Strand.full (t : Strand) (vec : Bool) (r : Reg) : Bool := if vec then t.fullV r else t.fullX r

/-- The lowest empty register of an operand. -/
def Strand.emptyOf (t : Strand) (q : Src) : Option Reg := q.regs.find? (fun r => !t.full q.vec r)

/-- Whether a register is read under a trap-on-empty bit. -/
def trapped (reads : List Src) (vec : Bool) (r : Reg) : Bool := reads.any (fun q => q.trap && q.vec == vec && q.regs.contains r)

/-- Whether a register that the instruction reads or writes is empty and read under no trap-on-empty bit, so that the strand is
not ready (R22, R42, R216; L79). -/
def Strand.lacks (t : Strand) (reads : List Src) (writes : List Dst) : Bool :=
  reads.any (fun q => q.regs.any (fun r => !t.full q.vec r && !trapped reads q.vec r))
    || writes.any (fun q => q.regs.any (fun r => !t.full q.vec r && !trapped reads q.vec r))

/-- Before an instruction issues: a strand that is not ready waits. Of one that is, the first empty operand with its trap bit set
raises EMPTY_REG at issue, the operands taken in the order given (R22, R366, R368). -/
def gate (s : State) (reads : List Src) (writes : List Dst) : Option State :=
  if s.cur.lacks reads writes then some (s.waitFor .empty) else
  (reads.find? (fun q => q.trap && (s.cur.emptyOf q).isSome)).map (fun q =>
    s.trap .emptyReg (BitVec.ofNat 64 (q.op + q.vec.toNat * 2 ^ 8 + ((s.cur.emptyOf q).getD 0).toNat * 2 ^ 16)) 0 0 0)

/-- Run an instruction's effect once its registers allow it. -/
def withRegs (s : State) (reads : List Src) (writes : List Dst) (k : State → State) : Out State :=
  .next (orElse (gate s reads writes) (fun _ => k s))

/-! ### Transactions forbid some operations (R99) -/

/-- Inside a transaction the operation aborts it with a cause; outside, it goes on. -/
def noTx (s : State) (cause : Nat) : Option State :=
  if s.cur.tx.depth = 0 then none else some (s.abortTx s.cur.sid cause 0 none)

/-! ### Memory operands (R233) -/

/-- The pointer of `[a+imm]`. -/
def memPtr (s : State) (a : Reg) (imm : Word) : Word := padd (s.x a) imm

/-! ### Lanes (R244) -/

def laneBits : LaneW → Nat
  | .w8 => 8 | .w16 => 16 | .w32 => 32 | .w64 => 64

/-- Lanes of one register. -/
def lanesOf (w : Nat) : Nat := 256 / w

/-- Lane l of a register, as a number. -/
def lane (v : VReg) (w l : Nat) : Nat := (v.toNat >>> (w * l)) % 2 ^ w

/-- The lanes of a register, lowest first. -/
def lanes (v : VReg) (w : Nat) : List Nat := (List.range (lanesOf w)).map (lane v w)

/-- A number from its parts of w bits, lowest first. -/
def joinBits (w : Nat) : List Nat → Nat
  | [] => 0
  | b :: r => b % 2 ^ w + 2 ^ w * joinBits w r

/-- A register from its lanes. -/
def unlanes (w : Nat) (ls : List Nat) : VReg := BitVec.ofNat 256 (joinBits w ls)

/-- Whether group lane g is active under a predicate (R245). -/
def activeLane (p : Quad) (g : Nat) : Bool := p.getLsbD (g % 32)

/-- The bytes of a register, lowest first. -/
def vbytes (v : VReg) : List Byte := natBytes 32 v.toNat

/-- A register from its bytes. -/
def ofVbytes (bs : List Byte) : VReg := BitVec.ofNat 256 (leNat bs)

/-- Sign or zero extension of an n-bit value to 64 bits. -/
def extend (signed : Bool) (n v : Nat) : Word := if signed then BitVec.ofInt 64 ((BitVec.ofNat n v).toInt) else BitVec.ofNat 64 (v % 2 ^ n)

end Sys2Proof.Machine
end

