-- ==== Sys2Proof/Machine/Flags.lean ====
section
/-! DEFINITION. The arithmetic counters of a troupe: the events of spec/13 R247, how they are counted, when an instruction
crosses a limit and what ARITH carries (spec/19 R370, R371). The machine has no condition flags (spec/12 R215). -/

namespace Sys2Proof.Machine

/-- One event: its counter (0 nan, 1 inf, 2 sat, 3 sovf, 4 sunf) and the element it names (R371). -/
structure Ev where
  counter : Fin 5
  kind : Nat
  reg : Nat
  row : Nat
  col : Nat
  k : Nat
  deriving DecidableEq, Repr

/-- The events of a rounded element of a vector register. -/
def Rounded.events (r : Rounded) (kind reg row col k : Nat) : List Ev :=
  (if r.nan then [⟨0, kind, reg, row, col, k⟩] else []) ++ (if r.inf then [⟨1, kind, reg, row, col, k⟩] else [])
    ++ (if r.sat then [⟨2, kind, reg, row, col, k⟩] else [])

/-- Whether n additions take a counter across its limit, over the exact sum (R370). -/
def crosses (old limit : Quad) (n : Nat) : Bool :=
  limit != 0 && decide (old.toNat < limit.toNat) && decide (limit.toNat ≤ old.toNat + n)

/-- The events of one counter. -/
def eventsOf (evs : List Ev) (i : Fin 5) : List Ev := evs.filter (fun e => e.counter == i)

/-- The counters an instruction crosses. -/
def crossed (u : Troupe) (evs : List Ev) : List (Fin 5) :=
  (List.finRange 5).filter (fun i => crosses u.arith[i] u.alimit[i] (eventsOf evs i).length)

/-- What ARITH carries (R371), when a counter is crossed: the event that crossed the lowest crossed counter names the element. -/
def arithTrap (u : Troupe) (evs : List Ev) (op : Word) (fmta fmtb : Nat) (pc : Word) (now : Nat) : Option Trap :=
  match crossed u evs with
  | [] => none
  | f :: r =>
    let mask := (f :: r).foldl (fun m i => m + 2 ^ i.val) 0
    let e := ((eventsOf evs f).getD (u.alimit[f].toNat - u.arith[f].toNat - 1) ⟨f, 0, 0, 0, 0, 0x7F⟩)
    some { cause := .arith, time := now,
           c0 := BitVec.ofNat 64 (op.toNat % 64 * 2 ^ 16 + op.toNat / 256 * 2 ^ 8 + f.val * 2 ^ 5 + mask),
           c1 := BitVec.ofNat 64 (e.kind * 2 ^ 24 + e.reg * 2 ^ 16 + e.row * 2 ^ 8 + e.col),
           c2 := BitVec.ofNat 64 (fmtb * 2 ^ 16 + fmta * 2 ^ 8 + e.k), c3 := pc }

/-- Add the events to the counters, modulo 2^32. -/
def addEvents (u : Troupe) (evs : List Ev) : Troupe :=
  { u with arith := Vector.ofFn (fun i => u.arith[i] + BitVec.ofNat 32 (eventsOf evs i).length) }

/-- Count the events of an instruction of a troupe: the state after, and ARITH if the instruction crosses a limit. -/
def State.countEvents (s : State) (uid : Nat) (evs : List Ev) (op : Word) (fmta fmtb : Nat) (pc : Word) : State × Option Trap :=
  if evs.isEmpty then (s, none)
  else (s.setTroupe uid (fun u => addEvents u evs), arithTrap (s.troupe uid) evs op fmta fmtb pc s.now)

/-- The instruction in hand is done, with its events: the PC moves on, and ARITH comes after the instruction (R370). -/
def State.advanceCounting (s : State) (evs : List Ev) (fmta fmtb : Nat) : State :=
  let r := s.countEvents s.cur.troupe evs (opOf s.ir) fmta fmtb s.cur.pc
  match r.2 with
  | none => r.1.advance
  | some t => r.1.advance.trap t.cause t.c0 t.c1 t.c2 t.c3

/-- Format codes of R259 for a class F type. -/
def ftyCode : FTy → Nat
  | .f32 => 0 | .f16 => 1 | .bf16 => 2

/-- Format codes of R259 for a class V type. -/
def intCode (unsigned : Bool) (w : LaneW) : Nat :=
  8 + (if unsigned then 4 else 0) + (match w with | .w8 => 0 | .w16 => 1 | .w32 => 2 | .w64 => 3)

end Sys2Proof.Machine
end

