-- ==== Sys2Proof/Machine/Translate.lean ====
section
/-! DEFINITION. Translation of pointers (spec/03 R49, R58 to R61) and the checks of spec/20 R374 in their order.
Translation caches may hold an older mapping until a shootdown (R62); whether an entry is still held when it is looked up
is left open (L30). -/

namespace Sys2Proof.Machine

/-- The outcome of a translation: the failing check with its cause, reason and level, or the physical address and the
entry that a translation cache takes in. -/
inductive Found
  | bad (c : Cause) (reason level : Nat)
  | good (phys : Nat) (entry : Option TlbEntry)
  deriving DecidableEq, Repr

/-- The bays of a job: the union of its partitions' (R41), without fenced bays (R383). -/
def Job.bays (j : Job) : BitVec 80 := j.parts.toList.foldl (fun a p => a ||| p.bays) 0

/-- Whether a core lies in the job's bays. -/
def Job.hasCore (j : Job) (core : Nat) : Bool := decide (core < 640) && j.bays.getLsbD (bayOfCore core)

/-- A level of the depot walk: its number, the lowest index bit, the number of index bits (R59). -/
def walkLevels : List (Nat × Nat × Nat) := [(1, 30, 18), (2, 21, 9), (3, 16, 5)]

/-- The depot walk (R59, R60): the leaf's base, size and rights, or the failing check. Each entry is read as a fresh access finds
it; what such a read merges is merged for other agents when they next ask for it (R82). -/
inductive Walked
  | fail (c : Cause) (reason level : Nat)
  | leaf (base size : Nat) (r w x : Bool)
  deriving DecidableEq, Repr

def walk (s : State) (off : Nat) : Nat → List (Nat × Nat × Nat) → Walked
  | _, [] => .fail .translate 0x05 3
  | base, (lvl, lo, n) :: rest =>
    let a := depAddr (base + off / 2 ^ lo % 2 ^ n * 8)
    let e := (s.freshWord a).toNat
    let pa := e / 2 ^ 8 % 2 ^ 33 * 2 ^ 8
    let kind := e % 4
    if s.isPoison a then .fail .poison 0x21 lvl
    else if kind = 2 then
      if pa % 2 ^ lo = 0 then .leaf pa (2 ^ lo) (e / 4 % 2 == 1) (e / 8 % 2 == 1) (e / 16 % 2 == 1)
      else .fail .translate 0x05 lvl
    else if kind = 1 then (if rest.isEmpty then .fail .translate 0x05 lvl else walk s off pa rest)
    else .fail .translate 0x04 lvl

/-- The window of a job that covers a gallery offset (R58). -/
def Job.windowAt (j : Job) (die off : Nat) : Option GalWindow :=
  j.windows.find? (fun w => w.die == die && decide (w.vbase * 65536 ≤ off) && decide (off < (w.vbase + w.size) * 65536))

/-- What the tables say now: the translation unit that covers a gallery or depot address. -/
def tableEntry (s : State) (unit job : Nat) (ptr : Word) : Found ⊕ TlbEntry :=
  let j := s.job job
  let off := ptrOff ptr
  if ptrSpace ptr = 2 then
    match j.windowAt (ptrOwner ptr) off with
    | none => .inl (.bad .translate 0x03 0)
    | some w => .inr ⟨unit, job, 2, ptrOwner ptr, w.vbase * 65536, w.size * 65536,
        galAddr (ptrOwner ptr) (w.pbase * 65536), w.read, w.write, false⟩
  else
    match walk s off j.ptBase walkLevels with
    | .fail c r l => .inl (.bad c r l)
    | .leaf base size r w x => .inr ⟨unit, job, 3, 0, off / size * size, size, depAddr base, r, w, x⟩

/-- The entry that a translation cache may hold for a pointer. -/
def heldEntry (s : State) (unit job : Nat) (ptr : Word) : Option TlbEntry :=
  s.tlb.find? (fun e => e.unit == unit && e.job == job && e.space == ptrSpace ptr && e.die == ptrOwner ptr
    && decide (e.base ≤ ptrOff ptr) && decide (ptrOff ptr < e.base + e.len))

/-- An entry that a translation cache still holds (L30). -/
def cachedEntry (s : State) (unit job : Nat) (ptr : Word) : Option TlbEntry :=
  match heldEntry s unit job ptr with
  | none => none
  | some e => if Config.keeps s.ticks 0 then some e else none

/-- The last checks of R374 on an entry: the access lies in it, then the rights read, write, fetch. -/
def TlbEntry.check (e : TlbEntry) (off size : Nat) (r w x : Bool) (keep : Option TlbEntry) : Found :=
  if e.base + e.len < off + size then .bad .translate 0x06 0
  else if r && !e.r then .bad .protect 0x10 0
  else if w && !e.w then .bad .protect 0x11 0
  else if x && !e.x then .bad .protect 0x12 0
  else .good (e.phys + (off - e.base)) keep

/-- Translate a pointer of space 1, 2, 3 or 5 for a job through a unit's translation cache (R374). -/
def lookup (s : State) (unit job : Nat) (ptr : Word) (size : Nat) (r w x : Bool) : Found :=
  let off := ptrOff ptr
  let own := ptrOwner ptr
  match ptrSpace ptr with
  | 1 =>
    if !(s.job job).hasCore own then .bad .translate 0x01 0
    else if off ≥ 0x60000 then .bad .translate 0x02 0
    else if off + size > 0x60000 then .bad .translate 0x06 0
    else .good (lmAddr own off) none
  | 2 =>
    if own ≥ 4 then .bad .translate 0x01 0
    else match cachedEntry s unit job ptr with
      | some e => e.check off size r w x none
      | none => match tableEntry s unit job ptr with
        | .inl f => f
        | .inr e => e.check off size r w x (some e)
  | 3 =>
    if own ≠ 0 then .bad .translate 0x01 0
    else match cachedEntry s unit job ptr with
      | some e => e.check off size r w x none
      | none => match tableEntry s unit job ptr with
        | .inl f => f
        | .inr e => e.check off size r w x (some e)
  | 5 =>
    match s.mgmt.regions.find? (fun g => g.host && g.key == own && g.job == job) with
    | none => .bad .translate 0x01 0
    | some g =>
      if off ≥ g.len then .bad .translate 0x02 0
      else if off + size > g.len then .bad .translate 0x06 0
      else if r && !g.r then .bad .protect 0x10 0
      else if w && !g.w then .bad .protect 0x11 0
      else .good (hstAddr own off) none
  | _ => .bad .space 0 0

/-- The entries a unit's translation cache has room for: a bay 1,024, an engine 64 (R61). -/
def tlbRoom (unit : Nat) : Nat := if unit < 80 then 1024 else if unit < 104 then 64 else 65536

/-- Room for one more: of a list that fills its room one entry goes, a free one (L30). -/
def makeRoom {α : Type} (l : List α) (room n : Nat) : List α :=
  if room ≤ l.length then (l.eraseIdx (n % max l.length 1)).take (room - 1) else l

/-- A translation cache takes an entry in. -/
def State.takeEntry (s : State) (e : TlbEntry) : State :=
  let mine := s.tlb.filter (fun x => x.unit == e.unit && !(x.job == e.job && x.space == e.space && x.die == e.die && x.base == e.base))
  { s with tlb := e :: makeRoom mine (tlbRoom e.unit) (Config.pick s.ticks) ++ s.tlb.filter (fun x => x.unit != e.unit) }

/-- The entry of an access by the strand in hand that its bay's cache did not hold: the cache takes it in, and a walk of the page
table, an access with acq order at pkg scope, has acquired (R59). -/
def State.cacheEntry (s : State) (e : Option TlbEntry) : State :=
  match e with
  | none => s
  | some e => (if e.space = 3 then s.acquire s.cur.core else s).takeEntry e

/-- The same for an agent of the device. -/
def State.cacheAgent (s : State) (e : Option TlbEntry) : State :=
  match e with
  | none => s
  | some e => s.takeEntry e

/-- The bay of the strand in hand. -/
def State.myBay (s : State) : Nat := bayOfCore s.cur.core

/-- The acquire of a walk whose check fails: one that walked the page table has read its entries with acq order (R59). -/
def State.walked (s : State) (ptr : Word) : State :=
  if ptrSpace ptr = 3 ∧ ptrOwner ptr = 0 ∧ (cachedEntry s s.myBay s.myTroupe.job ptr).isNone then s.acquire s.cur.core else s

/-- The operand checks of an access by the strand in hand, in the order MISALIGN, SPACE, TRANSLATE, PROTECT (R366):
`reach` says whether the instruction reaches the pointer's space. Nothing else is done when one fails.
A REM pointer is checked at its destination (R376). -/
def State.checked (s : State) (ptr : Word) (align size acc : Nat) (r w : Bool) (reach : Bool) (k : State → Nat → State) : State :=
  if ptrOff ptr % align ≠ 0 then s.spaceTrap .misalign ptr acc size
  else if !reach then s.spaceTrap .space ptr acc size
  else if ptrSpace ptr = 4 then k s 0
  else match lookup s s.myBay s.myTroupe.job ptr size r w false with
    | .bad c reason level =>
      if c = .space then s.spaceTrap .space ptr acc size else (s.walked ptr).memTrap c ptr acc size reason level
    | .good phys e => k (s.cacheEntry e) phys

/-- The spaces that loads and stores reach (R50). -/
def reachPlain (ptr : Word) : Bool := [1, 2, 3, 4].contains (ptrSpace ptr)
/-- The spaces that atomics, row operations and TOPK reach. -/
def reachHome (ptr : Word) : Bool := [2, 3].contains (ptrSpace ptr)
/-- The spaces that tagged-word instructions reach. -/
def reachTagged (ptr : Word) : Bool := [1, 2].contains (ptrSpace ptr)

/-- Whether a pointer names the local memory of the core of the strand in hand. -/
def State.ownLm (s : State) (ptr : Word) : Bool := ptrSpace ptr == 1 && ptrOwner ptr == s.cur.core

/-! ### Instruction fetch (R228, R367) -/

/-- Whether a word at a pointer lies in the job's code region. -/
def inCode (j : Job) (p : Word) : Bool :=
  ptrSpace p == 3 && ptrOwner p == 0 && decide (ptrOff j.codeBase ≤ ptrOff p) && decide (ptrOff p + 2 ≤ ptrOff j.codeLimit)

/-- Translate the address of one instruction word. Where the entry held is what the tables say, it does not matter whether the cache
has dropped it. -/
def fetchAddr (s : State) (p : Word) : Found :=
  match heldEntry s s.myBay s.myTroupe.job p, tableEntry s s.myBay s.myTroupe.job p with
  | some h, .inr e => if h = e ∧ ptrSpace p = 3 ∧ ptrOwner p = 0 then e.check (ptrOff p) 2 false false true none
      else lookup s s.myBay s.myTroupe.job p 2 false false true
  | _, _ => lookup s s.myBay s.myTroupe.job p 2 false false true

end Sys2Proof.Machine
end

