-- ==== Sys2Proof/Machine/Requests.lean ====
section
/-! DEFINITION. Requests that a strand hands elsewhere and that complete by a step of their own (spec/12 R217). -/

namespace Sys2Proof.Machine

/-- A request of the strand in hand. -/
def newReq (s : State) (kind : ReqKind) (ptr : Word) (addr : Nat) (order : Order) (scope : Scope) : Req :=
  let op := (opOf s.ir).toNat
  { id := s.nextId, sid := s.cur.sid, core := s.cur.core, kind := kind, ptr := ptr, addr := addr, order := order,
    scope := scope, state := .sent, tx := s.cur.tx.depth != 0, lt := (s.core s.cur.core).lt, wts := 0, time := none,
    limit := 0, page := op / 256, opcode := op % 64, pc := s.cur.pc, chan := s.cur.sr.chan.toNat % 4096, refusals := 0, retryAt := 0, turn := 0, group := s.nextId }

/-- Send it. -/
def State.post (s : State) (r : Req) : State := { s with reqs := s.reqs ++ [r], nextId := s.nextId + 1 }

/-- A stamp reaches a core: its lt rises (R109, R110), and the releases that still wait in its queue will carry it. -/
def State.raiseLt (s : State) (core wts : Nat) : State :=
  let s1 := s.setCore core (fun c => { c with lt := max c.lt wts })
  { s1 with reqs := s1.reqs.map (fun r =>
      if r.core = core ∧ r.order.releases ∧ !r.done then { r with lt := max r.lt (s1.core core).lt } else r) }

end Sys2Proof.Machine
end

