-- ==== Sys2Proof/Machine/Coherent.lean ====
section
/-! DEFINITION. Operations on memory behind the caches: writes and what they wake, poison, the merge of deposits, the stamps and the
directory of a line, conflicts with transactions
(spec/06 R108 to R121, spec/14 R278 to R286, spec/05 R95 to R97, spec/20 R381). -/

namespace Sys2Proof.Machine

/-! ### Writing, and who sees a write -/

/-- Apply a function to every strand. -/
def State.mapStrands (s : State) (f : Strand → Strand) : State := { s with cur := f s.cur, rest := s.rest.map f }

/-- Wake a strand whose watched word a write changed (R298): it receives the new value. -/
def Strand.noteWrite (t : Strand) (m : Memory) (a n : Nat) : Strand :=
  match t.wait with
  | some (.watch w r old) =>
    let v : Word := BitVec.ofNat 64 (m.readN w 8)
    if w < a + n ∧ a < w + 8 ∧ v ≠ old then t.finishWait.putX r v else t
  | _ => t

/-- The cores with a strand that watches one of n bytes at a. -/
def State.watchers (s : State) (a n : Nat) : List Nat :=
  (s.strands.filter (fun t => match t.wait with
    | some (.watch w _ _) => decide (w < a + n) && decide (a < w + 8)
    | _ => false)).map (·.core)

/-- Whoever watches n bytes at a sees them as they now stand; what it reads later is no older (R75, R79; L35). -/
def State.noteAt (s : State) (a n : Nat) : State :=
  (s.watchers a n).foldl (fun t core => t.acquire core)
    { s with cur := s.cur.noteWrite s.mem a n, rest := s.rest.map (fun t => t.noteWrite s.mem a n) }

/-- Write bytes, and wake the strands that watch them. -/
def State.put (s : State) (a : Nat) (bs : List Byte) : State := (s.poke a bs).noteAt a bs.length

/-- Write several runs of bytes as one write: only then do the strands that watch them look (R74, R105, R283). -/
def State.putAll (s : State) (parts : List (Nat × List Byte)) : State :=
  parts.foldl (fun t p => t.noteAt p.1 p.2.length) (parts.foldl (fun t p => t.poke p.1 p.2) s)

/-- Whether a write of n bytes is one that a poisoned word refuses: narrower than the word (R381). -/
def State.refusesWrite (s : State) (a n : Nat) : Bool := decide (n < 8) && s.isPoison a

/-- Clear the poison of whole words written; the tag of such a word of LM or gallery becomes full (R381). -/
def State.cleanse (s : State) (a n : Nat) : State :=
  (wordsOf a n).foldl (fun t w => if t.isPoison w then t.unpoison w else t) s

/-- A store at its point of performance: a narrower one to a poisoned word is not performed (R381). -/
def State.storeAt (s : State) (a : Nat) (bs : List Byte) : State :=
  if s.refusesWrite a bs.length then s else (s.cleanse a bs.length).put a bs

/-- Poison a word: a write of "poison" in coherence order; a strand that watches it reads again, and no L1 keeps a copy that shows
what it held. -/
def State.poisonAt (s : State) (a : Nat) : State :=
  let s1 := (s.poisonWord a).mapStrands (fun t => match t.wait with
    | some (.watch w _ _) => if w = wordOf a then { t with wait := none } else t
    | _ => t)
  { s1 with cores := s1.cores.map (fun c =>
      { c with l1 := c.l1.filter (fun l => l.line != lineOf a), acks := c.acks.filter (fun k => k.2.line != lineOf a) }) }

/-- A POISON trap that becomes pending (R376). -/
def poisonTrap (ptr : Word) (acc size : Nat) (op : Word) (now : Nat) : Trap :=
  ⟨.poison, ptr, accInfo acc size, op, whyInfo 0x20 0 0, now⟩

/-! ### Lines: stamps and sharing -/

/-- The slice that serves a line on a die: die and slice, the slice by a hash of address bits [31:7] (R57, R113) that is one for a
whole tile (R67), so that it takes bits [31:11] (L8), unless a fence has moved it (R383). -/
def sliceOn (s : State) (ln die : Nat) : Nat × Nat :=
  let sl := Config.sliceHash (ln / 16 % 2 ^ 21) % 80
  match s.coh.rehomed.find? (fun r => r.1 == die && r.2.1 == sl) with
  | some r => (die, r.2.2)
  | none => (die, sl)

/-- The home slice of a line. -/
def sliceOf (s : State) (ln : Nat) : Nat × Nat := sliceOn s ln (homeDie (ln * 128))

/-- The floor of a slice (R111). -/
def State.floorOf (s : State) (d : Nat × Nat) : Nat :=
  ((s.coh.mts.find? (fun m => m.1 == d.1 && m.2.1 == d.2)).map (fun m => m.2.2)).getD 0

/-- The floor of a slice rises (R111). -/
def State.raiseFloor (s : State) (d : Nat × Nat) (n : Nat) : State :=
  { s with coh := { s.coh with
      mts := (d.1, d.2, max (s.floorOf d) n) :: s.coh.mts.filter (fun m => !(m.1 == d.1 && m.2.1 == d.2)) } }

/-- The bay that a slice lies in: four slices a bay (R11, R57; L8). -/
def bayOfSlice (k : Nat × Nat) : Nat := k.1 * 20 + k.2 / 4

/-- Whether a line's home slice is gated: it keeps its directory and holds no data (R122). -/
def State.homeGated (s : State) (ln : Nat) : Bool := (s.bay (bayOfSlice (sliceOf s ln))).power == .gated

/-- The record of a line. One that its home slice does not hold is filled from memory, its stamps at the floor of that moment (R111); a
gated slice holds none (R122). -/
def State.line (s : State) (ln : Nat) : Line :=
  let floor := s.floorOf (sliceOf s ln)
  let l := (s.coh.lines.find? (fun l => l.line == ln)).getD ⟨ln, false, floor, floor, .i, 0, 0, 0, [], [], 0, [], none, 0, none, 0, 0⟩
  if l.cached && !s.homeGated ln then l else { l with cached := false, wts := floor, rts := floor }

/-- Put the record of a line; stamps above the floor are those of a line that the slice holds. A gated slice evicts it at once: the floor
takes its lease (R111, R122). -/
def State.putLine (s : State) (ln : Nat) (f : Line → Line) : State :=
  let floor := s.floorOf (sliceOf s ln)
  let l0 := f (s.line ln)
  let l := { l0 with cached := !s.homeGated ln && (l0.cached || l0.wts != floor || l0.rts != floor) }
  let t := if s.coh.lines.any (fun l => l.line == ln) then
      { s with coh := { s.coh with lines := s.coh.lines.map (fun x => if x.line == ln then l else x) } }
    else { s with coh := { s.coh with lines := s.coh.lines ++ [l] } }
  if s.homeGated ln then t.raiseFloor (sliceOf s ln) l.rts else t

/-- Lines that n bytes touch. -/
def linesOf (a n : Nat) : List Nat :=
  if n = 0 then [] else (List.range ((a + n - 1) / 128 - a / 128 + 1)).map (fun i => a / 128 + i)

/-- A proxy's copy (R113). -/
def State.proxy (s : State) (ln die : Nat) : Option Proxy := s.coh.proxies.find? (fun p => p.line == ln && p.die == die)

/-- Drop a proxy's copy. -/
def State.dropProxy (s : State) (ln die : Nat) : State :=
  { s with coh := { s.coh with proxies := s.coh.proxies.filter (fun q => !(q.line == ln && q.die == die)) } }

/-! ### What a slice holds (R11, R13, R111) -/

/-- A die's bit in a mask. -/
def dieBit (d : Nat) : BitVec 4 := 1 <<< d

/-- A home line is evicted: the floor of its slice rises, and the record goes unless it says more than stamps (R111). -/
def State.evictHome (s : State) (l : Line) : State :=
  let s1 := s.raiseFloor (sliceOf s l.line) l.rts
  let bare := l.share = .i ∧ l.proxies = 0 ∧ l.stale.isNone ∧ l.awaiting.isEmpty ∧ l.starving.isEmpty ∧ l.reserved.isNone ∧ l.umask = 0
    ∧ l.cores.isEmpty
  { s1 with coh := { s1.coh with
      lines := if bare then s1.coh.lines.filter (fun x => x.line != l.line)
        else s1.coh.lines.map (fun x => if x.line == l.line then { x with cached := false } else x) } }

/-- What the home keeps of a line once a die's proxy has given up its copy: the owner of an M or O line has written it back, and every
copy reports its rts (R115; that a clean one does, too, is L44). -/
def Line.without (l : Line) (p : Proxy) : Line :=
  let left := l.proxies &&& ~~~(dieBit p.die)
  if (l.share = .m ∨ l.share = .o) ∧ l.owner = p.die then
    { l with share := if left = 0 then .i else .s, proxies := left, stale := none, wts := max l.wts p.wts, rts := max l.rts p.rts }
  else { l with share := if left = 0 then .i else if l.share = .e then .s else l.share, proxies := left, rts := max l.rts p.rts }

/-- A proxy's copy is evicted, and the floor of its slice rises (R111, R115). What a home slice that does not hold the line is told of it
goes on to memory and to the floor: the slice takes in no line for it (L77). -/
def State.evictProxy (s : State) (p : Proxy) : State :=
  let s1 := s.putLine p.line (fun l => l.without p)
  let s2 := if (s.line p.line).cached then s1 else s1.evictHome (s1.line p.line)
  (s2.dropProxy p.line p.die).raiseFloor (sliceOn s p.line p.die) p.rts

/-- Lines of 128 bytes that a slice of 1.2 MiB has room for (R11, R13). -/
def sliceLines : Nat := 9830

/-- The home lines that a slice holds. -/
def State.cachedLines (s : State) (k : Nat × Nat) : List Nat :=
  (s.coh.lines.filter (fun l => sliceOf s l.line == k && l.cached)).map (·.line)

/-- The proxy copies that a slice holds. -/
def State.cachedProxies (s : State) (k : Nat × Nat) : List Proxy := s.coh.proxies.filter (fun p => sliceOn s p.line p.die == k)

/-- The speculative tiles in vitrines, by number (R95). -/
def State.vitrineTiles (s : State) : List Nat :=
  ((s.strands.filter (·.exists?)).map (fun t => (t.tx.tiles.filter (·.vitrine)).map (·.tile))).flatten

/-- Lines that a slice holds: home lines, proxy copies, the sixteen lines of each tile in its vitrine. -/
def State.sliceUsed (s : State) (k : Nat × Nat) : Nat :=
  (s.cachedLines k).length + (s.cachedProxies k).length + 16 * (s.vitrineTiles.filter (fun t => sliceOf s (t * 16) == k)).length

/-- A slice evicts one line other than the one it takes in, a free choice (L77). -/
def State.evictOne (s : State) (k : Nat × Nat) (ln n : Nat) : State :=
  let homes := (s.cachedLines k).filter (· != ln)
  let copies := (s.cachedProxies k).filter (fun p => p.line != ln && (s.line p.line).awaiting.isEmpty)
  let i := n % max (homes.length + copies.length) 1
  match homes[i]? with
  | some h => s.evictHome (s.line h)
  | none => match copies[i - homes.length]? with
    | some p => s.evictProxy p
    | none => s

/-- A slice that holds more than it has room for evicts what is too much, to take in a line. -/
def State.keepSlice (s : State) (k : Nat × Nat) (ln : Nat) : State :=
  if s.coh.lines.length + s.coh.proxies.length + 16 * s.vitrineTiles.length ≤ sliceLines then s
  else (List.range (s.sliceUsed k - sliceLines)).foldl (fun t i => t.evictOne k ln (Config.pick s.ticks + i)) s

/-- Change the record of a line, which its home slice then holds. -/
def State.setLine (s : State) (ln : Nat) (f : Line → Line) : State := (s.putLine ln f).keepSlice (sliceOf s ln) ln

/-- Store a proxy's record, whose slice then holds the copy. -/
def State.setProxy (s : State) (p : Proxy) : State :=
  { s with coh := { s.coh with
      proxies := p :: s.coh.proxies.filter (fun q => !(q.line == p.line && q.die == p.die)) } }.keepSlice (sliceOn s p.line p.die) p.line

/-- A write at the home stamps the line: wts above every lease granted (R110). The stamp is returned. -/
def Line.stampWrite (l : Line) (lt : Nat) : Line := { l with wts := max lt (l.rts + 1), rts := max lt (l.rts + 1) }

/-- A word is poisoned in its place in the coherence order, as a store with lt 0 is performed (R381). -/
def State.poisonStamped (s : State) (a : Nat) : State :=
  let t := s.poisonAt (wordOf a)
  if addrSpace a = 2 ∨ addrSpace a = 3 then t.setLine (lineOf a) (fun l => l.stampWrite 0) else t

/-- Dies whose proxies the home knows. -/
def Line.dies (l : Line) : List Nat := (List.range 4).filter (fun d => l.proxies.getLsbD d)

/-- Whether a line is in transition (R115). -/
def Line.inTransition (l : Line) : Bool := !l.awaiting.isEmpty

/-- The oldest starving requester, by the time of its first attempt; of two with the same time the one that began to starve first, where
the spec names neither (DESIGN CHOICE, L62). -/
def oldestStarving (l : List (Nat × Nat)) : Option Nat :=
  (l.foldl (fun (m : Option (Nat × Nat)) e => match m with
    | none => some e
    | some x => if e.1 < x.1 then some e else some x) none).map (·.2)

/-- When a line's transition has ended, the home reserves it for the oldest starving requester (R117). -/
def State.reserveLine (s : State) (ln : Nat) : State :=
  let l := s.line ln
  if l.awaiting.isEmpty && l.reserved.isNone && !l.starving.isEmpty then
    s.setLine ln (fun l => { l with reserved := oldestStarving l.starving, reservedAt := s.now })
  else s

/-- Cores whose deposits touch a line and are registered. -/
def State.depositCores (s : State) (ln : Nat) : List Nat :=
  (s.cores.filter (fun c => c.upd.any (fun u => u.registered && u.dep.overlaps (ln * 128) 128))).map (·.num)

/-- Whether the home can write: no other die holds the line and no deposit is outstanding. -/
def State.homeWritable (s : State) (ln : Nat) : Bool :=
  let l := s.line ln
  !l.inTransition && l.share == .i && (s.depositCores ln).isEmpty

/-- Whether the home can answer a fresh read (R119): nothing dirty elsewhere, no deposit outstanding. -/
def State.homeReadable (s : State) (ln : Nat) : Bool :=
  let l := s.line ln
  (l.share == .i || l.share == .s) && l.stale.isNone && (s.depositCores ln).isEmpty

/-- The sharing state that a fresh read at the home leaves: O becomes S, M becomes I (R115). The table has no row for E, whose one
copy may be written at any moment: the model recalls it as it does M, so that E becomes I (L42). -/
def Share.afterFresh : Share → Share
  | .o => .s
  | .m => .i
  | .e => .i
  | x => x

/-- The proxies that are left of a line after a write or a fresh read at its home (R115; L42). -/
def Line.proxiesAfter (l : Line) (write : Bool) : BitVec 4 :=
  if write then 0 else if l.share = .m ∨ l.share = .e then l.proxies &&& ~~~((1 : BitVec 4) <<< l.owner) else l.proxies

/-- Begin a transition: ask the proxies (all for a write, the owner for a read) and the cores with deposits (R115, R119).
Entries of `awaiting`: a die asked, a die's answer on its way (die + 4), a core asked to merge (core + 8). -/
def State.beginRecall (s : State) (ln : Nat) (write : Bool) : State :=
  let l := s.line ln
  if l.inTransition then s
  else
    let dirty := l.share = .m ∨ l.share = .o ∨ l.share = .e
    let ask := if write then l.dies else if dirty then [l.owner] else []
    s.setLine ln (fun l =>
      { l with share := if write then .i else l.share.afterFresh, proxies := l.proxiesAfter write,
               awaiting := ask ++ (s.depositCores ln).map (· + 8), askedAt := s.now })

/-- The owner of a line that is not in transition gives up its copy, as a proxy may at any time: the home copy is current again (R115). -/
def State.writeBack (s : State) (ln : Nat) : State :=
  if (s.line ln).inTransition then s
  else match s.proxy ln (s.line ln).owner with
    | some p => s.evictProxy p
    | none => s

/-! ### Conflicts with transactions (R97) -/

/-- The strands with a transaction that a request at a tile conflicts with, those that already commit apart. -/
def State.conflicts (s : State) (tile : Nat) (write : Bool) : List Strand :=
  s.strands.filter (fun t => t.exists? && t.tx.depth != 0 && !t.tx.committing
    && t.tx.tiles.any (fun x => x.tile == tile && (write || x.write)))

/-- The pointer of the abort status for a tile. -/
def Strand.tilePtr (t : Strand) (tile : Nat) : Option Word := (t.tx.tiles.find? (fun x => x.tile == tile)).map (·.ptr)

/-- The home sends its abort messages: the transactions that conflict at a tile are doomed. -/
def State.doom (s : State) (tile : Nat) (write : Bool) (own : Nat) : State :=
  (s.conflicts tile write).foldl (fun a t =>
    if t.sid = own then a
    else a.setStrand t.sid (fun u => { u with tx := { u.tx with doomed := some ((u.tilePtr tile).getD 0) } })) s

/-- Tiles that n bytes touch. -/
def tilesOf (a n : Nat) : List Nat :=
  if n = 0 then [] else (List.range ((a + n - 1) / 2048 - a / 2048 + 1)).map (fun i => a / 2048 + i)

/-- The speculative bytes of one aligned word that a commit writes: none where the word is poisoned and not covered whole (R381). -/
def State.commitWord (s : State) (cells : List Host.Cell) (w : Nat) : List (Nat × List Byte) :=
  let mine := cells.filter (fun c => wordOf c.1 == w)
  if s.isPoison w && decide (mine.length < 8) then [] else mine.map (fun c => (c.1, [c.2]))

/-- Every copy of a line on other dies is called in: the proxies have reported their stamps and their data (R115). -/
def State.callIn (s : State) (ln : Nat) : State :=
  let ps := s.coh.proxies.filter (fun p => p.line == ln)
  let l := s.line ln
  if ps.isEmpty && l.share == .i && l.awaiting.all (8 ≤ ·) then s
  else
    let s1 := s.setLine ln (fun l =>
      { l with wts := ps.foldl (fun m p => max m p.wts) l.wts, rts := ps.foldl (fun m p => max m p.rts) l.rts,
               share := .i, proxies := 0, stale := none, awaiting := l.awaiting.filter (8 ≤ ·) })
    { s1 with coh := { s1.coh with proxies := s1.coh.proxies.filter (fun p => p.line != ln) } }

/-- A home could not apply a word of a committing transaction's version, which stays or is poisoned: the strand takes POISON after
XEND (R382). -/
def State.commitLoses (s : State) (t : Strand) (w : Nat) : State :=
  s.pendTrap t.sid (poisonTrap (ptrAt ((t.tilePtr (tileOf w)).getD 0 &&& ~~~(2047 : Word)) (w % 2048)) accStore 8 (opOf (encode .xend)) s.now)

/-- Make the speculative bytes of some tiles of a committing transaction the committed ones, as one write (R105, R115): each is a
store with lt 0, a word covered whole is poisoned no more, and the core's own leases on the lines go (R75). Of a word that is poisoned and
not covered whole nothing is written, and the strand is told (R381, R382). -/
def State.applyTiles (s : State) (sid : Nat) (which : TxTile → Bool) : State :=
  match s.strand? sid with
  | none => s
  | some t =>
    let mine := t.tx.tiles.filter which
    let cells := t.tx.spec.filter (fun c => mine.any (fun x => x.tile == tileOf c.1))
    let words := (cells.map (fun c => wordOf c.1)).dedup
    let parts := words.flatMap (s.commitWord cells)
    let whole := words.filter (fun w => s.isPoison w && decide (8 ≤ (cells.filter (fun c => wordOf c.1 == w)).length))
    let s1 := (whole.foldl State.unpoison s).putAll parts
    let lns := List.flatten ((mine.filter (·.write)).map (fun x => (List.range 16).map (fun i => x.tile * 16 + i)))
    let s2 := lns.foldl (fun a ln => (a.callIn ln).setLine ln (fun l => l.stampWrite 0)) s1
    let s3 := lns.foldl (fun a ln => a.reserveLine ln) s2
    let s4 := (s3.setCore t.core (fun c => { c with l1 := c.l1.filter (fun l => !lns.contains l.line) })).setStrand sid (fun u =>
      { u with tx := { u.tx with tiles := u.tx.tiles.filter (fun x => !which x),
                                 spec := u.tx.spec.filter (fun c => !mine.any (fun x => x.tile == tileOf c.1)) } })
    match words.find? (fun w => (s.commitWord cells w).isEmpty) with
    | some w => s4.commitLoses t w
    | none => s4

/-- Clear the way for a non-transactional access of an agent that is served in one step (an engine, the host, the hub):
transactions that commit on the tiles finish applying them, and a write aborts the others at once (R97). -/
def State.clearTiles (s : State) (a n : Nat) (write : Bool) : State :=
  (tilesOf a n).foldl (fun x tile =>
    let x1 := (x.strands.filter (fun t => t.tx.committing && t.exists?)).foldl (fun y t => y.applyTiles t.sid (fun e => e.tile == tile)) x
    if write then (x1.conflicts tile true).foldl (fun y t => y.abortTx t.sid xConflict 0 (t.tilePtr tile)) x1 else x1) s

/-! ### Merging at the home (R82, R118, R283) -/

/-- The runs of bytes that a merge writes: each element applied to the home copy; a poisoned word's are dropped (R381). -/
def State.mergeParts (s : State) (d : Deposit) : List (Nat × List Byte) :=
  let n := elemBytes d.elem
  (d.deltas.filter (fun e => !s.isPoison e.1)).map (fun e => (e.1, natBytes n (accMerge d.op d.elem (s.readN e.1 n) e.2.toNat)))

/-- The elements of a merge, as one write (R118). -/
def State.applyDeposit (s : State) (d : Deposit) : State := s.putAll (s.mergeParts d)

/-- What the record of a line says of deposits, after some of them have gone. -/
def State.noteDeposits (s : State) (ln : Nat) (l : Line) : Line :=
  let left := s.depositCores ln
  { l with
    cores := l.cores.filter left.contains,
    umask := BitVec.ofNat 4 (joinBits 1 ((List.range 4).map (fun k => (left.any (fun c => dieOfCore c == k && k != homeDie (ln * 128))).toNat))),
    awaiting := l.awaiting.filter (fun a => !(decide (8 ≤ a) && !left.contains (a - 8))) }

/-- One unit of a core is merged as one write under R110, with the lt of its core, whose lt then covers it: no other die keeps a copy of
its lines, so that the write is stamped above every lease (R115). Its registration goes (R118). -/
def State.mergeUnit (s : State) (core : Nat) (d : Deposit) : State :=
  let lt := (s.core core).lt
  let s1 := ((linesOf d.unit d.bytes).foldl State.callIn s).applyDeposit d
  let s2 := s1.setCore core (fun c => { c with upd := c.upd.filter (fun u => !u.dep.sameUnit d) })
  let s3 := (linesOf d.unit d.bytes).foldl (fun x ln => x.setLine ln (fun l => x.noteDeposits ln (l.stampWrite lt))) s2
  let wts := (linesOf d.unit d.bytes).foldl (fun m ln => max m (s3.line ln).wts) 0
  (linesOf d.unit d.bytes).foldl (fun x ln => x.reserveLine ln) (s3.raiseLt core wts)

/-- Settle a line in one step for an agent served at the home: deposits are merged, then the transition that the access needs, or
that is under way, is over: the proxies it asks have reported their stamps and data, and are gone but for those it leaves
(R115, R117, R119). -/
def State.settle (s : State) (ln : Nat) (write : Bool) : State :=
  let s1 := (s.cores.filter (fun c => c.upd.any (fun u => u.registered && u.dep.overlaps (ln * 128) 128))).foldl (fun x c =>
    (c.upd.filter (fun u => u.registered && u.dep.overlaps (ln * 128) 128)).foldl (fun y u =>
      (y.clearTiles u.dep.unit u.dep.bytes true).mergeUnit c.num u.dep) x) s
  let ps := s1.coh.proxies.filter (fun p => p.line == ln)
  let l := s1.line ln
  if ps.isEmpty && l.share == .i && l.awaiting.isEmpty then s1
  else
    let left := l.proxiesAfter write
    let s2 := s1.setLine ln (fun l =>
      { l with
        wts := ps.foldl (fun m p => max m p.wts) l.wts, rts := ps.foldl (fun m p => max m p.rts) l.rts, stale := none, awaiting := [],
        share := if write then .i else l.share.afterFresh, proxies := left })
    { s2 with coh := { s2.coh with
        proxies := s2.coh.proxies.filter (fun p => p.line != ln || left.getLsbD p.die) } }.reserveLine ln

/-- A rebase ends (R112). -/
def State.endRebase (s : State) : State := { s with coh := { s.coh with rebasing := false } }

/-- Settle every line of a range of gallery or depot bytes. Slices that rebase refuse it until the rebase ends, so the rebase ends first
(R112; L80). -/
def State.settleRange (s : State) (a n : Nat) (write : Bool) : State :=
  if addrSpace a = 2 ∨ addrSpace a = 3 then
    (linesOf a n).foldl (fun x ln => x.settle ln write) (s.endRebase.clearTiles a n write)
  else s

/-- A read by an agent served at the home in one step: the bytes, everything outstanding merged first. -/
def State.freshBytes (s : State) (a n : Nat) : State × List Byte :=
  let s1 := s.settleRange a n false
  (s1, Memory.bytes s1.mem a n)

/-- A write by such an agent, word by word: as a store with lt 0 (R121). -/
def State.agentWrite (s : State) (a : Nat) (bs : List Byte) : State :=
  let s1 := s.settleRange a bs.length true
  let s2 := if addrSpace a = 2 ∨ addrSpace a = 3 then
      (linesOf a bs.length).foldl (fun x ln => x.setLine ln (fun l => l.stampWrite 0)) s1 else s1
  s2.storeAt a bs

end Sys2Proof.Machine
end

