-- ==== Sys2Proof/Machine/Device.lean ====
section
/-! DEFINITION. Memory as the device's own agents reach it (spec/03 R58, R59; spec/06 R121): pointers of a job translated
without rights, word by word, read fresh at the home and written as stores of lt 0. -/

namespace Sys2Proof.Machine

/-- The physical address of a pointer of a job, without a check of rights. -/
def physOf (s : State) (job : Nat) (p : Word) : Option Nat :=
  if ptrSpace p = 1 then (if ptrOff p < 0x60000 then some (lmAddr (ptrOwner p) (ptrOff p)) else none)
  else if ptrSpace p = 2 ∨ ptrSpace p = 3 then
    match tableEntry s 104 job p with
    | .inl _ => none
    | .inr e => some (e.phys + (ptrOff p - e.base))
  else none

/-- Read n aligned words of a job's memory. Of a poisoned word the stored bytes are used (L87). -/
def devReadWords (s : State) (job : Nat) (p : Word) : Nat → State × List Byte
  | 0 => (s, [])
  | n + 1 =>
    match physOf s job p with
    | none => (s, [])
    | some a =>
      let r := s.freshBytes a 8
      let t := devReadWords r.1 job (ptrAt p 8) n
      (t.1, r.2 ++ t.2)

/-- Read n bytes, a multiple of 8, at an aligned pointer. -/
def devRead (s : State) (job : Nat) (p : Word) (n : Nat) : State × List Byte := devReadWords s job p (n / 8)

/-- One aligned word of a job's memory. -/
def devWord (s : State) (job : Nat) (p : Word) : State × Word :=
  let r := devRead s job p 8
  (r.1, BitVec.ofNat 64 (leNat r.2))

/-- Write words of bytes. -/
def devWriteWords (s : State) (job : Nat) (p : Word) : List Word → State
  | [] => s
  | w :: ws =>
    match physOf s job p with
    | none => s
    | some a => devWriteWords (s.agentWrite a (natBytes 8 w.toNat)) job (ptrAt p 8) ws

/-- Write bytes, a multiple of 8, at an aligned pointer. -/
def devWrite (s : State) (job : Nat) (p : Word) (bs : List Byte) : State := devWriteWords s job p (wordsOfBytes bs)

/-- Write fewer than 8 bytes inside one aligned word. -/
def devPoke (s : State) (job : Nat) (p : Word) (bs : List Byte) : State :=
  match physOf s job p with
  | none => s
  | some a => s.agentWrite a bs

end Sys2Proof.Machine
end

