-- ==== Sys2Proof/Machine/Hash.lean ====
section
/-! DEFINITION. SHA-256 and HMAC-SHA-256 (spec/08 R148, spec/15 R325, spec/18 R350, R352), which the spec names and does not define:
they are those of FIPS 180-4 and RFC 2104 (L11). -/

namespace Sys2Proof.Machine

/-- The round constants. -/
def shaConstants : List Quad :=
  [0x428A2F98, 0x71374491, 0xB5C0FBCF, 0xE9B5DBA5, 0x3956C25B, 0x59F111F1, 0x923F82A4, 0xAB1C5ED5]
    ++ [0xD807AA98, 0x12835B01, 0x243185BE, 0x550C7DC3, 0x72BE5D74, 0x80DEB1FE, 0x9BDC06A7, 0xC19BF174]
    ++ [0xE49B69C1, 0xEFBE4786, 0x0FC19DC6, 0x240CA1CC, 0x2DE92C6F, 0x4A7484AA, 0x5CB0A9DC, 0x76F988DA]
    ++ [0x983E5152, 0xA831C66D, 0xB00327C8, 0xBF597FC7, 0xC6E00BF3, 0xD5A79147, 0x06CA6351, 0x14292967]
    ++ [0x27B70A85, 0x2E1B2138, 0x4D2C6DFC, 0x53380D13, 0x650A7354, 0x766A0ABB, 0x81C2C92E, 0x92722C85]
    ++ [0xA2BFE8A1, 0xA81A664B, 0xC24B8B70, 0xC76C51A3, 0xD192E819, 0xD6990624, 0xF40E3585, 0x106AA070]
    ++ [0x19A4C116, 0x1E376C08, 0x2748774C, 0x34B0BCB5, 0x391C0CB3, 0x4ED8AA4A, 0x5B9CCA4F, 0x682E6FF3]
    ++ [0x748F82EE, 0x78A5636F, 0x84C87814, 0x8CC70208, 0x90BEFFFA, 0xA4506CEB, 0xBEF9A3F7, 0xC67178F2]

/-- The initial hash value. -/
def shaStart : List Quad := [0x6A09E667, 0xBB67AE85, 0x3C6EF372, 0xA54FF53A, 0x510E527F, 0x9B05688C, 0x1F83D9AB, 0x5BE0CD19]

/-- The message of a number of bytes with its padding. -/
def shaPad (bs : List Byte) : List Byte :=
  let n := bs.length
  bs ++ [0x80] ++ List.replicate ((119 - n % 64) % 64) 0 ++ (natBytes 8 (8 * n)).reverse

/-- A big-endian word. -/
def beWord (bs : List Byte) : Quad := BitVec.ofNat 32 (leNat bs.reverse)

/-- The first sixteen words of a block, last first. -/
def blockWords : Nat → List Byte → List Quad → List Quad
  | 0, _, acc => acc
  | n + 1, bs, acc => blockWords n (bs.drop 4) (beWord (bs.take 4) :: acc)

def smallSigma0 (x : Quad) : Quad := x.rotateRight 7 ^^^ x.rotateRight 18 ^^^ (x >>> 3)
def smallSigma1 (x : Quad) : Quad := x.rotateRight 17 ^^^ x.rotateRight 19 ^^^ (x >>> 10)
def bigSigma0 (x : Quad) : Quad := x.rotateRight 2 ^^^ x.rotateRight 13 ^^^ x.rotateRight 22
def bigSigma1 (x : Quad) : Quad := x.rotateRight 6 ^^^ x.rotateRight 11 ^^^ x.rotateRight 25

/-- The message schedule, last word first. -/
def schedule : Nat → List Quad → List Quad
  | 0, acc => acc
  | n + 1, acc => schedule n
      ((smallSigma1 (acc.getD 1 0) + acc.getD 6 0 + smallSigma0 (acc.getD 14 0) + acc.getD 15 0) :: acc)

/-- The eight working variables. -/
structure ShaState where
  a : Quad
  b : Quad
  c : Quad
  d : Quad
  e : Quad
  f : Quad
  g : Quad
  h : Quad
  deriving DecidableEq, Repr

/-- One round. -/
def ShaState.round (s : ShaState) (k w : Quad) : ShaState :=
  let t1 := s.h + bigSigma1 s.e + ((s.e &&& s.f) ^^^ (~~~s.e &&& s.g)) + k + w
  let t2 := bigSigma0 s.a + ((s.a &&& s.b) ^^^ (s.a &&& s.c) ^^^ (s.b &&& s.c))
  ⟨t1 + t2, s.a, s.b, s.c, s.d + t1, s.e, s.f, s.g⟩

/-- One block into a hash value. -/
def shaBlock (s : ShaState) (block : List Byte) : ShaState :=
  let ws := (schedule 48 (blockWords 16 block [])).reverse
  let t := (shaConstants.zip ws).foldl (fun u kw => u.round kw.1 kw.2) s
  ⟨s.a + t.a, s.b + t.b, s.c + t.c, s.d + t.d, s.e + t.e, s.f + t.f, s.g + t.g, s.h + t.h⟩

/-- Blocks one after another. -/
def shaBlocks : Nat → ShaState → List Byte → ShaState
  | 0, s, _ => s
  | n + 1, s, bs => if bs.isEmpty then s else shaBlocks n (shaBlock s (bs.take 64)) (bs.drop 64)

def ShaState.words (s : ShaState) : List Quad := [s.a, s.b, s.c, s.d, s.e, s.f, s.g, s.h]

/-- The bytes of a digest, most significant first. -/
def ShaState.bytes (s : ShaState) : List Byte := List.flatten (s.words.map (fun w => (natBytes 4 w.toNat).reverse))

def ShaState.start : ShaState :=
  let h (i : Nat) : Quad := shaStart.getD i 0
  ⟨h 0, h 1, h 2, h 3, h 4, h 5, h 6, h 7⟩

/-- SHA-256 of bytes, as 32 bytes. -/
def sha256 (bs : List Byte) : List Byte :=
  let m := shaPad bs
  (shaBlocks (m.length / 64) ShaState.start m).bytes

/-- HMAC-SHA-256 with a 32-byte key. -/
def hmac256 (key msg : List Byte) : List Byte :=
  let pad (x : Byte) : List Byte := (key ++ List.replicate (64 - key.length) 0).map (· ^^^ x)
  sha256 (pad 0x5C ++ sha256 (pad 0x36 ++ msg))

/-- A digest as a number of 256 bits, byte 0 least significant. -/
def digestOf (bs : List Byte) : BitVec 256 := BitVec.ofNat 256 (leNat bs)

/-- The 32 bytes of a digest or a key. -/
def digestBytes (d : BitVec 256) : List Byte := natBytes 32 d.toNat

/-! ### CRC-32C (R181) -/

/-- One bit of the check: the reflected polynomial 0x1EDC6F41 (L58). -/
def crcBit (c : Nat) : Nat := if c % 2 = 1 then (c / 2) ^^^ 0x82F63B78 else c / 2

/-- One byte. -/
def crcByte (c : Nat) (b : Byte) : Nat := crcBit (crcBit (crcBit (crcBit (crcBit (crcBit (crcBit (crcBit (c ^^^ b.toNat))))))))

/-- The check of some bytes. -/
def crc32c (bs : List Byte) : Nat := bs.foldl crcByte 0xFFFFFFFF ^^^ 0xFFFFFFFF

end Sys2Proof.Machine
end

