-- ==== Sys2Proof/Machine/Channels.lean ====
section
/-! DEFINITION. Engine commands as a strand issues them, and send channels as a strand reaches them
(spec/15 R300, R301, R307; spec/10 R184, R185; spec/21 R392, R394). -/

namespace Sys2Proof.Machine

/-! ### Send channels -/

def State.send? (s : State) (n : Nat) : Option SendChan := s.hub.sends.find? (fun c => c.num == n)
def State.setSend (s : State) (n : Nat) (f : SendChan → SendChan) : State :=
  { s with hub := { s.hub with sends := s.hub.sends.map (fun c => if c.num == n then f c else c) } }

/-- The send channel that %chan names. -/
def State.myChan (s : State) : Nat := s.cur.sr.chan.toNat % 4096

/-- Whether a channel takes commands of a job: bound to it, open or broken (R300). -/
def State.chanTakes (s : State) (n job : Nat) : Bool :=
  match s.send? n with
  | some c => c.job == job && (c.state == 1 || c.state == 3)
  | none => false

/-- Whether a channel is broken (R391). -/
def State.chanBroken (s : State) (n : Nat) : Bool :=
  match s.send? n with
  | some c => c.state == 3
  | none => false

/-- The bytes of the journal ring. -/
def SendChan.ring (c : SendChan) : Nat := c.jsize * 65536

/-- The size of a record. -/
def jrecSize (n : Nat) : Nat := 32 + (n + 31) / 32 * 32

/-- Where the next record goes: its place and, when the end of the ring is too near, the pad before it. -/
def SendChan.room (c : SendChan) (size : Nat) : Option (Nat × Option Nat) :=
  let r := c.ring
  if c.journal.isEmpty ∨ c.jhead < c.jtail then
    if c.jtail + size ≤ r then some (c.jtail, none)
    else if c.journal.isEmpty ∨ size ≤ c.jhead then some (0, if c.jtail < r then some c.jtail else none)
    else none
  else if c.jtail + size ≤ c.jhead then some (c.jtail, none)
  else none

/-- n more WRITEs may be sent: the last one's sequence lies in the window (R188). -/
def SendChan.inWindow (h : SendChan) (n : Nat) : Bool := decide ((h.nextSeq - h.landed).toNat + n ≤ 2049)

/-- Whether a channel accepts n plain stores of some bytes at once: no command waits, the window and the journal have room
(R195, R301). -/
def State.chanAccepts (s : State) (ch n bytes : Nat) : Bool :=
  match s.send? ch with
  | some h => h.queue.isEmpty && h.inWindow n && (h.room (n * jrecSize bytes)).isSome
  | none => true

/-- The last check of an access or command that uses a channel (R300). -/
def State.withChan (s : State) (n : Nat) (ptr : Word) (acc size : Nat) (k : State → State) : State :=
  if s.chanTakes n s.myTroupe.job then k s else s.memTrap .protect ptr acc size 0 0

/-- The rounds that the side which broke a channel made: a receiver breaks it after its eighth (R387, R392). -/
def SendChan.breakRounds (c : SendChan) : Nat := if c.side = 1 then 8 else c.rounds % 256

/-- CHANNEL_BROKEN (R392). -/
def brokenTrap (c : SendChan) (dropped now : Nat) : Trap :=
  ⟨.channelBroken, BitVec.ofNat 64 c.num, BitVec.ofNat 64 (c.breakRounds * 256 + c.side), BitVec.ofNat 64 dropped,
    c.landed.setWidth 64, now⟩

/-- Set a bit of the FENCE status latch of a strand (R394). -/
def State.latch (s : State) (sid bit : Nat) : State :=
  s.setStrand sid (fun t => { t with sr := { t.sr with fstat := t.sr.fstat ||| BitVec.ofNat 64 (2 ^ bit) } })

/-- A strand is told of a channel's break once; `how` says how its trap reaches it (R392). -/
def State.tellOnce (s : State) (n sid dropped : Nat) (how : State → Trap → State) : State :=
  match s.send? n with
  | none => s
  | some c =>
    if c.told.contains sid then s
    else how (s.setSend n (fun c => { c with told := c.told ++ [sid] })) (brokenTrap c dropped s.now)

/-- A command or access of a strand ends by a channel's break: the latch, and the trap (R392, R394). -/
def State.tellBroken (s : State) (n sid dropped : Nat) : State :=
  (s.latch sid 0).tellOnce n sid dropped (fun t p => t.pendTrap sid p)

/-! ### Commands -/

/-- A command of the strand in hand. -/
def newCmd (s : State) (kind : CmdKind) (k : Nat) (bytes : Bool) (credit : Nat) (scope : Scope) (chan mask : Nat) : Cmd :=
  let op := (opOf s.ir).toNat
  { id := s.nextId, sid := s.cur.sid, job := s.myTroupe.job, core := s.cur.core, troupe := s.cur.troupe, kind := kind,
    page := op / 256, opcode := op % 64, k := k, bytes := bytes, credit := credit, scope := scope, chan := chan, mask := mask,
    engine := 0, state := .queued, pos := 0, moved := [], packets := 0, sx := [], dx := [], loaded := [], bound := none, pc := s.cur.pc,
    issuer := ⟨s.cur.hw, s.myTroupe.part, s.myTroupe.index, s.myTroupe.launch⟩ }

/-- Commands of a strand that have not credited (R301). -/
def State.outstanding (s : State) (sid : Nat) : Nat :=
  (s.cmds.filter (fun c => c.sid == sid && c.k != noCounter && c.bound.isNone)).length

/-- Credit a completion counter (R295). -/
def State.credit (s : State) (sid k n : Nat) : State :=
  if k < 16 then
    s.setStrand sid (fun t => t.putK (BitVec.ofNat 4 k) (t.getK (BitVec.ofNat 4 k) + BitVec.ofNat 32 n))
  else s

/-- What a command credits. -/
def Cmd.amount (c : Cmd) : Nat := if c.bytes then c.credit else 1

/-- A KWAIT whose count is reached ends and takes its count (R296). -/
def Strand.checkKwait (t : Strand) : Strand :=
  match t.wait with
  | some (.kwait k n) =>
    let i := BitVec.ofNat 4 k
    if n ≤ t.getK i then (t.putK i (t.getK i - n)).finishWait else t
  | _ => t

/-- The strand's KWAIT, if its count is reached, returns and acquires (R85, R296). -/
def State.wakeKwait (s : State) (sid : Nat) : State :=
  match s.strand? sid with
  | none => s
  | some t => if t.checkKwait = t then s else (s.setStrand sid Strand.checkKwait).acquire t.core

/-- Enter a hub command in its channel's queue. -/
def State.enterChan (s : State) (c : Cmd) : State :=
  { (s.setSend c.chan (fun h => { h with
      queue := h.queue ++ [c.id], users := if h.users.contains c.sid then h.users else h.users ++ [c.sid] })) with
    cmds := s.cmds ++ [c], nextId := s.nextId + 1 }

/-! ### The seal of a continuation object (R148) -/

/-- The seal over an object's bytes: its own field and the completion word count as zero. -/
def sealOf (s : State) (job : Nat) (obj : List Byte) : List Byte :=
  (hmac256 (digestBytes (Config.sealKey job (s.job job).sealDraw))
    (obj.take 224 ++ zeros 16 ++ (obj.drop 240).take 8 ++ zeros 8 ++ obj.drop 256)).take 16

/-- The device seals an object anew after a credit to one of its pending words (R146; L38): reached in one job's space, under the
key of another where it was exported. -/
def State.reseal (s : State) (job keyJob : Nat) (ptr : Word) : State :=
  let r := devRead s job ptr 256
  let o := devRead r.1 job ptr (fieldAt r.2 32 8)
  devWrite o.1 job (ptrAt ptr 224) (sealOf o.1 keyJob o.2)

/-- A command is over: its credit, to its strand or to the pending word of an object (R146), and its record goes. -/
def State.endCmd (s : State) (c : Cmd) : State :=
  let s1 := (s.dropCmd c.id).setSend c.chan (fun h => { h with queue := h.queue.filter (· != c.id) })
  match c.bound with
  | some (a, u) =>
    if c.k < 16 then
      let credit := (s1.readN a 4 + c.amount) % 2 ^ 32
      let s2 := s1.agentWrite a (natBytes 4 credit ++ natBytes 4 (s1.readN (a + 4) 4 - 1))
      if (s2.troupe u).place = .object then s2.reseal c.job (s2.troupe u).job (s2.troupe u).object else s2
    else s1
  | none => (s1.credit c.sid c.k c.amount).wakeKwait c.sid

end Sys2Proof.Machine
end

