-- ==== Sys2Proof/Machine/Access.lean ====
section
/-! DEFINITION. Loads and stores of a strand: where each goes by its space (spec/12 R235, spec/03 R50 to R54), what orders it
against the strand's other accesses (spec/04 R72, R75, R76, spec/06 R109, R110), and how a transaction takes it
(spec/05 R94, R95, R99). -/

namespace Sys2Proof.Machine

/-! ### What a request is -/

/-- The bytes at its address that a request touches. -/
def ReqKind.span : ReqKind → Nat
  | .load n _ _ => n
  | .vload _ => 32
  | .vlane _ _ n => n
  | .store n _ => n
  | .atomic _ n _ _ _ _ => n
  | .row _ _ n _ => n
  | .ldrow n _ _ _ _ => n
  | .topk _ _ _ => 64
  | .tagged _ _ _ => 8
  | .watch => 8
  | _ => 0

/-- Whether two ranges touch a common word. -/
def sameWord (a n b m : Nat) : Bool := decide (n ≠ 0) && decide (m ≠ 0) && decide (a / 8 ≤ (b + m - 1) / 8) && decide (b / 8 ≤ (a + n - 1) / 8)

/-! ### Order within a strand -/

/-- Whether an older request of the strand to a common word has not been performed (R75). -/
def State.behindOlder (s : State) (sid id a n : Nat) : Bool :=
  s.reqs.any (fun q => q.sid == sid && decide (q.id < id) && !q.done && sameWord q.addr q.kind.span a n)

/-- Whether an older store of a core to a common word has not been performed: stores leave its write-through queue for one word in issue
order, whichever of its strands they are from (R110). -/
def State.behindStore (s : State) (core id a n : Nat) : Bool :=
  s.reqs.any (fun q => q.core == core && !q.tx && decide (q.id < id) && !q.done && sameWord q.addr q.kind.span a n
    && (match q.kind with | .store _ _ => true | _ => false))

/-- The order and the scope of a KPAGE modifier; without a KPAGE rlx at str (R203). -/
def modOrder (m : Nat) : Order := (orderOf (BitVec.ofNat 6 m)).getD .rlx
def modScope (m : Nat) : Scope := (scopeOf (BitVec.ofNat 6 m)).getD .str

/-- Whether every older store of the strand but its counted writes has been performed. -/
def State.localStoresDone (s : State) (sid core : Nat) : Bool :=
  s.reqs.all (fun q => q.sid != sid || q.done || !q.kind.writes)
    && ((s.core core).journal ++ (s.core core).replay).all (fun e => e.sid != sid || e.applied)

/-- Whether every older store of the strand has been performed: what an sc load waits for (R81, R110). -/
def State.storesDone (s : State) (sid core : Nat) : Bool := s.localStoresDone sid core && s.remLanded sid s.nextId

/-- What an access by the strand in hand waits for before it issues. -/
def State.mayAccess (s : State) (o : Order) : Bool :=
  !s.held && (o != .sc || s.storesDone s.cur.sid s.cur.core)

/-- The same for AMOR and GETR, which no earlier counted write of the strand holds back, be they sc (R86, R308). -/
def State.mayAccessRem (s : State) (o : Order) : Bool :=
  !s.held && (o != .sc || s.localStoresDone s.cur.sid s.cur.core)

/-- An instruction that reads or writes memory is not ready while a read that acquires is outstanding, before its operands are checked
(R72, R235, R362). -/
def State.afterHold (s : State) (k : State → State) : State := if !s.mayAccess .rlx then s.notReady else k s

/-- Whether a release that is performed at issue may be. -/
def State.mayRelease (s : State) (o : Order) (c : Scope) : Bool :=
  !o.releases || s.releaseReady s.cur.sid s.cur.core c s.nextId

/-- The same for a store to REM, which waits for no counted write (R235). -/
def State.mayReleaseRem (s : State) (o : Order) : Bool :=
  !o.releases || s.localReady s.cur.sid s.cur.core .sys s.nextId

/-- Whether an LM range of the own core is under a move of the strand's own (R271, R284). -/
def State.moving (s : State) (a n : Nat) : Bool :=
  s.moves.any (fun m => m.sid == s.cur.sid && decide (lmAddr m.core m.lm < a + n) && decide (a < lmAddr m.core m.lm + m.bytes))
    || s.reqs.any (fun q => q.sid == s.cur.sid && (match q.kind with
        | .ldrow b _ lm _ _ => decide (lmAddr q.core lm < a + n) && decide (a < lmAddr q.core lm + b)
        | _ => false))

/-! ### Checks of several pointers -/

/-- Check pointers one after another, each in full; the physical addresses go on (R366). -/
def State.checkedAll (s : State) (ps : List Word) (align size acc : Nat) (r w : Bool) (reach : Word → Bool)
    (k : State → List Nat → State) : State :=
  match ps with
  | [] => k s []
  | p :: rest => s.checked p align size acc r w (reach p) (fun s1 a =>
      State.checkedAll s1 rest align size acc r w reach (fun s2 as => k s2 (a :: as)))

/-! ### Values into registers -/

/-- A value of n bytes arrives for a load, in the register that the request names. -/
def deliverTo (kind : ReqKind) (v : Nat) (t : Strand) : Strand :=
  match kind with
  | .load n sg reg => t.fillX reg (extend sg (8 * n) v)
  | .remote n sg reg => t.fillX reg (extend sg (8 * n) v)
  | .remRead n sg reg vec =>
    if vec then t.fillV reg (BitVec.ofNat 256 v)
    else if n ≤ 8 then t.fillX reg (extend sg (8 * n) v)
    else (List.range (n / 8)).foldl (fun u i => u.fillX (reg + BitVec.ofNat 5 i) (BitVec.ofNat 64 (v / 2 ^ (64 * i)))) t
  | .atomic _ n sg _ _ reg => t.fillX reg (extend sg (8 * n) v)
  | .remAmo _ n sg _ _ reg => t.fillX reg (extend sg (8 * n) v)
  | .topk _ _ reg => t.fillX reg (extend true 8 v)
  | .tagged op _ reg => if op = 0 ∨ op = 1 ∨ op = 4 then t.fillX reg (BitVec.ofNat 64 v) else t
  | .divide _ reg => t.fillX reg (BitVec.ofNat 64 v)
  | .fill _ reg => t.fillX reg (BitVec.ofNat 64 v)
  | .conserv reg => t.fillX reg (BitVec.ofNat 64 v)
  | .recv words reg => (List.range 8).foldl (fun u i => u.fillX (reg + BitVec.ofNat 5 i) (words.getD i 0)) t
  | .vload reg | .remoteVec reg => t.fillV reg (BitVec.ofNat 256 v)
  | .vlane reg l n => t.putV reg (unlanes (8 * n) ((lanes (t.getV reg) (8 * n)).set l v))
  | _ => t

/-- The registers that a request's value fills. -/
def ReqKind.emptied (k : ReqKind) (t : Strand) : Strand :=
  match k with
  | .load _ _ reg => t.emptyX reg
  | .atomic _ _ _ _ _ reg => t.emptyX reg
  | .remAmo _ _ _ _ _ reg => t.emptyX reg
  | .topk _ _ reg => t.emptyX reg
  | .tagged op _ reg => if op = 0 ∨ op = 1 ∨ op = 4 then t.emptyX reg else t
  | .vload reg | .vlane reg _ _ => t.emptyV reg
  | .remRead n _ reg vec =>
    if vec then t.emptyV reg
    else if n ≤ 8 then t.emptyX reg
    else (List.range (n / 8)).foldl (fun u i => u.emptyX (reg + BitVec.ofNat 5 i)) t
  | _ => t

/-- A poisoned word was read: the register holds 0, POISON becomes pending (R381). -/
def State.poisonRead (s : State) (sid : Nat) (ptr : Word) (acc size : Nat) (op : Word) : State :=
  s.pendTrap sid (poisonTrap ptr acc size op s.now)

/-- A lane of a VGATH read a poisoned word: the whole register is 0, whatever its other lanes return (R381). -/
def State.voidLanes (s : State) (sid group : Nat) (kind : ReqKind) : State :=
  match kind with
  | .vlane reg _ _ =>
    { s.setStrand sid (fun t => t.putV reg 0) with
      reqs := s.reqs.map (fun q => match q.kind with
        | .vlane r _ n => if q.sid = sid ∧ q.group = group then { q with kind := .vlane r 256 n } else q
        | _ => q) }
  | _ => s

/-- A read of memory performed at once by the strand in hand. -/
def State.readNow (s : State) (kind : ReqKind) (ptr : Word) (a n : Nat) : State :=
  if s.anyPoison a n then { s with cur := deliverTo kind 0 s.cur }.poisonRead s.cur.sid ptr accLoad n (opOf s.ir)
  else { s with cur := deliverTo kind (s.readN a n) s.cur }

/-! ### Transactional bytes (R94, R95) -/

/-- A byte as the transaction of a strand sees it. -/
def Tx.byte (t : Tx) (m : Memory) (a : Nat) : Byte := ((t.spec.find? (fun c => c.1 == a)).map (·.2)).getD (m.get a)

/-- Bytes as the transaction sees them. -/
def Tx.bytes (t : Tx) (m : Memory) (a n : Nat) : List Byte := (List.range n).map (fun i => t.byte m (a + i))

/-- Put a byte into the speculative bytes, rising by address. -/
def specPut : List Host.Cell → Nat → Byte → List Host.Cell
  | [], a, b => [(a, b)]
  | (a', b') :: r, a, b =>
    if a < a' then (a, b) :: (a', b') :: r else if a = a' then (a, b) :: r else (a', b') :: specPut r a b

def specPutAll : List Host.Cell → Nat → List Byte → List Host.Cell
  | c, _, [] => c
  | c, a, b :: bs => specPutAll (specPut c a b) (a + 1) bs

/-- Whether a poisoned word is hidden by eight speculative bytes of the transaction. -/
def Tx.covers (t : Tx) (w : Nat) : Bool := (List.range 8).all (fun i => t.spec.any (fun c => c.1 == w + i))

/-- Whether n bytes are poisoned as the transaction sees them. -/
def State.txPoison (s : State) (t : Tx) (a n : Nat) : Bool := (wordsOf a n).any (fun w => s.isPoison w && !t.covers w)

/-- The access rights that a tile's registration gives. -/
def Tx.has (t : Tx) (tile : Nat) (write : Bool) : Bool := t.tiles.any (fun x => x.tile == tile && (!write || x.write))

/-- Whether one more access of a kind to a tile exceeds the read set or the write set (R96). -/
def Tx.exceeds (t : Tx) (tile : Nat) (reads writes : Bool) : Bool :=
  (reads && decide (4096 ≤ (t.tiles.filter (fun x => x.read && x.tile != tile)).length))
    || (writes && decide (512 ≤ (t.tiles.filter (fun x => x.write && x.tile != tile)).length))

/-- The registration is entered with the transaction. -/
def Tx.enter (t : Tx) (tile : Nat) (reads writes : Bool) (ptr : Word) (now : Nat) : Tx :=
  if t.tiles.any (fun x => x.tile == tile) then
    { t with tiles := t.tiles.map (fun x =>
        if x.tile = tile then { x with read := x.read || reads, write := x.write || writes, last := if writes then now else x.last } else x) }
  else { t with tiles := t.tiles ++ [⟨tile, reads, writes, false, now, ptr⟩] }

/-- Speculative bytes are written by a strand's transaction; the tile was written last now. -/
def State.txWrite (s : State) (sid a : Nat) (bs : List Byte) : State :=
  s.setStrand sid (fun t => { t with tx := { t.tx with
    spec := specPutAll t.tx.spec a bs,
    tiles := t.tx.tiles.map (fun x => if x.tile = tileOf a then { x with last := s.ticks } else x) } })

/-- The value of a row of elements after a row operation. -/
def rowResult (op e : Nat) (old delta : List Byte) : List Byte :=
  let n := elemBytes e
  List.flatten ((List.range (old.length / n)).map (fun i =>
    natBytes n (rowElement op e (leNat ((old.drop (i * n)).take n)) (leNat ((delta.drop (i * n)).take n)))))

/-! ### The top-k record (R285, R286) -/

/-- Whether (score, expert) ranks above another entry: higher score first, −0 below +0, then the lower expert. -/
def ranksAbove (a b : Nat × Nat) : Bool :=
  let key (s : Nat) : Int := let m : Int := Int.ofNat (s % 2 ^ 31); if s / 2 ^ 31 % 2 = 1 then -m - 1 else m
  decide (key b.1 < key a.1) || (key a.1 == key b.1 && decide (a.2 < b.2))

/-- The record after an insertion, its reserved bytes 0 (R5), and the position returned. -/
def topkInsert (rec' : List Byte) (score expert : Nat) : List Byte × Nat :=
  let at' (o n : Nat) : Nat := leNat ((rec'.drop o).take n)
  let k := at' 4 1
  let q := Nat.min (at' 5 1) k
  let ents := (List.range (Nat.min q 7)).map (fun i => (at' (8 + 8 * i) 4, at' (12 + 8 * i) 2))
  let write (es : List (Nat × Nat)) (n : Nat) : List Byte :=
    natBytes 4 (at' 0 4 + 1) ++ natBytes 1 k ++ natBytes 1 n ++ [0, 0]
      ++ List.flatten ((List.range 7).map (fun i =>
          let e := es.getD i (0xFF800000, 0xFFFF)
          natBytes 4 e.1 ++ natBytes 2 e.2 ++ [0, 0]))
  if k = 0 ∨ 7 < k ∨ (ffF32.decode score).isNan then
    (write ents q, 255)
  else
    let dup := ents.find? (fun e => e.2 == expert)
    let keeps := match dup with
      | some d => !ranksAbove (score, 0) (d.1, 0)
      | none => false
    if keeps then (write ents q, 255)
    else
      let rest := match ents.findIdx? (fun e => e.2 == expert) with
        | some i => ents.eraseIdx i
        | none => ents
      let p := (rest.filter (fun e => ranksAbove e (score, expert))).length
      let all := ((rest.take p) ++ [(score, expert)] ++ (rest.drop p)).take k
      if p < k then (write all all.length, p) else (write rest rest.length, 255)

/-! ### Performing an access inside a transaction -/

/-- What a request does to the speculative version, and the value it returns. `none` says that poison refuses it. -/
def txEffect (s : State) (t : Tx) (k : ReqKind) (a : Nat) : Option (List Byte × VReg) :=
  let n := k.span
  let old := t.bytes s.mem a n
  match k with
  | .store n d => if decide (n < 8) && s.txPoison t a n then none else some (natBytes n d.toNat, 0)
  | .atomic op n _ x y _ =>
    if s.txPoison t a n then none
    else
      let r := amoResult op n (leNat old) (x.toNat % 2 ^ (8 * n)) (y.toNat % 2 ^ (8 * n))
      some (if r.2 then natBytes n r.1 else [], BitVec.ofNat 256 (leNat old))
  | .row op e _ delta => if s.txPoison t a n then none else some (rowResult op e old delta, 0)
  | .topk score expert _ =>
    if s.txPoison t a n then none
    else
      let r := topkInsert old score.toNat expert.toNat
      some (r.1, BitVec.ofNat 256 r.2)
  | _ => if s.txPoison t a n then none else some ([], BitVec.ofNat 256 (leNat old))

/-- The access code of a request (R364). -/
def ReqKind.acc : ReqKind → Nat
  | .store _ _ => accStore
  | .atomic _ _ _ _ _ _ | .row _ _ _ _ | .topk _ _ _ | .remAmo _ _ _ _ _ _ => accRmw
  | .tagged op _ _ => if op = 0 then accRmw else if op = 2 ∨ op = 3 ∨ op = 5 then accStore else accLoad
  | _ => accLoad

/-- Whether a request writes its tile, for a registration (R94). -/
def ReqKind.txWrites (k : ReqKind) : Bool := k.writes

/-- A request of a transaction is performed on the speculative version: the request is answered. -/
def State.txPerform (s : State) (r : Req) : State :=
  match s.strand? r.sid with
  | none => s
  | some t =>
    match txEffect s t.tx r.kind r.addr with
    | none => s.setReq r.id (fun q => { q with state := .answered 0 false })
    | some (bs, v) =>
      let s1 := if bs.isEmpty then s else s.txWrite r.sid r.addr bs
      s1.setReq r.id (fun q =>
        { q with
          state := .answered v true,
          kind := match q.kind with
            | .ldrow n st lm _ _ => .ldrow n st lm (t.tx.bytes s.mem r.addr n) (List.range (n / 8))
            | k => k })

/-- Post a request of the strand in hand, emptying the registers it fills. A transactional access to a tile that is registered
for it, within the limits, with no older access of the strand to the tile or the word on its way, is performed now (R94, R96). -/
def State.postAccess (s : State) (kind : ReqKind) (ptr : Word) (a : Nat) (o : Order) (c : Scope) (group : Nat) : State :=
  let r := { newReq s kind ptr a o c with group := group }
  let s1 := { s.post r with cur := kind.emptied s.cur }
  if s.cur.tx.depth ≠ 0 ∧ s.cur.tx.has (tileOf a) kind.txWrites ∧
      !s.reqs.any (fun q => q.sid == s.cur.sid && q.tx && !q.done && tileOf q.addr == tileOf a) ∧
      !s.behindOlder s.cur.sid s.nextId a kind.span ∧ !s.cur.tx.exceeds (tileOf a) kind.reads kind.txWrites then
    (s1.setStrand s.cur.sid (fun u => { u with tx := u.tx.enter (tileOf a) kind.reads kind.txWrites ptr s.ticks })).txPerform r
  else s1

/-! ### Loads -/

/-- The copy of a line that the core's L1 holds and may use: the lease covers lt (R109), no access of the strand's own to a word of
it is on its way but reads that returned no later write (R75), no deposit of the core lies on the line (R118), and no commit is on
its way to the tile (R105). Whether the L1 still holds it is open (L33). -/
def State.leaseHit (s : State) (a n : Nat) : Option Lease :=
  let c := s.core s.cur.core
  match c.l1.find? (fun l => l.line == lineOf a) with
  | none => none
  | some l =>
    if c.lt ≤ l.rts ∧ Config.keeps s.ticks (lineOf a + 1)
        ∧ s.reqs.all (fun q => q.sid != s.cur.sid || !sameWord q.addr q.kind.span a n
            || (q.done && !q.kind.writes && decide (q.wts ≤ l.wts)))
        ∧ !c.upd.any (fun u => u.dep.overlaps (lineOf a * 128) 128) ∧ !s.committingOn (tileOf a) then some l
    else none

/-- A load of GAL or DEP: answered from the L1 on a hit, else on its way to the serving slice (R109). -/
def State.loadCached (s : State) (kind : ReqKind) (ptr : Word) (a n : Nat) (o : Order) (c : Scope) (group : Nat) : State :=
  if s.cur.tx.depth ≠ 0 then s.postAccess kind ptr a o c group
  else match s.leaseHit a n with
    | none => s.postAccess kind ptr a o c group
    | some l =>
      let v : VReg := BitVec.ofNat 256 (l.data.toNat >>> (8 * (a % 128)) % 2 ^ (8 * n))
      let r := { newReq s kind ptr a o c with group := group, state := .answered v true, wts := l.wts }
      { s.post r with cur := kind.emptied s.cur }

/-- The same registers of a load from another core's LM, and from REM. -/
def ReqKind.asRemote : ReqKind → ReqKind
  | .load n sg reg => .remote n sg reg
  | .vload reg => .remoteVec reg
  | k => k
def ReqKind.asRem : ReqKind → ReqKind
  | .load n sg reg => .remRead n sg reg false
  | .vload reg => .remRead 32 false reg true
  | k => k

/-- A read of REM: on a broken channel no effect but 0 in the register and CHANNEL_BROKEN (R392). -/
def State.remRequest (s : State) (kind : ReqKind) (ptr : Word) (o : Order) : State :=
  if s.chanBroken s.myChan then { s with cur := deliverTo kind 0 s.cur }.tellBroken s.myChan s.cur.sid 0
  else
    let s1 := s.setSend s.myChan (fun h => { h with users := if h.users.contains s.cur.sid then h.users else h.users ++ [s.cur.sid] })
    { s1.post (newReq s kind ptr 0 o .sys) with cur := kind.emptied s.cur }

/-- The registers of a load, each with its pointer; all pointers name one space (R234, R235, R263, R265). -/
def State.loadRegs (s : State) (items : List (ReqKind × Word)) (n : Nat) (o : Order) (c : Scope) (reach : Word → Bool) : State :=
  if !s.mayAccess o then s.notReady
  else s.checkedAll (items.map (·.2)) n n accLoad true false reach (fun s as =>
    let ps := items.zip as
    match items with
    | [] => s.advance
    | (_, p) :: _ =>
      if ptrSpace p = 1 then
        if s.ownLm p then
          if as.any (fun a => s.moving a n) then s.notReady
          else
            let s0 := ps.foldl (fun t e => t.readNow e.1.1 e.1.2 e.2 n) s
            let s1 := ps.foldl (fun t e => if s.anyPoison e.2 n then t.voidLanes s.cur.sid 0 e.1.1 else t) s0
            (if o.acquires then s1.acquire s.cur.core else s1).advance
        else
          let s1 := ps.foldl (fun t e => t.post { newReq s e.1.1.asRemote e.1.2 e.2 o c with id := t.nextId }) s
          let s2 := s1.advance
          { s2 with cur := { s2.cur with blocked := some s.nextId } }
      else if ptrSpace p = 4 then
        s.withChan s.myChan p accLoad n (fun s =>
          orElse (noTx s xRemote) (fun _ => (items.foldl (fun t e => t.remRequest e.1.asRem e.2 o) s).advance))
      else (ps.foldl (fun t e => t.loadCached e.1.1 e.1.2 e.2 n o c s.nextId) (if o = .sc then s.acquire s.cur.core else s)).advance)

/-! ### Stores -/

/-- Free entries of a core's posted-store journal (R54). -/
def Core.journalFree (c : Core) : Nat := 32 - c.journal.length

/-- The strand slot byte of a journal entry, and its KPAGE modifier (R55). -/
def modOf (ws : List Half) : Nat :=
  match ws with
  | w :: _ => if w.extractLsb' 11 5 = 0b11110 then (w.extractLsb' 0 6).toNat else 0
  | [] => 0

/-- Whether a posted store of a strand comes behind entries that a resume has entered again from a snapshot of its troupe: all of them are
applied first (R147, R153). -/
def State.behindAgain (s : State) (sid : Nat) : Bool :=
  let troupe (n : Nat) : Option Nat := (s.strands.find? (fun t => t.sid == n)).map (·.troupe)
  s.cores.any (fun c => (c.journal ++ c.replay).any (fun x => x.again && !x.applied && troupe x.sid == troupe sid))

/-- One posted store enters the journal (R54, R55): sent at once, but for a release, for what follows one that is not
sent yet, and for what follows a snapshot. -/
def State.postStore (s : State) (ptr : Word) (n : Nat) (d : VReg) (o : Order) : State :=
  let wait := o.releases || s.behindAgain s.cur.sid || (s.core s.cur.core).journal.any (fun e =>
    e.sid == s.cur.sid && e.state == 2 && ptrOwner e.dest == ptrOwner ptr)
  let e (c : Core) : JEntry :=
    { id := s.nextId, dest := ptr, data := d, size := n, slot := s.cur.hw, mod := modOf s.ir, state := if wait then 2 else 1,
      seq := c.jseq, sid := s.cur.sid, applied := false, refused := 0, op := opOf s.ir, again := false }
  { s.setCore s.cur.core (fun c => { c with journal := c.journal ++ [e c], jseq := c.jseq + 1 }) with nextId := s.nextId + 1 }

/-- A store to the own core's LM at the bank (R51): a narrower one to a poisoned word is refused (R381). -/
def State.storeOwn (s : State) (ptr : Word) (a : Nat) (bs : List Byte) : State :=
  if s.refusesWrite a bs.length then s.poisonRead s.cur.sid ptr accStore bs.length (opOf s.ir) else s.storeAt a bs

/-- A plain store to REM: one counted WRITE on the channel (R235, R263); on a broken channel no effect (R392). -/
def State.storeRem (s : State) (ptr : Word) (bs : List Byte) : State :=
  if s.chanBroken s.myChan then s.tellBroken s.myChan s.cur.sid 1
  else s.enterChan { newCmd s (.put ptr bs) noCounter false 0 .sys s.myChan 0 with state := .channel }

/-- The registers of a store, each with its pointer (R234, R235, R263, R265). -/
def State.storeRegs (s : State) (items : List (Word × VReg)) (n : Nat) (o : Order) (c : Scope) (reach : Word → Bool) : State :=
  if !s.mayAccess .rlx then s.notReady
  else s.checkedAll (items.map (·.1)) n n accStore false true reach (fun s as =>
    let ps := items.zip as
    match items with
    | [] => s.advance
    | (p, _) :: _ =>
      if ptrSpace p = 1 then
        orElse (noTx s xLocal) (fun _ =>
          if s.ownLm p then
            if as.any (fun a => s.moving a n) ∨ !s.mayRelease o c then s.notReady
            else (ps.foldl (fun t e => t.storeOwn e.1.1 e.2 (natBytes n e.1.2.toNat)) s).advance
          else if (s.core s.cur.core).journalFree < items.length ∨ !(s.core s.cur.core).replay.isEmpty then s.notReady
          else (items.foldl (fun t e => t.postStore e.1 n e.2 o) s).advance)
      else if ptrSpace p = 4 then
        s.withChan s.myChan p accStore n (fun s =>
          orElse (noTx s xRemote) (fun _ =>
            if !s.mayReleaseRem o || !s.chanAccepts s.myChan items.length n then s.notReady
            else (items.foldl (fun t e => t.storeRem e.1 (natBytes n e.2.toNat)) s).advance))
      else (ps.foldl (fun t e => t.postAccess (.store n e.1.2) e.1.1 e.2 o c s.nextId) s).advance)

end Sys2Proof.Machine
end

