-- ==== Sys2Proof/Machine/LoadStore.lean ====
section
/-! DEFINITION. Scalar and vector loads and stores, the indexed forms, gather, scatter and PREF
(spec/12 R233 to R237, spec/13 R263 to R265). -/

namespace Sys2Proof.Machine

/-! ### Scalar -/

/-- A scalar load of n bytes. -/
def loadX (o : MEM) (n : Nat) (signed : Bool) (s : State) : Out State :=
  withRegs s [rx 1 o.a o.ta] [wx o.d] (fun s => s.loadRegs [(.load n signed o.d, memPtr s o.a o.imm)] n o.o o.c reachPlain)

def execLdS8 (o : MEM) (s : State) : Out State := loadX o 1 true s
def execLdS16 (o : MEM) (s : State) : Out State := loadX o 2 true s
def execLdS32 (o : MEM) (s : State) : Out State := loadX o 4 true s
def execLdS64 (o : MEM) (s : State) : Out State := loadX o 8 true s
def execLdzN8 (o : MEM) (s : State) : Out State := loadX o 1 false s
def execLdzN16 (o : MEM) (s : State) : Out State := loadX o 2 false s
def execLdzN32 (o : MEM) (s : State) : Out State := loadX o 4 false s

/-- A scalar store of the low n bytes of X[d]. -/
def storeX (o : MEM) (n : Nat) (s : State) : Out State :=
  withRegs s [rx 1 o.a o.ta, rx 0 o.d o.td] [] (fun s =>
    s.storeRegs [(memPtr s o.a o.imm, (s.x o.d).setWidth 256)] n o.o o.c reachPlain)

def execStS8 (o : MEM) (s : State) : Out State := storeX o 1 s
def execStS16 (o : MEM) (s : State) : Out State := storeX o 2 s
def execStS32 (o : MEM) (s : State) : Out State := storeX o 4 s
def execStS64 (o : MEM) (s : State) : Out State := storeX o 8 s

/-- The address a + b × 8 (R236). -/
def idxPtr (s : State) (a b : Reg) : Word := padd (s.x a) (s.x b <<< 3)

def execLdx (o : AT) (s : State) : Out State :=
  withRegs s [rx 1 o.a o.ta, rx 2 o.b o.tb] [wx o.d] (fun s =>
    s.loadRegs [(.load 8 true o.d, idxPtr s o.a o.b)] 8 o.o o.c reachPlain)

def execStx (o : AT) (s : State) : Out State :=
  withRegs s [rx 1 o.a o.ta, rx 2 o.b o.tb, rx 0 o.d o.td] [] (fun s =>
    s.storeRegs [(idxPtr s o.a o.b, (s.x o.d).setWidth 256)] 8 o.o o.c reachPlain)

/-- PREF (R237): a renewal of the line when the pointer is a readable GAL or DEP one; else nothing. -/
def execPref (o : MEM) (s : State) : Out State :=
  withRegs s [rx 1 o.a o.ta] [] (fun s =>
    let p := memPtr s o.a o.imm
    if !s.mayAccess .rlx then s.notReady
    else if reachHome p ∧ s.cur.tx.depth = 0 then
      match lookup s s.myBay s.myTroupe.job p 1 true false false with
      | .good phys e =>
        let s1 := s.cacheEntry e
        (s1.post (newReq s1 .pref p phys .rlx .str)).advance
      | .bad _ _ _ => (s.walked p).advance
    else s.advance)

/-! ### Vector -/

/-- The registers of a group with their pointers, the first at p and each `step` further on. -/
def rowPtrs (w : Grp) (d : Reg) (p step : Word) : List (Reg × Word) :=
  (List.range w.count).map (fun r => (d + BitVec.ofNat 5 r, padd p (BitVec.ofNat 64 r * step)))

def execVld (o : MEM) (s : State) : Out State :=
  withRegs s [rx 1 o.a o.ta] [wv o.w o.d] (fun s =>
    s.loadRegs ((rowPtrs o.w o.d (memPtr s o.a o.imm) 32).map (fun e => (.vload e.1, e.2))) 32 o.o o.c reachPlain)

def execVst (o : MEM) (s : State) : Out State :=
  withRegs s [rx 1 o.a o.ta, rv 0 o.w o.d o.td] [] (fun s =>
    s.storeRegs ((rowPtrs o.w o.d (memPtr s o.a o.imm) 32).map (fun e => (e.2, s.v e.1))) 32 o.o o.c reachPlain)

def execVlds (o : VIdxOp) (s : State) : Out State :=
  withRegs s [rx 1 o.a o.ta, rx 2 o.b o.tb] [wv o.w o.d] (fun s =>
    s.loadRegs ((rowPtrs o.w o.d (s.x o.a) (s.x o.b)).map (fun e => (.vload e.1, e.2))) 32 o.o o.c reachPlain)

/-! ### Gather and scatter (R265) -/

/-- The spaces of gather and scatter: the own core's LM, GAL and DEP. -/
def reachLanes (s : State) (p : Word) : Bool := s.ownLm p || reachHome p

/-- The active lanes with their pointers, ascending. -/
def lanePtrs (s : State) (o : VIdxOp) : List (Nat × Word) :=
  let w := laneBits o.lw
  ((List.range (lanesOf w)).filter (activeLane (s.p o.pred))).map (fun g =>
    (g, padd (s.x o.a) (extend true w (lane (s.v o.b) w g) * BitVec.ofNat 64 (w / 8))))

def execVgath (o : VIdxOp) (s : State) : Out State :=
  withRegs s ([rx 1 o.a o.ta, rv 2 .g1 o.b o.tb] ++ (if o.pred = 0 then [] else [rv 0 .g1 o.d o.td])) [wv .g1 o.d] (fun s =>
    let n := laneBits o.lw / 8
    s.loadRegs ((lanePtrs s o).map (fun e => (.vlane o.d e.1 n, e.2))) n o.o o.c (reachLanes s))

def execVscat (o : VIdxOp) (s : State) : Out State :=
  withRegs s [rx 1 o.a o.ta, rv 2 .g1 o.b o.tb, rv 0 .g1 o.d o.td] [] (fun s =>
    let w := laneBits o.lw
    s.storeRegs ((lanePtrs s o).map (fun e => (e.2, BitVec.ofNat 256 (lane (s.v o.d) w e.1)))) (w / 8) o.o o.c (reachLanes s))

end Sys2Proof.Machine
end

