-- ==== Sys2Proof/Machine/CoherenceSteps.lean ====
section
/-! DEFINITION. The steps of the caches and the directory: renewals, stores, proxies, recalls, deposits, refusals,
rebases (spec/06 R109 to R119). Every step leaves the state as it is when its condition does not hold (L19). -/

namespace Sys2Proof.Machine

/-- The bytes of a store request. -/
def ReqKind.storeBytes : ReqKind → List Byte
  | .store n d => natBytes n d.toNat
  | _ => []

/-! ### Refusal and starvation (R116, R117) -/

/-- Nanoseconds that cover a number of cycles of 1.6 GHz. -/
def cyclesNs (c : Nat) : Nat := (c * 5 + 7) / 8

/-- Cycles that a requester waits after its n-th refusal: doubling from 32, every 256 once it starves. -/
def backOff (n : Nat) : Nat := if n ≤ 7 then 32 * 2 ^ (n - 1) else 256

/-- A home refuses a request: it waits and retries; after 8 refusals it is starving. A prefetch goes. -/
def State.refuse (s : State) (r : Req) (counted : Bool) : State :=
  if r.kind = .pref then s.dropReq r.id
  else
    let n := if counted then r.refusals + 1 else r.refusals
    let first := r.time.getD s.now
    let s1 := s.setReq r.id (fun q =>
      { q with state := .refused, time := some first, refusals := n, retryAt := s.now + cyclesNs (backOff (max n 1)) })
    if n ≥ 8 then
      (linesOf r.addr (max r.kind.span 1)).foldl (fun x ln => x.setLine ln (fun l =>
        if l.starving.any (fun e => e.2 == r.id) then l else { l with starving := l.starving ++ [(first, r.id)] })) s1
    else s1

/-- A request's first attempt has set a transition going: its age counts from here (R117). -/
def State.attempt (s : State) (r : Req) : State := s.setReq r.id (fun q => { q with time := some (r.time.getD s.now) })

/-- A served request gives up its reservations and no longer starves. -/
def State.noteServed (s : State) (r : Req) : State :=
  (linesOf r.addr (max r.kind.span 1)).foldl (fun x ln =>
    let l := x.line ln
    if l.reserved = some r.id ∨ l.starving.any (fun e => e.2 == r.id) then
      x.setLine ln (fun l =>
        { l with reserved := if l.reserved = some r.id then none else l.reserved, starving := l.starving.filter (fun e => e.2 != r.id) })
    else x) s

/-- Whether a line is free for a request: not committing, not reserved for another. -/
def State.lineFree (s : State) (r : Req) (ln : Nat) : Bool :=
  !s.committingOn (ln / 16) && (match (s.line ln).reserved with | some x => x == r.id | none => true)

/-- Whether the core's own deposits lie on the lines of an access: they merge before it is sent (R118). -/
def State.ownDeposits (s : State) (core a n : Nat) : Bool :=
  (linesOf a (max n 1)).any (fun ln => (s.core core).upd.any (fun u => u.dep.overlaps (ln * 128) 128))

/-- Whether a request has not been served and nothing of its own strand holds it back. -/
def State.mayServe (s : State) (r : Req) : Bool :=
  r.state = .sent && !s.behindOlder r.sid r.id r.addr r.kind.span && !s.ownDeposits r.core r.addr r.kind.span
    && (r.kind.storeBytes.isEmpty || !s.behindStore r.core r.id r.addr r.kind.span)
    && (!(r.order.releases && r.kind.writes) || s.releaseReady r.sid r.core r.scope r.group)

/-- The way to the home of a request's lines: refusals, conflicts with transactions (R97), recalls (R115, R119), then the access. The
request is no transaction's, so a write conflicts with its own strand's transaction too: it was issued before XBEGIN. -/
def State.atHome (s : State) (r : Req) (write : Bool) (k : State → State) : State :=
  let lns := linesOf r.addr (max r.kind.span 1)
  if !s.mayServe r then s
  else if s.coh.rebasing then s.refuse r false
  else if !lns.all (s.lineFree r) then s.refuse r true
  else if write && !(s.conflicts (tileOf r.addr) true).isEmpty then (s.doom (tileOf r.addr) true 0).attempt r
  else if lns.all (fun ln => if write then s.homeWritable ln else s.homeReadable ln) then (k s).noteServed r
  else if lns.any (fun ln => (s.line ln).inTransition) then s.refuse r true
  else (lns.foldl (fun x ln =>
    if (if write then x.homeWritable ln else x.homeReadable ln) then x else x.beginRecall ln write) s).attempt r

/-! ### Reads -/

/-- The lines that a core's L1 has for leased copies: 512 less its update-only lines and its speculative tiles (R11, R95, R118). -/
def State.leaseRoom (s : State) (core : Nat) : Nat :=
  512 - ((s.core core).upd.map (fun u => unitLines u.dep)).sum
    - 16 * ((s.strands.filter (fun t => t.exists? && t.core == core)).map (fun t => (t.tx.tiles.filter (fun x => x.write && !x.vitrine)).length)).sum

/-- Of a list no more stay than there is room for: which go is a free choice (L33). -/
def fitRoom {α : Type} (l : List α) (room n : Nat) : List α :=
  if l.length ≤ room then l else (l.rotateLeft (n % l.length)).take room

/-- The leased copies of a core that its L1 has no line left for go: update-only lines and speculative tiles have taken them (R11). -/
def State.trimLeases (s : State) (core : Nat) : State :=
  let room := s.leaseRoom core
  s.setCore core (fun c => { c with l1 := fitRoom c.l1 room (Config.pick s.ticks) })

/-- The L1 of a core takes a leased copy of a line, unless a word of it is poisoned or no line is left. -/
def State.installLease (s : State) (core ln wts rts : Nat) : State :=
  let others (c : Core) : List Lease := c.l1.filter (fun l => l.line != ln)
  let room := s.leaseRoom core
  if s.anyPoison (ln * 128) 128 ∨ room = 0 then s.setCore core (fun c => { c with l1 := others c })
  else s.setCore core (fun c => { c with l1 := ⟨ln, wts, rts, s.lineData ln⟩ :: makeRoom (others c) room (Config.pick s.ticks) })

/-- A serving slice answers a renewal: the lease is extended, the stamps and the data return (R109). -/
def State.answerRead (s : State) (r : Req) (p : Option Proxy) : State :=
  let ln := lineOf r.addr
  let l := s.line ln
  let wts := match p with | some q => q.wts | none => l.wts
  let rts := max (match p with | some q => q.rts | none => l.rts) (r.lt + 256)
  let s1 := match p with
    | some q => s.setProxy { q with rts := rts }
    | none => s.setLine ln (fun l => { l with rts := rts })
  let s2 := s1.installLease r.core ln wts rts
  if r.kind = .pref then s2.dropReq r.id
  else
    let ok := !s.anyPoison r.addr r.kind.span
    s2.setReq r.id (fun q => { q with state := .answered (BitVec.ofNat 256 (s.readN r.addr r.kind.span)) ok, wts := wts })

/-- Whether a request is one that a lease serves. -/
def Req.isLeased (r : Req) : Bool :=
  !r.tx && (match r.kind with
    | .load _ _ _ | .vload _ | .vlane _ _ _ | .pref => true
    | _ => false)

/-- A renewal at its serving slice: the home, or the die's proxy when it holds the line. -/
def State.serveRead (s : State) (r : Req) : State :=
  if !r.isLeased then s
  else if homeDie r.addr = dieOfCore r.core then s.atHome r false (fun s => s.answerRead r none)
  else if !s.mayServe r then s
  else if s.coh.rebasing then s.refuse r false
  else if s.committingOn (tileOf r.addr) then s.refuse r true
  else match s.proxy (lineOf r.addr) (dieOfCore r.core) with
    | some p => (s.answerRead r (some p)).noteServed r
    | none => s

/-- LEASE_RENEWAL (R109). -/
def execLeaseRenewal (s : State) : Out State :=
  match s.req? s.arg.id with
  | some r => .next (s.serveRead r)
  | none => .next s

/-- A group of VGATH lanes is complete: the register is full. -/
def State.closeLanes (s : State) (r : Req) : State :=
  match r.kind with
  | .vlane reg _ _ =>
    if s.reqs.any (fun q => q.sid == r.sid && q.group == r.group && (match q.kind with | .vlane _ _ _ => true | _ => false)) then s
    else s.setStrand r.sid (fun t => t.fillV reg (t.getV reg))
  | _ => s

/-- A result reaches its core: lt rises, a read with an acquire part acquires, the register is filled; a poisoned word gives 0 and
POISON (R77 to R79, R109, R376, R381). -/
def State.returnValue (s : State) (r : Req) (v : VReg) (ok : Bool) : State :=
  let s1 := s.raiseLt r.core r.wts
  let s1 := if r.order.acquires && r.kind.reads then s1.acquire r.core else s1
  let s2 := (s1.dropReq r.id).setStrand r.sid (deliverTo r.kind (if ok then v.toNat else 0))
  let s3 := (if ok then s2 else s2.voidLanes r.sid r.group r.kind).closeLanes r
  if ok ∨ r.kind = .watch then s3
  else s3.poisonRead r.sid r.ptr r.kind.acc r.kind.span (BitVec.ofNat 64 (r.page * 256 + r.opcode))

/-- One 8-byte unit of an LDROW reaches the LM (R284). -/
def State.ldrowUnit (s : State) (r : Req) (lm : Nat) (data : List Byte) (left : List Nat) (i : Nat) : State :=
  let s1 := s.storeAt (lmAddr r.core lm + 8 * i) ((data.drop (8 * i)).take 8)
  s1.setReq r.id (fun q =>
    { q with kind := match q.kind with
        | .ldrow n st lm d _ => .ldrow n st lm d (left.filter (· != i))
        | k => k })

/-- LOAD_RETURN (R109, R284): a result returns; an LDROW writes its units one by one, in no fixed order, then is done. -/
def execLoadReturn (s : State) : Out State :=
  match s.req? s.arg.id with
  | none => .next s
  | some r =>
    match r.state, r.kind with
    | .answered v ok, .ldrow _ _ lm data left =>
      if !ok then .next (s.returnValue r v ok)
      else match left[Config.pick s.ticks % max left.length 1]? with
        | some i => .next (s.ldrowUnit r lm data left i)
        | none => .next (s.returnValue r v ok)
    | .answered v ok, _ => .next (s.returnValue r v ok)
    | _, _ => .next s

/-! ### Stores -/

/-- A store is performed, and its acknowledgement takes the line along (R110); a narrower one to a poisoned word is not, and POISON goes
to its strand (R381). -/
def State.performStore (s : State) (r : Req) (wts : Nat) : State :=
  let bs := r.kind.storeBytes
  if s.refusesWrite r.addr bs.length then
    (s.dropReq r.id).poisonRead r.sid r.ptr accStore bs.length (BitVec.ofNat 64 (r.page * 256 + r.opcode))
  else
    let s1 := s.storeAt r.addr bs
    let ln := lineOf r.addr
    (s1.setCore r.core (fun c => { c with acks := c.acks ++ [(r.id, ⟨ln, wts, wts, s1.lineData ln⟩)] })).setReq r.id (fun q =>
      { q with state := .performed, wts := wts })

/-- Whether a die's proxy may write a line: it holds the line in E or M (R113). -/
def State.proxyOwns (s : State) (ln die : Nat) : Bool :=
  let l := s.line ln
  (l.share == .e || l.share == .m) && l.owner == die && !l.inTransition && (s.proxy ln die).isSome

/-- A store at the proxy that owns the line: E becomes M, the home copy stays behind (R113, R115). -/
def State.storeAtProxy (s : State) (r : Req) : State :=
  let ln := lineOf r.addr
  let die := dieOfCore r.core
  match s.proxy ln die with
  | none => s
  | some p =>
    if !(s.conflicts (tileOf r.addr) true).isEmpty then (s.doom (tileOf r.addr) true 0).attempt r
    else if !(s.depositCores ln).isEmpty then (s.beginRecall ln false).attempt r
    else
      let w := max r.lt (p.rts + 1)
      let s1 := (s.setProxy { p with wts := w, rts := w }).setLine ln (fun l =>
        if l.stale.isSome then { l with share := .m }
        else { l with share := .m, stale := some (s.lineData ln), staleWts := w, staleAt := s.ticks })
      (s1.performStore r w).noteServed r

/-- STORE_APPLY (R110, R113). -/
def execStoreApply (s : State) : Out State :=
  match s.req? s.arg.id with
  | none => .next s
  | some r =>
    if r.kind.storeBytes.isEmpty || r.tx then .next s
    else if homeDie r.addr = dieOfCore r.core then
      .next (s.atHome r true (fun s =>
        let ln := lineOf r.addr
        (s.setLine ln (fun l => l.stampWrite r.lt)).performStore r (max r.lt ((s.line ln).rts + 1))))
    else if !s.mayServe r then .next s
    else if s.coh.rebasing then .next (s.refuse r false)
    else if !s.lineFree r (lineOf r.addr) then .next (s.refuse r true)
    else if s.proxyOwns (lineOf r.addr) (dieOfCore r.core) then .next (s.storeAtProxy r)
    else .next s

/-- The acknowledgement of a store reaches its core: a copy of the line in the L1 takes the data and the stamp that it brings, unless the
copy is younger (R110). -/
def Core.takeAck (c : Core) (id : Nat) : Core :=
  match c.acks.find? (fun a => a.1 == id) with
  | some (_, l) =>
    { c with acks := c.acks.filter (fun a => a.1 != id),
             l1 := c.l1.map (fun x => if x.line = l.line ∧ x.wts < l.wts then l else x) }
  | none => c

/-- STORE_ACK (R110): lt rises, and the L1's copy of the line is updated. -/
def execStoreAck (s : State) : Out State :=
  match s.req? s.arg.id with
  | none => .next s
  | some r =>
    if r.state ≠ .performed then .next s
    else .next (((s.raiseLt r.core r.wts).dropReq r.id).setCore r.core (fun c => c.takeAck r.id))

/-- COHERENCE_RETRY (R116, R117). -/
def execCoherenceRetry (s : State) : Out State :=
  match s.req? s.arg.id with
  | some r => if r.state = .refused ∧ r.retryAt ≤ s.now then .next (s.setReq r.id (fun q => { q with state := .sent })) else .next s
  | none => .next s

/-- RESERVATION_PASS (R117): 16,384 cycles have passed. -/
def execReservationPass (s : State) : Out State :=
  let l := s.line s.arg.id
  match l.reserved with
  | some x =>
    if l.reservedAt + cyclesNs 16384 ≤ s.now then
      let rest := l.starving.filter (fun e => e.2 != x)
      .next (s.setLine s.arg.id (fun l => { l with starving := rest, reserved := oldestStarving rest, reservedAt := s.now }))
    else .next s
  | none => .next s

/-! ### Proxies (R113, R115) -/

/-- The oldest request of a die that waits for its proxy to obtain a line. -/
def State.proxyWaiter (s : State) (ln die : Nat) (write : Bool) : Option Req :=
  s.reqs.find? (fun r => !r.tx && r.state = .sent && lineOf r.addr == ln && dieOfCore r.core == die && homeDie r.addr != die
    && (if write then !r.kind.storeBytes.isEmpty else r.isLeased) && s.mayServe r)

/-- Whether the slice of a die that serves a line is gated: it has no room for a copy (R122). -/
def State.proxyGated (s : State) (ln die : Nat) : Bool := (s.bay (bayOfSlice (sliceOn s ln die))).power == .gated

/-- A request is served by the line that its die has just obtained; a gated slice has to obtain it for that alone, and gives it up at
once (R122). -/
def State.passThrough (s : State) (ln die : Nat) (serve : State → State) : State :=
  if s.proxyGated ln die then
    let s1 := serve s
    match s1.proxy ln die with
    | some p => s1.evictProxy p
    | none => s1
  else s

/-- PROXY_READ_MISS: line, die. -/
def execProxyReadMiss (s : State) : Out State :=
  let ln := s.arg.id
  let die := s.arg.sel
  let l := s.line ln
  match s.proxyWaiter ln die false with
  | none => .next s
  | some r =>
    if (s.proxy ln die).isSome then .next s
    else if s.coh.rebasing then .next (s.refuse r false)
    else if l.inTransition || !s.lineFree r ln then .next (s.refuse r true)
    else if !(s.depositCores ln).isEmpty then .next ((s.beginRecall ln false).attempt r)
    else
      let grant (share : Share) (owner : Nat) : State :=
        ((s.setProxy ⟨ln, die, l.wts, l.rts⟩).setLine ln (fun l =>
          { l with share := share, owner := owner, proxies := l.proxies ||| dieBit die })).passThrough ln die (fun t => t.serveRead r)
      match l.share with
      | .i => .next (grant .e die)
      | .s => .next (grant .s l.owner)
      | .o => .next (grant .o l.owner)
      | .e => .next ((s.setLine ln (fun l => { l with share := .s, awaiting := [l.owner], askedAt := s.now })).attempt r)
      | .m => .next ((s.setLine ln (fun l => { l with share := .o, awaiting := [l.owner], askedAt := s.now })).attempt r)

/-- PROXY_WRITE: line, die. -/
def execProxyWrite (s : State) : Out State :=
  let ln := s.arg.id
  let die := s.arg.sel
  let l := s.line ln
  match s.proxyWaiter ln die true with
  | none => .next s
  | some r =>
    if s.proxyOwns ln die then .next s
    else if s.coh.rebasing then .next (s.refuse r false)
    else if l.inTransition || !s.lineFree r ln then .next (s.refuse r true)
    else if !(s.conflicts (ln / 16) true).isEmpty then .next ((s.doom (ln / 16) true 0).attempt r)
    else if !(s.depositCores ln).isEmpty then .next ((s.beginRecall ln true).attempt r)
    else
      let others := l.dies.filter (· != die)
      if others.isEmpty then
        let p := (s.proxy ln die).getD ⟨ln, die, l.wts, l.rts⟩
        .next (((s.setProxy { p with rts := max p.rts l.rts }).setLine ln (fun l =>
          { l with share := .m, owner := die, proxies := dieBit die })).passThrough ln die (fun t => t.storeAtProxy r))
      else
        .next ((s.setLine ln (fun l =>
          { l with share := if l.proxies &&& dieBit die = 0 then .i else .s, proxies := l.proxies &&& dieBit die,
                   awaiting := others, askedAt := s.now })).attempt r)

/-- PROXY_EVICTION: line, die. The owner of an M or O line writes it back and reports its rts; a clean copy goes; at the line's own
die its home evicts it. The floor of the evicting slice rises (R111). -/
def execProxyEviction (s : State) : Out State :=
  let ln := s.arg.id
  let die := s.arg.sel
  let l := s.line ln
  if l.inTransition then .next s
  else match s.proxy ln die with
    | none => .next (if die = homeDie (ln * 128) ∧ s.coh.lines.any (fun x => x.line == ln) then s.evictHome l else s)
    | some p => .next (s.evictProxy p)

/-- FRESH_READ (R119): line. The oldest read that waits at the line's home is served, after what it recalls. -/
def execFreshRead (s : State) : Out State :=
  match s.reqs.find? (fun r => r.isLeased && r.state = .sent && lineOf r.addr == s.arg.id && homeDie r.addr == dieOfCore r.core) with
  | some r => .next (s.serveRead r)
  | none => .next s

/-- RECALL (R115, R118): line, agent. A die's proxy answers with its rts and its data; an L1 (agent 8 + core) answers once its
merges for the line are done. -/
def execRecall (s : State) : Out State :=
  let ln := s.arg.id
  let g := s.arg.sel
  let l := s.line ln
  if !l.awaiting.contains g then .next s
  else if g < 4 then
    let p := s.proxy ln g
    let s1 := s.setLine ln (fun l =>
      { l with
        wts := max l.wts ((p.map (·.wts)).getD 0), rts := max l.rts ((p.map (·.rts)).getD 0),
        awaiting := l.awaiting.map (fun a => if a = g then g + 4 else a) })
    .next (if l.proxies.getLsbD g then s1 else s1.dropProxy ln g)
  else if g < 8 then .next s
  else if (s.core (g - 8)).upd.any (fun u => u.registered && u.dep.overlaps (ln * 128) 128) then .next s
  else .next ((s.setLine ln (fun l => { l with awaiting := l.awaiting.filter (· != g) })).reserveLine ln)

/-- TRANSITION_ANSWER (R115): line, die. The answer reaches the home; with the last the home copy is current again. -/
def execTransitionAnswer (s : State) : Out State :=
  let ln := s.arg.id
  let die := s.arg.sel
  if !(s.line ln).awaiting.contains (die + 4) ∨ 4 ≤ die then .next s
  else
    .next ((s.setLine ln (fun l =>
      let left := l.awaiting.filter (· != die + 4)
      { l with awaiting := left,
               stale := if left.all (8 ≤ ·) && (l.share == .i || l.share == .s) then none else l.stale })).reserveLine ln)

/-! ### Deposits (R118, R283) -/

/-- DEPOSIT_REGISTRATION: core, place among its update-only units. -/
def execDepositRegistration (s : State) : Out State :=
  match (s.core s.arg.id).upd[s.arg.sel]? with
  | none => .next s
  | some u =>
    let s1 := s.setCore s.arg.id (fun c => { c with upd := c.upd.map (fun x => if x.dep.sameUnit u.dep then { x with registered := true } else x) })
    .next ((linesOf u.dep.unit u.dep.bytes).foldl (fun x ln => x.setLine ln (fun l =>
      { l with
        cores := if l.cores.contains s.arg.id then l.cores else l.cores ++ [s.arg.id],
        umask := if dieOfCore s.arg.id = homeDie (ln * 128) then l.umask else l.umask ||| dieBit (dieOfCore s.arg.id) })) s1)

/-- DEPOSIT_MERGE: core, place. The unit's accumulators are applied at the home as one write; other dies' copies go first,
and transactions that conflict abort (R97). -/
def execDepositMerge (s : State) : Out State :=
  match (s.core s.arg.id).upd[s.arg.sel]? with
  | none => .next s
  | some u =>
    let lns := linesOf u.dep.unit u.dep.bytes
    let tile := tileOf u.dep.unit
    if !u.registered || s.coh.rebasing || s.committingOn tile then .next s
    else if !(s.conflicts tile true).isEmpty then .next (s.doom tile true 0)
    else if lns.all (fun ln => (s.line ln).share == .i && (s.line ln).awaiting.all (8 ≤ ·)) then
      .next (lns.foldl (fun x ln => x.reserveLine ln) (s.mergeUnit s.arg.id u.dep))
    else
      .next (lns.foldl (fun x ln => x.setLine ln (fun l =>
        if l.share = .i ∨ !l.awaiting.all (8 ≤ ·) then l
        else { l with share := .i, proxies := 0, awaiting := l.dies ++ l.awaiting, askedAt := s.now })) s)

/-! ### Rebase (R112) -/

/-- The count at which a rebase is due. -/
def rebaseAt : Nat := 2 ^ 47

/-- Whether a stamp or lt has reached it. -/
def rebaseDue (s : State) : Bool :=
  s.cores.any (fun c => decide (rebaseAt ≤ c.lt) || c.l1.any (fun l => decide (rebaseAt ≤ l.rts)))
    || s.coh.lines.any (fun l => decide (rebaseAt ≤ l.rts)) || s.coh.proxies.any (fun p => decide (rebaseAt ≤ p.rts))
    || s.coh.mts.any (fun m => decide (rebaseAt ≤ m.2.2))

/-- Leases go; every stamp, every lt and every floor becomes 0. A copy of home data that a proxy's store has passed is then usable for no
stale row: no lt lies below the stamp of that store (R112; L76). -/
def State.zeroStamps (s : State) : State :=
  { s with
    cores := s.cores.map (fun c => { c with lt := 0, l1 := [], acks := [] }),
    reqs := s.reqs.map (fun r => { r with lt := 0, wts := 0 }),
    coh := { s.coh with
      lines := s.coh.lines.map (fun l => { l with wts := 0, rts := 0, staleWts := 0 }),
      proxies := s.coh.proxies.map (fun p => { p with wts := 0, rts := 0 }), mts := [] } }

/-- REBASE: writes in transition are complete; from now the slices refuse renewals and stores. -/
def execRebase (s : State) : Out State :=
  if s.coh.rebasing || !rebaseDue s || s.coh.lines.any (·.inTransition) then .next s
  else
    let s1 := s.zeroStamps
    .next { s1 with coh := { s1.coh with rebasing := true } }

/-- REBASE_END. -/
def execRebaseEnd (s : State) : Out State := .next s.endRebase

end Sys2Proof.Machine
end

