-- ==== Sys2Proof/Machine/Tagged.lean ====
section
/-! DEFINITION. Tagged words: the six instructions, the queues of waiters at a word, and their step
(spec/14 R287 to R290, spec/03 R66, spec/20 R381). Operations: 0 LDFE, 1 LDFF, 2 STFE, 3 STFF, 4 FEPOLL, 5 FECLR. -/

namespace Sys2Proof.Machine

/-- Whether an operation waits, and for which tag. -/
def tagWait (op : Nat) : Option Bool := if op = 0 then some true else if op = 2 then some false else none

/-- The effect of an operation on the word and its tag, and the value it returns. -/
def State.tagEffect (s : State) (op a : Nat) (d : Word) : State × Word :=
  let v := s.word a
  match op with
  | 0 => (s.setTag a false, v)
  | 1 => (s, v)
  | 2 | 3 => ((s.put a (natBytes 8 d.toNat)).setTag a true, 0)
  | 4 => (s, if s.tagFull a then 1 else 0)
  | _ => (s.setTag a false, 0)

/-- A write in a gallery line is stamped at its home. -/
def State.stampAt (s : State) (a lt : Nat) (write : Bool) : State :=
  if write ∧ addrSpace a ≠ 1 then s.setLine (lineOf a) (fun l => l.stampWrite lt) else s

/-- A request of the tagged kind: its operation, its data, its register. -/
def Req.tag (r : Req) : Option (Nat × Word × Reg) :=
  match r.kind with
  | .tagged op d reg => some (op, d, reg)
  | _ => none

/-- The answer of a request reaches a strand that waits in it: the register is filled and the strand goes on. -/
def State.tagAnswer (s : State) (r : Req) (reg : Reg) (op : Nat) (v : Word) (ok : Bool) : State :=
  let fills := op = 0 ∨ op = 1 ∨ op = 4
  let s1 := if addrSpace r.addr = 1 then (if r.order.acquires then s.acquire r.core else s)
    else (if r.order.acquires then s.acquire r.core else s).raiseLt r.core r.wts
  let s2 := (s1.dropReq r.id).setStrand r.sid (fun t =>
    let t1 := if fills then t.fillX reg (if ok then v else 0) else t
    if t1.wait = some (.tagged r.id) then t1.finishWait
    else if t1.blocked = some r.id then { t1 with blocked := none } else t1)
  if ok then s2 else s2.poisonRead r.sid r.ptr r.kind.acc 8 (BitVec.ofNat 64 (r.page * 256 + r.opcode))

/-- A request acts at its word. A poisoned word answers at once with nothing done. -/
def State.tagPerform (s : State) (r : Req) : State :=
  match r.tag with
  | none => s
  | some (op, d, reg) =>
    if s.isPoison r.addr then s.tagAnswer r reg op 0 false
    else
      let e := s.tagEffect op r.addr d
      let s1 := e.1.stampAt r.addr r.lt r.kind.writes
      let wts := if addrSpace r.addr = 1 then 0 else (s1.line (lineOf r.addr)).wts
      if (s.strand? r.sid).any (fun t => t.wait = none && t.blocked = none) then
        s1.setReq r.id (fun q => { q with state := .answered (e.2.setWidth 256) true, wts := wts })
      else s1.tagAnswer { r with wts := wts } reg op e.2 true

/-- Whether a queued request has waited as long as its limit lets it: it is withdrawn, and no change of the tag is given to it (R369). -/
def State.expired (s : State) (r : Req) : Bool := r.limit != 0 && decide (r.retryAt + r.limit ≤ s.now)

/-- The waiter that has queued longest at a word for the state its tag now has. -/
def State.tagWaiter (s : State) (a : Nat) : Option Req :=
  (s.reqs.filter (fun r => r.state = .queued && r.addr == a && !s.expired r && (match r.tag with
      | some (op, _, _) => s.isPoison a || tagWait op == some (s.tagFull a)
      | none => false))).foldl (fun m r => match m with
    | none => some r
    | some q => if r.turn < q.turn ∨ (r.turn = q.turn ∧ r.id < q.id) then some r else some q) none

/-- After a change of a tag, waiters perform one after another, each change letting one perform (R289). -/
def State.wakeTagged (s : State) (a : Nat) : Nat → State
  | 0 => s
  | n + 1 =>
    match s.tagWaiter a with
    | none => s
    | some r => (s.tagPerform r).wakeTagged a n

/-- A request at its bank or home: it acts, and the waiters that it lets go act; or it queues. -/
def State.tagArrive (s : State) (r : Req) : State :=
  match r.tag with
  | none => s
  | some (op, _, _) =>
    if !s.isPoison r.addr ∧ (tagWait op).isSome ∧ tagWait op ≠ some (s.tagFull r.addr) then
      s.setReq r.id (fun q => { q with state := .queued, retryAt := s.now, turn := s.ticks })
    else (s.tagPerform r).wakeTagged r.addr s.reqs.length

/-- Rights that an operation needs (R60). -/
def tagReads (op : Nat) : Bool := op = 0 || op = 1 || op = 4
def tagWrites (op : Nat) : Bool := op = 0 || op = 2 || op = 3 || op = 5

/-- The order an operation acts with (R287). -/
def tagOrder (op : Nat) (o : Order) : Order :=
  if op = 0 ∨ op = 1 then (if o = .rlx then .acq else o) else if op = 2 ∨ op = 3 then (if o = .rlx then .rel else o) else o

/-- Read the answer of an own-LM operation into its register. -/
def State.tagOwn (s : State) (op : Nat) (p : Word) (a : Nat) (d : Word) (reg : Reg) : State :=
  let fills := op = 0 ∨ op = 1 ∨ op = 4
  if s.isPoison a then
    ((if fills then s.setX reg 0 else s).poisonRead s.cur.sid p (if op = 0 then accRmw else if tagWrites op then accStore else accLoad) 8
      (opOf s.ir)).advance
  else
    let e := s.tagEffect op a d
    ((if fills then e.1.setX reg e.2 else e.1).wakeTagged a s.reqs.length).advance

/-- A tagged-word instruction. -/
def tagInstr (op : Nat) (o : MEM) (s : State) : Out State :=
  let reads := if op = 2 ∨ op = 3 then [rx 1 o.a o.ta, rx 0 o.d o.td] else [rx 1 o.a o.ta]
  let writes := if op = 0 ∨ op = 1 ∨ op = 4 then [wx o.d] else []
  withRegs s reads writes (fun s =>
    let p := memPtr s o.a o.imm
    let ord := tagOrder op o.o
    let acc := if op = 0 then accRmw else if tagWrites op then accStore else accLoad
    if !s.mayAccess ord || !s.mayRelease ord .pkg then s.notReady
    else s.checked p 8 8 acc (tagReads op) (tagWrites op) (reachTagged p) (fun s a =>
      orElse (noTx s xLocal) (fun _ =>
        let d := s.x o.d
        let waits := (tagWait op).isSome
        let r := { newReq s (.tagged op d o.d) p a ord .pkg with limit := if waits then s.cur.sr.fewait.toNat else 0 }
        if s.ownLm p then
          if s.moving a 8 then s.notReady
          else if waits ∧ !s.isPoison a ∧ tagWait op ≠ some (s.tagFull a) then
            (s.post { r with state := .queued, retryAt := s.now, turn := s.ticks }).waitFor (.tagged r.id)
          else (if ord.acquires then s.acquire s.cur.core else s).tagOwn op p a d o.d
        else if waits then (s.post r).waitFor (.tagged r.id)
        else if ptrSpace p = 1 then
          let s1 := (s.post r).advance
          { s1 with cur := { s1.cur with blocked := some r.id } }
        else
          let s1 := s.post r
          (if op = 1 ∨ op = 4 then s1.emptyX o.d else s1).advance)))

def execLdfe (o : MEM) (s : State) : Out State := tagInstr 0 o s
def execLdff (o : MEM) (s : State) : Out State := tagInstr 1 o s
def execStfe (o : MEM) (s : State) : Out State := tagInstr 2 o s
def execStff (o : MEM) (s : State) : Out State := tagInstr 3 o s
def execFepoll (o : MEM) (s : State) : Out State := tagInstr 4 o s
def execFeclr (o : MEM) (s : State) : Out State := tagInstr 5 o s

/-- Whether the strand's earlier posted stores to a core have been applied (R54, R290). -/
def State.postedBefore (s : State) (r : Req) (core : Nat) : Bool :=
  ((s.core r.core).journal ++ (s.core r.core).replay).all
    (fun e => e.sid != r.sid || ptrOwner e.dest != core || e.applied || decide (r.id < e.id))

/-- TAGGED_WORD_REQUEST (R288 to R290): a request acts or queues at its bank or home; a waiter whose state has come acts. -/
def execTaggedWordRequest (s : State) : Out State :=
  match s.req? s.arg.id with
  | none => .next s
  | some r =>
    if r.tag.isNone then .next s
    else if r.state = .queued then
      .next (match s.tagWaiter r.addr with | some _ => s.wakeTagged r.addr s.reqs.length | none => s)
    else if r.state ≠ .sent then .next s
    else if addrSpace r.addr = 1 then
      .next (if s.postedBefore r (addrUnit r.addr) then s.tagArrive r else s)
    else .next (s.atHome r r.kind.writes (fun s => s.tagArrive r))

/-- FE_TIMEOUT (R289, R369): the wait has reached its limit; the request is withdrawn and the strand takes the trap, with the time of the
expiry (R364). A pending trap that can be delivered comes first, as does a CANCEL that is due (R362). -/
def execFeTimeout (s : State) : Out State :=
  match s.req? s.arg.id with
  | none => .next s
  | some r =>
    match r.tag with
    | none => .next s
    | some (op, _, _) =>
      if r.state = .queued ∧ s.expired r then
        match s.strand? r.sid with
        | none => .next (s.dropReq r.id)
        | some t =>
          if !t.busy && (!t.pend.isEmpty || cancelHere t) then .next s
          else
            let s1 := ((s.dropReq r.id).setStrand t.sid (fun u => { u with wait := none })).focus t.sid
            .next (s1.trap .feTimeout r.ptr (if op = 0 then 0 else 1) (BitVec.ofNat 64 r.limit) (BitVec.ofNat 64 (r.retryAt + r.limit)))
      else .next s

end Sys2Proof.Machine
end

