-- ==== Sys2Proof/Machine/Atomics.lean ====
section
/-! DEFINITION. Scalar atomics, rows and the top-k record, with their performance at the home
(spec/14 R278 to R286; spec/05 R99, R101). Operation codes are those of R196. -/

namespace Sys2Proof.Machine

/-! ### Depositing (R82, R101, R118) -/

/-- Whether an issued release of a strand at die scope or wider flushes the strand's deposits (R82, R118). -/
def State.flushing (s : State) (core sid : Nat) : Bool :=
  s.reqs.any (fun q => q.sid == sid && q.order.releases && decide (3 ≤ q.scope.rank) && !q.done)
    || (s.core core).journal.any (fun e => e.sid == sid && (modOrder e.mod).releases && decide (3 ≤ (modScope e.mod).rank) && !e.applied)

/-- Whether a deposit would need a 129th update-only line (R118). -/
def State.updFull (s : State) (core : Nat) (d : Deposit) : Bool :=
  let c := s.core core
  !c.upd.any (fun u => u.dep.sameUnit d) && decide (128 < (c.upd.map (fun u => unitLines u.dep)).sum + unitLines d)

/-- Whether the L1 can take a deposit now: nothing of the strand's own is on its way to its words, no unit of another kind
overlaps it, its unit is not being flushed, and it fits among 128 update-only lines. -/
def State.canDeposit (s : State) (d : Deposit) : Bool :=
  let c := s.core s.cur.core
  !s.behindOlder s.cur.sid s.nextId d.unit d.bytes
    && c.upd.all (fun u => !u.dep.sameUnit d || u.sids.all (fun sid => !s.flushing s.cur.core sid))
    && c.upd.all (fun u => u.dep.sameUnit d || !u.dep.overlaps d.unit d.bytes)
    && !s.updFull s.cur.core d

/-- The first of a list of update-only units by the time of its first deposit. -/
def oldestUnit (l : List UpdUnit) : Option UpdUnit :=
  l.foldl (fun m u => match m with
    | none => some u
    | some v => if u.age < v.age then some u else some v) none

/-- A 129th update-only line evicts the oldest: its unit is merged at its home (R118). -/
def State.evictOldest (s : State) (core : Nat) : State :=
  match oldestUnit (s.core core).upd with
  | none => s
  | some u =>
    let s1 := (linesOf u.dep.unit u.dep.bytes).foldl (fun x ln => x.settle ln true) (s.clearTiles u.dep.unit u.dep.bytes true)
    if (s1.core core).upd.any (fun v => v.dep.sameUnit u.dep) then s1.mergeUnit core u.dep else s1

/-- The L1 of a core takes a deposit of one of its strands: it gives up its leases on the lines, and those that it has no line left for
(R11, R118). -/
def State.takeDeposit (s : State) (core sid : Nat) (d : Deposit) : State :=
  (s.setCore core (fun c =>
    { c.deposit sid d s.now with l1 := c.l1.filter (fun l => !(linesOf d.unit d.bytes).contains l.line) })).trimLeases core

/-- A comm access is deposited, or buffered by a transaction. -/
def State.deposit (s : State) (d : Deposit) : State :=
  if s.cur.tx.depth ≠ 0 then
    { s with cur := { s.cur with tx := { s.cur.tx with comm := s.cur.tx.comm ++ [d] } } }.advance
  else if !s.canDeposit d then (if s.updFull s.cur.core d && !s.coh.rebasing then s.evictOldest s.cur.core else s).notReady
  else (s.takeDeposit s.cur.core s.cur.sid d).advance

/-! ### Atomics -/

/-- The element type of a deposit of n bytes: signed, unsigned or f32. -/
def amoElem (op n : Nat) (signed : Bool) : Nat := if op = 0x0B then 4 else (if signed then 0 else 2) + (if n = 8 then 1 else 0)

/-- An atomic: operation, bytes, signed cell, and whether it reads d. -/
def amo (op n : Nat) (signed useD : Bool) (o : AT) (s : State) : Out State :=
  let comm := o.o = .comm
  let reads := [rx 1 o.a o.ta, rx 2 o.b o.tb] ++ (if useD then [rx 0 o.d o.td] else [])
  withRegs s reads (if comm then [] else [wx o.d]) (fun s =>
    let p := memPtr s o.a o.imm
    if !s.mayAccess o.o then s.notReady
    else s.checked p n n (if comm then accStore else accRmw) (!comm) true (reachHome p) (fun s a =>
      if comm then
        s.deposit ⟨lineOf a * 128, 128, op, amoElem op n signed, [(a, BitVec.ofNat 64 ((s.x o.b).toNat % 2 ^ (8 * n)))], s.nextId⟩
      else (s.postAccess (.atomic op n signed (s.x o.b) (s.x o.d) o.d) p a o.o o.c s.nextId).advance))

def execAmoaddS32 (o : AT) (s : State) : Out State := amo 0x00 4 true false o s
def execAmoaddS64 (o : AT) (s : State) : Out State := amo 0x00 8 true false o s
def execAmoandS32 (o : AT) (s : State) : Out State := amo 0x01 4 true false o s
def execAmoandS64 (o : AT) (s : State) : Out State := amo 0x01 8 true false o s
def execAmoorS32 (o : AT) (s : State) : Out State := amo 0x02 4 true false o s
def execAmoorS64 (o : AT) (s : State) : Out State := amo 0x02 8 true false o s
def execAmoxorS32 (o : AT) (s : State) : Out State := amo 0x03 4 true false o s
def execAmoxorS64 (o : AT) (s : State) : Out State := amo 0x03 8 true false o s
def execAmominS32 (o : AT) (s : State) : Out State := amo 0x04 4 true false o s
def execAmominS64 (o : AT) (s : State) : Out State := amo 0x04 8 true false o s
def execAmominN32 (o : AT) (s : State) : Out State := amo 0x06 4 false false o s
def execAmominN64 (o : AT) (s : State) : Out State := amo 0x06 8 false false o s
def execAmomaxS32 (o : AT) (s : State) : Out State := amo 0x05 4 true false o s
def execAmomaxS64 (o : AT) (s : State) : Out State := amo 0x05 8 true false o s
def execAmomaxN32 (o : AT) (s : State) : Out State := amo 0x07 4 false false o s
def execAmomaxN64 (o : AT) (s : State) : Out State := amo 0x07 8 false false o s
def execAmoswpS32 (o : AT) (s : State) : Out State := amo 0x08 4 true false o s
def execAmoswpS64 (o : AT) (s : State) : Out State := amo 0x08 8 true false o s
def execAmocasS32 (o : AT) (s : State) : Out State := amo 0x09 4 true true o s
def execAmocasS64 (o : AT) (s : State) : Out State := amo 0x09 8 true true o s
def execAmobaddN32 (o : AT) (s : State) : Out State := amo 0x0A 4 false true o s
def execAmobaddN64 (o : AT) (s : State) : Out State := amo 0x0A 8 false true o s
def execAmofaddF32 (o : AT) (s : State) : Out State := amo 0x0B 4 false false o s

/-- What a request performed at its home leaves: bytes written (none for no write), value returned, or nothing for poison. -/
def State.homeWrite (s : State) (r : Req) (bs : List Byte) (v : VReg) : State :=
  let lns := linesOf r.addr r.kind.span
  if s.anyPoison r.addr r.kind.span then s.setReq r.id (fun q => { q with state := .answered 0 false })
  else if bs.isEmpty then
    s.setReq r.id (fun q => { q with state := .answered v true, wts := lns.foldl (fun m ln => max m (s.line ln).wts) 0 })
  else
    let s1 := lns.foldl (fun x ln => x.setLine ln (fun l => l.stampWrite r.lt)) s
    (s1.put r.addr bs).setReq r.id (fun q =>
      { q with state := .answered v true, wts := lns.foldl (fun m ln => max m (s1.line ln).wts) 0 })

/-- ATOMIC_AT_HOME (R278, R279). -/
def execAtomicAtHome (s : State) : Out State :=
  match s.req? s.arg.id with
  | none => .next s
  | some r =>
    match r.kind, r.tx with
    | .atomic op n _ a b _, false =>
      .next (s.atHome r true (fun s =>
        let old := s.readN r.addr n
        let e := amoResult op n old (a.toNat % 2 ^ (8 * n)) (b.toNat % 2 ^ (8 * n))
        s.homeWrite r (if e.2 then natBytes n e.1 else []) (BitVec.ofNat 256 old)))
    | _, _ => .next s

/-! ### Rows (R281 to R284) -/

def rowBytes : RowSize → Nat
  | .r64 => 64 | .r128 => 128 | .r256 => 256 | .r512 => 512 | .r1024 => 1024

/-- The check of the LM pointer of a row instruction: aligned to 32, the own core's LM, the whole row in it (R281). -/
def State.checkedLm (s : State) (p : Word) (align n acc : Nat) (k : State → Nat → State) : State :=
  if ptrOff p % align ≠ 0 then s.spaceTrap .misalign p acc n
  else if !s.ownLm p || decide (0x60000 < ptrOff p + n) then s.spaceTrap .space p acc n
  else k s (lmAddr s.cur.core (ptrOff p))

/-- ROWADD and ROWMAX. -/
def rowUpdate (op : Nat) (o : RW) (s : State) : Out State :=
  let comm := o.o = .comm
  let n := rowBytes o.size
  withRegs s [rx 1 o.a o.ta, rx 0 o.d o.td] [] (fun s =>
    let p := s.x o.a
    if !s.mayAccess o.o then s.notReady
    else s.checked p n n (if comm then accStore else accRmw) (!comm) true (reachHome p) (fun s a =>
      s.checkedLm (s.x o.d) 32 n accLoad (fun s lm =>
        if s.moving lm n then s.notReady
        else if s.anyPoison lm n then (s.poisonRead s.cur.sid (s.x o.d) accLoad n (opOf s.ir)).advance
        else
          let delta := Memory.bytes s.mem lm n
          let e := rowElem o.ty
          if comm then
            let eb := elemBytes e
            s.deposit ⟨a, n, if elemFloat e ∨ op = 0x05 then op else 0x00, e, (List.range (n / eb)).map (fun i =>
              (a + eb * i, BitVec.ofNat 64 (accOf e (leNat ((delta.drop (eb * i)).take eb))))), s.nextId⟩
          else (s.postAccess (.row op e n delta) p a o.o o.c s.nextId).advance)))

def execRowadd (o : RW) (s : State) : Out State := rowUpdate 0x0B o s
def execRowmax (o : RW) (s : State) : Out State := rowUpdate 0x05 o s

/-- LDROW: inside a transaction the stale form acts as the fresh one (R99). An sc one acquires as it issues (R81). -/
def ldrow (stale : Bool) (o : RW) (s : State) : Out State :=
  let n := rowBytes o.size
  withRegs s [rx 1 o.a o.ta, rx 0 o.d o.td] [] (fun s =>
    let p := s.x o.a
    if !s.mayAccess o.o then s.notReady
    else s.checked p n n accLoad true false (reachHome p) (fun s a =>
      s.checkedLm (s.x o.d) 32 n accStore (fun s lm =>
        if s.moving lm n then s.notReady
        else ((if o.o = .sc then s.acquire s.cur.core else s).postAccess
          (.ldrow n (stale && s.cur.tx.depth == 0) (ptrOff (s.x o.d)) [] []) p a o.o o.c s.nextId).advance)))

def execLdrowFresh (o : RW) (s : State) : Out State := ldrow false o s
def execLdrowStale (o : RW) (s : State) : Out State := ldrow true o s

/-- The home's own bytes of a range: what lies dirty at a proxy is not in them (R119). -/
def State.homeBytes (s : State) (a n : Nat) : List Byte :=
  (List.range n).map (fun i => match (s.line (lineOf (a + i))).stale with
    | some d => BitVec.ofNat 8 (d.toNat >>> (8 * ((a + i) % 128)))
    | none => Memory.get s.mem (a + i))

/-- A row read is answered with its bytes. -/
def State.answerRow (s : State) (r : Req) (bs : List Byte) : State :=
  let wts := (linesOf r.addr r.kind.span).foldl (fun m ln => max m (s.line ln).wts) 0
  let ok := !s.anyPoison r.addr r.kind.span
  s.setReq r.id (fun q =>
    { q with
      state := .answered 0 ok, wts := wts,
      kind := match q.kind with
        | .ldrow n st lm _ _ => .ldrow n st lm bs (List.range (n / 8))
        | k => k })

/-- Count a stale read of a partition (R120). -/
def State.countStale (s : State) (job part : Nat) : State :=
  s.setJob job (fun j => { j with stale := Vector.ofFn (fun i => if i.val = part then j.stale[i] + 1 else j.stale[i]) })

/-- Whether a stale row read may leave the core for the home copy of a line: a newer copy elsewhere holds nothing that the strand has
written or read before it, nothing that the core has seen, and nothing that can happen before the read (R75, R79, R284; L76). -/
def State.staleUsable (s : State) (r : Req) (ln : Nat) : Bool :=
  let l := s.line ln
  l.stale.isNone || (decide ((s.core r.core).lt < l.staleWts) && decide ((s.core r.core).acquired < l.staleAt)
    && s.reqs.all (fun q => q.sid != r.sid || decide (r.id ≤ q.id) || !q.done || !(linesOf q.addr q.kind.span).contains ln))

/-- The stale form. It leaves the core once what it must not miss has reached the home, which the proxy that holds it writes back; the
home then answers at once from its copy, with no recall, and counts it when deposits are outstanding (R119, R284). -/
def State.staleRow (s : State) (r : Req) : State :=
  let lns := linesOf r.addr r.kind.span
  if !s.mayServe r then s
  else if lns.any (fun ln => s.committingOn (ln / 16)) then s.refuse r true
  else if !lns.all (s.staleUsable r) then (lns.filter (fun ln => !s.staleUsable r ln)).foldl State.writeBack s
  else
    let u := s.troupe (((s.strands.find? (fun t => t.sid == r.sid)).map (·.troupe)).getD 0)
    let s1 := if lns.any (fun ln => !(s.depositCores ln).isEmpty) then s.countStale u.job u.part else s
    (s1.answerRow r (s.homeBytes r.addr r.kind.span)).noteServed r

/-- ROW_AT_HOME (R282 to R284). -/
def execRowAtHome (s : State) : Out State :=
  match s.req? s.arg.id with
  | none => .next s
  | some r =>
    match r.kind, r.tx with
    | .row op e n delta, false =>
      .next (s.atHome r true (fun s => s.homeWrite r (rowResult op e (Memory.bytes s.mem r.addr n) delta) 0))
    | .ldrow n st _ _ _, false =>
      if st then .next (s.staleRow r)
      else .next (s.atHome r false (fun s => s.answerRow r (Memory.bytes s.mem r.addr n)))
    | _, _ => .next s

/-! ### TOPK (R285, R286) -/

def execTopk (o : AT) (s : State) : Out State :=
  withRegs s [rx 1 o.a o.ta, rx 2 o.b o.tb] [wx o.d] (fun s =>
    let p := memPtr s o.a o.imm
    if !s.mayAccess o.o then s.notReady
    else s.checked p 64 64 accRmw true true (reachHome p) (fun s a =>
      let b := s.x o.b
      (s.postAccess (.topk (b.setWidth 32) (b.extractLsb' 32 16) o.d) p a o.o o.c s.nextId).advance))

/-- TOPK_AT_HOME (R286). -/
def execTopkAtHome (s : State) : Out State :=
  match s.req? s.arg.id with
  | none => .next s
  | some r =>
    match r.kind, r.tx with
    | .topk score expert _, false =>
      .next (s.atHome r true (fun s =>
        let e := topkInsert (Memory.bytes s.mem r.addr 64) score.toNat expert.toNat
        s.homeWrite r e.1 (BitVec.ofNat 256 e.2)))
    | _, _ => .next s

end Sys2Proof.Machine
end

