-- ==== Sys2Proof/Machine/LmSteps.lean ====
section
/-! DEFINITION. Steps at a target core's local memory: posted stores and their acknowledgements (spec/03 R54, R55,
spec/19 R372), remote reads (spec/03 R53). -/

namespace Sys2Proof.Machine

/-- The entry of a core's journal with a sequence number. -/
def State.entry? (s : State) (core seq : Nat) : Option JEntry := (s.core core).journal.find? (fun e => e.seq.toNat == seq)

/-- Replace it. -/
def State.setEntry (s : State) (core seq : Nat) (f : JEntry → JEntry) : State :=
  s.setCore core (fun c => { c with journal := c.journal.map (fun e => if e.seq.toNat = seq then f e else e) })

/-- The job of a strand, running or ended. -/
def State.jobOf (s : State) (sid : Nat) : Nat :=
  match s.strands.find? (fun t => t.sid == sid) with
  | some t => (s.troupe t.troupe).job
  | none => 0

/-- Whether an entry may be applied: the strand's earlier entries for that core are, and what a resume entered again from its troupe's
snapshots, and a release finds everything before it done. -/
def State.entryReady (s : State) (core : Nat) (e : JEntry) : Bool :=
  (e.again || !s.behindAgain e.sid) && (s.core core).journal.all (fun x => x.sid != e.sid || decide (e.id ≤ x.id) || ptrOwner x.dest != ptrOwner e.dest || x.applied)
    && (!(modOrder e.mod).releases || s.releaseReady e.sid core (modScope e.mod) e.id)

/-- Why a target refuses an entry (R372): 1 its bay is fenced, 3 its LM no longer belongs to the job, 2 the step says that the target
bank shows a lasting error. -/
def State.refusal (s : State) (e : JEntry) : Nat :=
  if (s.bay (bayOfCore (ptrOwner e.dest))).fenced then 1
  else if !(s.job (s.jobOf e.sid)).hasCore (ptrOwner e.dest) then 3
  else if s.arg.yes then 2
  else 0

/-- POSTED_STORE_APPLY: issuing core, sequence; `yes` when the target bank shows a lasting error. -/
def execPostedStoreApply (s : State) : Out State :=
  let core := s.arg.id
  match s.entry? core s.arg.sel with
  | none => .next s
  | some e =>
    if e.applied || !s.entryReady core e then .next s
    else
      let why := s.refusal e
      let a := lmAddr (ptrOwner e.dest) (ptrOff e.dest)
      let s1 := s.setEntry core s.arg.sel (fun x => { x with state := if why = 0 then 1 else 0, applied := true, refused := why })
      if why ≠ 0 then .next s1
      else if s.refusesWrite a e.size then .next (s1.poisonRead e.sid e.dest accStore e.size e.op)
      else .next (s1.storeAt a (natBytes e.size e.data.toNat))

/-- Journal entries that wait for room move in (R147). -/
def State.replayIn (s : State) (core : Nat) : State :=
  s.setCore core (fun c =>
    let n := Nat.min c.journalFree c.replay.length
    { c with journal := c.journal ++ c.replay.take n, replay := c.replay.drop n })

/-- POSTED_REFUSED (R364, R372). -/
def refusedTrap (e : JEntry) (now : Nat) : Trap :=
  ⟨.postedRefused, e.dest, BitVec.ofNat 64 (e.seq.toNat + e.size * 2 ^ 32 + e.refused * 2 ^ 40), e.data.setWidth 64, 0, now⟩

/-- POSTED_STORE_ACK: issuing core, sequence. The entry goes; a refusal is latched (R394) and raises POSTED_REFUSED, or stops the
job when the issuer has ended. -/
def execPostedStoreAck (s : State) : Out State :=
  let core := s.arg.id
  match s.entry? core s.arg.sel with
  | none => .next s
  | some e =>
    if !e.applied then .next s
    else
      let s1 := (s.setCore core (fun c => { c with journal := c.journal.filter (fun x => x.seq.toNat != s.arg.sel) })).replayIn core
      if e.refused = 0 then .next s1
      else
        let t := refusedTrap e s.now
        match s1.strand? e.sid with
        | some _ => .next ((s1.latch e.sid 2).pendTrap e.sid t)
        | none =>
          match s1.strands.find? (fun u => u.sid == e.sid) with
          | some u => .next (s1.stopFor u 4 true t.cause t.c0 t.c1 t.c2 t.c3 u.pc)
          | none => .next s1

/-- REMOTE_READ (R53): the target serves the read, and the strand goes on when its last one has returned. -/
def execRemoteRead (s : State) : Out State :=
  match s.req? s.arg.id with
  | none => .next s
  | some r =>
    let n := match r.kind with | .remote n _ _ => n | .remoteVec _ => 32 | _ => 0
    if n = 0 || r.state != .sent || !s.postedBefore r (addrUnit r.addr) then .next s
    else
      let ok := !s.anyPoison r.addr n
      let v : VReg := if ok then BitVec.ofNat 256 (s.readN r.addr n) else 0
      let s1 := (s.dropReq r.id).setStrand r.sid (deliverTo r.kind v.toNat)
      let more := s1.reqs.any (fun q => q.sid == r.sid && (match q.kind with | .remote _ _ _ | .remoteVec _ => true | _ => false))
      let s2 := if more then s1 else
        (if r.order.acquires then s1.acquire r.core else s1).setStrand r.sid (fun t => { t with blocked := none })
      .next (if ok then s2 else s2.poisonRead r.sid r.ptr accLoad n (BitVec.ofNat 64 (r.page * 256 + r.opcode)))

end Sys2Proof.Machine
end

