-- ==== Sys2Proof/Machine/Scalar.lean ====
section
/-! DEFINITION. Scalar arithmetic, logic, compares, moves and pointers: pages 0 and 1 (spec/12 R218 to R227, R242). -/

namespace Sys2Proof.Machine

/-! ### Operand shapes -/

/-- Shape RRR: X[d] := f a b. -/
def rrr (o : RRR) (f : Word → Word → Word) (s : State) : Out State :=
  withRegs s [rx 1 o.a o.ta, rx 2 o.b o.tb] [wx o.d] (fun s => (s.setX o.d (f (s.x o.a) (s.x o.b))).advance)

/-- Shape RR: X[d] := f a. -/
def rr (o : RR) (f : Word → Word) (s : State) : Out State :=
  withRegs s [rx 1 o.a o.ta] [wx o.d] (fun s => (s.setX o.d (f (s.x o.a))).advance)

/-- Shape RI: X[d] := f a imm. Without a chunk the operand is register d, place 0, with its own trap bit (R202, R364). -/
def ri (o : RI) (f : Word → Word → Word) (s : State) : Out State :=
  withRegs s [rx (if o.td then 0 else 1) o.a (o.ta || o.td)] [wx o.d] (fun s => (s.setX o.d (f (s.x o.a) o.imm)).advance)

/-! ### Values -/

/-- Bits [127:64] of the signed product. -/
def mulHigh (a b : Word) : Word := BitVec.ofInt 64 (a.toInt * b.toInt / 2 ^ 64)
/-- Bits [127:64] of the unsigned product. -/
def mulHighN (a b : Word) : Word := BitVec.ofNat 64 (a.toNat * b.toNat / 2 ^ 64)
/-- |a|, the least value staying itself. -/
def absW (a : Word) : Word := if a.toInt < 0 then 0 - a else a
def minS (a b : Word) : Word := if a.toInt ≤ b.toInt then a else b
def maxS (a b : Word) : Word := if a.toInt ≤ b.toInt then b else a
def minU (a b : Word) : Word := if a.toNat ≤ b.toNat then a else b
def maxU (a b : Word) : Word := if a.toNat ≤ b.toNat then b else a

/-- Signed quotient, truncated toward zero (R219). -/
def divS (a b : Word) : Word :=
  if b = 0 then BitVec.allOnes 64 else if a = 0x8000000000000000#64 ∧ b = BitVec.allOnes 64 then a
  else BitVec.ofInt 64 (a.toInt.tdiv b.toInt)
/-- Signed remainder: it takes the sign of the dividend (R219). -/
def remS (a b : Word) : Word :=
  if b = 0 then a else if a = 0x8000000000000000#64 ∧ b = BitVec.allOnes 64 then 0
  else BitVec.ofInt 64 (a.toInt.tmod b.toInt)
def divU (a b : Word) : Word := if b = 0 then BitVec.allOnes 64 else BitVec.ofNat 64 (a.toNat / b.toNat)
def remU (a b : Word) : Word := if b = 0 then a else BitVec.ofNat 64 (a.toNat % b.toNat)

/-- The shift amount: the low six bits (R220). -/
def amount (b : Word) : Nat := b.toNat % 64

def clzW (a : Word) : Word := if a = 0 then 64 else BitVec.ofNat 64 (63 - Nat.log2 a.toNat)
def ctzW (a : Word) : Word := BitVec.ofNat 64 (((List.range 64).find? (fun i => a.getLsbD i)).getD 64)
def popcW (a : Word) : Word := BitVec.ofNat 64 ((List.range 64).filter (fun i => a.getLsbD i)).length
def bswapW (a : Word) : Word := BitVec.ofNat 64 (leNat (natBytes 8 a.toNat).reverse)

/-- 1 when a relation holds, else 0. -/
def flagW (b : Bool) : Word := if b then 1 else 0

/-- A mask of w low bits. -/
def maskW (w : Nat) : Word := BitVec.ofNat 64 (2 ^ w - 1)

/-- The field of w bits at lsb, bits above 63 reading as 0 (R221). -/
def bitField (a : Word) (lsb w : Nat) (signed : Bool) : Word := extend signed w ((a >>> lsb) &&& maskW w).toNat

/-- Insert a's low bits into d (R221). -/
def insertField (d a : Word) (lsb w : Nat) : Word :=
  let mask := maskW w <<< lsb
  (d &&& ~~~mask) ||| ((a <<< lsb) &&& mask)

/-- PTAG (R227). -/
def ptagW (a b : Word) : Word := (b.extractLsb' 0 16) ++ (a.extractLsb' 0 48)

/-! ### Page 0 -/

def execMov (o : RR) (s : State) : Out State := rr o id s
def execMovi (o : IM) (s : State) : Out State := withRegs s [] [wx o.d] (fun s => (s.setX o.d o.imm).advance)
def execAdd (o : RRR) (s : State) : Out State := rrr o (· + ·) s
def execAddImm (o : RI) (s : State) : Out State := ri o (· + ·) s
def execSub (o : RRR) (s : State) : Out State := rrr o (· - ·) s
def execNeg (o : RR) (s : State) : Out State := rr o (fun a => 0 - a) s
def execMul (o : RRR) (s : State) : Out State := rrr o (· * ·) s
def execMulImm (o : RI) (s : State) : Out State := ri o (· * ·) s
def execMulh (o : RRR) (s : State) : Out State := rrr o mulHigh s
def execMulhn (o : RRR) (s : State) : Out State := rrr o mulHighN s
def execAbs (o : RR) (s : State) : Out State := rr o absW s
def execMin (o : RRR) (s : State) : Out State := rrr o minS s
def execMax (o : RRR) (s : State) : Out State := rrr o maxS s
def execMinn (o : RRR) (s : State) : Out State := rrr o minU s
def execMaxn (o : RRR) (s : State) : Out State := rrr o maxU s

/-- A division: d is empty from issue until DIVIDE_COMPLETE fills it (R219). -/
def division (o : RRR) (f : Word → Word → Word) (s : State) : Out State :=
  withRegs s [rx 1 o.a o.ta, rx 2 o.b o.tb] [wx o.d] (fun s =>
    ((s.post (newReq s (.divide (f (s.x o.a) (s.x o.b)) o.d) 0 0 .rlx .str)).emptyX o.d).advance)

def execDiv (o : RRR) (s : State) : Out State := division o divS s
def execDivn (o : RRR) (s : State) : Out State := division o divU s
def execRem (o : RRR) (s : State) : Out State := division o remS s
def execRemn (o : RRR) (s : State) : Out State := division o remU s

/-- DIVIDE_COMPLETE (R219): the quotient or remainder fills its register. -/
def execDivideComplete (s : State) : Out State :=
  match s.req? s.arg.id with
  | some r => match r.kind with
    | .divide v d => .next ((s.setStrand r.sid (fun t => t.fillX d v)).dropReq r.id)
    | _ => .next s
  | none => .next s

/-! ### Page 1 -/

def execAnd (o : RRR) (s : State) : Out State := rrr o (· &&& ·) s
def execAndImm (o : RI) (s : State) : Out State := ri o (· &&& ·) s
def execOr (o : RRR) (s : State) : Out State := rrr o (· ||| ·) s
def execOrImm (o : RI) (s : State) : Out State := ri o (· ||| ·) s
def execXor (o : RRR) (s : State) : Out State := rrr o (· ^^^ ·) s
def execXorImm (o : RI) (s : State) : Out State := ri o (· ^^^ ·) s
def execAndn (o : RRR) (s : State) : Out State := rrr o (fun a b => a &&& ~~~b) s
def execNot (o : RR) (s : State) : Out State := rr o (fun a => ~~~a) s
def execSll (o : RRR) (s : State) : Out State := rrr o (fun a b => a <<< amount b) s
def execSllImm (o : RI) (s : State) : Out State := ri o (fun a b => a <<< amount b) s
def execSrl (o : RRR) (s : State) : Out State := rrr o (fun a b => a >>> amount b) s
def execSrlImm (o : RI) (s : State) : Out State := ri o (fun a b => a >>> amount b) s
def execSra (o : RRR) (s : State) : Out State := rrr o (fun a b => a.sshiftRight (amount b)) s
def execSraImm (o : RI) (s : State) : Out State := ri o (fun a b => a.sshiftRight (amount b)) s
def execRol (o : RRR) (s : State) : Out State := rrr o (fun a b => a.rotateLeft (amount b)) s
def execRolImm (o : RI) (s : State) : Out State := ri o (fun a b => a.rotateLeft (amount b)) s
def execRor (o : RRR) (s : State) : Out State := rrr o (fun a b => a.rotateRight (amount b)) s
def execClz (o : RR) (s : State) : Out State := rr o clzW s
def execCtz (o : RR) (s : State) : Out State := rr o ctzW s
def execPopc (o : RR) (s : State) : Out State := rr o popcW s
def execBswap (o : RR) (s : State) : Out State := rr o bswapW s

def execBext (o : BFOp) (s : State) : Out State :=
  withRegs s [rx 1 o.a o.ta] [wx o.d] (fun s =>
    (s.setX o.d (bitField (s.x o.a) o.lsb.toNat (o.width1.toNat + 1) o.signed)).advance)

def execBins (o : BFOp) (s : State) : Out State :=
  withRegs s [rx 1 o.a o.ta, rx 0 o.d o.td] [wx o.d] (fun s =>
    (s.setX o.d (insertField (s.x o.d) (s.x o.a) o.lsb.toNat (o.width1.toNat + 1))).advance)

def execCmpeq (o : RRR) (s : State) : Out State := rrr o (fun a b => flagW (a == b)) s
def execCmpeqImm (o : RI) (s : State) : Out State := ri o (fun a b => flagW (a == b)) s
def execCmpne (o : RRR) (s : State) : Out State := rrr o (fun a b => flagW (a != b)) s
def execCmplt (o : RRR) (s : State) : Out State := rrr o (fun a b => flagW (decide (a.toInt < b.toInt))) s
def execCmpltImm (o : RI) (s : State) : Out State := ri o (fun a b => flagW (decide (a.toInt < b.toInt))) s
def execCmpltn (o : RRR) (s : State) : Out State := rrr o (fun a b => flagW (decide (a.toNat < b.toNat))) s
def execCmple (o : RRR) (s : State) : Out State := rrr o (fun a b => flagW (decide (a.toInt ≤ b.toInt))) s
def execCmplen (o : RRR) (s : State) : Out State := rrr o (fun a b => flagW (decide (a.toNat ≤ b.toNat))) s

/-- SEL reads d as its condition (R223). -/
def execSel (o : RRR) (s : State) : Out State :=
  withRegs s [rx 1 o.a o.ta, rx 2 o.b o.tb, rx 0 o.d o.td] [wx o.d] (fun s =>
    (s.setX o.d (if s.x o.d = 0 then s.x o.b else s.x o.a)).advance)

/-- LDPC: a pointer relative to its own address (R225). -/
def execLdpc (o : IM) (s : State) : Out State := withRegs s [] [wx o.d] (fun s => (s.setX o.d (s.target o.imm)).advance)

def execPtag (o : RRR) (s : State) : Out State := rrr o ptagW s
def execPspc (o : RR) (s : State) : Out State := rr o (fun a => (a.extractLsb' 60 4).setWidth 64) s
def execPown (o : RR) (s : State) : Out State := rr o (fun a => (a.extractLsb' 48 12).setWidth 64) s
def execPoff (o : RR) (s : State) : Out State := rr o (fun a => (a.extractLsb' 0 48).setWidth 64) s
def execPadd (o : RRR) (s : State) : Out State := rrr o padd s
def execPaddImm (o : RI) (s : State) : Out State := ri o padd s

/-- The time as the die of a core reads it (R6, R242). -/
def State.timeAt (s : State) (core : Nat) : Nat := s.now + Config.skew (dieOfCore core) % 5

/-- Cycles of 1.6 GHz since reset, without the time the bay was gated (R242; L31). -/
def State.cycles (s : State) (core : Nat) : Nat := (s.now - (s.bay (bayOfCore core)).gatedNs) * 8 / 5

/-- RDTIME: an outstanding read that acquires orders it (R242). -/
def execRdtime (d : Reg) (s : State) : Out State :=
  withRegs s [] [wx d] (fun s =>
    if s.held then s.notReady else (s.setX d (BitVec.ofNat 64 (s.timeAt s.cur.core))).advance)

def execRdcyc (d : Reg) (s : State) : Out State :=
  withRegs s [] [wx d] (fun s => (s.setX d (BitVec.ofNat 64 (s.cycles s.cur.core))).advance)

end Sys2Proof.Machine
end

