-- ==== Sys2Proof/Machine/Branch.lean ====
section
/-! DEFINITION. Branches, calls, loops, NOP, END, SAFE and the instructions that raise traps at themselves
(spec/12 R228 to R232, R238 to R241; spec/19 R361). -/

namespace Sys2Proof.Machine

/-- Take a branch, or go on in sequence. -/
def State.branch (s : State) (taken : Bool) (imm : Word) : State := if taken then s.jump (s.target imm) else s.advance

/-- Shape BZ with a test of X[d]. -/
def branchIf (o : BZ) (c : Word → Bool) (s : State) : Out State :=
  withRegs s [rx 0 o.d o.td] [] (fun s => s.branch (c (s.x o.d)) o.off)

/-- Shape BC with a comparison of X[d] and a. -/
def branchCmp (o : BC) (c : Word → Word → Bool) (s : State) : Out State :=
  withRegs s [rx 1 o.a o.ta, rx 0 o.d o.td] [] (fun s => s.branch (c (s.x o.d) (s.x o.a)) o.off)

def execBr (o : BZ) (s : State) : Out State := .next (s.jump (s.target o.off))
def execBeqz (o : BZ) (s : State) : Out State := branchIf o (fun d => d == 0) s
def execBnez (o : BZ) (s : State) : Out State := branchIf o (fun d => d != 0) s
def execBltz (o : BZ) (s : State) : Out State := branchIf o (fun d => decide (d.toInt < 0)) s
def execBgez (o : BZ) (s : State) : Out State := branchIf o (fun d => decide (0 ≤ d.toInt)) s
def execBeq (o : BC) (s : State) : Out State := branchCmp o (fun d a => d == a) s
def execBne (o : BC) (s : State) : Out State := branchCmp o (fun d a => d != a) s
def execBlt (o : BC) (s : State) : Out State := branchCmp o (fun d a => decide (d.toInt < a.toInt)) s
def execBge (o : BC) (s : State) : Out State := branchCmp o (fun d a => decide (a.toInt ≤ d.toInt)) s
def execBltn (o : BC) (s : State) : Out State := branchCmp o (fun d a => decide (d.toNat < a.toNat)) s
def execBgen (o : BC) (s : State) : Out State := branchCmp o (fun d a => decide (a.toNat ≤ d.toNat)) s

/-- A jump to a register target, which is checked before anything is written (R228). -/
def State.jumpTo (s : State) (t : Word) (k : State → State) : State :=
  if targetOk t then k (s.jump t) else s.spaceTrap .misalign t accJump 2

/-- CALL: x1 receives the address after the instruction (R231). -/
def execCall (o : BZ) (s : State) : Out State :=
  withRegs s [] [wx 1] (fun s => (s.setX 1 s.nextPc).jump (s.target o.off))

/-- CALLR reads its target before it writes x1 (R231). -/
def execCallr (o : RR) (s : State) : Out State :=
  withRegs s [rx 1 o.a o.ta] [wx 1] (fun s => s.jumpTo (s.x o.a) (fun t => t.setX 1 s.nextPc))

def execRet (s : State) : Out State := withRegs s [rx 1 1 false] [] (fun s => s.jumpTo (s.x 1) id)
def execJmpr (o : RR) (s : State) : Out State := withRegs s [rx 1 o.a o.ta] [] (fun s => s.jumpTo (s.x o.a) id)

/-- LOOP: count down, branch while not 0; x0 stays 0, and the value tested is 0 − 1 (R232). -/
def execLoop (o : BZ) (s : State) : Out State :=
  withRegs s [rx 0 o.d o.td] [wx o.d] (fun s =>
    let v := s.x o.d - 1
    (s.setX o.d v).branch (v != 0) o.off)

def execNop (s : State) : Out State := .next s.advance

/-- Whether moves of the strand in hand still write or read its local memory: ZLD, ZST, LDROW. -/
def State.movesLeft (s : State) : Bool :=
  s.moves.any (fun m => m.sid == s.cur.sid) || s.reqs.any (fun r => r.sid == s.cur.sid && (match r.kind with
    | .ldrow _ _ _ _ _ => true
    | _ => false))

/-- END (R239), once the moves of the strand are complete (L29). -/
def execEndStrand (s : State) : Out State := .next (if s.movesLeft then s.notReady else s.endStrand)

/-- The live masks of a SAFE: every register without ranges; else the union of the ranges with x1 and x2 (R240). -/
def liveMask (l : List SafeRange) (vec : Bool) : Quad :=
  if l.isEmpty then BitVec.allOnes 32
  else (l.filter (fun r => r.vec == vec)).foldl (fun m r =>
      (List.range 32).foldl (fun m i => if r.first.toNat ≤ i ∧ i ≤ r.last.toNat then m ||| 1 <<< i else m) m)
    (if vec then 0 else 6)

/-- SAFE: the strand stands at a safe point after it (R43, R240). -/
def execSafe (s : State) : Out State :=
  let l := (rawOf s.ir).safeRanges
  let s1 := s.advance
  .next { s1 with cur := { s1.cur with safe := true, stopAs := 0, live := (liveMask l false, liveMask l true) } }

/-- TRAPZ (R241): the trap carries the operation word. -/
def execTrapz (s : State) : Out State := .next (s.trap .trapz ((s.ir.getLastD 0).setWidth 64) 0 0 0)

/-- An illegal word group raises ILLEGAL with its sub-code (R206, R365). -/
def execIllegalEncoding (s : State) : Out State := .next (s.illegal (illegalSub s.ir))

/-- BREAK after the instruction (R241, R364). -/
def State.breakAfter (s : State) (code kind : Word) : State := s.advance.trap .brk (code &&& 0x3FF) kind 0 0

def execBrk (s : State) : Out State := .next (s.breakAfter (rawOf s.ir).imm 0)

def execTrap (o : IM) (s : State) : Out State :=
  withRegs s [rx 0 o.d o.td] [] (fun s => if s.x o.d = 0 then s.advance else s.breakAfter o.imm 1)

/-- SRET (R322, R361). -/
def execSret (s : State) : Out State := .next s.returnTrap

end Sys2Proof.Machine
end

