-- ==== Sys2Proof/Machine/SystemRegs.lean ====
section
/-! DEFINITION. State registers by number (spec/11 R209): GETS and PUTS (spec/12 R226) with the maps of spec/07 R128, R130,
spec/05 R92, spec/06 R120, spec/10 R184 and spec/19 R356. -/

namespace Sys2Proof.Machine

/-- The LFSR loaded from a seed (R130): %troupe × 32 + %strand spreads the strands. -/
def lfsrLoad (seed : Quad) (troupe strand : Nat) : Quad :=
  let v := seed ^^^ (BitVec.ofNat 32 ((troupe * 32 + strand) * 0x9E3779B9))
  if v = 0 then 1 else v

/-- %lmwin of a strand: the LCL pointer to its troupe's window on its core (R26). -/
def State.lmwin (s : State) (t : Strand) : Word := BitVec.ofNat 64 (physAddr 1 t.core (s.troupe t.troupe).lmOff)

/-- The value of a state register of the strand in hand (R209). -/
def State.getSr (s : State) (n : Nat) : Word :=
  let t := s.cur
  let u := s.myTroupe
  let j := s.myJob
  match n with
  | 0x00 => BitVec.ofNat 64 t.core
  | 0x01 => BitVec.ofNat 64 t.sr.strand
  | 0x02 => BitVec.ofNat 64 u.index
  | 0x03 => u.launch
  | 0x04 => BitVec.ofNat 64 u.job
  | 0x05 => BitVec.ofNat 64 u.part
  | 0x06 => s.lmwin t
  | 0x07 => t.sr.chan
  | 0x08 => t.sr.round
  | 0x09 => t.sr.seed
  | 0x0A => t.sr.lfsr
  | 0x0B => t.sr.xage
  | 0x0C => t.sr.fewait
  | 0x0D => j.codeBase
  | 0x0E => j.codeLimit
  | 0x0F => j.tvec
  | 0x10 => j.stale[0] | 0x11 => j.stale[1] | 0x12 => j.stale[2] | 0x13 => j.stale[3]
  | 0x14 => j.stale[4] | 0x15 => j.stale[5] | 0x16 => j.stale[6] | 0x17 => j.stale[7]
  | 0x18 => u.arith[0].setWidth 64 | 0x19 => u.arith[1].setWidth 64 | 0x1A => u.arith[2].setWidth 64
  | 0x1B => u.arith[3].setWidth 64 | 0x1C => u.arith[4].setWidth 64
  | 0x20 => u.alimit[0].setWidth 64 | 0x21 => u.alimit[1].setWidth 64 | 0x22 => u.alimit[2].setWidth 64
  | 0x23 => u.alimit[3].setWidth 64 | 0x24 => u.alimit[4].setWidth 64
  | 0x28 => j.evtab
  | 0x29 => j.creg
  | 0x2A => BitVec.ofNat 64 j.log2n
  | 0x30 => t.sr.cause
  | 0x31 => t.sr.epc
  | 0x32 => t.sr.c0 | 0x33 => t.sr.c1 | 0x34 => t.sr.c2 | 0x35 => t.sr.c3
  | _ => 0

/-- The low 32 bits of a value, zero-extended: a register whose upper half is reserved. -/
def low32 (w : Word) : Word := w &&& 0xFFFFFFFF

/-- Change the state registers of the strand in hand. -/
def State.setSr (s : State) (f : SRegs → SRegs) : State := { s with cur := { s.cur with sr := f s.cur.sr } }

/-- A counter or limit of the troupe (R209). -/
def State.setArith (s : State) (i : Fin 5) (w : Word) : State :=
  s.setTroupe s.cur.troupe (fun u => { u with arith := u.arith.set i (w.setWidth 32) })
def State.setAlimit (s : State) (i : Fin 5) (w : Word) : State :=
  s.setTroupe s.cur.troupe (fun u => { u with alimit := u.alimit.set i (w.setWidth 32) })
/-- A stale-read counter of the job (R120). -/
def State.setStale (s : State) (i : Fin 8) (w : Word) : State :=
  s.setJob s.myTroupe.job (fun j => { j with stale := j.stale.set i w })

/-- %round: a mode above 0b100 is written as 0 (R128). -/
def roundValue (w : Word) : Word := if (w &&& 7).toNat > 4 then 0 else w &&& 7

/-- Write a state register of the strand in hand as its map states. -/
def State.putSr (s : State) (n : Nat) (w : Word) : State :=
  match n with
  | 0x07 => s.setSr (fun r => { r with chan := w &&& 0xFFF })
  | 0x08 => s.setSr (fun r => { r with round := roundValue w })
  | 0x09 => s.setSr (fun r => { r with seed := low32 w, lfsr := (lfsrLoad (w.setWidth 32) s.myTroupe.index r.strand).setWidth 64 })
  | 0x0A => s.setSr (fun r => { r with lfsr := if low32 w = 0 then 1 else low32 w })
  | 0x0B => s.setSr (fun r => { r with xage := 0 })
  | 0x0C => s.setSr (fun r => { r with fewait := low32 w })
  | 0x10 => s.setStale 0 w | 0x11 => s.setStale 1 w | 0x12 => s.setStale 2 w | 0x13 => s.setStale 3 w
  | 0x14 => s.setStale 4 w | 0x15 => s.setStale 5 w | 0x16 => s.setStale 6 w | 0x17 => s.setStale 7 w
  | 0x18 => s.setArith 0 w | 0x19 => s.setArith 1 w | 0x1A => s.setArith 2 w | 0x1B => s.setArith 3 w | 0x1C => s.setArith 4 w
  | 0x20 => s.setAlimit 0 w | 0x21 => s.setAlimit 1 w | 0x22 => s.setAlimit 2 w | 0x23 => s.setAlimit 3 w | 0x24 => s.setAlimit 4 w
  | 0x30 => s.setSr (fun r => { r with cause := w &&& 0xC0FF })
  | 0x31 => s.setSr (fun r => { r with epc := w })
  | 0x32 => s.setSr (fun r => { r with c0 := w })
  | 0x33 => s.setSr (fun r => { r with c1 := w })
  | 0x34 => s.setSr (fun r => { r with c2 := w })
  | 0x35 => s.setSr (fun r => { r with c3 := w })
  | _ => s

def execGets (o : IM) (s : State) : Out State :=
  withRegs s [] [wx o.d] (fun s => (s.setX o.d (s.getSr o.imm.toNat)).advance)

/-- PUTS reads X[d] and writes the register that the immediate names. -/
def puts (o : IM) (s : State) : Out State :=
  withRegs s [rx 0 o.d o.td] [] (fun s => (s.putSr o.imm.toNat (s.x o.d)).advance)

/-- PUTS to a register that the five following rows do not name. -/
def execPuts (o : IM) (s : State) : Out State := puts o s
/-- PUTS to %seed reloads %lfsr (R130). -/
def execPutsSeed (o : IM) (s : State) : Out State := puts o s
/-- PUTS to %lfsr stores a written 0 as 1 (R130). -/
def execPutsLfsr (o : IM) (s : State) : Out State := puts o s
/-- PUTS to %xage sets it to 0 (R92). -/
def execPutsXage (o : IM) (s : State) : Out State := puts o s
/-- PUTS to %round (R128). -/
def execPutsRound (o : IM) (s : State) : Out State := puts o s
/-- PUTS to %cause; a 0 in bit 15 ends the handler's claim (R356, R361). -/
def execPutsCause (o : IM) (s : State) : Out State := puts o s

end Sys2Proof.Machine
end

