-- ==== Sys2Proof/Machine/VectorInt.lean ====
section
/-! DEFINITION. Vector integer arithmetic, compares, reductions, lane movement and predicates (spec/13 R244 to R251, R254 to R258). -/

namespace Sys2Proof.Machine

/-! ### Lane-wise operations -/

/-- One lane of a result: its value and whether it was clamped. -/
structure LaneOut where
  value : Nat
  clamped : Bool
  deriving DecidableEq, Repr

/-- The lanes of register r of a lane-wise result: an active lane takes f of the old lane and the operands' lanes, an
inactive one keeps the old lane (R245). -/
def laneReg (w : Nat) (p : Quad) (r : Nat) (old a b : VReg) (f : Nat → Nat → Nat → LaneOut) : List LaneOut :=
  (List.range (lanesOf w)).map (fun l =>
    if activeLane p (r * lanesOf w + l) then f (lane old w l) (lane a w l) (lane b w l) else ⟨lane old w l, false⟩)

/-- Register number r of a group. -/
def inGroup (d : Reg) (r : Nat) : Reg := d + BitVec.ofNat 5 r

/-- Write the registers of a group. -/
def State.setGroup (s : State) (d : Reg) (vs : List VReg) : State :=
  (vs.zipIdx).foldl (fun t e => t.setV (inGroup d e.2) e.1) s

/-- The clamp events of a lane-wise integer result, in lane order (R247). -/
def clampEvents (d : Reg) (rs : List (List LaneOut)) : List Ev :=
  List.flatten ((rs.zipIdx).map (fun e => ((e.1.zipIdx).filter (fun x => x.1.clamped)).map (fun x =>
    (⟨2, 0, (inGroup d e.2).toNat, 0, x.2, 0x7F⟩ : Ev))))

/-- The registers that a predicated lane-wise operation writes. -/
def laneGroup (s : State) (d a b : Reg) (w : Grp) (bits : Nat) (p : Quad) (f : Nat → Nat → Nat → LaneOut) : List (List LaneOut) :=
  (List.range w.count).map (fun r => laneReg bits p r (s.v (inGroup d r)) (s.v (inGroup a r)) (s.v (inGroup b r)) f)

/-- A lane-wise operation of class V on a and b, governed by a predicate; `d` is read when the predicate is not p0. -/
def vlanes (o : VOp) (f : Nat → Nat → Nat → LaneOut) (s : State) : Out State :=
  withRegs s ([rv 1 o.w o.a o.ta, rv 2 o.w o.b o.tb] ++ (if o.pred = 0 then [] else [rv 0 o.w o.d o.td])) [wv o.w o.d]
    (fun s =>
      let rs := laneGroup s o.d o.a o.b o.w (laneBits o.m.lw) (s.p o.pred) f
      (s.setGroup o.d (rs.map (fun l => unlanes (laneBits o.m.lw) (l.map (·.value))))).advanceCounting
        (clampEvents o.d rs) (intCode o.m.unsigned o.m.lw) (intCode o.m.unsigned o.m.lw))

/-- The integer of a lane. -/
def laneInt (m : VMod) (v : Nat) : Int := intOf (!m.unsigned) (laneBits m.lw) v

/-- An exact result in the lane's type, wrapped or clamped. -/
def narrowLane (m : VMod) (v : Int) : LaneOut :=
  let r := narrowInt (!m.unsigned) (laneBits m.lw) m.sat v
  ⟨r.1, r.2⟩

/-- A lane moved without change of bits. -/
def plainLane (v : Nat) : LaneOut := ⟨v, false⟩

def execVadd (o : VOp) (s : State) : Out State := vlanes o (fun _ a b => narrowLane o.m (laneInt o.m a + laneInt o.m b)) s
def execVsub (o : VOp) (s : State) : Out State := vlanes o (fun _ a b => narrowLane o.m (laneInt o.m a - laneInt o.m b)) s
def execVmul (o : VOp) (s : State) : Out State := vlanes o (fun _ a b => narrowLane o.m (laneInt o.m a * laneInt o.m b)) s
def execVmulh (o : VOp) (s : State) : Out State :=
  vlanes o (fun _ a b => plainLane (wrapInt (laneBits o.m.lw) (laneInt o.m a * laneInt o.m b / 2 ^ laneBits o.m.lw))) s
def execVmin (o : VOp) (s : State) : Out State :=
  vlanes o (fun _ a b => plainLane (if laneInt o.m a ≤ laneInt o.m b then a else b)) s
def execVmax (o : VOp) (s : State) : Out State :=
  vlanes o (fun _ a b => plainLane (if laneInt o.m a ≤ laneInt o.m b then b else a)) s
def execVand (o : VOp) (s : State) : Out State := vlanes o (fun _ a b => plainLane (a &&& b)) s
def execVor (o : VOp) (s : State) : Out State := vlanes o (fun _ a b => plainLane (a ||| b)) s
def execVxor (o : VOp) (s : State) : Out State := vlanes o (fun _ a b => plainLane (a ^^^ b)) s

/-- Shift amounts are b[k−1:0] with W = 2^k (R249). -/
def execVsll (o : VOp) (s : State) : Out State := vlanes o (fun _ a b => plainLane (a <<< (b % laneBits o.m.lw))) s
def execVsrl (o : VOp) (s : State) : Out State := vlanes o (fun _ a b => plainLane (a >>> (b % laneBits o.m.lw))) s
def execVsra (o : VOp) (s : State) : Out State :=
  vlanes o (fun _ a b => plainLane (wrapInt (laneBits o.m.lw) (intOf true (laneBits o.m.lw) a / 2 ^ (b % laneBits o.m.lw)))) s

/-- VABS has no predicate: every lane is active (R248). -/
def execVabs (o : VMovOp) (s : State) : Out State :=
  withRegs s [rv 1 o.w o.a o.ta] [wv o.w o.d] (fun s =>
    let rs := laneGroup s o.d o.a o.a o.w (laneBits o.m.lw) (BitVec.allOnes 32)
      (fun _ a _ => narrowLane o.m (laneInt o.m a).natAbs)
    (s.setGroup o.d (rs.map (fun l => unlanes (laneBits o.m.lw) (l.map (·.value))))).advanceCounting
      (clampEvents o.d rs) (intCode o.m.unsigned o.m.lw) (intCode o.m.unsigned o.m.lw))

/-- VSEL: the chunk names a selector; every lane is written (R251). -/
def execVsel (o : VOp) (s : State) : Out State :=
  withRegs s [rv 1 o.w o.a o.ta, rv 2 o.w o.b o.tb] [wv o.w o.d] (fun s =>
    let rs := (List.range o.w.count).map (fun r =>
      laneReg (laneBits o.m.lw) (s.p o.pred) r (s.v (inGroup o.b r)) (s.v (inGroup o.a r)) (s.v (inGroup o.b r))
        (fun _ a _ => plainLane a))
    (s.setGroup o.d (rs.map (fun l => unlanes (laneBits o.m.lw) (l.map (·.value))))).advance)

/-! ### Compares (R250) -/

/-- The conditions eq, ne, lt, le, gt, ge. -/
def condInt (c : BitVec 3) (a b : Int) : Bool :=
  match c.toNat with
  | 0 => a == b | 1 => a != b | 2 => decide (a < b) | 3 => decide (a ≤ b) | 4 => decide (b < a) | _ => decide (b ≤ a)

/-- A predicate from the truth of N lanes; the bits from N on are 0. -/
def predOf (l : List Bool) : Quad :=
  BitVec.ofNat 32 (joinBits 1 (l.map Bool.toNat))

def execVcmp (o : VCmpOp) (s : State) : Out State :=
  withRegs s [rv 1 .g1 o.a o.ta, rv 2 .g1 o.b o.tb] [] (fun s =>
    let w := laneBits o.m.lw
    let p := s.p o.pred
    (s.setP (o.d.setWidth 3) (predOf ((List.range (lanesOf w)).map (fun l =>
      activeLane p l && condInt o.cond (laneInt o.m (lane (s.v o.a) w l)) (laneInt o.m (lane (s.v o.b) w l)))))).advance)

/-! ### Reductions (R137, R254) -/

/-- The root of the pairwise tree over the lanes of a register, inactive lanes entering as the identity. -/
def reduceInt (w : Nat) (p : Quad) (v : VReg) (ident : Nat) (f : Nat → Nat → Nat) : Nat :=
  let ls := (List.range (lanesOf w)).map (fun l => if activeLane p l then lane v w l else ident)
  (pairTree (fun (u : Unit) a b => (f a b, u)) (Nat.log2 (lanesOf w)) () ls).1.headD 0

/-- An integer reduction: the root, extended under the type, goes to X[d]. -/
def vreduce (o : VRedOp) (ident : Nat) (f : Nat → Nat → Nat) (s : State) : Out State :=
  withRegs s [rv 1 .g1 o.a o.ta] [wx o.d] (fun s =>
    (s.setX o.d (extend (!o.m.unsigned) (laneBits o.m.lw) (reduceInt (laneBits o.m.lw) (s.p o.pred) (s.v o.a) ident f))).advance)

def execVrsumInt (o : VRedOp) (s : State) : Out State := vreduce o 0 (fun a b => (a + b) % 2 ^ laneBits o.m.lw) s
def execVrmaxInt (o : VRedOp) (s : State) : Out State :=
  vreduce o (wrapInt (laneBits o.m.lw) (intMin (!o.m.unsigned) (laneBits o.m.lw)))
    (fun a b => if laneInt o.m a ≤ laneInt o.m b then b else a) s
def execVrminInt (o : VRedOp) (s : State) : Out State :=
  vreduce o (wrapInt (laneBits o.m.lw) (intMax (!o.m.unsigned) (laneBits o.m.lw)))
    (fun a b => if laneInt o.m a ≤ laneInt o.m b then a else b) s

/-! ### Lane movement (R255 to R257) -/

/-- VPERM: lane i takes lane (b_i mod N) of a. -/
def execVperm (o : VOp) (s : State) : Out State :=
  withRegs s [rv 1 .g1 o.a o.ta, rv 2 .g1 o.b o.tb] [wv .g1 o.d] (fun s =>
    let w := laneBits o.m.lw
    (s.setV o.d (unlanes w ((lanes (s.v o.b) w).map (fun i => lane (s.v o.a) w (i % lanesOf w))))).advance)

/-- Lane i of a shuffle (R256). -/
def shufLane (mode : Nat) (n i : Nat) (a b : Nat → Nat) : Nat :=
  let c (j : Nat) : Nat := if j < n then a j else b (j - n)
  match mode with
  | 0 => if i % 2 = 0 then a (i / 2) else b ((i - 1) / 2)
  | 1 => if i % 2 = 0 then a (n / 2 + i / 2) else b (n / 2 + (i - 1) / 2)
  | 2 => c (2 * i)
  | 3 => c (2 * i + 1)
  | _ => a (n - 1 - i)

/-- VSHUF; mode 4 does not read b. -/
def execVshuf (o : VCmpOp) (s : State) : Out State :=
  withRegs s ([rv 1 .g1 o.a o.ta] ++ (if o.cond = 4 then [] else [rv 2 .g1 o.b o.tb])) [wv .g1 o.d] (fun s =>
    let w := laneBits o.m.lw
    (s.setV o.d (unlanes w ((List.range (lanesOf w)).map (fun i =>
      shufLane o.cond.toNat (lanesOf w) i (lane (s.v o.a) w) (lane (s.v o.b) w))))).advance)

/-- VBCAST: every lane of the group takes the low bits of X[a]. -/
def execVbcast (o : VMovOp) (s : State) : Out State :=
  withRegs s [rx 1 o.a o.ta] [wv o.w o.d] (fun s =>
    let w := laneBits o.m.lw
    let v := unlanes w ((List.range (lanesOf w)).map (fun _ => (s.x o.a).toNat))
    (s.setGroup o.d (List.replicate o.w.count v)).advance)

/-- VEXT: one lane to an x register, extended under the type. -/
def execVext (o : VMovOp) (s : State) : Out State :=
  withRegs s [rv 1 .g1 o.a o.ta] [wx o.d] (fun s =>
    (s.setX o.d (extend (!o.m.unsigned) (laneBits o.m.lw) (lane (s.v o.a) (laneBits o.m.lw) o.idx.toNat))).advance)

/-- VINS: one lane from an x register; d is read. -/
def execVins (o : VMovOp) (s : State) : Out State :=
  withRegs s [rx 1 o.a o.ta, rv 0 .g1 o.d o.td] [wv .g1 o.d] (fun s =>
    let w := laneBits o.m.lw
    (s.setV o.d (unlanes w ((List.range (lanesOf w)).map (fun i =>
      if i = o.idx.toNat then (s.x o.a).toNat else lane (s.v o.d) w i)))).advance)

/-! ### Predicates (R258) -/

/-- The predicate a field names. -/
def preg (r : Reg) : BitVec 3 := r.setWidth 3

def execPset (o : IM) (s : State) : Out State := .next ((s.setP (preg o.d) (o.imm.setWidth 32)).advance)
def execPand (o : RRR) (s : State) : Out State := .next ((s.setP (preg o.d) (s.p (preg o.a) &&& s.p (preg o.b))).advance)
def execPor (o : RRR) (s : State) : Out State := .next ((s.setP (preg o.d) (s.p (preg o.a) ||| s.p (preg o.b))).advance)
def execPnot (o : RR) (s : State) : Out State := .next ((s.setP (preg o.d) (~~~(s.p (preg o.a)))).advance)
def execPcnt (o : RR) (s : State) : Out State :=
  withRegs s [] [wx o.d] (fun s => (s.setX o.d (popcW ((s.p (preg o.a)).setWidth 64))).advance)
def execPfirst (o : RR) (s : State) : Out State :=
  withRegs s [] [wx o.d] (fun s =>
    (s.setX o.d (BitVec.ofNat 64 (((List.range 32).find? (fun i => (s.p (preg o.a)).getLsbD i)).getD 32))).advance)

end Sys2Proof.Machine
end

