-- ==== Sys2Proof/Machine/VectorFloat.lean ====
section
/-! DEFINITION. Vector floating point: lane-wise arithmetic, compares, reductions (spec/13 R252 to R254; spec/07 R128 to R132, R137). -/

namespace Sys2Proof.Machine

/-- The mode an instruction rounds in: its own, or %round's (R128). -/
def State.mode (s : State) (rm : Rm) : Rm :=
  match rm with
  | .dyn => (match s.cur.sr.round.toNat % 8 with | 1 => .rtz | 2 => .rdn | 3 => .rup | 4 => .sr | _ => .rne)
  | m => m

/-- The strand's LFSR (R130). -/
def State.lfsr (s : State) : Quad := s.cur.sr.lfsr.setWidth 32
def State.setLfsr (s : State) (v : Quad) : State := s.setSr (fun r => { r with lfsr := v.setWidth 64 })

/-- A lane kept as it is. -/
def keptLane (v : Nat) (l : Quad) : Rounded := ⟨v, l, false, false, false⟩

/-- Rounded lanes in ascending order, the LFSR passing from one active lane to the next (R130). -/
def flanes (act : Nat → Bool) (old : Nat → Nat) (f : Nat → Quad → Rounded) : List Nat → Quad → List Rounded × Quad
  | [], l => ([], l)
  | i :: r, l =>
    let x := if act i then f i l else keptLane (old i) l
    let t := flanes act old f r x.lfsr
    (x :: t.1, t.2)

/-- Rounded lanes of the registers of a group, register by register. -/
def fgroup (n : Nat) (reg : Nat → Quad → List Rounded × Quad) : Nat → Quad → List (List Rounded) × Quad
  | 0, l => ([], l)
  | k + 1, l =>
    let x := reg (n - (k + 1)) l
    let t := fgroup n reg k x.2
    (x.1 :: t.1, t.2)

/-- The events of rounded lanes, in lane order (R247). -/
def laneEvents (d : Reg) (rs : List (List Rounded)) : List Ev :=
  List.flatten ((rs.zipIdx).map (fun e => List.flatten ((e.1.zipIdx).map (fun x =>
    x.1.events 0 (inGroup d e.2).toNat 0 x.2 0x7F))))

/-- Write rounded registers, keep the LFSR, count the events and go on. -/
def State.putRounded (s : State) (d : Reg) (w : Nat) (rs : List (List Rounded) × Quad) (fmta fmtb : Nat) : State :=
  ((s.setGroup d (rs.1.map (fun l => unlanes w (l.map (·.bits))))).setLfsr rs.2).advanceCounting (laneEvents d rs.1) fmta fmtb

/-- The rounded lanes of a lane-wise operation on d, a and b (R245, R252). -/
def frounded (s : State) (d a b : Reg) (w : Grp) (ff : FF) (p : Quad) (f : Nat → Nat → Nat → Quad → Rounded) :
    List (List Rounded) × Quad :=
  fgroup w.count (fun r l =>
    flanes (fun i => activeLane p (r * lanesOf ff.width + i)) (lane (s.v (inGroup d r)) ff.width)
      (fun i q => f (lane (s.v (inGroup d r)) ff.width i) (lane (s.v (inGroup a r)) ff.width i) (lane (s.v (inGroup b r)) ff.width i) q)
      (List.range (lanesOf ff.width)) l) w.count s.lfsr

/-- A predicated lane-wise floating operation; `readsD` says whether the effect reads d. -/
def vflanes (o : FOp) (readsD : Bool) (f : FF → Rm → Nat → Nat → Nat → Quad → Rounded) (s : State) : Out State :=
  withRegs s ([rv 1 o.w o.a o.ta, rv 2 o.w o.b o.tb] ++ (if readsD || o.pred != 0 then [rv 0 o.w o.d o.td] else [])) [wv o.w o.d]
    (fun s =>
      let ff := ftyFF o.m.ty
      s.putRounded o.d ff.width (frounded s o.d o.a o.b o.w ff (s.p o.pred) (f ff (s.mode o.m.rm))) (ftyCode o.m.ty) (ftyCode o.m.ty))

def execVfadd (o : FOp) (s : State) : Out State := vflanes o false (fun ff rm _ a b l => ff.bin .add a b rm o.m.sat l) s
def execVfsub (o : FOp) (s : State) : Out State := vflanes o false (fun ff rm _ a b l => ff.bin .sub a b rm o.m.sat l) s
def execVfmul (o : FOp) (s : State) : Out State := vflanes o false (fun ff rm _ a b l => ff.bin .mul a b rm o.m.sat l) s
def execVfdiv (o : FOp) (s : State) : Out State := vflanes o false (fun ff rm _ a b l => ff.bin .div a b rm o.m.sat l) s
/-- a × b + d. -/
def execVfma (o : FOp) (s : State) : Out State := vflanes o true (fun ff rm d a b l => ff.fma a b d false false rm o.m.sat l) s
/-- a × b − d. -/
def execVfms (o : FOp) (s : State) : Out State := vflanes o true (fun ff rm d a b l => ff.fma a b d false true rm o.m.sat l) s
/-- d − a × b. -/
def execVfnma (o : FOp) (s : State) : Out State := vflanes o true (fun ff rm d a b l => ff.fma a b d true false rm o.m.sat l) s
def execVfmin (o : FOp) (s : State) : Out State := vflanes o false (fun ff _ _ a b l => ff.pickSat false o.m.sat a b l) s
def execVfmax (o : FOp) (s : State) : Out State := vflanes o false (fun ff _ _ a b l => ff.pickSat true o.m.sat a b l) s

/-- VFSQRT has no predicate (R252). -/
def execVfsqrt (o : FUnOp) (s : State) : Out State :=
  withRegs s [rv 1 o.w o.a o.ta] [wv o.w o.d] (fun s =>
    let ff := ftyFF o.m.ty
    s.putRounded o.d ff.width (frounded s o.d o.a o.a o.w ff (BitVec.allOnes 32)
      (fun _ a _ l => ff.root a (s.mode o.m.rm) o.m.sat l)) (ftyCode o.m.ty) (ftyCode o.m.ty))

/-- The eight conditions of R253. -/
def condFloat (c : BitVec 3) (a b : Num) : Bool :=
  let un := a.isNan || b.isNan
  match c.toNat with
  | 0 => Num.eq a b
  | 1 => un || !Num.eq a b
  | 2 => Num.lt a b
  | 3 => !un && (Num.lt a b || Num.eq a b)
  | 4 => Num.lt b a
  | 5 => !un && (Num.lt b a || Num.eq a b)
  | 6 => un
  | _ => !un

def execVfcmp (o : FCmpOp) (s : State) : Out State :=
  withRegs s [rv 1 .g1 o.a o.ta, rv 2 .g1 o.b o.tb] [] (fun s =>
    let ff := ftyFF o.m.ty
    let p := s.p o.pred
    (s.setP (preg o.d) (predOf ((List.range (lanesOf ff.width)).map (fun l =>
      activeLane p l && condFloat o.cond (ff.decode (lane (s.v o.a) ff.width l)) (ff.decode (lane (s.v o.b) ff.width l)))))).advance)

/-! ### Float reductions (R137, R254) -/

/-- The patterns of the lanes that enter a tree, inactive lanes as the identity. -/
def treeLanes (ff : FF) (p : Quad) (v : VReg) (ident : Nat) : List Nat :=
  (List.range (lanesOf ff.width)).map (fun l => if activeLane p l then lane v ff.width l else ident)

/-- The values of the active lanes. -/
def activeVals (ff : FF) (p : Quad) (v : VReg) : List Num :=
  ((List.range (lanesOf ff.width)).filter (activeLane p)).map (fun l => ff.decode (lane v ff.width l))

/-- The sum: nodes rounded in f32, the root once more to a narrow format. That last rounding in sr takes 16 random bits, as for an
arithmetic result (L61: the model's choice). -/
def sumTree (ff : FF) (p : Quad) (v : VReg) (rm : Rm) (l : Quad) : Nat × Quad :=
  let ls := (treeLanes ff p v (2 ^ (ff.width - 1))).map (fun b => ffF32.encode (ff.decode b))
  let r := pairTree (fun q a b => let x := ffF32.bin .add a b rm false q; (x.bits, x.lfsr)) (Nat.log2 (lanesOf ff.width)) l ls
  let root := r.1.headD 0
  if ff = ffF32 then (root, r.2)
  else
    let y := ffF32.decode root
    let x := ff.finish y.exact rm false r.2 none y.isNan y.isInf
    (x.bits, x.lfsr)

/-- The maximum or minimum; nothing is rounded. -/
def pickTree (ff : FF) (wantMax : Bool) (p : Quad) (v : VReg) : Nat :=
  let ls := treeLanes ff p v (ff.encode (.inf wantMax))
  (pairTree (fun (u : Unit) a b => (ff.pick wantMax a b, u)) (Nat.log2 (lanesOf ff.width)) () ls).1.headD 0

/-- The events of a float reduction's root: NaN or infinite while no active lane is (R247). -/
def rootEvents (ff : FF) (a : Reg) (root : Nat) (ins : List Num) : List Ev :=
  let x := ff.decode root
  (if x.isNan && !ins.any Num.isNan then [⟨0, 0, a.toNat, 0, 0, 0x7F⟩] else [])
    ++ (if x.isInf && !ins.any Num.isInf then [⟨1, 0, a.toNat, 0, 0, 0x7F⟩] else [])

/-- A float reduction: the root's pattern, zero-extended, to X[d]. -/
def freduce (o : FRedOp) (f : FF → Rm → Quad → VReg → Quad → Nat × Quad) (s : State) : Out State :=
  withRegs s [rv 1 .g1 o.a o.ta] [wx o.d] (fun s =>
    let ff := ftyFF o.m.ty
    let r := f ff (s.mode o.m.rm) (s.p o.pred) (s.v o.a) s.lfsr
    ((s.setX o.d (BitVec.ofNat 64 r.1)).setLfsr r.2).advanceCounting
      (rootEvents ff o.a r.1 (activeVals ff (s.p o.pred) (s.v o.a))) (ftyCode o.m.ty) (ftyCode o.m.ty))

def execVrsumFloat (o : FRedOp) (s : State) : Out State := freduce o (fun ff rm p v l => sumTree ff p v rm l) s
def execVrmaxFloat (o : FRedOp) (s : State) : Out State := freduce o (fun ff _ p v l => (pickTree ff true p v, l)) s
def execVrminFloat (o : FRedOp) (s : State) : Out State := freduce o (fun ff _ p v l => (pickTree ff false p v, l)) s

end Sys2Proof.Machine
end

