-- ==== Sys2Proof/Machine/Convert.lean ====
section
/-! DEFINITION. Conversions between formats and MX quantisation (spec/13 R259 to R262; spec/07 R131, R133, R134).
sr draws once for each element of every conversion (R259; L32). -/

namespace Sys2Proof.Machine

/-- The code of a format (R259); MX formats as in R304. -/
def fmtCode : Fmt → Nat
  | .f32 => 0 | .f16 => 1 | .bf16 => 2 | .e4m3 => 3 | .e5m2 => 4 | .e2m1 => 5
  | .s8 => 8 | .s16 => 9 | .s32 => 10 | .s64 => 11 | .n8 => 12 | .n16 => 13 | .n32 => 14 | .n64 => 15
  | .mxe4m3 => 0x13 | .mxe5m2 => 0x14 | .mxe2m1 => 0x15

/-- Convert elements in ascending order, the LFSR passing along. -/
def convertAll (src dst : Fmt) (rm : Rm) (sat : Bool) : List Nat → Quad → List Rounded × Quad
  | [], l => ([], l)
  | b :: r, l =>
    let x := convert src dst b rm sat l
    let t := convertAll src dst rm sat r x.lfsr
    (x :: t.1, t.2)

/-- n elements of w bits of a register from element i on. -/
def elems (v : VReg) (w i n : Nat) : List Nat := (List.range n).map (fun k => lane v w (i + k))

/-- Put elements of w bits into a register from element i on; the others stay. -/
def putElems (v : VReg) (w i : Nat) (es : List Nat) : VReg :=
  unlanes w ((List.range (lanesOf w)).map (fun k => if i ≤ k ∧ k < i + es.length then es.getD (k - i) 0 else lane v w k))

/-- The events of converted elements, from element i of a register on. -/
def elemEvents (d : Reg) (i : Nat) (rs : List Rounded) : List Ev :=
  List.flatten ((rs.zipIdx).map (fun x => x.1.events 0 d.toNat 0 (i + x.2) 0x7F))

/-- VCVT converts one part (R260); it reads d when the destination's elements are narrower. -/
def execVcvt (o : CvtOp) (s : State) : Out State :=
  let sb := fmtBits o.src
  let db := fmtBits o.dst
  let m := max sb db
  withRegs s ([rv 1 .g1 o.a o.ta] ++ (if db < m then [rv 0 .g1 o.d o.td] else [])) [wv .g1 o.d] (fun s =>
    let n := 256 / m
    let r := convertAll o.src o.dst (s.mode o.rm) o.sat (elems (s.v o.a) sb (o.ps.toNat * n) n) s.lfsr
    ((s.setV o.d (putElems (s.v o.d) db (o.pd.toNat * n) (r.1.map (·.bits)))).setLfsr r.2).advanceCounting
      (elemEvents o.d (o.pd.toNat * n) r.1) (fmtCode o.src) (fmtCode o.dst))

/-- VPACK: two registers into one (R261). -/
def execVpack (o : CvtOp) (s : State) : Out State :=
  withRegs s [rv 1 .g1 o.a o.ta, rv 2 .g1 o.b o.tb] [wv .g1 o.d] (fun s =>
    let sb := fmtBits o.src
    let n := 256 / sb
    let r := convertAll o.src o.dst (s.mode o.rm) o.sat (elems (s.v o.a) sb 0 n ++ elems (s.v o.b) sb 0 n) s.lfsr
    ((s.setV o.d (unlanes (fmtBits o.dst) (r.1.map (·.bits)))).setLfsr r.2).advanceCounting
      (elemEvents o.d 0 r.1) (fmtCode o.src) (fmtCode o.dst))

/-- VUNPACK: one register into two (R261). -/
def execVunpack (o : CvtOp) (s : State) : Out State :=
  withRegs s [rv 1 .g1 o.a o.ta] [wv .g2 o.d] (fun s =>
    let db := fmtBits o.dst
    let n := 256 / db
    let r := convertAll o.src o.dst (s.mode o.rm) o.sat (elems (s.v o.a) (fmtBits o.src) 0 (2 * n)) s.lfsr
    ((s.setGroup o.d [unlanes db ((r.1.take n).map (·.bits)), unlanes db ((r.1.drop n).map (·.bits))]).setLfsr r.2).advanceCounting
      (elemEvents o.d 0 (r.1.take n) ++ elemEvents (inGroup o.d 1) 0 (r.1.drop n)) (fmtCode o.src) (fmtCode o.dst))

/-- Registers of a block of 32 elements. -/
def blockGrp (f : Fmt) : Grp := if fmtBits f = 32 then .g4 else .g2

/-- The element format of an MX target or source. -/
def elemFF (f : Fmt) : FF := (fmtFF f).getD ffE2m1

/-- VQNT: one MX block of 32 elements; the scale goes to X[t] (R262). For e2m1 the other half of d stays. -/
def execVqnt (o : CvtOp) (s : State) : Out State :=
  let w := blockGrp o.src
  withRegs s ([rv 1 w o.a o.ta] ++ (if o.dst = .e2m1 then [rv 0 .g1 o.d o.td] else [])) [wv .g1 o.d, wx o.b] (fun s =>
    let sb := fmtBits o.src
    let vals := List.flatten ((List.range w.count).map (fun r => lanes (s.v (inGroup o.a r)) sb))
    let q := quantise (elemFF o.dst) o.src vals (s.mode o.rm) s.lfsr
    let base := if o.dst = .e2m1 then o.pd.toNat * 32 else 0
    let evs := (((q.sats.zipIdx).filter (·.1)).map (fun x => (⟨2, 0, o.d.toNat, 0, base + x.2, 0x7F⟩ : Ev)))
      ++ (if q.above then [⟨3, 2, o.d.toNat, 0, 0, 0x7F⟩] else []) ++ (if q.below then [⟨4, 2, o.d.toNat, 0, 0, 0x7F⟩] else [])
    ((((s.setV o.d (putElems (s.v o.d) (fmtBits o.dst) base q.elems)).setX o.b (BitVec.ofNat 64 q.scale)).setLfsr q.lfsr)).advanceCounting
      evs (fmtCode o.src) (fmtCode o.dst))

/-- Dequantise elements in ascending order. -/
def dequantAll (f : FF) (scale : Nat) (dst : Fmt) (rm : Rm) (sat : Bool) : List Nat → Quad → List Rounded × Quad
  | [], l => ([], l)
  | b :: r, l =>
    let x := dequantise f scale b dst rm sat l
    let t := dequantAll f scale dst rm sat r x.lfsr
    (x :: t.1, t.2)

/-- VDQNT: one MX block back to 32 elements; the scale is X[t][7:0] (R262). -/
def execVdqnt (o : CvtOp) (s : State) : Out State :=
  let w := blockGrp o.dst
  withRegs s [rv 1 .g1 o.a o.ta, rx 2 o.b o.tb] [wv w o.d] (fun s =>
    let db := fmtBits o.dst
    let n := 256 / db
    let es := elems (s.v o.a) (fmtBits o.src) (if o.src = .e2m1 then o.ps.toNat * 32 else 0) 32
    let r := dequantAll (elemFF o.src) ((s.x o.b).toNat % 256) o.dst (s.mode o.rm) o.sat es s.lfsr
    let parts := (List.range w.count).map (fun k => (r.1.drop (k * n)).take n)
    ((s.setGroup o.d (parts.map (fun p => unlanes db (p.map (·.bits))))).setLfsr r.2).advanceCounting
      (laneEvents o.d parts) (fmtCode o.src) (fmtCode o.dst))

end Sys2Proof.Machine
end

