-- ==== Sys2Proof/Machine/Sfu.lean ====
section
/-! DEFINITION. The special-function unit of a bay: the instructions that enter requests and the steps that serve them
(spec/13 R266, R267; spec/07 R138; spec/19 R370, R373). Where R138 fixes a result it is computed here; elsewhere it is
the free value `Config.sfuResult`, a fixed function of the input, held to the bounds of R138 (L7). -/

namespace Sys2Proof.Machine

/-- The functions, sine and cosine of VSINCOS apart. -/
inductive SfuFn | exp2 | log2 | rsqrt | rcp | sin | cos | tanh
  deriving DecidableEq, Repr

def SfuFn.code : SfuFn → Nat
  | .exp2 => 0 | .log2 => 1 | .rsqrt => 2 | .rcp => 3 | .sin => 4 | .cos => 5 | .tanh => 6

def sfuFnOf : Nat → SfuFn
  | 0 => .exp2 | 1 => .log2 | 2 => .rsqrt | 3 => .rcp | 4 => .sin | 5 => .cos | _ => .tanh

/-- The exponent of a power of two, of either sign. -/
def powExp (m : Nat) (e : Int) : Option Int := if m ≠ 0 ∧ m = 2 ^ Nat.log2 m then some ((Nat.log2 m : Int) + e) else none

/-- Twice a value when that is an integer. -/
def twiceInt (m : Nat) (e : Int) : Option Nat :=
  if 0 ≤ e + 1 then some (m * 2 ^ (e + 1).toNat)
  else if m % 2 ^ (-(e + 1)).toNat = 0 then some (m / 2 ^ (-(e + 1)).toNat) else none

/-- Whether a magnitude is at least an integer. -/
def atLeast (m : Nat) (e : Int) (n : Nat) : Bool :=
  if 0 ≤ e then decide (n ≤ m * 2 ^ e.toNat) else decide (n * 2 ^ (-e).toNat ≤ m)

/-- f32 patterns. -/
def f32Of (v : Num) : Nat := ffF32.encode v
def f32Nan : Nat := 0x7FC00000
def f32Zero (neg : Bool) : Nat := f32Of (.fin neg 0 0)
def f32Inf (neg : Bool) : Nat := f32Of (.inf neg)
def f32One (neg : Bool) : Nat := f32Of (.fin neg 1 0)
/-- 2^n rounded in rne. -/
def f32Pow (n : Int) : Nat := (ffF32.finish (.ex ⟨false, 1, n, false⟩) .rne false 0 none false false).bits
def f32Int (n : Int) : Nat := (ffF32.finish (.ex ⟨decide (n < 0), n.natAbs, 0, false⟩) .rne false 0 none false false).bits

/-- The results that R138 fixes; VRCP overflows as R129 gives for rne from 2^128 on. -/
def sfuExact (fn : SfuFn) (x : Num) : Option Nat :=
  match x with
  | .nan => some f32Nan
  | .inf neg => some (match fn with
      | .exp2 => if neg then f32Zero false else f32Inf false
      | .log2 => if neg then f32Nan else f32Inf false
      | .rsqrt => if neg then f32Nan else f32Zero false
      | .rcp => f32Zero neg
      | .sin | .cos => f32Nan
      | .tanh => f32One neg)
  | .fin neg 0 _ => some (match fn with
      | .exp2 => f32One false
      | .log2 => f32Inf true
      | .rsqrt => f32Inf neg
      | .rcp => f32Inf neg
      | .sin => f32Zero neg
      | .cos => f32One false
      | .tanh => f32Zero neg)
  | .fin neg m e => match fn with
      | .exp2 =>
        if !neg && atLeast m e 128 then some (f32Inf false)
        else if neg && atLeast m e 150 then some (f32Zero false)
        else match twiceInt m e with
          | some t => if t % 2 = 0 then some (f32Pow (sint neg (t / 2))) else none
          | none => none
      | .log2 => if neg then some f32Nan else (powExp m e).map f32Int
      | .rsqrt =>
        if neg then some f32Nan
        else match powExp m e with
          | some n => if n % 2 = 0 then some (f32Pow (-(n / 2))) else none
          | none => none
      | .rcp =>
        if (Nat.log2 m : Int) + e < -128 || decide ((Nat.log2 m : Int) + e = -128 ∧ powExp m e = some (-128)) then some (f32Inf neg)
        else if neg then none else (powExp m e).map (fun n => f32Pow (-n))
      | .sin => match twiceInt m e with
          | some t => if t % 2 = 0 then some (f32Zero neg) else some (f32One (neg != (t / 2 % 2 == 1)))
          | none => none
      | .cos => match twiceInt m e with
          | some t => if t % 2 = 0 then some (f32One (t / 2 % 2 == 1)) else some (f32Zero false)
          | none => none
      | .tanh => if atLeast m e 10 then some (f32One neg) else none

/-! ### The bounds of R138

Each function is enclosed between two multiples of a power of two, computed in integers with 256 bits below the binary
point; the enclosure is far narrower than an ulp. -/

/-- A value between m × 2^e and (m + d) × 2^e, of one sign. -/
structure Near where
  neg : Bool
  m : Nat
  d : Nat
  e : Int
  deriving DecidableEq, Repr

/-- A value from m on that lies below t, in units of 2^e: its ulp is that of the numbers below t. -/
def Near.below (t : Nat) (v : Near) : Near := { v with d := min v.d (t - 1 - v.m) }

/-- m × 2^e in units of 2^-256; no digit of an f32 value is lost. -/
def fix256 (m : Nat) (e : Int) : Nat := if 0 ≤ e + 256 then m * 2 ^ (e + 256).toNat else m / 2 ^ (-(e + 256)).toNat

/-- The integer square root. -/
def root256 (v : Nat) : Nat := isqrt v (Nat.log2 v / 2 + 1) 0

/-- The product of 2^(2^-i) over the bits i of f, from the root r of the bit before on, in units of 2^-256. -/
def pow2Frac (f : Nat) : Nat → Nat → Nat → Nat
  | 0, _, acc => acc
  | n + 1, r, acc =>
    let r' := root256 (r * 2 ^ 256)
    pow2Frac (f * 2 % 2 ^ 256) n r' (if 2 ^ 255 ≤ f then acc * r' / 2 ^ 256 else acc)

/-- 2^x, below the next power of two. No bit of x lies below 2^-149. -/
def nearExp2 (neg : Bool) (m : Nat) (e : Int) : Near :=
  let x := sint neg (fix256 m e)
  let f := (x % 2 ^ 256).toNat
  Near.below (2 ^ 257) ⟨false, pow2Frac f 150 (2 ^ 257) (2 ^ 256), 2 ^ 20, x / 2 ^ 256 - 256⟩

/-- The bits of log2 of v / 2^256, where v / 2^256 lies between 1 and 2, after the binary point. -/
def log2Bits : Nat → Nat → Nat → Nat
  | 0, _, acc => acc
  | n + 1, v, acc =>
    let w := v * v / 2 ^ 256
    if 2 ^ 257 ≤ w then log2Bits n (w / 2) (2 * acc + 1) else log2Bits n w (2 * acc)

/-- log2 x. -/
def nearLog2 (m : Nat) (e : Int) : Near :=
  let l := Nat.log2 m
  let t : Int := ((l : Int) + e) * 2 ^ 100 + log2Bits 100 (m * 2 ^ (256 - l)) 0
  if 0 ≤ t then ⟨false, t.toNat, 2, -100⟩ else ⟨true, (-t).toNat - 2, 2, -100⟩

/-- 1/√x. -/
def nearRsqrt (m : Nat) (e : Int) : Near :=
  let m' := if e % 2 = 0 then m else 2 * m
  ⟨false, root256 (2 ^ 600 / m'), 2, -((e - e % 2) / 2) - 300⟩

/-- 1/x. -/
def nearRcp (neg : Bool) (m : Nat) (e : Int) : Near := ⟨neg, 2 ^ 300 / m, 1, -e - 300⟩

/-- (cos, sin) of π times the bits of a fraction of one, from (c, s) of the bit before on, in units of 2^-256: half angles. -/
def cosSin (f : Nat) : Nat → Nat × Nat → Nat × Nat → Nat × Nat
  | 0, _, acc => acc
  | n + 1, r, acc =>
    let t := if 2 ^ 255 ≤ f then ((acc.1 * r.1 - acc.2 * r.2) / 2 ^ 256, (acc.2 * r.1 + acc.1 * r.2) / 2 ^ 256) else acc
    let c := root256 ((2 ^ 256 + r.1) * 2 ^ 255)
    cosSin (f * 2 % 2 ^ 256) n (c, r.2 * 2 ^ 255 / c) t

/-- sin(πa) for a in units of 2^-256, modulo two: below 1. -/
def nearSin (neg : Bool) (a : Nat) : Near :=
  let a1 := a % 2 ^ 257
  let a2 := a1 % 2 ^ 256
  let a3 := if 2 ^ 255 < a2 then 2 ^ 256 - a2 else a2
  Near.below (2 ^ 256) ⟨neg != decide (2 ^ 256 ≤ a1), (cosSin a3 160 (0, 2 ^ 256) (2 ^ 256, 0)).2 - 2 ^ 20, 2 ^ 21, -256⟩

/-- The terms x^k / k! from k on, every second into each sum. -/
def expTerms (x : Nat) : Nat → Nat → Nat → Nat × Nat → Nat × Nat
  | 0, _, _, acc => acc
  | n + 1, k, t, acc => expTerms x n (k + 1) (t * x / 2 ^ 256 / (k + 1)) (acc.2 + t, acc.1)

/-- tanh x for |x| below 10: sinh over cosh, the even number of terms leaving them in that order. It lies below |x|. -/
def nearTanh (neg : Bool) (m : Nat) (e : Int) : Near :=
  let r := expTerms (fix256 m e) 200 0 (2 ^ 256) (0, 0)
  Near.below (fix256 m e) ⟨neg, r.1 * 2 ^ 256 / r.2 - 2 ^ 40, 2 ^ 41, -256⟩

/-- The value of a function that R138 bounds, for a finite input that is not zero. -/
def sfuNear (fn : SfuFn) (neg : Bool) (m : Nat) (e : Int) : Near :=
  match fn with
  | .exp2 => nearExp2 neg m e
  | .log2 => nearLog2 m e
  | .rsqrt => nearRsqrt m e
  | .rcp => nearRcp neg m e
  | .sin => nearSin neg (fix256 m e)
  | .cos => nearSin false (fix256 m e + 2 ^ 255)
  | .tanh => nearTanh neg m e

/-- The maximum error in ulps (R138). -/
def SfuFn.ulps : SfuFn → Nat
  | .sin | .cos | .tanh => 2
  | _ => 1

/-- Whether a number of a format lies within k ulps of a value, with its sign. -/
def Near.within (v : Near) (ff : FF) (k : Nat) (x : Num) : Bool :=
  match x with
  | .fin neg m e =>
    let u := ff.spacing ⟨v.neg, v.m + v.d, v.e, false⟩
    let q := min u (min v.e e)
    let y := m * 2 ^ (e - q).toNat
    let err := k * 2 ^ (u - q).toNat
    neg == v.neg && decide (v.m * 2 ^ (v.e - q).toNat ≤ y + err) && decide (y ≤ (v.m + v.d) * 2 ^ (v.e - q).toNat + err)
  | _ => false

/-- A value rounded in rne. -/
def Near.round (v : Near) : Nat := (ffF32.finish (.ex ⟨v.neg, v.m, v.e, true⟩) .rne false 0 none false false).bits

/-- Whether a value lies below the least subnormal of f32: it underflows (R129). -/
def Near.underflows (v : Near) : Bool := if -149 ≤ v.e then v.m == 0 else decide (v.m < 2 ^ (-149 - v.e).toNat)

/-- Whether a lane of a narrow format holds the value of an f32 pattern. -/
def FF.holds (ff : FF) (b : Nat) : Bool := ffF32.encode (ff.decode (ff.encode (ffF32.decode b))) == b

/-- Whether a result, rounded to a narrow format in rdn or rup, between which every mode chooses, lies within 1 ulp of the value there,
or where R129 puts the value itself. -/
def Near.lane (v : Near) (ff : FF) (rm : Rm) (x : Num) : Bool :=
  match x with
  | .fin neg m e =>
    let y := ff.roundNum ⟨neg, m, e, false⟩ rm 0 0
    v.within ff 1 y || ff.encode y == ff.encode (ff.roundNum ⟨v.neg, v.m, v.e, false⟩ rm 0 0)
      || ff.encode y == ff.encode (ff.roundNum ⟨v.neg, v.m + v.d, v.e, false⟩ rm 0 0)
  | _ => false

/-- Whether R138 admits an f32 result for the input b: within the bound of the function, not zero where the value is not that small, and
for an input that a narrow lane can hold within that lane's bound too. -/
def Near.admits (v : Near) (k b r : Nat) : Bool :=
  let x := ffF32.decode r
  !v.underflows && v.within ffF32 k x && !x.isZero
    && [ffF16, ffBf16].all (fun ff => !ff.holds b || (v.lane ff .rdn x && v.lane ff .rup x))

/-- The result of a function that R138 bounds: the free value where R138 admits it, else the value rounded in rne, as R138 has it of
one that underflows (L7). -/
def sfuBounded (fn : SfuFn) (b : Nat) (v : Near) : Nat :=
  let r := (Config.sfuResult fn.code (BitVec.ofNat 32 b)).toNat
  if v.admits fn.ulps b r then r else v.round

/-- The f32 result of the unit. -/
def sfuF32 (fn : SfuFn) (b : Nat) : Nat :=
  match sfuExact fn (ffF32.decode b), ffF32.decode b with
  | some r, _ => r
  | none, .fin neg m e => sfuBounded fn b (sfuNear fn neg m e)
  | none, _ => f32Nan

/-- One lane: for f32 the unit's result, with .sat; for a narrow format the input widened, the f32 result rounded in the mode, in sr
with 16 random bits, as for an arithmetic result (L61: the model's choice). -/
def sfuLane (q : SfuReq) (b : Nat) (l : Quad) : Rounded :=
  let ff := ftyFF q.ty
  let x := ff.decode b
  let y := ffF32.decode (sfuF32 (sfuFnOf q.fn) (ffF32.encode x))
  ff.finish y.exact (if q.ty = .f32 then .rne else q.rm) q.sat l none x.isNan x.isInf

/-- The lanes of a request's result. -/
def sfuLanes (q : SfuReq) : List Rounded × Quad :=
  let w := (ftyFF q.ty).width
  flanes (fun _ => true) (fun _ => 0) (fun i l => sfuLane q (lane q.input w i) l) (List.range (lanesOf w)) q.lfsr

/-- n steps of the LFSR. -/
def lfsrSteps : Nat → Quad → Quad
  | 0, l => l
  | n + 1, l => lfsrSteps n (lfsrStep l)

/-- Requests that wait in a bay's queue. -/
def State.sfuQueue (s : State) (bay : Nat) : List SfuReq := s.sfu.filter (fun q => q.bay == bay && !q.served)

/-- Whether an instruction of this type and mode draws (R130): f32 ignores its mode. -/
def sfuDraws (s : State) (o : FUnOp) : Bool := o.m.ty != .f32 && s.mode o.m.rm == .sr

/-- The requests of one function over the registers of a group, from register d on. -/
def sfuEnter (s : State) (o : FUnOp) (fn : SfuFn) (d : Reg) : State :=
  (List.range o.w.count).foldl (fun t r =>
    let op := (opOf s.ir).toNat
    { t with
      sfu := t.sfu ++ [⟨t.nextId, s.myBay, s.cur.sid, fn.code, o.m.ty, s.mode o.m.rm, o.m.sat, inGroup d r, s.v (inGroup o.a r),
        t.lfsr, false, op / 256, op % 64, s.cur.pc⟩],
      nextId := t.nextId + 1,
      cur := if sfuDraws s o then (t.setLfsr (lfsrSteps (lanesOf (ftyFF o.m.ty).width) t.lfsr)).cur.emptyV (inGroup d r)
        else t.cur.emptyV (inGroup d r) }) s

/-- An SFU instruction: not ready until the queue has an entry for each destination register; these are emptied (R267). In sr the draws of
VSINCOS for its sines all come before those for its cosines (L65: the model's choice, R130 orders lanes and registers alone). -/
def sfuInstr (o : FUnOp) (dests : List (SfuFn × Reg)) (s : State) : Out State :=
  withRegs s [rv 1 o.w o.a o.ta] (dests.map (fun e => wv o.w e.2)) (fun s =>
    if (s.sfuQueue s.myBay).length + dests.length * o.w.count > 16 then s.notReady
    else (dests.foldl (fun t e => sfuEnter t o e.1 e.2) s).advance)

def execVexp2 (o : FUnOp) (s : State) : Out State := sfuInstr o [(.exp2, o.d)] s
def execVlog2 (o : FUnOp) (s : State) : Out State := sfuInstr o [(.log2, o.d)] s
def execVrsqrt (o : FUnOp) (s : State) : Out State := sfuInstr o [(.rsqrt, o.d)] s
def execVrcp (o : FUnOp) (s : State) : Out State := sfuInstr o [(.rcp, o.d)] s
/-- sin(πa) into d, cos(πa) into d+G. -/
def execVsincos (o : FUnOp) (s : State) : Out State := sfuInstr o [(.sin, o.d), (.cos, inGroup o.d o.w.count)] s
def execVtanh (o : FUnOp) (s : State) : Out State := sfuInstr o [(.tanh, o.d)] s

/-- SFU_SERVICE (R267): the oldest request of the bay's queue is served and leaves the queue. -/
def execSfuService (s : State) : Out State :=
  match s.sfuQueue s.arg.id with
  | [] => .next s
  | q :: _ => .next { s with sfu := s.sfu.map (fun x => if x.id == q.id then { x with served := true } else x) }

/-- SFU_RESULT (R267, R370): a served request fills its register, and its events are counted; ARITH becomes pending. The result for a
strand that has ended, or of a stopped job, is discarded (R373). -/
def execSfuResult (s : State) : Out State :=
  match s.sfu.find? (fun q => q.id == s.arg.id && q.served) with
  | none => .next s
  | some q =>
    let s0 := { s with sfu := s.sfu.filter (fun x => x.id != q.id) }
    match s.strand? q.sid with
    | none => .next s0
    | some t =>
      if (s.job (s.troupe t.troupe).job).stopped then .next s0 else
      let rs := (sfuLanes q).1
      let s1 := s0.setStrand q.sid (fun u => u.fillV q.reg (unlanes (ftyFF q.ty).width (rs.map (·.bits))))
      let r := s1.countEvents t.troupe (laneEvents q.reg [rs]) (BitVec.ofNat 64 (q.page * 256 + q.opcode)) (ftyCode q.ty) (ftyCode q.ty) q.pc
      match r.2 with
      | none => .next r.1
      | some p => .next (r.1.pendTrap q.sid p)

end Sys2Proof.Machine
end

