-- ==== Sys2Proof/Machine/Engines.lean ====
section
/-! DEFINITION. Copy engines: the six copy commands as they issue, the engine that takes them, their moves word by word within
translated pages, and their completion (spec/15 R301 to R306; spec/03 R61, R63, R71; spec/07 R141; spec/20 R378, R379, R381). -/

namespace Sys2Proof.Machine

/-! ### Rings (R71) -/

def State.setRing (s : State) (core i : Nat) (f : Ring → Ring) : State :=
  s.setCore core (fun c => { c with rings := Vector.ofFn (fun j => if j.val = i then f c.rings[j] else c.rings[j]) })

def State.ring (s : State) (core i : Nat) : Ring := (s.core core).rings[i % 8]'(Nat.mod_lt _ (by decide))

/-- Slots that no panel fills and no copy has reserved. -/
def Ring.free (r : Ring) : Nat := r.count - r.ready - r.pend

/-- The slots that the next n reservations take. -/
def Ring.nextSlots (r : Ring) (n : Nat) : List Nat := (List.range n).map (fun i => (r.head + r.ready + r.pend + i) % r.count)

/-- ready grows over the done slots at the tail, in slot order. -/
def growReady : List (Nat × Bool) → Nat × List (Nat × Bool)
  | [] => (0, [])
  | (_, true) :: r => let t := growReady r; (t.1 + 1, t.2)
  | (c, false) :: r => (0, (c, false) :: r)

/-- A copy's slots are done. -/
def Ring.finish (r : Ring) (id : Nat) : Ring :=
  let g := growReady (r.slots.map (fun x => if x.1 = id then (x.1, true) else x))
  { r with ready := r.ready + g.1, pend := r.pend - g.1, slots := g.2 }

/-- Scale bytes of a panel (R70). -/
def scaleBytes (fmt : Nat) : Nat := if fmt = 0x11 ∨ fmt = 0x12 then 64 else if fmt = 0x13 then 128 else 0

/-- A CPYR reserves its slots. -/
def State.reserveSlots (s : State) (c : Cmd) : State :=
  match c.kind with
  | .ring core ring n fmt src scales _ =>
    let r := s.ring core ring
    let slots := r.nextSlots n
    (s.setRing core ring (fun r =>
      { r with pend := r.pend + n, slots := r.slots ++ List.replicate n (c.id, false), waiting := r.waiting.filter (· != c.id) })).setCmd c.id
      (fun x => { x with kind := .ring core ring n fmt src scales slots, state := .queued })
  | _ => s

/-! ### Units of a command -/

/-- How many units a command moves: aligned words; blocks of 32 elements for a conversion. -/
def Cmd.units (c : Cmd) : Nat :=
  match c.kind with
  | .copy _ _ len rows _ _ => len / 8 * rows
  | .convert _ _ _ _ n _ _ _ _ _ => n / 32
  | .ring _ _ n fmt _ _ _ => n * 256 + n * (scaleBytes fmt / 8)
  | .gather _ _ rb _ count => rb / 8 * count
  | .scatter _ _ rb _ count => rb / 8 * count
  | _ => 0

/-- The last unit, excluded, of the row that a unit lies in: CPY2 takes its rows in order (R303), the others no part before another. -/
def Cmd.rowEnd (c : Cmd) (i : Nat) : Nat :=
  match c.kind with
  | .copy _ _ len _ _ _ => (i / (len / 8) + 1) * (len / 8)
  | _ => c.units

/-- What a command has read under a number. -/
def Cmd.has (c : Cmd) (key : Nat) : Bool := c.loaded.any (fun e => e.1 == key)
def Cmd.got (c : Cmd) (key : Nat) : Option (List Byte) := ((c.loaded.find? (fun e => e.1 == key)).map (·.2)).getD none

/-- An index of the list in the issuing core's LM, as it was read (R306). -/
def Cmd.indexAt (c : Cmd) (i : Nat) : Nat := leNat ((c.got (c.units + i)).getD [])

/-- Source and destination pointers of a unit. -/
def Cmd.ptrs (s : State) (c : Cmd) (i : Nat) : Word × Word :=
  match c.kind with
  | .copy src dst len _ ss ds =>
    let row := i / (len / 8)
    let o := 8 * (i % (len / 8))
    (ptrAt (padd src (BitVec.ofNat 64 row * ss)) o, ptrAt (padd dst (BitVec.ofNat 64 row * ds)) o)
  | .convert dst src _ _ _ sf df _ _ _ => (ptrAt src (i * (4 * fmtBits sf)), ptrAt dst (i * (4 * fmtBits df)))
  | .ring core ring n fmt src scales slots =>
    let r := s.ring core ring
    if i < n * 256 then
      (ptrAt src (8 * i), BitVec.ofNat 64 (lmAddr core (r.base + 2048 * slots.getD (i / 256) 0 + 8 * (i % 256))))
    else
      let j := i - n * 256
      let w := scaleBytes fmt / 8
      (ptrAt scales (8 * j), BitVec.ofNat 64 (lmAddr core (r.sbase + 128 * slots.getD (j / w) 0 + 8 * (j % w))))
  | .gather src dst rb _ _ =>
    (ptrAt src (c.indexAt (i / (rb / 8)) * rb + 8 * (i % (rb / 8))), ptrAt dst (8 * i))
  | .scatter src dst rb _ _ =>
    (ptrAt src (8 * i), ptrAt dst (c.indexAt (i / (rb / 8)) * rb + 8 * (i % (rb / 8))))
  | _ => (0, 0)

/-- Where a command's destination lies. -/
def Cmd.dst (c : Cmd) : Word :=
  match c.kind with
  | .copy _ d _ _ _ _ => d
  | .convert d _ _ _ _ _ _ _ _ _ => d
  | .gather _ d _ _ _ => d
  | .scatter _ d _ _ _ => d
  | .put d _ => d
  | .flag d _ => d
  | .ring core _ _ _ _ _ _ => BitVec.ofNat 64 (lmAddr core 0)

/-- Whether a command forms WRITE packets. -/
def Cmd.toRem (c : Cmd) : Bool := ptrSpace c.dst == 4

/-! ### Translation held by an engine (R61, R63) -/

def Xlat.covers (x : Xlat) (p : Word) (n : Nat) : Bool :=
  x.base.extractLsb' 48 16 == p.extractLsb' 48 16 && decide (ptrOff x.base ≤ ptrOff p) && decide (ptrOff p + n ≤ ptrOff x.base + x.len)

def Xlat.phys' (x : Xlat) (p : Word) : Nat := x.phys + (ptrOff p - ptrOff x.base)

/-- The held translation that covers n bytes at a pointer. -/
def xlatFor (xs : List Xlat) (p : Word) (n : Nat) : Option Xlat := xs.find? (fun x => x.covers p n)

/-- The unit number of an engine's translation cache. -/
def engineUnit (e : Nat) : Nat := 80 + e

/-- The page of a pointer, as offset and length: a core's LM, a host region, a window or leaf, else the smallest page (R59). -/
def pageAt (s : State) (c : Cmd) (p : Word) : Nat × Nat :=
  match ptrSpace p with
  | 1 => (0, 0x60000)
  | 5 => (0, ((s.mgmt.regions.find? (fun g => g.host && g.key == ptrOwner p && g.job == c.job)).map (·.len)).getD 0)
  | _ => match tableEntry s (engineUnit c.engine) c.job p with
    | .inr t => (t.base, t.len)
    | .inl _ => (ptrOff p / 65536 * 65536, 65536)

/-- A page's translation for an engine: the state with the entry taken in and the page, or the failing check. -/
def engineXlat (s : State) (c : Cmd) (p : Word) (n : Nat) (r w : Bool) : State × Except (Cause × Nat × Nat) Xlat :=
  match lookup s (engineUnit c.engine) c.job p n r w false with
  | .bad cause reason level => (s, .error (cause, reason, level))
  | .good phys e =>
    let page := match cachedEntry s (engineUnit c.engine) c.job p with
      | some t => (t.base, t.len)
      | none => pageAt s c p
    (s.cacheAgent e, .ok ⟨p.extractLsb' 48 16 ++ BitVec.ofNat 48 page.1, page.2, phys - (ptrOff p - page.1), n == 1⟩)

/-! ### Words as an engine reads and writes them -/

/-- Read n bytes at a physical address: host bytes are free (L20); a poisoned word gives nothing. -/
def engineRead (s : State) (a n : Nat) : State × Option (List Byte) :=
  if addrSpace a = 5 then (s, some ((List.range n).map (fun i => Config.hostByte (addrUnit a) (addrOff a + i) s.ticks)))
  else if s.anyPoison a n then (s, none)
  else let r := s.freshBytes a n; (r.1, some r.2)

/-- Write bytes at a physical address, or poison its words. -/
def engineWrite (s : State) (a n : Nat) (bs : Option (List Byte)) : State :=
  if addrSpace a = 5 then (match bs with | some b => s.poke a b | none => s)
  else match bs with
    | some b => if addrSpace a = 1 then s.storeAt a b else s.agentWrite a b
    | none => (wordsOf a n).foldl State.poisonStamped (s.settleRange a n true)

/-! ### Ends of a command -/

/-- A command is over: a CPYR's slots are done, and the credit goes (R71, R305). -/
def State.finishCmd (s : State) (c : Cmd) : State :=
  match c.kind with
  | .ring core ring _ _ _ _ _ => (s.setRing core ring (fun r => r.finish c.id)).endCmd c
  | _ => s.endCmd c

/-- What the issuing strand of a command takes (R378): it has ended, the job stops; it lies in an object, the Registrar holds it. -/
def State.raiseFor (s : State) (c : Cmd) (t : Trap) : State :=
  match c.bound with
  | some (_, u) => s.setTroupe u (fun x => { x with faults := x.faults ++ [(c.sid, t)] })
  | none =>
    match s.strand? c.sid with
    | some _ => (if t.endsCommand then s.latch c.sid 3 else s).pendTrap c.sid t
    | none =>
      let epc := ((s.strands.find? (fun x => x.sid == c.sid)).map (·.pc)).getD 0
      s.stopJob c.job (.fault c.job c.issuer.part c.issuer.slot c.core 4 c.issuer.troupe c.issuer.launch (causeWord true t.cause) epc t.c0 t.c1
        t.c2 t.c3 s.now)

/-- An engine ends a command at a page that fails (R378). -/
def State.faultCmd (s : State) (c : Cmd) (cause : Cause) (ptr : Word) (acc size reason level : Nat) : State :=
  (s.finishCmd c).raiseFor c
    ⟨cause, ptr, accInfo acc size, BitVec.ofNat 64 (c.page * 256 + c.opcode), whyInfo reason 2 level, s.now⟩

/-! ### Issue -/

/-- An issued command, or a held one that is released: it completes at once when there is nothing to move; one to REM enters
its channel's queue too; a CPYR reserves, or waits in its engine to reserve. -/
def State.startCmd (s : State) (c : Cmd) : State :=
  if c.units = 0 then s.endCmd c
  else if c.toRem && s.chanBroken c.chan then (s.endCmd c).tellBroken c.chan c.sid 1
  else
    let s1 := { s with cmds := s.cmds.filter (fun x => x.id != c.id) ++ [{ c with state := .queued }] }
    if c.toRem then
      s1.setSend c.chan (fun h =>
        { h with queue := h.queue ++ [c.id], users := if h.users.contains c.sid then h.users else h.users ++ [c.sid] })
    else match c.kind with
      | .ring core ring n _ _ _ _ =>
        let r := s1.ring core ring
        if r.waiting.isEmpty ∧ n ≤ r.free then s1.reserveSlots c
        else (s1.setRing core ring (fun r => { r with waiting := r.waiting ++ [c.id] })).setCmd c.id (fun x => { x with state := .reserving })
      | _ => s1

/-- Commands in an engine's queue. -/
def State.engineLoad (s : State) (e : Nat) : Nat := (s.cmds.filter (fun c => c.engine == e && (c.state = .queued || c.state = .held))).length

/-- The engines of a die that are in service (R379; L40). -/
def State.openEngines (s : State) (die : Nat) : List Nat :=
  ((List.range 6).map (6 * die + ·)).filter (fun e => !s.mgmt.fencedEngines.contains e)

/-- Of those the one with the fewest queued commands, the lower number on a tie. -/
def State.pickEngine (s : State) (die : Nat) : Option Nat :=
  (s.openEngines die).foldl (fun b e => match b with
    | none => some e
    | some x => if s.engineLoad e < s.engineLoad x then some e else b) none

/-- The limits of R301 and R102, then the command goes in, while its die has an engine; inside a transaction it is held. -/
def State.issueCmd (s : State) (c : Cmd) : State :=
  if s.cur.tx.depth ≠ 0 ∧ 32 ≤ s.outstanding s.cur.sid then s.abortTx s.cur.sid xCapacity 0 none
  else match s.pickEngine (dieOfCore s.cur.core) with
    | none => s.notReady
    | some e =>
      if 32 ≤ s.outstanding s.cur.sid ∨ 256 ≤ s.engineLoad e then s.notReady
      else
        let s1 := { s with nextId := s.nextId + 1 }
        if s.cur.tx.depth ≠ 0 then { s1 with cmds := s1.cmds ++ [{ c with engine := e, state := .held }] }.advance
        else (s1.startCmd { c with engine := e }).advance

/-- A command issues after the strand's earlier accesses: its issue releases the source (R78). -/
def State.mayCommand (s : State) : Bool := s.mayAccess .rlx && s.releaseReady s.cur.sid s.cur.core .pkg s.nextId

/-- The scope of a class Q modifier. -/
def qScope (q : QMod) : Scope := if q.sysScope then .sys else .pkg

/-- A check of a command's operand (R300): out of limits, misaligned, a space that is not allowed. -/
def State.operand (s : State) (p : Word) (limits : Bool) (align size acc : Nat) (space : Bool) (k : State → State) : State :=
  if !limits then s.illegal 0x0C
  else if ptrOff p % align ≠ 0 then s.spaceTrap .misalign p acc size
  else if !space then s.spaceTrap .space p acc size
  else k s

/-- A check of a length or a count, whose value stands for the pointer. -/
def State.amountOk (s : State) (v : Word) (limits : Bool) (align : Nat) (k : State → State) : State :=
  if !limits then s.illegal 0x0C
  else if v.toNat % align ≠ 0 then s.spaceTrap .misalign v accSrc 8
  else k s

/-- Spaces of a source and of a destination of CPY and CPY2 (R302). -/
def copySrc (p : Word) : Bool := [1, 2, 3, 5].contains (ptrSpace p)
def copyDst (src dst : Word) (mask : Nat) : Bool :=
  [1, 2, 3, 4, 5].contains (ptrSpace dst) && !(ptrSpace src == 5 && ptrSpace dst == 5) && (mask == 0 || ptrSpace dst == 4)

/-- The last check of a command to REM (R300). -/
def State.toChannel (s : State) (dst : Word) (chan size : Nat) (k : State → State) : State :=
  if ptrSpace dst = 4 then s.withChan chan dst accDst size k else k s

def execCpy (o : CpyOp) (s : State) : Out State :=
  withRegs s [rx 1 o.a o.ta, rx 2 o.b o.tb, rx 0 o.d o.td] [] (fun s =>
    if !s.mayCommand then s.notReady
    else
      let src := s.x o.a; let n := s.x o.b; let dst := s.x o.d
      s.operand src true 8 8 accSrc (copySrc src) (fun s =>
        s.amountOk n (decide (n.toNat ≤ 2 ^ 31)) 8 (fun s =>
          s.operand dst true 8 8 accDst (copyDst src dst o.mask.toNat) (fun s =>
            s.toChannel dst o.chan.toNat 8 (fun s =>
              s.issueCmd (newCmd s (.copy src dst n.toNat 1 0 0) o.q.k.toNat o.q.bytes n.toNat (qScope o.q) o.chan.toNat o.mask.toNat))))))

/-- Whether the geometry of CPY2 lies within its limits (R303). -/
def geometryOk (rb rows ss ds : Nat) : Bool :=
  decide (8 ≤ rb) && decide (rb ≤ 2 ^ 31) && rb % 8 == 0 && decide (1 ≤ rows) && decide (rows ≤ 2 ^ 20) && ss % 8 == 0 && ds % 8 == 0
    && decide (rb * rows ≤ 2 ^ 31)

def execCpy2 (o : CpyOp) (s : State) : Out State :=
  withRegs s [rx 1 o.a o.ta, rv 2 .g1 o.b o.tb, rx 0 o.d o.td] [] (fun s =>
    if !s.mayCommand then s.notReady
    else
      let src := s.x o.a; let dst := s.x o.d
      let g (i : Nat) : Nat := lane (s.v o.b) 64 i
      s.operand src true 8 8 accSrc (copySrc src) (fun s =>
        if !geometryOk (g 0) (g 1) (g 2) (g 3) then s.illegal 0x0C
        else s.operand dst true 8 8 accDst (copyDst src dst o.mask.toNat) (fun s =>
          s.toChannel dst o.chan.toNat 8 (fun s =>
            s.issueCmd (newCmd s (.copy src dst (g 0) (g 1) (BitVec.ofNat 64 (g 2)) (BitVec.ofNat 64 (g 3))) o.q.k.toNat o.q.bytes
              (g 0 * g 1) (qScope o.q) o.chan.toNat o.mask.toNat)))))

/-- Spaces of the other copies: LCL, GAL, DEP; and GAL, DEP alone. -/
def plainSpace (p : Word) : Bool := [1, 2, 3].contains (ptrSpace p)

/-- Whether a format is an MX one. -/
def isMx : Fmt → Bool
  | .mxe4m3 | .mxe5m2 | .mxe2m1 => true
  | _ => false

def execCpyc (o : CpycOp) (s : State) : Out State :=
  withRegs s [rx 1 o.a o.ta, rv 0 .g1 o.d o.td] [] (fun s =>
    if !s.mayCommand then s.notReady
    else
      let n := s.x o.a
      let g (i : Nat) : Word := BitVec.ofNat 64 (lane (s.v o.d) 64 i)
      s.amountOk n (decide (32 ≤ n.toNat) && decide (n.toNat ≤ 2 ^ 28)) 32 (fun s =>
        s.operand (g 0) ((g 2 != 0) == isMx o.dst && (g 3 != 0) == isMx o.src) 8 8 accDst (plainSpace (g 0)) (fun s =>
          s.operand (g 1) true 8 8 accSrc (plainSpace (g 1)) (fun s =>
            s.operand (g 2) true 1 1 accDst (!isMx o.dst || plainSpace (g 2)) (fun s =>
              s.operand (g 3) true 1 1 accSrc (!isMx o.src || plainSpace (g 3)) (fun s =>
                let l := lfsrStep s.lfsr
                let c := newCmd s (.convert (g 0) (g 1) (g 2) (g 3) n.toNat o.src o.dst o.rm o.sat l) o.q.k.toNat o.q.bytes
                  (n.toNat * fmtBits o.dst / 8) (qScope o.q) 0 0
                let s1 := s.issueCmd c
                if o.rm = .sr ∧ s1.nextId ≠ s.nextId then s1.setLfsr l else s1))))))

def execCpyr (o : CpyrOp) (s : State) : Out State :=
  withRegs s [rx 1 o.a o.ta, rx 2 o.b o.tb] [] (fun s =>
    if !s.mayCommand then s.notReady
    else
      let r := s.ring s.cur.core o.ring.toNat
      let n := o.n.toNat
      let sb := scaleBytes r.fmt
      if r.count = 0 ∨ r.troupe ≠ s.cur.troupe then s.illegal 0x0B
      else s.operand (s.x o.a) (decide (1 ≤ n) && decide (n ≤ r.count)) 2048 8 accSrc (reachHome (s.x o.a)) (fun s =>
        let next (s : State) : State :=
          s.issueCmd (newCmd s (.ring s.cur.core o.ring.toNat n r.fmt (s.x o.a) (s.x o.b) []) o.q.k.toNat o.q.bytes (n * 2048) (qScope o.q) 0 0)
        if sb = 0 then next s else s.operand (s.x o.b) true 64 8 accSrc (plainSpace (s.x o.b)) next))

/-- CPYG and CPYS (R306): the indexed base lies in GAL or DEP, the list in the own core's LM. An exponent outside 3 to 10 is a value
outside the stated limits (R300): ILLEGAL 0x0C (L63). -/
def copyIndexed (gather : Bool) (o : CpyIdxOp) (s : State) : Out State :=
  withRegs s [rx 1 o.a o.ta, rx 2 o.b o.tb, rx 0 o.d o.td] [] (fun s =>
    if !s.mayCommand then s.notReady
    else
      let rb := 2 ^ o.e.toNat
      let n := o.count.toNat
      let src := s.x o.a; let idx := s.x o.b; let dst := s.x o.d
      s.operand src (decide (3 ≤ o.e.toNat) && decide (o.e.toNat ≤ 10)) rb rb accSrc (if gather then reachHome src else plainSpace src) (fun s =>
        s.operand idx true 4 4 accSrc (s.ownLm idx) (fun s =>
          s.operand dst true rb rb accDst (if gather then plainSpace dst else reachHome dst) (fun s =>
            let kind : CmdKind := if gather then .gather src dst rb (ptrOff idx) n else .scatter src dst rb (ptrOff idx) n
            s.issueCmd (newCmd s kind o.q.k.toNat o.q.bytes (n * rb) (qScope o.q) 0 0)))))

def execCpyg (o : CpyIdxOp) (s : State) : Out State := copyIndexed true o s
def execCpys (o : CpyIdxOp) (s : State) : Out State := copyIndexed false o s

/-- Release a strand's held commands in issue order (R102). -/
def State.releaseHeld (s : State) (sid : Nat) : State :=
  (s.cmds.filter (fun c => c.sid == sid && c.state = .held)).foldl (fun t c => t.startCmd c) s

/-! ### The steps -/

/-- ENGINE_COMMAND_START (R301): an engine with no command in hand takes the first of its queue. -/
def execEngineCommandStart (s : State) : Out State :=
  let e := s.arg.id
  if s.cmds.any (fun c => c.engine == e && (c.state = .active || c.state = .paused || c.state = .done)) then .next s
  else match s.cmds.find? (fun c => c.engine == e && c.state = .queued) with
    | some c => .next (s.setCmd c.id (fun x => { x with state := .active, pos := 0, moved := [], loaded := [], sx := [], dx := [] }))
    | none => .next s

/-- Whether a shootdown of a job is pending (R62). -/
def State.shooting (s : State) (job : Nat) : Bool := s.reg.shoots.any (fun h => h.job == job)

/-- Elements of w bits of bytes, lowest first. -/
def elemsOf (bs : List Byte) (w n : Nat) : List Nat := (List.range n).map (fun i => leNat bs / 2 ^ (w * i) % 2 ^ w)

/-- Convert a block of 32 elements (R141), also where source and destination format agree (L84): destination bytes and the scale of an MX
destination. -/
def convertBlock (sf df : Fmt) (rm : Rm) (sat : Bool) (bs : List Byte) (scale : Nat) (l : Quad) : List Byte × Nat :=
  let es := elemsOf bs (fmtBits sf) 32
  let vals : List (Num × Int) := es.map (fun b =>
    if isMx sf then (mxValue (elemFF sf) scale b, mxLsb (elemFF sf) scale b)
    else ((fmtValue sf) b, srcLsb sf ((fmtValue sf) b)))
  let n := 4 * fmtBits df
  if isMx df then
    let q := quantiseNum (elemFF df) vals rm l
    (natBytes n (joinBits (fmtBits df) q.elems), q.scale)
  else
    let rs := ((vals.zipIdx).map (fun e => (convertNum e.1.1 e.1.2 df rm sat (lfsrSteps e.2 l)).bits))
    (natBytes n (joinBits (fmtBits df) rs), 0)

/-! ### What a command reads and writes -/

/-- A word, an index or a scale byte that a command reads or writes, under its number in the command. -/
structure Piece where
  key : Nat
  ptr : Word
  size : Nat
  deriving DecidableEq, Repr

/-- The index that a unit waits for (R306). -/
def Cmd.index (c : Cmd) (u : Nat) : List Piece :=
  match c.kind with
  | .gather _ _ rb idx _ | .scatter _ _ rb idx _ =>
    let i := u / (rb / 8)
    [⟨c.units + i, BitVec.ofNat 64 (lmAddr c.core (idx + 4 * i)), 4⟩]
  | _ => []

/-- What a unit reads: its word; of a conversion the words of its block and the scale (R304). -/
def Cmd.sources (s : State) (c : Cmd) (u : Nat) : List Piece :=
  match c.kind with
  | .convert _ _ _ ss _ sf _ _ _ _ =>
    (List.range (fmtBits sf / 2)).map (fun i => ⟨32 * u + i, ptrAt (c.ptrs s u).1 (8 * i), 8⟩)
      ++ (if isMx sf then [⟨32 * u + 16, ptrAt ss u, 1⟩] else [])
  | _ => [⟨u, (c.ptrs s u).1, 8⟩]

/-- What a unit writes. -/
def Cmd.targets (s : State) (c : Cmd) (u : Nat) : List Piece :=
  match c.kind with
  | .convert _ _ ds _ _ _ df _ _ _ =>
    (List.range (fmtBits df / 2)).map (fun i => ⟨32 * u + i, ptrAt (c.ptrs s u).2 (8 * i), 8⟩)
      ++ (if isMx df then [⟨32 * u + 16, ptrAt ds u, 1⟩] else [])
  | _ => [⟨u, (c.ptrs s u).2, 8⟩]

/-- The numbers of what a written word is made of: of a conversion the words with its elements and the scale; an MX block is made of
all of its source. -/
def Cmd.needs (s : State) (c : Cmd) (u : Nat) (t : Piece) : List Nat :=
  match c.kind with
  | .convert _ _ _ _ _ sf df _ _ _ =>
    if isMx df then (c.sources s u).map (·.key)
    else
      let n := 64 / fmtBits df
      let e := t.key % 32 * n
      let words := (List.range (fmtBits sf / 2)).filter (fun i =>
        decide (e * fmtBits sf < 64 * (i + 1)) && decide (64 * i < (e + n) * fmtBits sf))
      words.map (32 * u + ·) ++ (if isMx sf then [32 * u + 16] else [])
  | _ => [u]

/-- What a command writes there: nothing readable where what it is made of was poisoned (R381). -/
def Cmd.result (s : State) (c : Cmd) (u : Nat) (t : Piece) : Option (List Byte) :=
  if (c.needs s u t).any (fun k => (c.got k).isNone) then none
  else match c.kind with
    | .convert _ _ _ _ _ sf df rm sat l =>
      let bs := List.flatten ((List.range (fmtBits sf / 2)).map (fun i => (c.got (32 * u + i)).getD (zeros 8)))
      let r := convertBlock sf df rm sat bs (leNat ((c.got (32 * u + 16)).getD [])) (lfsrSteps (32 * u) l)
      some (if t.size = 1 then natBytes 1 r.2 else (r.1.drop (8 * (t.key % 32))).take 8)
    | _ => c.got u

/-- Of two rows with one index the later remains (R306): a word waits for those of earlier rows that may go to the same place. -/
def Cmd.inTurn (c : Cmd) (u : Nat) : Bool :=
  match c.kind with
  | .scatter _ _ rb _ _ =>
    let w := rb / 8
    (List.range (u / w)).all (fun i => c.moved.contains (i * w + u % w)
      || (c.has (c.units + i) && c.indexAt i != c.indexAt (u / w)))
  | _ => true

/-- What a unit can read next: its index first. -/
def Cmd.loads (s : State) (c : Cmd) (u : Nat) : List Piece :=
  match (c.index u).filter (fun p => !c.has p.key) with
  | [] => if (c.targets s u).all (fun t => c.moved.contains t.key) then [] else (c.sources s u).filter (fun p => !c.has p.key)
  | ps => ps

/-- What a unit can write next. -/
def Cmd.writes (s : State) (c : Cmd) (u : Nat) : List Piece :=
  if c.toRem then []
  else (c.targets s u).filter (fun t => !c.moved.contains t.key && (c.needs s u t).all c.has && c.inTurn u)

/-- The units of the row in hand that are not done: a word to REM is, once it has been read. -/
def Cmd.left (s : State) (c : Cmd) : List Nat :=
  ((List.range (min (c.rowEnd c.pos) c.units - c.pos)).map (c.pos + ·)).filter (fun u =>
    if c.toRem then !c.has u else (c.targets s u).any (fun t => !c.moved.contains t.key))

/-- What a command can do next: read a piece, or write one of the unit named, in any order. -/
def Cmd.ready (s : State) (c : Cmd) : List (Option Nat × Piece) :=
  (c.left s).flatMap (fun u => (c.loads s u).map (fun p => (none, p)) ++ (c.writes s u).map (fun t => (some u, t)))

/-- Whether a piece is an index of the list in the issuing core's LM (R306). -/
def Cmd.isIndex (c : Cmd) (p : Piece) : Bool := !(c.index 0).isEmpty && decide (c.units ≤ p.key)

/-- Whether what a command can do lies in the pages in hand. -/
def Cmd.inHand (c : Cmd) (e : Option Nat × Piece) : Bool :=
  match e.1 with
  | none => c.isIndex e.2 || (xlatFor c.sx e.2.ptr e.2.size).isSome
  | some _ => (xlatFor c.dx e.2.ptr e.2.size).isSome

/-- What a command may do next: anything, in no fixed order, but while a shootdown of its job is pending nothing beyond the pages in
hand (R62, R63, R302). -/
def Cmd.choices (s : State) (c : Cmd) : List (Option Nat × Piece) :=
  if s.shooting c.job then (c.ready s).filter c.inHand else c.ready s

/-- The units of a command's next packet to REM: those from its place on that lie in its row, in one block of 256 bytes at the destination
and in one page of the source, at which packets end should it fail (R302, R378; L15). -/
def Cmd.packetUnits (s : State) (c : Cmd) : Nat :=
  let p := c.ptrs s c.pos
  let page := pageAt s c p.1
  min (min (min (c.rowEnd c.pos) c.units - c.pos) ((256 - ptrOff p.2 % 256) / 8)) ((page.1 + page.2 - ptrOff p.1) / 8)

/-- Whether packets to REM before the one that takes a unit are still to be formed: it does not fail before them (R378). -/
def Cmd.tooEarly (s : State) (c : Cmd) (u : Nat) : Bool := c.toRem && decide (c.pos + max (c.packetUnits s) 1 ≤ u)

/-- The first pointer of the page that a pointer lies in, among those that the command reads, or writes, there (R378; L15). -/
def Cmd.firstIn (s : State) (c : Cmd) (p : Word) (src : Bool) : Word :=
  let page := pageAt s c p
  let mine := ((List.range c.units).flatMap (fun u => if src then c.sources s u else c.targets s u)).filter (fun q =>
    q.ptr.extractLsb' 48 16 == p.extractLsb' 48 16 && decide (page.1 ≤ ptrOff q.ptr) && decide (ptrOff q.ptr < page.1 + page.2))
  (mine.head?.map (·.ptr)).getD p

/-! ### Pages (R63, R378) -/

/-- The page of a piece is translated afresh when the command comes to it, in place of the one that it had in hand: of its source or its
destination, of elements or of scale bytes; or the check that fails (R63, R378). -/
def reachPage (s : State) (c : Cmd) (e : Option Nat × Piece) : State × Except (Cause × Nat × Nat) Cmd :=
  if c.inHand e then (s, .ok c)
  else match engineXlat s c e.2.ptr e.2.size e.1.isNone e.1.isSome with
    | (s1, .error f) => (s1, .error f)
    | (s1, .ok x) =>
      let other (y : Xlat) : Bool := y.scale != x.scale
      (s1, .ok (if e.1.isNone then { c with sx := x :: c.sx.filter other } else { c with dx := x :: c.dx.filter other }))

/-- Read one piece: a page past the end of the LM, or a poisoned word on its way to REM or HST, ends the command, to REM once the packets
before it are formed; what a poisoned index reads as is left open (L36). -/
def State.loadPiece (s : State) (c : Cmd) (p : Piece) : State :=
  let take (t : State) (v : Option (List Byte)) : State := t.setCmd c.id (fun x => { x with loaded := x.loaded ++ [(p.key, v)] })
  let index := c.isIndex p
  if index ∧ 0x60000 < ptrOff p.ptr + 4 then
    s.faultCmd c .translate (BitVec.ofNat 64 (lmAddr c.core 0x60000)) accSrc 4 0x02 0
  else
    let a := if index then p.ptr.toNat else ((xlatFor c.sx p.ptr p.size).map (·.phys' p.ptr)).getD 0
    match engineRead s a p.size with
    | (s1, none) =>
      if index then take s1 (some ((List.range 4).map (fun i => Config.poisonByte (a + i) s.ticks)))
      else if c.tooEarly s p.key then s
      else if c.toRem ∨ ptrSpace c.dst = 5 then s1.faultCmd c .poison (c.firstIn s p.ptr true) accSrc 8 0x20 0 else take s1 none
    | (s1, some b) => take s1 (some b)

/-- Write one piece. A scale byte to a poisoned word is not performed (R381). A word read for it alone is used up. -/
def State.writePiece (s : State) (c : Cmd) (u : Nat) (p : Piece) : State :=
  let a := ((xlatFor c.dx p.ptr p.size).map (·.phys' p.ptr)).getD 0
  let s1 :=
    if s.refusesWrite a p.size ∧ (c.result s u p).isSome then
      s.raiseFor c ⟨.poison, p.ptr, accInfo accDst p.size, BitVec.ofNat 64 (c.page * 256 + c.opcode), whyInfo 0x20 2 0, s.now⟩
    else engineWrite s a p.size (c.result s u p)
  s1.setCmd c.id (fun x =>
    { x with moved := insertNat x.moved p.key,
             loaded := match c.kind with | .convert .. => x.loaded | _ => x.loaded.filter (fun e => e.1 != p.key) })

/-- ENGINE_PAGE_BOUNDARY (R63, R302): the command id reads or writes the n-th of the words that it may, in no fixed order, after the
translation of the page that it comes to; a page that fails ends it. With nothing left to do in its pages it pauses for a shootdown; a row
that is done gives way to the next. Words to REM leave as packets through the channel, also of a command that pauses. -/
def execEnginePageBoundary (s : State) : Out State :=
  match s.cmd? s.arg.id with
  | none => .next s
  | some c =>
    if (c.state ≠ .active ∧ c.state ≠ .paused) ∨ (c.state = .paused ∧ s.shooting c.job) then .next s
    else if c.units ≤ c.pos then .next (s.setCmd c.id (fun x => { x with state := .done }))
    else if (c.left s).isEmpty ∧ !c.toRem then
      .next (s.setCmd c.id (fun x => { x with pos := min (c.rowEnd c.pos) c.units, moved := [], loaded := [] }))
    else
      let es := c.choices s
      match es[s.arg.sel % max es.length 1]? with
      | none => .next (s.setCmd c.id (fun x =>
          if s.shooting c.job then { x with state := .paused, sx := [], dx := [] } else { x with state := .active }))
      | some e => match reachPage s c e with
        | (s1, .error (cause, reason, level)) =>
          .next (if c.tooEarly s e.2.key then s.setCmd c.id (fun x => { x with state := .active })
            else s1.faultCmd c cause (c.firstIn s e.2.ptr e.1.isNone) (if e.1.isNone then accSrc else accDst) 8 reason level)
        | (s1, .ok c1) =>
          let s2 := s1.setCmd c.id (fun _ => { c1 with state := .active })
          .next (match e.1 with
            | none => s2.loadPiece c1 e.2
            | some u => s2.writePiece c1 u e.2)

/-- ENGINE_COMMAND_COMPLETE (R302, R305): a command whose every word has moved credits its counter. -/
def execEngineCommandComplete (s : State) : Out State :=
  match s.cmd? s.arg.id with
  | some c => if c.state = .done then .next (s.finishCmd c) else .next s
  | none => .next s

/-- CPYR_RESERVE (R71, R305): the first waiting CPYR of its ring reserves once enough slots are free. -/
def execCpyrReserve (s : State) : Out State :=
  match s.cmd? s.arg.id with
  | none => .next s
  | some c =>
    match c.kind with
    | .ring core ring n _ _ _ _ =>
      let r := s.ring core ring
      if c.state = .reserving ∧ r.waiting.head? = some c.id ∧ n ≤ r.free then .next (s.reserveSlots c) else .next s
    | _ => .next s

end Sys2Proof.Machine
end

