-- ==== Sys2Proof/Machine/Matrix.lean ====
section
/-! DEFINITION. Operand rings, accumulators and the matrix array (spec/03 R68 to R71, spec/13 R268 to R276, spec/07 R135, R136,
spec/02 R29, spec/19 R370, R371). -/

namespace Sys2Proof.Machine

/-! ### Rings (R268 to R270) -/

/-- Ring formats (R70): element format, K and the group of formats that one MMA accepts together (R274). -/
def ringFF : Nat → Option FF
  | 0x01 => some ffE4m3 | 0x02 => some ffE5m2 | 0x03 => some ffE2m1 | 0x04 => some ffBf16 | 0x05 => some ffF16
  | 0x11 => some ffE4m3 | 0x12 => some ffE5m2 | 0x13 => some ffE2m1
  | _ => none

def ringBits (f : Nat) : Nat := if f = 0x03 ∨ f = 0x13 then 4 else if f = 0x04 ∨ f = 0x05 then 16 else 8
def ringK (f : Nat) : Nat := 256 / ringBits f

def ringGroup : Nat → Nat
  | 0x01 | 0x02 => 1 | 0x11 | 0x12 => 2 | 0x03 => 3 | 0x13 => 4 | 0x04 => 5 | 0x05 => 6 | 0x06 | 0x07 => 7
  | _ => 0

/-- The definition of R69. -/
def Ring.bytes (r : Ring) : VReg :=
  if r.count = 0 then 0
  else ofVbytes (natBytes 4 r.base ++ natBytes 1 r.count ++ natBytes 1 r.fmt ++ natBytes 1 r.flags ++ [0] ++ natBytes 4 r.sbase
    ++ natBytes 1 r.head ++ natBytes 1 r.ready ++ natBytes 1 r.pend ++ List.replicate 17 0)

/-- Whether an MMA that has not retired reads a ring for a troupe. -/
def ArrayOp.reads (o : ArrayOp) (u q : Nat) : Bool :=
  match o with
  | .mma _ v _ qa qb .. => v == u && (qa == q || qb == q)
  | .zscale .. => false

/-- Whether a definition meets R268. -/
def ringOk (u : Troupe) (base count fmt flags sbase : Nat) : Bool :=
  let lo := u.lmOff
  let hi := u.lmOff + u.lm * 1024
  let mx := decide (0x10 ≤ fmt)
  base % 2048 == 0 && decide (count ≤ 64) && ringGroup fmt != 0 && (flags % 2 == 1) == mx && sbase % 128 == 0
    && decide (lo ≤ base) && decide (base + 2048 * count ≤ hi) && (!mx || (decide (lo ≤ sbase) && decide (sbase + 128 * count ≤ hi)))

/-- Whether a CPYR to a ring of the core has issued inside a transaction and is held (R102, R305). -/
def State.heldFor (s : State) (q : Nat) : Bool :=
  s.cmds.any (fun c => c.state == .held && (match c.kind with
    | .ring k r _ _ _ _ _ => k == s.cur.core && r == q
    | _ => false))

def execRngdef (o : RR) (s : State) : Out State :=
  withRegs s [rv 1 .g1 o.a o.ta] [] (fun s =>
    let q := o.d.toNat
    let r := s.ring s.cur.core q
    let mine := r.count ≠ 0 ∧ r.troupe = s.cur.troupe
    let f (off n : Nat) : Nat := fieldAt (vbytes (s.v o.a)) off n
    if r.count ≠ 0 ∧ r.troupe ≠ s.cur.troupe then s.illegal 0x0B
    else orElse (if f 4 1 = 0 ∨ ringOk s.myTroupe (f 0 4) (f 4 1) (f 5 1) (f 6 1) (f 8 4) then none else some (s.illegal 0x0C)) (fun _ =>
      orElse (noTx s xLocal) (fun _ =>
        if mine ∧ (r.pend ≠ 0 ∨ r.waiting ≠ [] ∨ s.heldFor q ∨ (s.core s.cur.core).array.any (fun x => x.reads s.cur.troupe q)) then
          s.notReady
        else
          (s.setRing s.cur.core q (fun _ =>
            if f 4 1 = 0 then Ring.unbound
            else { Ring.unbound with
              base := f 0 4, count := f 4 1, fmt := f 5 1, flags := f 6 1 % 2, sbase := if f 6 1 % 2 = 1 then f 8 4 else 0, troupe := s.cur.troupe })).advance)))

def execRngadv (o : IM) (s : State) : Out State :=
  .next (
    let q := o.d.toNat
    let r := s.ring s.cur.core q
    let n := o.imm.toNat
    if r.pend ≠ 0 then s.notReady
    else if r.count = 0 ∨ r.troupe ≠ s.cur.troupe then s.illegal 0x0B
    else if 64 < n ∨ r.count < r.ready + n then s.illegal 0x0C
    else orElse (noTx s xLocal) (fun _ =>
      if !s.mayAccess .rlx || !s.releaseReady s.cur.sid s.cur.core .cor s.nextId then s.notReady
      else (s.setRing s.cur.core q (fun r => { r with ready := r.ready + n })).advance))

def execRngstat (o : RR) (s : State) : Out State :=
  withRegs s [] [wv .g1 o.d] (fun s => (s.setV o.d (s.ring s.cur.core o.a.toNat).bytes).advance)

/-! ### Accumulators (R29, R271) -/

/-- The accumulator that a field names. -/
def accOfReg (d : Reg) : Fin 2 := ⟨d.toNat % 2, Nat.mod_lt _ (by decide)⟩

/-- Whether the strand in hand holds an accumulator with no ZFREE of it pending. -/
def State.holdsZ (s : State) (z : Fin 2) : Bool :=
  (s.core s.cur.core).zholder[z] == some s.cur.sid && !(s.core s.cur.core).zfreeing[z]

/-- Whether an operation on an accumulator has not retired. -/
def ArrayOp.onZ (o : ArrayOp) (z : Nat) : Bool :=
  match o with
  | .mma _ _ z' .. => z' == z
  | .zscale _ _ z' .. => z' == z

/-- Whether a ZLD or ZST on an accumulator still moves. -/
def State.zmoving (s : State) (core z : Nat) : Bool := s.moves.any (fun m => m.core == core && m.z == z)

/-- Whether nothing earlier on an accumulator is still to take effect. -/
def State.zquiet (s : State) (z : Fin 2) : Bool :=
  !(s.core s.cur.core).array.any (fun o => o.onZ z.val) && !s.zmoving s.cur.core z.val

/-- An instruction that needs its accumulator held, then allowed, then quiet. -/
def State.withZ (s : State) (z : Fin 2) (k : State → State) : State :=
  if !s.holdsZ z then s.illegal 0x0B
  else orElse (noTx s xLocal) (fun _ => if s.zquiet z then k s else s.notReady)

def execZclaim (d : Reg) (s : State) : Out State :=
  .next (
    orElse (noTx s xLocal) (fun _ =>
      let z := accOfReg d
      let c := s.core s.cur.core
      if s.holdsZ z then s.advance
      else if c.zholder[z] = none ∧ c.zwait[z] = [] then
        (s.setCore s.cur.core (fun c => { c with zholder := c.zholder.set z (some s.cur.sid) })).advance
      else (s.setCore s.cur.core (fun c => { c with zwait := c.zwait.set z (c.zwait[z] ++ [s.cur.sid]) })).waitFor (.zclaim z.val)))

def execZfree (d : Reg) (s : State) : Out State :=
  .next (
    orElse (noTx s xLocal) (fun _ =>
      let z := accOfReg d
      if !s.holdsZ z then s.advance
      else if s.zmoving s.cur.core z.val then s.notReady
      else (s.freeZ s.cur.core s.cur.sid z).advance))

/-- Element (i, j), as 64i + j. -/
def zelem (z : BitVec 131072) (n : Nat) : Nat := z.toNat / 2 ^ (32 * n) % 2 ^ 32

/-- An accumulator from its elements. -/
def ofElems (l : List Nat) : BitVec 131072 := BitVec.ofNat 131072 (joinBits 32 l)

def State.setZ (s : State) (core : Nat) (z : Fin 2) (v : BitVec 131072) : State :=
  s.setCore core (fun c => { c with z := c.z.set z v })

def execZclr (d : Reg) (s : State) : Out State :=
  .next (s.withZ (accOfReg d) (fun s => (s.setZ s.cur.core (accOfReg d) 0).advance))

/-- ZLD and ZST: a move of 2,048 units starts. -/
def zmem (store : Bool) (o : MEM) (s : State) : Out State :=
  withRegs s [rx 1 o.a o.ta] [] (fun s =>
    let z := accOfReg o.d
    let p := memPtr s o.a o.imm
    let acc := if store then accStore else accLoad
    if !s.mayAccess .rlx then s.notReady
    else if !s.holdsZ z then s.illegal 0x0B
    else if ptrOff p % 256 ≠ 0 then s.spaceTrap .misalign p acc 16384
    else if !s.ownLm p then s.spaceTrap .space p acc 16384
    else s.checked p 256 16384 acc (!store) store true (fun s a =>
      orElse (noTx s xLocal) (fun _ =>
        if !s.zquiet z ∨ s.moving a 16384 then s.notReady
        else
          { s with
            moves := s.moves ++ [Move.mk s.nextId s.cur.sid s.cur.core (ptrOff p) 16384 z.val store (List.range 2048)],
            nextId := s.nextId + 1 }.advance)))

def execZld (o : MEM) (s : State) : Out State := zmem false o s
def execZst (o : MEM) (s : State) : Out State := zmem true o s

/-- Bytes of LM as the matrix unit reads them: those of a poisoned word are open (L36). -/
def State.rawBytes (s : State) (a n : Nat) : List Byte :=
  (List.range n).map (fun i => if s.isPoison (a + i) then Config.poisonByte (a + i) s.ticks else Memory.get s.mem (a + i))

/-- One unit of a move: two elements. -/
def State.moveUnit (s : State) (m : Move) (u : Nat) : State :=
  let a := lmAddr m.core m.lm + 8 * u
  let z : Fin 2 := ⟨m.z % 2, Nat.mod_lt _ (by decide)⟩
  let v := (s.core m.core).z[z]
  if m.store then s.storeAt a (natBytes 8 (v.toNat / 2 ^ (64 * u)))
  else
    let w := leNat (s.rawBytes a 8)
    s.setZ m.core z (BitVec.ofNat 131072 (v.toNat - v.toNat / 2 ^ (64 * u) % 2 ^ 64 * 2 ^ (64 * u) + w * 2 ^ (64 * u)))

/-- ZMOVE_COMPLETE: one more unit of a move takes place, in no fixed order; after the last the move is done (L29). -/
def execZmoveComplete (s : State) : Out State :=
  match s.moves.find? (fun m => m.id == s.arg.id) with
  | none => .next s
  | some m =>
    match m.left[Config.pick s.ticks % max m.left.length 1]? with
    | none => .next { s with moves := s.moves.filter (fun x => x.id != m.id) }
    | some u =>
      let left := m.left.filter (· != u)
      let s1 := s.moveUnit m u
      .next { s1 with moves :=
        if left.isEmpty then s1.moves.filter (fun x => x.id != m.id)
        else s1.moves.map (fun x => if x.id = m.id then { x with left := left } else x) }

/-! ### ZRED (R272) -/

/-- One lane of ZRED: f32 bits move unchanged. -/
def zredLane (s : State) (o : ZRedOp) (c : Nat) (l : Quad) : Rounded :=
  if o.m.ty = .f32 then keptLane c l
  else
    let x := ffF32.decode c
    (ftyFF o.m.ty).finish x.exact (s.mode o.m.rm) o.m.sat l none x.isNan x.isInf

def execZred (o : ZRedOp) (s : State) : Out State :=
  withRegs s [rx 2 o.t o.tt] [wv o.w o.d] (fun s =>
    let z := accOfReg o.z
    let n := lanesOf (ftyFF o.m.ty).width
    let x := (s.x o.t).toNat
    let row := x % 64
    let c0 := x / 64 % 64
    if !s.holdsZ z then s.illegal 0x0B
    else if 4096 ≤ x ∨ c0 % n ≠ 0 ∨ 64 < c0 + n * o.w.count then s.illegal 0x0C
    else orElse (noTx s xLocal) (fun _ =>
      if !s.zquiet z then s.notReady
      else
        let v := (s.core s.cur.core).z[z]
        let rs := fgroup o.w.count (fun r l =>
          flanes (fun _ => true) (fun _ => 0) (fun i l => zredLane s o (zelem v (64 * row + c0 + r * n + i)) l) (List.range n) l)
          o.w.count s.lfsr
        let evs := List.flatten ((rs.1.zipIdx).map (fun e => List.flatten ((e.1.zipIdx).map (fun y =>
          y.1.events 1 z.val row (c0 + e.2 * n + y.2) 0x7F))))
        ((s.setGroup o.d (rs.1.map (fun l => unlanes (ftyFF o.m.ty).width (l.map (·.bits))))).setLfsr rs.2).advanceCounting evs 0
          (ftyCode o.m.ty)))

/-! ### The array (R273 to R276) -/

def ArrayOp.started : ArrayOp → Bool
  | .mma _ _ _ _ _ _ _ _ _ _ st _ => st
  | .zscale _ _ _ _ _ _ _ st _ => st

/-- Whether the array takes a further operation: every one issued has started. -/
def State.arrayFree (s : State) : Bool := (s.core s.cur.core).array.all (·.started)

def State.enterArray (s : State) (o : ArrayOp) : State := s.setCore s.cur.core (fun c => { c with array := c.array ++ [o] })

/-- Where the next MMA of the strand in hand finds its panel and its scale bytes in a ring (R275). -/
def State.panelAt (s : State) (r : Ring) : Nat := lmAddr s.cur.core (r.base + 2048 * ((r.head + r.claim) % r.count))
def State.scalesAt (s : State) (r : Ring) : Nat := lmAddr s.cur.core (r.sbase + 128 * ((r.head + r.claim) % r.count))

/-- The panel that the next MMA reads from a ring (R275). -/
def State.panel (s : State) (r : Ring) : Panel :=
  ⟨r.fmt, s.rawBytes (s.panelAt r) 2048, s.rawBytes (s.scalesAt r) (scaleBytes r.fmt)⟩

/-- Whether the strand's own unfinished ZLD, ZST or LDROW covers bytes of that panel (R271, R284). -/
def State.panelMoving (s : State) (r : Ring) : Bool :=
  s.moving (s.panelAt r) 2048 || (scaleBytes r.fmt != 0 && s.moving (s.scalesAt r) (scaleBytes r.fmt))

def execMma (o : MmaOp) (s : State) : Out State :=
  .next (
    let z := accOfReg o.z
    let qa := o.qa.toNat
    let qb := o.qb.toNat
    let ra := s.ring s.cur.core qa
    let rb := s.ring s.cur.core qb
    let bound (r : Ring) : Bool := r.count != 0 && r.troupe == s.cur.troupe
    if !s.mayAccess .rlx then s.notReady
    else if !bound ra || !bound rb || ringGroup ra.fmt != ringGroup rb.fmt || !s.holdsZ z then s.illegal 0x0B
    else orElse (noTx s xLocal) (fun _ =>
      if !s.arrayFree || s.zmoving s.cur.core z.val || decide (ra.ready ≤ ra.claim) || decide (rb.ready ≤ rb.claim)
          || s.panelMoving ra || s.panelMoving rb then s.notReady
      else
        let s1 := s.enterArray (.mma s.cur.sid s.cur.troupe z.val qa qb (s.panel ra) (s.panel rb) o.keepa o.keepb o.zero false s.cur.pc)
        let claim (keep : Bool) (q : Nat) (t : State) : State :=
          if keep then t else t.setRing s.cur.core q (fun r => { r with claim := r.claim + 1 })
        (claim o.keepb qb (claim o.keepa qa s1)).advance))

/-- ZSCALE reads its eight registers and draws at issue. -/
def execZscale (o : ZScaleOp) (s : State) : Out State :=
  withRegs s [rv 1 .g8 o.a o.ta] [] (fun s =>
    let z := accOfReg o.z
    let rm := s.mode o.rm
    if !s.holdsZ z then s.illegal 0x0B
    else orElse (noTx s xLocal) (fun _ =>
      if !s.arrayFree ∨ s.zmoving s.cur.core z.val then s.notReady
      else
        let cols := List.flatten ((List.range 8).map (fun r => (lanes (s.v (inGroup o.a r)) 32).map (BitVec.ofNat 32)))
        let s1 := s.enterArray (.zscale s.cur.sid s.cur.troupe z.val rm o.sat s.lfsr cols false s.cur.pc)
        (if rm = .sr then s1.setLfsr (lfsrSteps 4096 s.lfsr) else s1).advance))

/-- The first operation that has not started starts. -/
def startFirst : List ArrayOp → List ArrayOp
  | [] => []
  | .mma a b c d e f g h i j false k :: r => .mma a b c d e f g h i j true k :: r
  | .zscale a b c d e f g false h :: r => .zscale a b c d e f g true h :: r
  | o :: r => o :: startFirst r

/-- MMA_START (R276): the array accepts the first operation that waits. -/
def execMmaStart (s : State) : Out State :=
  .next (s.setCore s.arg.id (fun c => { c with array := startFirst c.array }))

/-- Element k of row i of a panel. -/
def Panel.raw (p : Panel) (i k : Nat) : Nat :=
  let w := ringBits p.fmt
  leNat ((p.rows.drop (32 * i)).take 32) / 2 ^ (w * k) % 2 ^ w

/-- The scale byte of row i for k. -/
def Panel.scale (p : Panel) (i k : Nat) : Nat := ((p.scales[if p.fmt = 0x13 then 2 * i + k / 32 else i]?).getD 0).toNat

/-- scale × element, exact. -/
def Panel.value (p : Panel) (i k : Nat) : Num :=
  match ringFF p.fmt with
  | some ff => if 0x10 ≤ p.fmt then mxValue ff (p.scale i k) (p.raw i k) else ff.decode (p.raw i k)
  | none => .nan

/-- The result of one floating element and its events (R135, R247, R371). -/
def mmaFloat (a b : Panel) (z i j c : Nat) : Nat × List Ev :=
  let ks := List.range (ringK a.fmt)
  let xs := ks.map (fun k => (a.value i k, b.value j k))
  let ps := xs.map (fun e => Num.mul e.1 e.2)
  let cv := ffF32.decode c
  let r := matrixSum (cv :: ps)
  let rv := ffF32.decode r
  let ins := cv :: (xs.map (·.1) ++ xs.map (·.2))
  let k := (ps.findIdx? (fun p => p.isNan || p.isInf)).getD 0x7F
  (r, (if rv.isNan && !ins.any Num.isNan then [⟨0, 1, z, i, j, k⟩] else [])
    ++ (if rv.isInf && !ins.any Num.isInf then [⟨1, 1, z, i, j, k⟩] else []))

/-- The result of one integer element (R136). -/
def mmaInt (a b : Panel) (i j c : Nat) : Nat :=
  wrapInt 32 ((List.range 32).foldl (fun acc k =>
    acc + intOf (a.fmt == 0x06) 8 (a.raw i k) * intOf (b.fmt == 0x06) 8 (b.raw j k)) (intOf true 32 c))

/-- An accumulator after an MMA, and the events in the order i, then j. -/
def mmaResult (v : BitVec 131072) (a b : Panel) (z : Nat) (zero : Bool) : BitVec 131072 × List Ev :=
  let rs := (List.range 4096).map (fun n =>
    let c := if zero then 0 else zelem v n
    if ringGroup a.fmt = 7 then (mmaInt a b (n / 64) (n % 64) c, []) else mmaFloat a b z (n / 64) (n % 64) c)
  (ofElems (rs.map (·.1)), List.flatten (rs.map (·.2)))

/-- A ring after an MMA that consumed from it retires (R71, R275). -/
def Ring.consume (r : Ring) (troupe : Nat) : Ring :=
  if r.count = 0 ∨ r.troupe ≠ troupe then r
  else { r with head := (r.head + 1) % r.count, ready := r.ready - 1, claim := r.claim - 1 }

/-- The first operation of a core's array leaves it; a pending ZFREE takes effect after the strand's last one; ARITH of the
strand becomes pending. -/
def State.leaveArray (s : State) (core sid uid : Nat) (z : Fin 2) (evs : List Ev) (op : Nat) (fmta fmtb : Nat) (pc : Word) : State :=
  let s1 := s.setCore core (fun c => { c with array := c.array.drop 1 })
  let c := s1.core core
  let s2 := if c.zfreeing[z] ∧ c.zholder[z] = some sid ∧ !c.array.any (fun o => o.isOn sid z.val) then s1.passZ core z else s1
  let r := s2.countEvents uid evs (BitVec.ofNat 64 (4 * 256 + op)) fmta fmtb pc
  match r.2 with
  | none => r.1
  | some t => r.1.pendTrap sid t

/-- MMA_RETIRE: core. The oldest operation is an MMA that has started. -/
def execMmaRetire (s : State) : Out State :=
  let core := s.arg.id
  match (s.core core).array with
  | .mma sid uid z qa qb a b keepa keepb zero true pc :: _ =>
    let zi : Fin 2 := ⟨z % 2, Nat.mod_lt _ (by decide)⟩
    let r := mmaResult ((s.core core).z[zi]) a b z zero
    let eat (keep : Bool) (q : Nat) (t : State) : State := if keep then t else t.setRing core q (fun x => x.consume uid)
    .next ((eat keepb qb (eat keepa qa (s.setZ core zi r.1))).leaveArray core sid uid zi r.2 0x04 a.fmt b.fmt pc)
  | _ => .next s

/-- ZSCALE_RETIRE: core. In sr the draws go through the accumulator row by row, from the strand's %lfsr as it stands at issue, where R130
orders vector lanes alone (L66: the model's choice). -/
def execZscaleRetire (s : State) : Out State :=
  let core := s.arg.id
  match (s.core core).array with
  | .zscale sid uid z rm sat l cols true pc :: _ =>
    let zi : Fin 2 := ⟨z % 2, Nat.mod_lt _ (by decide)⟩
    let v := (s.core core).z[zi]
    let rs := (flanes (fun _ => true) (fun _ => 0) (fun n l =>
      ffF32.bin .mul (zelem v n) ((cols.getD (n % 64) 0).toNat) rm sat l) (List.range 4096) l).1
    let evs := List.flatten ((rs.zipIdx).map (fun e => e.1.events 1 z (e.2 / 64) (e.2 % 64) 0x7F))
    .next ((s.setZ core zi (ofElems (rs.map (·.bits)))).leaveArray core sid uid zi evs 0x09 0 0 pc)
  | _ => .next s

end Sys2Proof.Machine
end

