-- ==== Sys2Proof/Machine/Events.lean ====
section
/-! DEFINITION. Reports of the hub, the events of a job and the waits on them (spec/09 R167 to R169, spec/21 R400, R401). -/

namespace Sys2Proof.Machine

/-- An area of a job has no room (R400): the job stops, its report without a trap (L57), and the hub reports the area: 1 spill pool,
2 wait-list overflow, 3 launch overflow. -/
def State.exhausted (s : State) (job area site : Nat) : State :=
  (s.stopJob job (.fault job 0 0 0 0 0 0 0 0 0 0 0 0 s.now)).fabric 5 area job site 0 0

/-! ### Memory reports and transient errors (R380, R385) -/

/-- The transient count of a store, a row of R380, on a die; the hub counts as die 4. -/
def State.transientCount (s : State) (store die : Nat) : Nat :=
  ((s.mgmt.transients.find? (fun e => e.1 == store && e.2.1 == die)).map (·.2.2)).getD 0

/-- One memory report. -/
def State.memReport (s : State) (kind store job site die : Nat) (address : Word) : State :=
  s.send (.memory kind store job site ((s.mgmt.incarnation.toList).getD die 1) (s.transientCount store die) address s.now)

/-- Count a transient error of a store on a die; each multiple of 1,024 is reported. -/
def State.transient (s : State) (store die site : Nat) : State :=
  let n := (s.transientCount store die + 1) % 2 ^ 32
  let s1 := { s with mgmt := { s.mgmt with
    transients := (store, die, n) :: s.mgmt.transients.filter (fun e => !(e.1 == store && e.2.1 == die)) } }
  if n % 1024 = 0 ∧ store ≤ 10 then s1.memReport 1 store noJob site die 0 else s1

/-! ### Events (R167, R168) -/

/-- The physical address of an event's word. -/
def eventPhys (s : State) (job e : Nat) : Option Nat := physOf s job (ptrAt (s.job job).evtab (4 * e))

/-- The count of an event. -/
def State.eventCount (s : State) (job e : Nat) : Nat := match eventPhys s job e with | some a => s.readN a 4 | none => 0

/-- Take a wait-list entry out. -/
def State.dropWait (s : State) (id : Nat) : State :=
  { s with reg := { s.reg with waits := s.reg.waits.filter (fun w => w.id != id) } }

def State.setRecord (s : State) (queue recno : Nat) (f : Record → Record) : State :=
  { s with reg := { s.reg with records := s.reg.records.map (fun r => if r.queue == queue && r.recno == recno then f r else r) } }

/-- A record's wait is met: it stays met (R168). -/
def Record.meet (r : Record) (i : Nat) : Record := { r with met := r.met.set i true }

/-- The bytes of a record. -/
def Record.bytes (r : Record) : List Byte := bytesOfWords r.words

/-- The partition that a record names (R160). -/
def Record.part (r : Record) : Nat := fieldAt r.bytes 22 1

/-- Whether a record's time runs: its waits are met and its partition is resident (R166). -/
def State.ages (s : State) (r : Record) : Bool := r.met.all id && ((s.job r.job).part r.part).state == .resident

/-- Start and stop the records' times after a wait was met or a partition changed (R166). -/
def State.ageRecords (s : State) : State :=
  { s with reg := { s.reg with records := s.reg.records.map (fun r =>
      match r.since with
      | none => if s.ages r then { r with since := some s.now } else r
      | some t => if s.ages r then r else { r with since := none, waited := r.waited + (s.now - t) }) } }

/-! ### Completion scopes (R176) -/

/-- Whether a completion at a scope over bays covers a bay. -/
def covers (c : Scope) (bays : List Nat) (b : Nat) : Bool :=
  bays.all (fun x => match c with
    | .str | .cor | .bay => x == b
    | .die => dieOfBay x == dieOfBay b
    | .pkg | .sys => true)

/-- The Registrar's release over bays, at a scope wider than a bay: their deposits are merged. -/
def State.releaseBays (s : State) (bays : List Nat) : State :=
  (s.cores.filter (fun c => bays.contains (bayOfCore c.num))).foldl (fun x c =>
    c.upd.foldl (fun y u => (y.clearTiles u.dep.unit u.dep.bytes true).mergeUnit c.num u.dep) x) s

/-- The bays in which troupes of a launch have been, or lie. -/
def State.baysOf (s : State) (l : Launch) : List Nat :=
  l.ran ++ (s.troupes.filter (fun u => u.launch == l.ident)).map (·.bay)

/-- Before bays go on because of a job's event, the completions that have added to it and do not cover them are widened. -/
def State.widen (s : State) (job event : Nat) (bays : List Nat) : State :=
  (s.launches.filter (fun p => p.job == job && p.complete && p.signal == some event)).foldl (fun t p =>
    if bays.all (covers p.scope p.ran) then t else t.releaseBays p.ran) s

/-- A waiter's wait is met: a launch's slot is marked; a strand goes on and acquires (R78). -/
def State.releaseWait (s : State) (w : WaitEntry) : State :=
  let s1 := s.dropWait w.id
  match w.slot with
  | some (q, n, i) => (s1.setRecord q n (fun r => r.meet i)).ageRecords
  | none => match s1.strand? w.sid with
    | some t =>
      if t.wait = some (.event w.id) then
        ((s1.widen w.job w.event [bayOfCore t.core]).setStrand t.sid Strand.finishWait).acquire t.core
      else s1
    | none => s1

/-- The waits on an event that its last changes have met and that are still to be released, in the order in which they began. -/
def State.dueWaits (s : State) (job e : Nat) : List WaitEntry :=
  s.reg.waits.filter (fun w => w.changed && w.job == job && w.event == e && (w.hardware || decide (w.target.toNat ≤ s.eventCount job e)))

/-- The due waits that lie in hardware are released as far as no due wait of the overflow area began before them (R169). -/
def State.releaseDue (s : State) (job e : Nat) : State :=
  ((s.dueWaits job e).takeWhile (·.hardware)).foldl (fun t w => t.releaseWait w) s

/-- After a change of an event every wait on it is to be tested: those in hardware now, those of the overflow area one by one (R169). -/
def State.testWaits (s : State) (job e : Nat) : State :=
  let c := s.eventCount job e
  let test (w : WaitEntry) : WaitEntry :=
    if w.job = job ∧ w.event = e then { w with changed := w.changed || !w.hardware || decide (w.target.toNat ≤ c) } else w
  ({ s with reg := { s.reg with waits := s.reg.waits.map test } } : State).releaseDue job e

/-- The Registrar adds to an event at its home. -/
def State.addEvent (s : State) (job e : Nat) (amount : Quad) : State :=
  match eventPhys s job e with
  | some a => (s.agentWrite a (natBytes 4 (s.readN a 4 + amount.toNat))).testWaits job e
  | none => s

/-- The lowest number that a list does not hold. -/
def lowestFree (l : List Nat) : Nat := ((List.range (l.length + 1)).find? (fun i => !l.contains i)).getD 0

/-- The 16 bytes of an overflow entry (R169). How a queue and a record number share the 8 bytes of `ref` is the model's choice: the queue in the
low byte, the record number above it (DESIGN CHOICE, L68). -/
def waitBytes (s : State) (w : WaitEntry) : List Byte :=
  let t := (s.strand? w.sid).getD Strand.blank
  let who : Nat × Nat × Nat := match w.slot with
    | some (q, n, i) => (1, i, q + n * 2 ^ 8)
    | none => (2, t.hw, t.core)
  natBytes 2 w.event ++ natBytes 1 who.1 ++ natBytes 1 who.2.1 ++ natBytes 4 w.target.toNat ++ natBytes 8 who.2.2

/-- Enter a wait-list entry: in hardware while one of the 4,096 entries is free, else in the job's overflow area in depot memory, in
its lowest free place of 16 bytes; no room there stops the job (R169, R400). -/
def State.enterWait (s : State) (w : WaitEntry) : State :=
  let j := s.job w.job
  let used := (s.reg.waits.filter (fun x => x.job == w.job && !x.hardware)).map (·.place)
  let keep (t : State) (v : WaitEntry) : State := { t with reg := { t.reg with waits := t.reg.waits ++ [v] } }
  if (s.reg.waits.filter (·.hardware)).length < 4096 then keep s { w with hardware := true }
  else if j.waitOverflow / 16 ≤ used.length then s.exhausted w.job 2 0
  else keep (s.agentWrite (depAddr (j.waitArea + 16 * lowestFree used)) (waitBytes s w)) { w with hardware := false, place := lowestFree used }

/-- Whether a request of EVSIG, issued on a core, has been sent: every earlier access of its strand is performed, also of one that has
ended and whose record is gone (R78, R297). -/
def State.signalSent (s : State) (id sid core : Nat) (launch : Option Word) : Bool :=
  launch.isSome || s.releaseReady sid core .pkg id

/-- EVENT_ADD: a request of EVSIG, once sent, or a launch's completion reaches the event. -/
def execEventAdd (s : State) : Out State :=
  match s.reg.requests.find? (fun r => r.1 == s.arg.id) with
  | some (_, .event job e amount sid core launch) =>
    if !s.signalSent s.arg.id sid core launch then .next s
    else .next ({ s with reg := { s.reg with requests := s.reg.requests.filter (fun r => r.1 != s.arg.id) } }.addEvent job e amount)
  | _ => .next s

/-- OVERFLOW_WAIT_TEST: an overflow entry is tested after a change of its event. One that is met is released in its turn among the waits
on that event, and those that had to let it go first after it. -/
def execOverflowWaitTest (s : State) : Out State :=
  match (s.reg.waits.filter (fun w => w.job == s.arg.id && !w.hardware))[s.arg.sel]? with
  | none => .next s
  | some w =>
    if !w.changed then .next s
    else if w.target.toNat ≤ s.eventCount w.job w.event then
      match s.dueWaits w.job w.event with
      | v :: _ => if v.id = w.id then .next ((s.releaseWait w).releaseDue w.job w.event) else .next s
      | [] => .next s
    else
      let tested (x : WaitEntry) : WaitEntry := if x.id = w.id then { x with changed := false } else x
      .next (({ s with reg := { s.reg with waits := s.reg.waits.map tested } } : State).releaseDue w.job w.event)

end Sys2Proof.Machine
end

