-- ==== Sys2Proof/Machine/Registrar.lean ====
section
/-! DEFINITION. The Registrar: launch records and queues, admission, shares and the wake, room in a bay, the termination tree
(spec/09 R160 to R166, R170, R174; spec/02 R24 to R27, R30 to R33, R35, R36, R39; spec/21 R400). -/

namespace Sys2Proof.Machine

/-! ### Records (R160, R161) -/

/-- Whether a shape is one of R24. -/
def shapeOk (c s l : Nat) : Bool :=
  [1, 2, 4, 8].contains c && [1, 2, 4].contains s && l % 16 == 0 && decide (16 ≤ l) && decide (l ≤ 384)

/-- Whether a record's fields and its partition are valid (R160). -/
def validRecord (s : State) (job : Nat) (b : List Byte) : Bool :=
  shapeOk (fieldAt b 4 1) (fieldAt b 5 1) (fieldAt b 6 2) && decide (fieldAt b 16 4 ≤ 16777215) && decide (fieldAt b 22 1 ≤ 7)
    && decide (fieldAt b 23 1 % 8 ≤ 5) && decide (fieldAt b 31 1 ≤ 16)
    && ((s.job job).part (fieldAt b 22 1)).state != .unused

/-- The completion scope of a record: str and cor are taken as bay. -/
def recordScope (n : Nat) : Scope :=
  match n % 8 with
  | 3 => .die | 4 => .pkg | 5 => .sys
  | _ => .bay

/-- A wait slot of a record: event and target. -/
def waitSlot (b : List Byte) (i : Nat) : Nat × Nat := (fieldAt b (32 + 6 * i) 2, fieldAt b (34 + 6 * i) 4)

/-- A template table entry. -/
def templateAt (b : List Byte) : Template := ⟨fieldAt b 0 4, fieldAt b 4 1, fieldAt b 5 1, fieldAt b 6 2⟩

/-- The template table as the Registrar reads it at admission: nothing when it is invalid (R161). -/
def readTemplates (s : State) (job : Nat) (tmpl : Word) : Nat → State × Option (List Template)
  | 0 => (s, some [])
  | n + 1 =>
    match readTemplates s job tmpl n with
    | (s1, none) => (s1, none)
    | (s1, some ts) =>
      let p := ptrAt tmpl (16 * n)
      match lookup s1 104 job p 16 true false false with
      | .bad _ _ _ => (s1, none)
      | .good a _ =>
        let r := s1.freshBytes a 16
        let t := templateAt r.2
        (r.1, if shapeOk t.c t.s t.lm && !s1.anyPoison a 16 then some (ts ++ [t]) else none)

/-- The template table of a record. -/
def templatesOf (s : State) (job : Nat) (b : List Byte) : State × Option (List Template) :=
  let n := fieldAt b 31 1
  let p := BitVec.ofNat 64 (fieldAt b 56 8)
  if n = 0 then (s, some [])
  else if ptrOff p % 16 = 0 ∧ (ptrSpace p = 2 ∨ ptrSpace p = 3) then readTemplates s job p n
  else (s, none)

/-! ### Queues (R164, R165) -/

def State.queue? (s : State) (q : Nat) : Option QueueDesc := s.reg.queues.find? (fun d => d.queue == q && d.feed != 0)

/-- Records that the Registrar has taken of a queue. -/
def State.headOf (s : State) (q : Nat) : Nat := ((s.reg.heads.find? (fun h => h.1 == q)).map (·.2)).getD 0

/-- The tail word. -/
def State.tailOf (s : State) (d : QueueDesc) : Nat :=
  match physOf s d.job d.tailAddr with
  | some a => s.readN a 8
  | none => 0

/-- Whether no slot is free. -/
def State.queueFull (s : State) (d : QueueDesc) : Bool := decide (2 ^ d.log2size + s.headOf d.queue ≤ s.tailOf d)

/-- The place of a record number in its ring. -/
def slotPtr (d : QueueDesc) (i : Nat) : Word := ptrAt d.base (64 * (i % 2 ^ d.log2size))

/-- The hub writes a record at the tail of a device-fed queue, then the tail word. -/
def State.appendRecord (s : State) (d : QueueDesc) (ws : List Word) : State :=
  let n := s.tailOf d
  devWrite (devWrite s d.job (slotPtr d n) (bytesOfWords ws)) d.job d.tailAddr (natBytes 8 (n + 1))

/-- A record goes to a device-fed queue, or behind others to the job's launch overflow area in depot memory, there into the lowest free
place of 64 bytes (R172, R314, R400). The queues of a stopped job stay as they are (R359). -/
def State.enqueue (s : State) (d : QueueDesc) (ws : List Word) : State :=
  let j := s.job d.job
  let place := lowestFree (j.overflow.map (·.2.1))
  if j.stopped then s
  else if !s.queueFull d && !j.overflow.any (fun e => e.1 == d.queue) then s.appendRecord d ws
  else if j.launchOverflow / 64 ≤ j.overflow.length then s.exhausted d.job 3 d.queue
  else (s.agentWrite (depAddr (j.launchArea + 64 * place)) (bytesOfWords ws)).setJob d.job (fun j =>
    { j with overflow := j.overflow ++ [(d.queue, place, ws)] })

/-- LAUNCH_OVERFLOW_APPEND: the oldest record kept for a queue that has a free slot is appended. -/
def execLaunchOverflowAppend (s : State) : Out State :=
  let j := s.job s.arg.id
  if j.stopped then .next s
  else match j.overflow.findIdx? (fun e => match s.queue? e.1 with
      | some d => !s.queueFull d
      | none => false) with
  | none => .next s
  | some i => match j.overflow[i]?, j.overflow[i]?.bind (fun e => s.queue? e.1) with
    | some e, some d => .next ((s.setJob j.num (fun j => { j with overflow := j.overflow.eraseIdx i })).appendRecord d e.2.2)
    | _, _ => .next s

/-- A wait slot of a record that has just been taken is tested, or enters the wait list (R168, R169). -/
def State.listWait (s : State) (r : Record) (i : Nat) : State :=
  let w := waitSlot r.bytes i
  if w.2 = 0 ∨ w.2 ≤ s.eventCount r.job w.1 then s.setRecord r.queue r.recno (fun x => x.meet i)
  else { s with nextId := s.nextId + 1 }.enterWait
    ⟨s.nextId, r.job, w.1, BitVec.ofNat 32 w.2, some (r.queue, r.recno, i), 0, true, false, 0⟩

/-- A system record as the conservator writes it, with its reserved bits and bytes 0 (R5, R160, R170). -/
def systemRecord (bs : List Byte) : List Byte :=
  putField (putField (putField (putField bs 20 1 (fieldAt bs 20 1 % 8)) 21 1 (fieldAt bs 21 1 % 4)) 23 1 (fieldAt bs 23 1 % 8)) 40 16 0

/-- The conservator alone writes a system queue: with RECORD_TAKEN of one comes, when the step says so, a record that it has appended
(R165; L49). -/
def State.feedSystem (s : State) (d : QueueDesc) : State :=
  if d.feed = 3 ∧ !(s.job d.job).stopped ∧ s.arg.yes ∧ s.arg.bytes.length = 64 ∧ !s.queueFull d then s.appendRecord d (wordsOfBytes (systemRecord s.arg.bytes))
  else s

/-- RECORD_TAKEN: queue. The head advances; an invalid record is dropped and reported with kind 4 (R400). A system record, which has no wait
slots, ages from now on (L71). -/
def execRecordTaken (s0 : State) : Out State :=
  match s0.queue? s0.arg.id with
  | none => .next s0
  | some d =>
    let s := s0.feedSystem d
    let n := s.headOf d.queue
    if s.tailOf d ≤ n || (s.job d.job).stopped then .next s
    else
      let r := devRead s d.job (slotPtr d n) 64
      let s1 := (devWrite r.1 d.job d.headAddr (natBytes 8 (n + 1)))
      let s2 := { s1 with reg := { s1.reg with heads := (d.queue, n + 1) :: s1.reg.heads.filter (fun h => h.1 != d.queue) } }
      if !validRecord s2 d.job r.2 then .next (s2.fabric 4 0 d.job d.queue 0 (BitVec.ofNat 64 n))
      else
        let rec' : Record := { queue := d.queue, recno := n, job := d.job, words := wordsOfBytes r.2,
                               met := List.replicate 4 (d.feed == 3), prio := fieldAt r.2 20 1 % 8, waited := 0, since := none }
        let s3 := { s2 with reg := { s2.reg with records := s2.reg.records ++ [rec'] } }
        .next (if d.feed = 3 then s3.ageRecords else ((List.range 4).foldl (fun t i => t.listWait rec' i) s3).ageRecords)

/-! ### System records (R170) -/

/-- A byte at an address as a fresh read finds it. -/
def State.freshByte (s : State) (a : Nat) : Byte := (s.freshWord (a / 8 * 8)).extractLsb' (8 * (a % 8)) 8

/-- 32 bytes from a pointer of a job on, which need not be aligned: each where the job's tables have it, 0 where the pointer leads to no
byte of GAL or DEP (L72). -/
def State.freshMask (s : State) (job : Nat) (p : Word) : BitVec 256 :=
  BitVec.ofNat 256 (leNat ((List.range 32).map (fun i =>
    match if ptrSpace p = 1 then none else physOf s job (ptrAt p i) with
    | some a => s.freshByte a
    | none => 0)))

/-- The mask block of a system record: wait mask and set mask, as they stand whenever they are looked at (R170; L72). -/
def State.maskBlock (s : State) (r : Record) : BitVec 256 × BitVec 256 :=
  let p := BitVec.ofNat 64 (fieldAt r.bytes 32 8)
  (s.freshMask r.job p, s.freshMask r.job (ptrAt p 32))

/-- Whether a record came from a system queue. -/
def State.isSystem (s : State) (r : Record) : Bool := match s.queue? r.queue with | some d => d.feed == 3 | none => false

/-! ### Priority and eligibility (R166) -/

/-- The effective priority. -/
def State.level (s : State) (r : Record) : Nat :=
  min 7 (r.prio + (r.waited + (match r.since with | some t => s.now - t | none => 0)) / 1000000)

/-- PRIORITY_AGING: queue, recno. The time a record has gathered is taken up, so that its level has risen. -/
def execPriorityAging (s : State) : Out State :=
  .next (s.setRecord s.arg.id s.arg.sel (fun r => match r.since with
    | some t => { r with waited := r.waited + (s.now - t), since := some s.now }
    | none => r))

/-- Whether no earlier record of the same queue and priority is listed. -/
def State.isFirst (s : State) (r : Record) : Bool :=
  s.reg.records.all (fun x => x.queue != r.queue || x.prio != r.prio || decide (r.recno ≤ x.recno))

/-- The bays of a set, ascending. -/
def bayList (m : BitVec 80) : List Nat := (List.range 80).filter (fun b => m.getLsbD b)

/-- The bays of a partition that are not fenced: no work is placed on another (R10). -/
def State.liveBays (s : State) (job part : Nat) : List Nat :=
  (bayList ((s.job job).part part).bays).filter (fun b => !(s.bay b).fenced)

/-- The eligible bays of a record: its partition's, narrowed by the hint (R162). -/
def State.eligibleBays (s : State) (job part hint : Nat) : List Nat :=
  let all := s.liveBays job part
  let narrowed :=
    if 1 ≤ hint ∧ hint ≤ 15 then all.filter (fun b => hint / 2 ^ dieOfBay b % 2 == 1)
    else if 0x80 ≤ hint ∧ hint ≤ 0xCF then all.filter (fun b => b == hint - 0x80)
    else all
  if narrowed.isEmpty then all else narrowed

/-- A partition is held back for a cohort by another record (R174). -/
def State.heldBack (s : State) (r : Record) : Bool :=
  s.reg.reserved.any (fun x => x.1 == r.job && x.2.1 == r.part && !(x.2.2.1 == r.queue && x.2.2.2 == r.recno))

/-- Whether a record is eligible; one whose partition has no unfenced bay left is not, but for a record of no troupes (L86). -/
def State.eligible (s : State) (r : Record) : Bool :=
  s.isFirst r && r.met.all id && ((s.job r.job).part r.part).state == .resident && !s.heldBack r && !(s.job r.job).stopped
    && (!(s.liveBays r.job r.part).isEmpty || fieldAt r.bytes 16 4 == 0)
    && (!s.isSystem r || ((s.maskBlock r).1 &&& ~~~s.reg.vector) == 0)

/-- Whether a record comes before another: system queues first, then the level, then the round-robin of its level. Of two first records of
one queue at one level, whose prio then differ, the lower record number comes first (L70). -/
def State.admitsBefore (s : State) (a b : Record) : Bool :=
  let turn (r : Record) : Nat := (r.queue + 255 - (s.reg.lastServed.toList).getD (s.level r) 255) % 256
  if s.isSystem a != s.isSystem b then s.isSystem a
  else if s.level a ≠ s.level b then decide (s.level b < s.level a)
  else if turn a ≠ turn b then decide (turn a < turn b)
  else decide (a.recno < b.recno)

/-- The record that comes first. -/
def State.bestRecord (s : State) (l : List Record) : Option Record :=
  l.foldl (fun acc r => match acc with
    | none => some r
    | some b => if s.admitsBefore r b then some r else some b) none

/-- Work comes to a bay: a gated bay wakes (R354). -/
def State.rouse (s : State) (bay : Nat) : State :=
  if (s.bay bay).power = .gated then s.setBay bay (fun b => { b with power := .waking, idleSince := s.now })
  else s.setBay bay (fun b => { b with idleSince := s.now })

/-- The sensor class of a bay, sampled now (R31). -/
def State.sensorOf (s : State) (bay : Nat) : Nat := Config.sensorClass bay s.ticks % 3

/-- Whether a bay can place a troupe at once: it serves the partition, the troupe fits, and none of its launch with a lower index waits
there (R32, R36). A bay that is gated or waking cannot (DESIGN CHOICE, L53). -/
def State.placesNow (s : State) (u : Troupe) (part : Nat) (ok : Nat → Nat → Bool) (b : Nat) : Bool :=
  s.baysOpen u.job part b && (s.waitingIn b).all (fun v => v.launch != u.launch || decide (u.index ≤ v.index))
    && (s.fit b u.c u.s u.lm none ok).isSome

/-- The bay that the Registrar chooses for a troupe in a partition (R36): one that can place it at once, coolest first; else the
shortest wait. -/
def State.chooseBay (s : State) (u : Troupe) (part : Nat) (ok : Nat → Nat → Bool) : Nat :=
  let bays := s.liveBays u.job part
  let now := bays.filter (s.placesNow u part ok)
  let least (f : Nat → Nat) (bs : List Nat) : Nat := (bs.foldl (fun acc b => match acc with
    | none => some b
    | some a => if f b < f a then some b else some a) (none : Option Nat)).getD 0
  if now.isEmpty then least (fun b => (s.waitingIn b).length) bays else least s.sensorOf now

/-! ### Shares (R31) -/

/-- Bays in the order of step 3: cool, normal, hot, each ascending. -/
def State.byClass (s : State) (bays : List Nat) : List Nat :=
  List.flatten ((List.range 3).map (fun k => bays.filter (fun b => s.sensorOf b == k)))

/-- The share of each eligible bay. -/
def State.sharesOf (s : State) (bays : List Nat) (n : Nat) : List (Nat × Nat) :=
  let q := n / bays.length
  let r := n % bays.length
  let more := (s.byClass bays).take r
  let hot := bays.filter (fun b => s.sensorOf b == 2)
  let cool := bays.filter (fun b => s.sensorOf b == 0)
  let pairs := if r = 0 ∧ 1 ≤ q then hot.zip cool else []
  bays.map (fun b =>
    (b, q + (more.contains b).toNat + (pairs.any (fun p => p.2 == b)).toNat - (pairs.any (fun p => p.1 == b)).toNat))

/-- Each bay with its first index and its share (R32). -/
def withFirst : Nat → List (Nat × Nat) → List (Nat × Nat × Nat)
  | _, [] => []
  | i, (b, n) :: r => (b, i, n) :: withFirst (i + n) r

/-! ### The spanning tree (R33, R34) -/

/-- Where a message for a tree position goes: the bay itself, or the nearest unfenced descendants of a fenced one. -/
def State.treeAt (s : State) : Nat → Nat → List Nat
  | 0, _ => []
  | n + 1, b => if 80 ≤ b then [] else if (s.bay b).fenced then s.treeAt n (2 * b + 1) ++ s.treeAt n (2 * b + 2) else [b]

/-- Where a bay forwards to. -/
def State.treeBelow (s : State) (b : Nat) : List Nat := s.treeAt 7 (2 * b + 1) ++ s.treeAt 7 (2 * b + 2)

/-- Whether a tree position is another one or lies above it. -/
def isAbove : Nat → Nat → Nat → Bool
  | 0, x, b => x == b
  | n + 1, x, b => x == b || (b != 0 && isAbove n x ((b - 1) / 2))

/-- Whether a message that still goes to some bays has reached a bay. -/
def reachedBay (pending : List Nat) (b : Nat) : Bool := !pending.any (fun x => isAbove 7 x b)

/-! ### Troupes (R24, R36) -/

/-- A troupe's record. -/
def newTroupe (s : State) (l : Launch) (index parent bay : Nat) (named : Option Nat) (t : Template) (start : Start) : Troupe :=
  { Troupe.blank with
    uid := s.nextId, job := l.job, launch := l.ident, index := index, part := l.part, parent := parent, c := t.c, s := t.s,
    lm := t.lm, entry := t.entry, start := start, seed := l.seed, place := .waiting, bay := bay, named := named,
    strandsLeft := t.c * t.s }

def State.addTroupe (s : State) (u : Troupe) : State := { s with troupes := s.troupes ++ [u], nextId := s.nextId + 1 }

/-- The record's own shape. -/
def Launch.shape (l : Launch) : Template := ⟨l.entry, l.c, l.s, l.lm⟩

/-- The troupes of a bay's share, in index order. -/
def State.shareTroupes (s : State) (l : Launch) (bay first n : Nat) : State :=
  (List.range n).foldl (fun t i => t.addTroupe (newTroupe t l (first + i) 0 bay none l.shape (.fresh l.arg []))) s

/-- A cohort's troupes take their resources at admission (R35): nothing when they do not all fit. -/
def State.reserveShare (s : State) (l : Launch) (bay first : Nat) : Nat → Option State
  | 0 => some s
  | n + 1 =>
    match s.reserveShare l bay first n with
    | none => none
    | some t => match t.fit bay l.c l.s l.lm none (fun _ _ => true) with
      | none => none
      | some (g, o) =>
        some (t.addTroupe { newTroupe t l (first + n) 0 bay none l.shape (.fresh l.arg []) with place := .reserved, core0 := g, lmOff := o })

def State.reserveAll (s : State) (l : Launch) : List (Nat × Nat × Nat) → Option State
  | [] => some s
  | (b, i, n) :: r => match s.reserveShare l b i n with
    | none => none
    | some t => t.reserveAll l r

/-! ### The end of a launch (R39, R170) -/

/-- A launch is complete: whatever its scope, its deposits are merged (R82), then the signal; a system record ORs its set mask. -/
def State.completeLaunch (s : State) (ident : Word) : State :=
  match s.launch? ident with
  | none => s
  | some l =>
    if l.complete || (s.job l.job).stopped then s
    else
      let bays := s.baysOf l
      let s1 := s.releaseBays bays
      let s2 := s1.setLaunch ident (fun x => { x with complete := true, ran := bays })
      let s3 := if l.system then { s2 with reg := { s2.reg with vector := s2.reg.vector ||| l.setMask } } else s2
      match l.signal with
      | some e => { s3 with reg := { s3.reg with requests := s3.reg.requests ++ [(s3.nextId, RegReq.event l.job e 1 0 0 (some ident))] },
                            nextId := s3.nextId + 1 }
      | none => s3

/-- A child is done: its parent, or the launch root, counts one less. -/
def State.childDone (s : State) (launch : Word) (parent : Nat) : State :=
  if parent = 0 then
    let s1 := s.setLaunch launch (fun l => { l with rootCount := l.rootCount - 1 })
    match s1.launch? launch with
    | some l => if l.rootCount = 0 then s1.completeLaunch launch else s1
    | none => s1
  else s.setTroupe parent (fun u => { u with children := u.children - 1 })

/-- Whether everything that the strands of a troupe handed on has been performed, their plain stores to REM at their destinations
(R64, R78). -/
def State.troupeQuiet (s : State) (u : Nat) : Bool :=
  let mine := (s.strands.filter (fun t => t.troupe == u)).map (·.sid)
  s.reqs.all (fun q => !mine.contains q.sid || q.done) && s.cores.all (fun c => (c.journal ++ c.replay).all (fun e => !mine.contains e.sid))
    && mine.all (fun sid => s.remLanded sid s.nextId)

/-- TROUPE_DONE: uid. A troupe whose strands ended and whose children are done reports, and its record is freed. -/
def execTroupeDone (s : State) : Out State :=
  let u := s.troupe s.arg.id
  if u.place = .ended ∧ u.children = 0 ∧ s.troupeQuiet u.uid ∧ !(s.job u.job).stopped then
    let s1 := (s.setLaunch u.launch (fun l => { l with ran := if l.ran.contains u.bay then l.ran else l.ran ++ [u.bay] })).childDone u.launch u.parent
    .next { s1 with
      troupes := s1.troupes.filter (fun t => t.uid != u.uid),
      cur := if s1.cur.troupe = u.uid ∧ s1.cur.mode = .ended then Strand.blank else s1.cur,
      rest := s1.rest.filter (fun t => !(t.troupe == u.uid && t.mode == .ended)) }
  else .next s

/-! ### Admission (R163, R166, R174, R176) -/

/-- A launch from a record. A system record with flags bit 1 signals its event as well (L73). -/
def launchOf (s : State) (r : Record) (ts : List Template) : Launch :=
  let b := r.bytes
  let j := s.job r.job
  let n := fieldAt b 16 4
  let bays := s.eligibleBays r.job r.part (fieldAt b 30 1)
  let sys := s.isSystem r
  { ident := BitVec.ofNat 64 (r.job * 2 ^ 48 + j.admissions + 1), job := r.job, part := r.part, entry := fieldAt b 0 4,
    c := fieldAt b 4 1, s := fieldAt b 5 1, lm := fieldAt b 6 2, arg := BitVec.ofNat 64 (fieldAt b 8 8),
    seed := BitVec.ofNat 32 (fieldAt b 24 4), scope := recordScope (fieldAt b 23 1),
    signal := if fieldAt b 21 1 / 2 % 2 = 1 then some (fieldAt b 28 2) else none, cohort := fieldAt b 21 1 % 2 == 1,
    system := sys, setMask := if sys then (s.maskBlock r).2 else 0, templates := ts, rootCount := n, nextIndex := n,
    shares := withFirst 0 (s.sharesOf bays n), wakePending := if n = 0 then [] else s.treeAt 7 0, ran := [],
    cancelBit := false, cancelPending := [], cancelReached := [], complete := false }

/-- The record leaves its list and its level's turn is taken; the job counts the admission. -/
def State.noteAdmission (s : State) (r : Record) (l : Launch) (cleared : BitVec 256) : State :=
  { (s.setJob r.job (fun j => { j with admissions := j.admissions + 1 })) with
    launches := s.launches ++ [l],
    reg := { s.reg with
      records := s.reg.records.filter (fun x => !(x.queue == r.queue && x.recno == r.recno)),
      reserved := s.reg.reserved.filter (fun x => !(x.2.2.1 == r.queue && x.2.2.2 == r.recno)),
      lastServed := Vector.ofFn (fun i => if i.val = s.level r then r.queue else s.reg.lastServed[i]),
      lastAdmit := some s.now, vector := s.reg.vector &&& ~~~cleared } }

/-- Admit a record whose launch is made up and, for a cohort, whose resources are taken. -/
def State.admitRecord (s : State) (r : Record) (l : Launch) : State :=
  let b := r.bytes
  let bays := (l.shares.filter (fun x => x.2.2 != 0)).map (·.1)
  let s1 := if l.system then s
    else (List.range 4).foldl (fun t i =>
      let w := waitSlot b i
      if w.2 = 0 then t else t.widen r.job w.1 bays) s
  let s2 := s1.noteAdmission r l (if l.system then (s1.maskBlock r).1 else 0)
  if l.rootCount = 0 then s2.completeLaunch l.ident else s2

/-- A record leaves its list without a launch: its template table is invalid (R161, R400). -/
def State.dropRecord (s : State) (r : Record) : State :=
  ({ s with reg := { s.reg with
    records := s.reg.records.filter (fun x => !(x.queue == r.queue && x.recno == r.recno)),
    reserved := s.reg.reserved.filter (fun x => !(x.2.2.1 == r.queue && x.2.2.2 == r.recno)) } }).fabric 4 0 r.job r.queue 0
    (BitVec.ofNat 64 r.recno)

/-- Whether a record's troupes can take their resources now: a cohort's must all fit (R35). -/
def State.fitsNow (s : State) (r : Record) : Bool :=
  let l := launchOf s r []
  !l.cohort || (s.reserveAll l l.shares).isSome

/-- Whether two records are of one partition. -/
def Record.sharesPart (a b : Record) : Bool := a.job == b.job && a.part == b.part

/-- Of some records the cohorts that come first in their partition and do not fit: each holds its partition back (R174). -/
def State.stuckCohorts (s : State) (rs : List Record) : List Record :=
  rs.filter (fun r => !s.fitsNow r && s.bestRecord (rs.filter r.sharesPart) == some r)

/-- Hold the partitions of some records back for them. -/
def State.holdFor (s : State) (rs : List Record) : State :=
  let held := rs.map (fun r => (r.job, r.part, r.queue, r.recno))
  { s with reg := { s.reg with reserved := s.reg.reserved ++ held.filter (fun x => !s.reg.reserved.contains x) } }

/-- Admit a record that fits: its template table is read now, once (R161). -/
def State.admitNext (s : State) (r : Record) : State :=
  match templatesOf s r.job r.bytes with
  | (s1, none) => s1.dropRecord r
  | (s1, some ts) =>
    let l := launchOf s1 r ts
    if l.cohort then ((s1.reserveAll l l.shares).getD s1).admitRecord r l else s1.admitRecord r l

/-- The records that may be admitted now: at most one launch every 10 ns (R163). -/
def State.admissible (s : State) : List Record :=
  if (match s.reg.lastAdmit with | some t => decide (t + 10 ≤ s.now) | none => true) then s.reg.records.filter s.eligible else []

/-- LAUNCH_ADMISSION: cohorts that do not fit hold their partitions back; of the other records the best is admitted (R166, R174). -/
def execLaunchAdmission (s : State) : Out State :=
  let rs := s.admissible
  let stuck := s.stuckCohorts rs
  let s1 := s.holdFor stuck
  match s1.bestRecord (rs.filter (fun r => !stuck.any r.sharesPart)) with
  | some r => .next (s1.admitNext r)
  | none => .next s1

/-! ### The wake (R33, R34) -/

/-- WAKE_MESSAGE: bay, launch. The bay forwards the message and takes its share; a cohort's troupes have theirs already. The share of a
launch whose cancel has come here first is done without running (R175). -/
def execWakeMessage (s : State) : Out State :=
  let b := s.arg.id
  match s.launch? s.arg.word with
  | none => .next s
  | some l =>
    if !l.wakePending.contains b then .next s
    else
      let s1 := s.setLaunch l.ident (fun x => { x with wakePending := x.wakePending.filter (· != b) ++ s.treeBelow b })
      match l.shares.find? (fun x => x.1 == b && x.2.2 != 0) with
      | none => .next s1
      | some (_, i, n) =>
        if l.cohort then .next (s1.rouse b)
        else if l.cancelReached.contains b then .next ((List.range n).foldl (fun t _ => t.childDone l.ident 0) s1)
        else .next ((s1.rouse b).shareTroupes l b i n)

end Sys2Proof.Machine
end

