-- ==== Sys2Proof/Machine/Capture.lean ====
section
/-! DEFINITION. Continuation objects as the device writes them: their size and layout (spec/08 R142 to R147), the registry (R149),
SUSPEND (spec/15 R317), the stop of a strand (spec/02 R43, R44; spec/05 R106), and the capture of a troupe (R150 to R152;
spec/21 R397, R398). -/

namespace Sys2Proof.Machine

/-! ### Sizes (R142, R320) -/

/-- The largest size of an object of a shape. -/
def csizeOf (c s l : Nat) : Nat := 256 + c * s * 2304 + c * (33280 + 1040 * l) + c * s * 128 + c * 2048

/-- What CSIZE answers for a word. -/
def csizeWord (w : Word) : Nat :=
  let n := w.toNat
  let c := n % 256
  let s := n / 256 % 256
  let l := n / 65536 % 512
  if n / 2 ^ 25 = 0 ∧ shapeOk c s l then csizeOf c s l else 0

def execCsize (o : RR) (s : State) : Out State :=
  withRegs s [rx 1 o.a o.ta] [wx o.d] (fun s =>
    orElse (noTx s xLocal) (fun _ => (s.setX o.d (BitVec.ofNat 64 (csizeWord (s.x o.a)))).advance))

def Troupe.csize (u : Troupe) : Nat := csizeOf u.c u.s u.lm

/-- A number rounded up to a multiple. -/
def roundUp (n m : Nat) : Nat := (n + m - 1) / m * m

/-- Bytes followed by zeros up to a length. -/
def padTo (n : Nat) (bs : List Byte) : List Byte := bs ++ zeros (n - bs.length)

/-- Fields (offset, size, value) put into bytes. -/
def putFields (bs : List Byte) (fs : List (Nat × Nat × Nat)) : List Byte := fs.foldl (fun b f => putField b f.1 f.2.1 f.2.2) bs

/-! ### Reaching an object -/

/-- The physical address of a word of an object. The Registrar reaches a pre-emption area without rights; every other action needs
the rights read or write of the job's mapping, in gallery or depot (R142, R398). -/
def objWord (s : State) (job : Nat) (area r w : Bool) (p : Word) : Option Nat :=
  if ptrSpace p ≠ 2 ∧ ptrSpace p ≠ 3 then none
  else if area then physOf s job p
  else match lookup s 104 job p 8 r w false with
    | .good a _ => some a
    | .bad _ _ _ => none

/-- Whether n bytes at a pointer form such a run. -/
def objRun (s : State) (job : Nat) (area r w : Bool) (p : Word) (n : Nat) : Bool :=
  (ptrSpace p == 2 || ptrSpace p == 3) && (List.range (n / 8)).all (fun i => (objWord s job area r w (ptrAt p (8 * i))).isSome)

/-- Write words one after another; the first that cannot be written ends it. -/
def objWrite (s : State) (job : Nat) (area : Bool) (p : Word) : List Word → State × Bool
  | [] => (s, true)
  | w :: ws =>
    match objWord s job area false true p with
    | none => (s, false)
    | some a => objWrite (s.agentWrite a (natBytes 8 w.toNat)) job area (ptrAt p 8) ws

/-- Read n words; `none` when one cannot be read or is poisoned. -/
def objRead (s : State) (job : Nat) (area : Bool) (p : Word) : Nat → State × Option (List Byte)
  | 0 => (s, some [])
  | n + 1 =>
    match objWord s job area true false p with
    | none => (s, none)
    | some a =>
      if s.isPoison a then (s, none)
      else
        let r := s.freshBytes a 8
        match objRead r.1 job area (ptrAt p 8) n with
        | (t, some bs) => (t, some (r.2 ++ bs))
        | (t, none) => (t, none)

/-! ### The registry (R149) -/

/-- Slots of a job's registry. -/
def Job.slots (j : Job) : Nat := 2 ^ j.log2n

/-- The pointer of a serial's slot. -/
def Job.slotOf (j : Job) (serial : Nat) : Word := ptrAt j.creg (8 * (serial % j.slots))

/-- The entry of a serial's slot. -/
def State.registryAt (s : State) (job serial : Nat) : Nat :=
  match physOf s job ((s.job job).slotOf serial) with
  | some a => s.readN a 8
  | none => 0

def State.setRegistry (s : State) (job serial v : Nat) : State := devWrite s job ((s.job job).slotOf serial) (natBytes 8 v)

/-- The serial that an allocation takes: the first at or after the counter whose slot is free. -/
def State.nextSerial (s : State) (job : Nat) : Option Nat :=
  ((List.range (s.job job).slots).map ((s.job job).serial + ·)).find? (fun v => s.registryAt job v == 0)

/-- A search that finds none has taken every value it tried (R149). -/
def State.failSerial (s : State) (job : Nat) : State := s.setJob job (fun j => { j with serial := j.serial + j.slots })

/-- Allocate it. -/
def State.takeSerial (s : State) (job v : Nat) : State :=
  (s.setJob job (fun j => { j with serial := v + 1 })).setRegistry job v v

/-! ### Records (R144) -/

/-- The bit of each saved register. -/
def savedRegs (live : Quad) : List Nat := (List.range 32).filter live.getLsbD

/-- Pending traps in the order of delivery (R362). -/
def trapOrder : Nat → List Trap → List Trap
  | 0, _ => []
  | n + 1, ps => match firstTrap ps with
    | none => []
    | some p => p :: trapOrder n (dropTrap p ps)

def trapEntry (p : Trap) : List Byte :=
  List.flatten ([p.cause.code, p.c0.toNat, p.c1.toNat, p.c2.toNat, p.c3.toNat, p.time].map (natBytes 8))

/-- The stop code of a strand. -/
def Strand.stopCode (t : Strand) : Nat := match t.mode with | .stopped c => c | .ended => 4 | _ => 2

/-- The masks of saved registers. -/
def Strand.xlive (t : Strand) : Quad :=
  if t.stopCode = 4 then 0 else (t.live.1 ||| 0x6) &&& 0xFFFFFFFE
def Strand.vlive (t : Strand) : Quad := if t.stopCode = 4 then 0 else t.live.2

def recordSize (nx nv np : Nat) : Nat := roundUp (roundUp (256 + 8 * nx) 32 + 32 * nv + 48 * np) 64

/-- The per-strand record. -/
def recordBytes (j : Job) (t : Strand) : List Byte :=
  let xs := savedRegs t.xlive
  let vs := savedRegs t.vlive
  let ps := if t.stopCode = 4 then [] else trapOrder 16 t.pend
  let size := recordSize xs.length vs.length ps.length
  let fixed := putFields (zeros 256)
    ([(0, 8, (t.pc - j.codeBase).toNat), (8, 1, t.sr.strand), (9, 1, t.stopCode), (12, 4, size), (16, 4, t.xlive.toNat),
      (20, 4, t.vlive.toNat), (24, 4, t.xfull.toNat), (28, 4, t.vfull.toNat)]
      ++ (List.range 8).map (fun i => (32 + 4 * i, 4, (t.getP (BitVec.ofNat 3 i)).toNat))
      ++ (List.range 16).map (fun i => (64 + 4 * i, 4, (t.getK (BitVec.ofNat 4 i)).toNat))
      ++ [(128, 8, t.sr.round.toNat), (136, 8, t.sr.seed.toNat), (144, 8, t.sr.lfsr.toNat), (152, 8, t.sr.xage.toNat),
          (160, 8, t.tx.status.toNat), (168, 8, t.sr.fewait.toNat), (176, 8, t.sr.chan.toNat), (184, 8, t.sr.fstat.toNat),
          (192, 1, ps.length)])
  let head := fixed ++ List.flatten (xs.map (fun i => natBytes 8 (t.getX (BitVec.ofNat 5 i)).toNat))
  let regs := padTo (roundUp head.length 32) head ++ List.flatten (vs.map (fun i => natBytes 32 (t.getV (BitVec.ofNat 5 i)).toNat))
  padTo size (regs ++ List.flatten (ps.map trapEntry))

/-! ### Sections (R145) -/

/-- The data of an LM window; what a poisoned word gives is left open (L36). -/
def windowData (s : State) (a n : Nat) : List Byte :=
  (List.range n).map (fun i => if s.isPoison (a + i) then Config.poisonByte (a + i) s.ticks else Memory.get s.mem (a + i))

/-- The tags of an LM window, one bit a word. -/
def windowTags (s : State) (a n : Nat) : List Byte :=
  (List.range (n / 64)).map (fun y => BitVec.ofNat 8 (joinBits 1 ((List.range 8).map (fun b => (s.tagFull (a + 8 * (8 * y + b))).toNat))))

/-- The strands of a troupe by strand index, the ended ones among them. -/
def State.strandsOf (s : State) (u : Nat) : List Strand :=
  let mine := s.strands.filter (fun t => t.troupe == u && t.mode != .vacant)
  (List.range ((s.troupe u).c * (s.troupe u).s)).filterMap (fun i => mine.find? (fun t => t.sr.strand == i))

/-- The strand index of a troupe's accumulator holder. -/
def zindex (ts : List Strand) (h : Option Nat) : Option Nat :=
  h.bind (fun sid => (ts.find? (fun t => t.sid == sid)).map (·.sr.strand))

/-- The per-core section. -/
def sectionBytes (s : State) (u : Troupe) (ts : List Strand) (i : Nat) : List Byte :=
  let core := u.core0 + i
  let c := s.core core
  let held (z : Nat) : Option Nat := zindex ts (c.zholder.toList.getD z none)
  let rings := (List.range 8).map (fun q => let r := c.rings.toList.getD q Ring.unbound; if r.troupe = u.uid then r else Ring.unbound)
  let z := List.flatten ((List.range 2).map (fun z => if (held z).isSome then natBytes 16384 (c.z.toList.getD z 0).toNat else []))
  let a := lmAddr core u.lmOff
  let n := u.lm * 1024
  putFields (zeros 256)
    [(0, 1, i), (1, 1, (held 0).isSome.toNat + 2 * (held 1).isSome.toNat), (2, 1, (held 0).getD 255), (3, 1, (held 1).getD 255),
     (4, 1, joinBits 1 (rings.map (fun r => (r.count != 0).toNat))), (8, 4, 512 + z.length + u.lm * 1040), (12, 4, u.lmOff)]
    ++ List.flatten (rings.map (fun r => natBytes 32 r.bytes.toNat)) ++ z ++ windowData s a n ++ windowTags s a n

/-! ### Pending words and the journal (R146, R147, R55) -/

/-- Engine commands of a strand that have not credited, by counter. -/
def State.boundOf (s : State) (sid k : Nat) : Nat :=
  (s.cmds.filter (fun c => c.sid == sid && c.k == k && c.bound.isNone && c.state != .held)).length

def pendingBytes (s : State) (ts : List Strand) : List Byte :=
  List.flatten (ts.map (fun t => List.flatten ((List.range 16).map (fun k =>
    natBytes 4 0 ++ natBytes 4 (if t.mode = .ended then 0 else s.boundOf t.sid k)))))

def entryBytes (e : JEntry) : List Byte :=
  putFields (zeros 64)
    [(0, 8, e.dest.toNat), (8, 32, e.data.toNat), (40, 1, e.size), (41, 1, e.slot), (42, 1, e.mod), (43, 1, e.state), (44, 4, e.seq.toNat)]

/-- The entries of some strands that have not been sent, on a core, in the order of issue. -/
def State.unsent (s : State) (core : Nat) (sids : List Nat) : List JEntry :=
  ((s.core core).journal ++ (s.core core).replay).filter (fun e => e.state == 2 && sids.contains e.sid)

def journalBytes (s : State) (u : Troupe) (sids : List Nat) (i : Nat) : List Byte :=
  padTo 2048 (List.flatten ((s.unsent (u.core0 + i) sids).map entryBytes))

/-! ### The whole object (R143) -/

/-- The object of a troupe whose strands have stopped, its seal and completion word zero. -/
def objectBytes (s : State) (u : Troupe) (c : Capture) (serial : Nat) : List Byte :=
  let j := s.job u.job
  let ts := s.strandsOf u.uid
  let sids := ts.map (·.sid)
  let recs := List.flatten (ts.map (recordBytes j))
  let secs := List.flatten ((List.range u.c).map (sectionBytes s u ts))
  let pend := pendingBytes s ts
  let jnl := List.flatten ((List.range u.c).map (journalBytes s u sids))
  let coreOff := 256 + recs.length
  let pendOff := coreOff + secs.length
  let jnlOff := pendOff + pend.length
  let waiting := ts.any (fun t => t.mode != .ended && (List.range 16).any (fun k => s.boundOf t.sid k != 0))
  let head := putFields (zeros 256)
    ([(0, 4, 0x544E4F43), (4, 1, 1), (5, 1, 0), (6, 1, c.kind), (7, 1, 2 + 4 * waiting.toNat), (8, 8, serial), (16, 2, u.job),
      (18, 2, u.job), (20, 1, u.part), (21, 1, if c.kind = 1 then 7 else 0), (22, 1, u.c), (23, 1, u.s), (24, 2, u.lm),
      (26, 1, u.c * u.s),
      (27, 1, if c.kind = 1 then ((ts.find? (fun t => t.sid == c.suspSid)).map (·.sr.strand)).getD 255 else 255),
      (28, 1, if c.kind = 1 then c.suspReg.toNat else 0), (32, 8, jnlOff + jnl.length), (40, 4, u.lm * 1040), (44, 4, u.index),
      (48, 8, u.launch.toNat), (56, 8, u.parent), (64, 8, s.now), (72, 4, u.core0), (80, 8, 256), (88, 8, coreOff),
      (96, 8, pendOff), (104, 8, jnlOff), (112, 8, u.uid), (120, 8, c.ptr.toNat)]
      ++ (List.range 5).map (fun i => (128 + 4 * i, 4, (u.arith.toList.getD i 0).toNat))
      ++ (List.range 5).map (fun i => (148 + 4 * i, 4, (u.alimit.toList.getD i 0).toNat)))
  head ++ recs ++ secs ++ pend ++ jnl

/-! ### A capture that cannot go on (R398) -/

/-- The watchdog's stop: 2 an overrun, 3 an object that could not be written. -/
def State.captureFails (s : State) (u : Troupe) (c : Capture) (why : Nat) : State :=
  match s.strands.find? (fun t => t.troupe == u.uid) with
  | none => s
  | some t =>
    (s.stopFor t 0 true .watchdog (BitVec.ofNat 64 why) c.ptr (BitVec.ofNat 64 c.start) (BitVec.ofNat 64 c.t) t.pc).fabric
      6 why u.job u.core0 0 c.ptr

/-- The completion word of an object. -/
def completionPtr (p : Word) : Word := ptrAt p 248

/-- Write 0 to the completion word. -/
def State.openObject (s : State) (u : Nat) : State :=
  match (s.troupe u).capture with
  | none => s
  | some c =>
    match objWrite s (s.troupe u).job (c.kind == 2) (completionPtr c.ptr) [0] with
    | (t, true) => t.setTroupe u (fun x => { x with capture := some { c with zeroed := true } })
    | (t, false) => t.captureFails (s.troupe u) c 3

/-- A PREEMPT capture starts as the first strand of its troupe stops: its place in the pre-emption area is fixed (R150). -/
def State.startPreempt (s : State) (u : Troupe) : State :=
  let p := (s.job u.job).part u.part
  let at' := roundUp p.preNext 256
  let sw := (s.reg.switches.find? (fun w => w.outJob == u.job && w.outPart == u.part)).map (·.t)
  let c : Capture := { ptr := ptrAt p.preArea at', kind := 2, suspSid := 0, suspReg := 0, serial := 0, start := s.now, allStopped := none,
                       zeroed := false, t := sw.getD 0 }
  let s1 := (s.setTroupe u.uid (fun x => { x with capture := some c })).setJob u.job (fun j =>
    { j with parts := Vector.ofFn (fun i => if i.val = u.part then { j.parts[i] with preNext := at' + u.csize } else j.parts[i]) })
  if p.preSize < at' + u.csize then s1.captureFails u c 3 else s1.openObject u.uid

/-! ### The stop of a strand (R43, R44, R106, R144) -/

/-- All registers. -/
def allLive : Quad × Quad := (BitVec.allOnes 32, BitVec.allOnes 32)

/-- A strand has stopped: its troupe's capture starts if it is the first, and its limit if it is the last. -/
def State.hasStopped (s : State) (u : Nat) : State :=
  (if (s.troupe u).capture.isNone then s.startPreempt (s.troupe u) else s).noteStopped u

/-- Stop a strand: inside a transaction it aborts with the cause `why` and stops at the handler with code 3. -/
def State.stopStrand (s : State) (sid code why : Nat) : State :=
  match s.strand? sid with
  | none => s
  | some t =>
    let inTx := t.tx.depth != 0
    let s1 := if inTx then s.abortTx sid why 0 none else s.leaveWait t
    (s1.setStrand sid (fun u =>
      { u with mode := .stopped (if inTx then 3 else code), stalled := false, yield := false,
               live := if inTx || code != 0 then allLive else u.live })).hasStopped t.troupe

/-- Why a stop aborts the transaction of a strand: the SUSPEND of its troupe, or the switch (R104). -/
def State.stopCause (s : State) (t : Strand) : Nat :=
  match (s.troupe t.troupe).capture with
  | some c => if c.kind = 1 ∧ t.stopDue != 2 then xSuspend else xPreempt
  | none => xPreempt

/-- A CANCEL that is due becomes pending. -/
def State.cancelNow (s : State) (t : Strand) : State :=
  (s.setStrand t.sid (fun u => { u with cancelDue := false, cancelTaken := true })).pendTrap t.sid
    ⟨.cancel, (s.troupe t.troupe).launch, 0, 0, 0, s.now⟩

/-- The strands of a troupe that are inside a transaction when it is to stop abort and stop at their handlers' first instructions,
which are safe points (R106). Where a trap is pending it is delivered there first, as is a CANCEL that is due, and the stop waits
until busy is 0 (`stopDue` 3), as it does for a strand in a trap's handler; one that commits finishes (R105, R362, R363). -/
def State.stopTx (s : State) (t : Strand) (why : Nat) : State :=
  if t.mode != .running || t.tx.depth = 0 || t.tx.committing then s
  else if t.busy || !t.pend.isEmpty || cancelHere t then
    let s1 := (s.abortTx t.sid why 0 none).setStrand t.sid (fun u => { u with stopDue := 3 })
    if cancelHere t then s1.cancelNow t else s1
  else s.stopStrand t.sid 3 why

/-! ### SUSPEND (R317, R151) -/

/-- Whether the object of a SUSPEND may lie at a pointer. -/
def State.suspendable (s : State) (p : Word) : Bool :=
  ptrOff p % 256 == 0 && objRun s s.myTroupe.job false false true p s.myTroupe.csize

/-- SUSPEND: with a capture under way the strand stops before it; else, no read holding it back (R235), it answers a status and goes on,
or the troupe's capture begins with the issuing strand stopped after the instruction. -/
def execSuspend (o : RR) (s : State) : Out State :=
  withRegs s [rx 1 o.a o.ta] [wx o.d] (fun s =>
    let stops := s.myTroupe.capture.isSome || s.cur.stopDue != 0
    if !stops && !s.mayAccess .rlx then s.notReady
    else if s.cur.busy then s.illegal 0x0B
    else orElse (noTx s xSuspend) (fun _ =>
      let p := s.x o.a
      let u := s.myTroupe
      if stops then s.stopStrand s.cur.sid 1 xPreempt
      else if !s.suspendable p then (s.setX o.d (BitVec.allOnes 64)).advance
      else match s.nextSerial u.job with
        | none => ((s.failSerial u.job).setX o.d (BitVec.ofInt 64 (-2))).advance
        | some v =>
          let c : Capture := { ptr := p, kind := 1, suspSid := s.cur.sid, suspReg := o.d, serial := v, start := s.now,
                               allStopped := none, zeroed := false, t := 0 }
          let s1 := ((s.takeSerial u.job v).setTroupe u.uid (fun x => { x with capture := some c })).advance
          let s2 := { s1 with cur := { s1.cur with mode := .stopped 0, live := allLive } }
          let others := s2.strands.filter (fun t => t.troupe == u.uid && t.mode == .running)
          (others.foldl (fun t x => (t.setStrand x.sid (fun y => { y with stopDue := max 1 y.stopDue })).stopTx x xSuspend) s2).noteStopped
            u.uid))

/-! ### TROUPE_CAPTURE (R150) -/

/-- Whether a range of LM that a pointer names lies, in part, in a troupe's window. -/
def Troupe.meets (u : Troupe) (p : Word) (n : Nat) : Bool :=
  ptrSpace p == 1 && decide (u.core0 ≤ ptrOwner p) && decide (ptrOwner p < u.core0 + u.c)
    && decide (ptrOff p < u.lmOff + u.lm * 1024) && decide (u.lmOff < ptrOff p + n)

/-- Whether a command reads or writes a troupe's LM windows: the rows of CPY2 each at its own place, the indexed rows of CPYG and
CPYS never in LM (R303, R304, R306). -/
def Cmd.inWindow (c : Cmd) (u : Troupe) : Bool :=
  match c.kind with
  | .copy src dst len rows ss ds =>
    (List.range rows).any (fun i =>
      u.meets (padd src (BitVec.ofNat 64 i * ss)) len || u.meets (padd dst (BitVec.ofNat 64 i * ds)) len)
  | .convert dst src ds ss n sf df _ _ _ =>
    u.meets dst (n * fmtBits df / 8) || u.meets src (n * fmtBits sf / 8) || (isMx df && u.meets ds (n / 32))
      || (isMx sf && u.meets ss (n / 32))
  | .ring _ _ _ _ _ _ _ => true
  | .gather _ dst row idx count => u.meets dst (row * count) || u.meets (BitVec.ofNat 64 (lmAddr c.core idx)) (4 * count)
  | .scatter src _ row idx count => u.meets src (row * count) || u.meets (BitVec.ofNat 64 (lmAddr c.core idx)) (4 * count)
  | .put _ _ | .flag _ _ => false

/-- Whether everything that R150 waits for is over, the plain stores to REM have landed, which the completion write, a release, comes
after (R72, R152), and the signals that the strands have issued are sent, as their earlier accesses must be performed first (R297; L82). -/
def State.capturable (s : State) (u : Troupe) : Bool :=
  let ts := s.strands.filter (fun t => t.troupe == u.uid && t.mode != .vacant)
  let mine (sid : Nat) : Bool := ts.any (fun t => t.sid == sid)
  ts.any (·.exists?) && ts.all (fun t => t.mode == .ended || (match t.mode with | .stopped c => c != 5 | _ => false))
    && ts.all (fun t => t.mode == .ended || (t.xfull == BitVec.allOnes 32 && t.vfull == BitVec.allOnes 32))
    && s.reqs.all (fun r => !mine r.sid) && s.sfu.all (fun q => !mine q.sid) && s.moves.all (fun m => !mine m.sid)
    && s.cores.all (fun c => c.array.all (fun o => match o with | .mma sid .. => !mine sid | .zscale sid .. => !mine sid))
    && s.cores.all (fun c => c.journal.all (fun e => e.state == 2 || !mine e.sid))
    && s.reg.conts.all (fun r => !mine r.sid) && s.reg.shoots.all (fun r => !mine r.sid) && s.reg.measures.all (fun r => !mine r.sid)
    && s.cmds.all (fun c => c.troupe != u.uid || !c.inWindow u)
    && ts.all (fun t => s.remLanded t.sid s.nextId)
    && s.reg.requests.all (fun r => match r.2 with | .event _ _ _ sid _ none => !mine sid | _ => true)

/-- Where the pending word of a strand's counter lies; a plain store to REM has none. -/
def pendingWord (s : State) (u : Troupe) (ptr : Word) (pendOff i k : Nat) : Nat :=
  if k < 16 then (physOf s u.job (ptrAt ptr (pendOff + 128 * i + 8 * k))).getD 0 else 0

/-- The commands of a troupe's strands that are still in flight are bound to their pending words (R146). -/
def State.bindCmds (s : State) (u : Troupe) (ts : List Strand) (ptr : Word) (pendOff : Nat) : State :=
  let bind (c : Cmd) : Cmd :=
    match ts.find? (fun t => t.sid == c.sid && t.mode != .ended), c.bound with
    | some t, none => { c with bound := some (pendingWord s u ptr pendOff t.sr.strand c.k, u.uid) }
    | _, _ => c
  { s with cmds := s.cmds.map bind }

/-- Entries of some strands leave a core's journal and what waits to enter it. -/
def Core.dropEntries (c : Core) (sids : List Nat) : Core := 
  { c with journal := c.journal.filter (fun e => !sids.contains e.sid), replay := c.replay.filter (fun e => !sids.contains e.sid) }

/-- The troupe leaves its cores: entries, whose room goes to those that wait for it (R147), rings, accumulators, slots. -/
def State.leaveCores (s : State) (u : Troupe) (ts : List Strand) : State :=
  let sids := ts.map (·.sid)
  let s1 : State := { s with cores := s.cores.map (fun c => Core.dropEntries c sids) }
  let gone (t : Strand) : Bool := sids.contains t.sid && t.exists?
  let s2 := { s1.unbindRings u.uid with
    cur := if gone s1.cur then Strand.blank else s1.cur, rest := s1.rest.filter (fun t => !gone t) }
  let s3 := s2.setTroupe u.uid (fun x => { x with place := .object, capture := none })
  let s4 := (List.range u.c).foldl (fun t i => t.replayIn (u.core0 + i)) s3
  ts.foldl (fun t x => (t.freeZ x.core x.sid 0).freeZ x.core x.sid 1) s4

/-- The object is written, sealed and completed, and the troupe lies in it. A PREEMPT capture that finds no free slot takes the value
that its search began with (R397; L45). -/
def State.capture (s : State) (u : Troupe) (c : Capture) : State :=
  let s0 := s.releaseBays [u.bay]
  let serial := if c.kind = 1 then some c.serial else s0.nextSerial u.job
  let v := serial.getD (s0.job u.job).serial
  let s1 := if c.kind = 1 then s0 else match serial with
    | some v => s0.takeSerial u.job v
    | none => s0.failSerial u.job
  let ts := s1.strandsOf u.uid
  let body := objectBytes s1 u c v
  let sealed := body.take 224 ++ sealOf s1 u.job body ++ body.drop 240
  match objWrite s1 u.job (c.kind == 2) c.ptr (wordsOfBytes sealed) with
  | (s2, false) => s2.captureFails u c 3
  | (s2, true) =>
    let s3 := (devWrite s2 u.job (completionPtr c.ptr) (natBytes 8 (v + 2 ^ 63))).bindCmds u ts c.ptr (fieldAt body 96 8)
    let s4 := s3.setTroupe u.uid (fun x =>
      { x with object := c.ptr, serial := v, sids := ts.map (·.sid), slots := ts.map (·.hw), replayed := [],
               taken := (ts.filter (·.cancelTaken)).map (·.sid) })
    let s5 := if c.kind = 1 then s4 else s4.setJob u.job (fun j =>
      { j with parts := Vector.ofFn (fun i =>
          if i.val = u.part then { j.parts[i] with objects := j.parts[i].objects ++ [(u.uid, c.ptr, serial.isSome)] } else j.parts[i]) })
    s5.leaveCores u ts

/-- TROUPE_CAPTURE: uid. Once every strand has stopped the completion word of a SUSPEND's object is written 0, in a step of its own that
no other wait holds back (DESIGN CHOICE, L67), and once everything is over the object. -/
def execTroupeCapture (s : State) : Out State :=
  let u := s.troupe s.arg.id
  match u.capture with
  | none => .next s
  | some c =>
    if u.place ≠ .placed ∨ (s.job u.job).stopped ∨ c.allStopped.isNone then .next s
    else if !c.zeroed then .next (s.openObject u.uid)
    else if s.capturable u then .next (s.capture u c)
    else .next s

/-- CAPTURE_WATCHDOG: uid. -/
def execCaptureWatchdog (s : State) : Out State :=
  let u := s.troupe s.arg.id
  match u.capture with
  | none => .next s
  | some c =>
    if u.place = .placed ∧ !(s.job u.job).stopped ∧ c.zeroed ∧ c.allStopped.any (fun n => decide (n + 1000000 ≤ s.now)) then
      .next (s.captureFails u c 2)
    else .next s

end Sys2Proof.Machine
end

