-- ==== Sys2Proof/Machine/Messages.lean ====
section
/-! DEFINITION. Messages, spawning, launching, cancelling and yielding (spec/15 R310 to R316), and the start of troupes
(spec/02 R27, R36 to R38, R45; spec/06 R123; spec/09 R175; spec/21 R399). -/

namespace Sys2Proof.Machine

/-! ### Operands and orders of these instructions (R73, R299, R300, R311) -/

/-- The wider of two scopes. -/
def widerScope (a b : Scope) : Scope := if a.rank < b.rank then b else a

/-- The narrowest scope that includes two cores. -/
def partnerScope (a b : Nat) : Scope :=
  if a = b then .cor else if bayOfCore a = bayOfCore b then .bay else if dieOfCore a = dieOfCore b then .die else .pkg

/-- A core, queue or job outside what the description allows: PROTECT with the value (R300). -/
def State.refuseValue (s : State) (v : Word) : State := s.trap .protect v 0 (opOf s.ir) 0

/-- These instructions abort a transaction, and each acts at least as a release (R99, R299). -/
def State.releasing (s : State) (o : Order) (c : Scope) (k : State → State) : State :=
  orElse (noTx s xLocal) (fun _ =>
    if !s.mayAccess o || !s.releaseReady s.cur.sid s.cur.core c s.nextId then s.notReady else k s)

/-- The partition of a job that holds a bay. -/
def State.partAt (s : State) (job bay : Nat) : Option Nat := (List.range 8).find? (fun p => ((s.job job).part p).bays.getLsbD bay)

/-- Whether a core lies in the job's bays, and for a START in the partition of the sender's launch (R311). -/
def State.mayReach (s : State) (core : Nat) (samePart : Bool) : Bool :=
  s.myJob.hasCore core && (!samePart || (s.myJob.part s.myTroupe.part).bays.getLsbD (bayOfCore core))

/-- A child is counted at its parent when it is asked for (R36, R37). -/
def State.countChild (s : State) : State := s.setTroupe s.cur.troupe (fun u => { u with children := u.children + 1 })

/-! ### SEND (R310, R311) -/

/-- The header as the device writes it. -/
def headerWord (start : Bool) (core hw : Nat) (w : Word) : Word :=
  BitVec.ofNat 64 ((if start then 1 else 2) * 2 ^ 62 + core * 2 ^ 52 + hw % 4 * 2 ^ 50) ||| (w &&& 0xFFFFFFFF)

/-- Give a message to the network; a START is also a request to the Registrar. -/
def State.sendMessage (s : State) (dest : Nat) (start : Bool) (words : List Word) : State :=
  let m : Message := { id := s.nextId, core := dest, start := start, words := words, job := s.myTroupe.job,
                       launch := s.myTroupe.launch, parent := s.cur.troupe, index := none, sender := s.cur.sid }
  { (if start then s.countChild else s) with
    nextId := s.nextId + 1,
    reg := { s.reg with
      messages := s.reg.messages ++ [m],
      requests := if start then s.reg.requests ++ [(s.nextId, RegReq.sendStart s.cur.troupe s.nextId s.cur.sid)] else s.reg.requests } }

/-- SEND.START and SEND.POST. -/
def sendOp (start : Bool) (o : MsgOp) (s : State) : Out State :=
  withRegs s [rx 1 o.a o.ta, rx 0 o.d o.td] [] (fun s =>
    let p := s.x o.a
    s.afterHold (fun s => s.checked p 64 64 accLoad true false (s.ownLm p) (fun s a =>
      let dest := (s.x o.d).toNat
      if !s.mayReach dest start then s.refuseValue (s.x o.d)
      else s.releasing o.o (widerScope o.c (partnerScope s.cur.core dest)) (fun s =>
        if s.moving a 64 then s.notReady
        else
          let ws := wordsOfBytes (s.rawBytes a 64)
          let words := headerWord start s.cur.core s.cur.hw (ws.headD 0) :: ws.drop 1
          (s.sendMessage dest start words).advance))))

def execSendStart (o : MsgOp) (s : State) : Out State := sendOp true o s
def execSendPost (o : MsgOp) (s : State) : Out State := sendOp false o s

/-! ### RECV (R312) -/

/-- Mailbox entries in use. -/
def Core.mailboxUsed (c : Core) : Nat := c.starts.length + c.posts.length

/-- RECV: the oldest POST entry is taken; its registers are empty until they are written. It accesses no memory (R83), so nothing holds
it back. -/
def execRecv (o : RR) (s : State) : Out State :=
  withRegs s [] [⟨false, groupRegs .g8 o.d⟩] (fun s =>
    orElse (noTx s xLocal) (fun _ =>
      match (s.core s.cur.core).posts with
      | [] => s.waitFor (.recv o.d)
      | m :: _ =>
        let s1 := (s.setCore s.cur.core (fun c => { c with posts := c.posts.drop 1 })).acquire s.cur.core
        let r := { newReq s1 (.recv m.words o.d) 0 0 .rlx .cor with state := .answered 0 true }
        let s2 := (s1.post r).advance
        { s2 with cur := (groupRegs .g8 o.d).foldl (fun t i => t.emptyX i) s2.cur }))

/-! ### SPAWN (R313) -/

/-- The template count of the strand's launch. -/
def State.myTemplates (s : State) : List Template := match s.launch? s.myTroupe.launch with | some l => l.templates | none => []

/-- SPAWN: without a named core, and at a core of the launch's partition. -/
def execSpawn (o : MsgOp) (s : State) : Out State :=
  withRegs s ([rx 1 o.a o.ta] ++ (if o.d = 0 then [] else [rx 0 o.d o.td])) [] (fun s =>
    let dest := (s.x o.d).toNat
    let named : Option Nat := if o.d = 0 then none else some dest
    if s.myTemplates.length ≤ o.n.toNat then s.illegal 0x0C
    else if named.isSome ∧ !s.mayReach dest true then s.refuseValue (s.x o.d)
    else
      let partner : Scope := if named.isSome then partnerScope s.cur.core dest else .pkg
      s.releasing o.o (widerScope o.c partner) (fun s =>
        let s1 := s.countChild
        { s1 with
          reg := { s1.reg with
            requests := s1.reg.requests ++ [(s1.nextId, RegReq.spawn s.cur.troupe o.n.toNat named (s.x o.a) s.cur.sid)] },
          nextId := s1.nextId + 1 }.advance))

/-! ### LAUNCH, CANCEL, YIELD (R314 to R316) -/

/-- Spaces of a record: the own LM, gallery, depot. -/
def State.recordReach (s : State) (p : Word) : Bool := s.ownLm p || reachHome p

/-- Read words for the strand in hand: older stores of its own first. -/
def State.blockReady (s : State) (a n : Nat) : Bool := !s.behindOlder s.cur.sid s.nextId a n && !s.moving a n

/-- LAUNCH: the record, on which no deposit of the core may lie any more (R118), goes to the tail of a device-fed queue of the job. -/
def execLaunch (o : MsgOp) (s : State) : Out State :=
  withRegs s [rx 1 o.a o.ta, rx 0 o.d o.td] [] (fun s =>
    let p := s.x o.a
    s.afterHold (fun s => s.checked p 64 64 accLoad true false (s.recordReach p) (fun s a =>
      match s.queue? ((s.x o.d).toNat % 256) with
      | none => s.refuseValue (s.x o.d)
      | some d =>
        if d.job ≠ s.myTroupe.job ∨ d.feed ≠ 2 then s.refuseValue (s.x o.d)
        else s.releasing o.o (widerScope o.c .pkg) (fun s =>
          if !s.blockReady a 64 || s.ownDeposits s.cur.core a 64 then s.notReady
          else
            let r := if addrSpace a = 1 then (s, s.rawBytes a 64) else s.freshBytes a 64
            (r.1.enqueue d (wordsOfBytes r.2)).advance))))

/-- CANCEL: an admitted launch of the job that has not completed. Its broadcast begins at the root of the tree; a strand of the
launch itself takes it at its next safe point. -/
def execCancel (o : RR) (s : State) : Out State :=
  withRegs s [rx 0 o.d o.td] [] (fun s =>
    let ident := s.x o.d
    if (ident.extractLsb' 48 16).toNat ≠ s.myTroupe.job then s.refuseValue ident
    else orElse (noTx s xLocal) (fun _ =>
      match s.launch? ident with
      | none => s.advance
      | some l =>
        if l.complete || l.cancelBit then s.advance
        else
          let s1 := s.setLaunch ident (fun x => { x with cancelBit := true, cancelPending := s.treeAt 7 0 })
          (if s1.myTroupe.launch = ident then { s1 with cur := { s1.cur with cancelDue := !s1.cur.cancelTaken } } else s1).advance))

/-- YIELD: not ready for 16 cycles. -/
def execYield (s : State) : Out State :=
  .next (orElse (noTx s xLocal) (fun _ => let s1 := s.advance; { s1 with cur := { s1.cur with yield := true } }))

/-- YIELD_END: strand. -/
def execYieldEnd (s : State) : Out State := .next (s.setStrand s.arg.id (fun t => { t with yield := false }))

/-! ### The start of a troupe (R27) -/

/-- The free strand slots of a core, ascending. Which of them a starting strand takes is left open: the model takes the lowest
(DESIGN CHOICE, L50). -/
def State.freeSlots (s : State) (core : Nat) : List Nat :=
  (List.range 4).filter (fun h => !s.strands.any (fun t => t.core == core && t.exists? && t.hw == h))

/-- The state registers at a start. -/
def startRegs (u : Troupe) (index : Nat) : SRegs :=
  { SRegs.reset with
    strand := index, seed := u.seed.setWidth 64, lfsr := (lfsrLoad u.seed u.index index).setWidth 64 }

/-- Vector of a list, 0 beyond it. -/
def regVector (ws : List Word) : Vector Word 32 := Vector.ofFn (fun i => ws.getD i.val 0)

/-- One strand as R27 gives it. -/
def freshStrand (s : State) (u : Troupe) (sid core slot hw index : Nat) (arg : Word) (payload : List Word) : Strand :=
  let part := u.lm * 1024 / max u.s 1
  { Strand.blank with
    sid := sid, mode := .running, core := core, slot := slot, hw := hw, troupe := u.uid,
    pc := padd (s.job u.job).codeBase (BitVec.ofNat 64 (2 * u.entry)),
    x := regVector ([0, 0, BitVec.ofNat 64 (lmAddr core (u.lmOff + (slot + 1) * part)), arg] ++ payload),
    p := Vector.ofFn (fun i => if i.val = 0 then BitVec.allOnes 32 else 0),
    sr := startRegs u index }

/-- Add a strand; its core acquires what the start publishes (R78). -/
def State.addStrand (s : State) (t : Strand) : State := { s with rest := s.rest ++ [t], nextId := s.nextId + 1 }.acquire t.core

/-- The strands of a troupe that starts afresh on its cores. -/
def State.startFresh (s : State) (u : Troupe) (arg : Word) (payload : List Word) : State :=
  (List.range (u.c * u.s)).foldl (fun t i =>
    let core := u.core0 + i / max u.s 1
    t.addStrand (freshStrand t u t.nextId core (i % max u.s 1) ((t.freeSlots core).headD 0) i arg payload)) s

/-! ### The Registrar's records of SPAWN and SEND.START (R313, R175) -/

/-- Take a request out. -/
def State.dropRequest (s : State) (id : Nat) : State :=
  { s with reg := { s.reg with requests := s.reg.requests.filter (fun r => r.1 != id) } }

/-- The strand of a request that counts in its strand's issue order. -/
def RegReq.issuer : RegReq → Option Nat
  | .spawn _ _ _ _ sid => some sid
  | .sendStart _ _ sid => some sid
  | _ => none

/-- Whether no earlier request of its strand is on its way. -/
def State.firstRequest (s : State) (id : Nat) (q : RegReq) : Bool :=
  s.reg.requests.all (fun r => r.2.issuer != q.issuer || r.2.issuer.isNone || decide (id ≤ r.1))

/-- The next index of a launch. -/
def State.takeIndex (s : State) (l : Launch) : State := s.setLaunch l.ident (fun x => { x with nextIndex := x.nextIndex + 1 })

/-- SPAWN_RECORD: id. A troupe of a launch whose cancel has reached the bay is consumed. -/
def execSpawnRecord (s : State) : Out State :=
  match s.reg.requests.find? (fun r => r.1 == s.arg.id) with
  | some (id, .spawn parent tmpl named arg sid) =>
    match s.launch? (s.troupe parent).launch with
    | none => .next (s.dropRequest id)
    | some l =>
      if !s.firstRequest id (.spawn parent tmpl named arg sid) then .next s
      else
        let t := l.templates.getD tmpl ⟨0, 1, 1, 16⟩
        let s1 := (s.dropRequest id).takeIndex l
        let u := newTroupe s1 l l.nextIndex parent 0 named t (.fresh arg [])
        let bay := match named with | some c => bayOfCore c | none => s.chooseBay u l.part (fun _ _ => true)
        if l.cancelReached.contains bay then .next (s1.childDone l.ident parent)
        else .next ((s1.rouse bay).addTroupe { u with bay := bay })
  | some (id, .sendStart parent msg sid) =>
    match s.launch? (s.troupe parent).launch with
    | none => .next (s.dropRequest id)
    | some l =>
      if !s.firstRequest id (.sendStart parent msg sid) then .next s
      else
        let s1 := (s.dropRequest id).takeIndex l
        .next { s1 with reg := { s1.reg with messages := s1.reg.messages.map (fun m =>
          if m.id = msg then { m with index := some l.nextIndex } else m) } }
  | _ => .next s

/-! ### Mailboxes and spill rings (R37, R38, R45, R123) -/

/-- Whether the partition of a job that holds a bay takes messages now: its work goes on. -/
def State.takesMessages (s : State) (job bay : Nat) : Bool :=
  match s.partAt job bay with
  | none => false
  | some p => s.partOpen job p

/-- The control block of a core's spill ring. -/
def spillBlock (s : State) (job core : Nat) : Word := ptrAt (s.job job).spillTable (64 * core)

/-- Fields of the control block: head_seg, tail_seg, head_idx, tail_idx, count, total. -/
structure Spill where
  headSeg : Word
  tailSeg : Word
  headIdx : Nat
  tailIdx : Nat
  count : Nat
  total : Nat
  deriving DecidableEq, Repr

/-- Read the control block of a core. -/
def readSpill (s : State) (job core : Nat) : Spill :=
  let b := (devRead s job (spillBlock s job core) 64).2
  ⟨BitVec.ofNat 64 (fieldAt b 0 8), BitVec.ofNat 64 (fieldAt b 8 8), fieldAt b 16 2, fieldAt b 18 2, fieldAt b 24 8, fieldAt b 32 8⟩

/-- Write it. -/
def writeSpill (s : State) (job core : Nat) (r : Spill) : State :=
  devWrite s job (spillBlock s job core) (natBytes 8 r.headSeg.toNat ++ natBytes 8 r.tailSeg.toNat ++ natBytes 2 r.headIdx
    ++ natBytes 2 r.tailIdx ++ zeros 4 ++ natBytes 8 r.count ++ natBytes 8 r.total ++ zeros 24)

/-- A segment from the pool, its first block 0 (R5, R123), or the job's stop (R400). -/
def State.takeSegment (s : State) (job core : Nat) : State × Option Word :=
  match (s.job job).spillPool with
  | [] => (s.exhausted job 1 core, none)
  | g :: r => (devWrite (s.setJob job (fun j => { j with spillPool := r })) job g (zeros 64), some g)

/-- The tail has passed slot 1,023: a segment from the pool is linked and the ring goes on at its slot 1 (R123). With none in the pool
that waits for the next entry (L48). -/
def State.linkSegment (s : State) (job core : Nat) (r : Spill) : State × Spill :=
  if r.tailIdx ≤ 1023 ∨ (s.job job).spillPool.isEmpty then (s, r)
  else match s.takeSegment job core with
    | (t, some g) => (devWrite t job r.tailSeg (natBytes 8 g.toNat), { r with tailSeg := g, tailIdx := 1 })
    | (t, none) => (t, r)

/-- A message joins its core's spill ring. -/
def State.spillMessage (s : State) (m : Message) : State :=
  let r := readSpill s m.job m.core
  let got : State × Option Spill :=
    if r.count = 0 then
      match s.takeSegment m.job m.core with
      | (t, some g) => (t, some { r with headSeg := g, tailSeg := g, headIdx := 1, tailIdx := 1 })
      | (t, none) => (t, none)
    else if 1023 < r.tailIdx ∧ (s.job m.job).spillPool.isEmpty then (s.exhausted m.job 1 m.core, none)
    else let l := s.linkSegment m.job m.core r; (l.1, some l.2)
  match got with
  | (t, none) => t
  | (t, some q) =>
    let t1 := devWrite t m.job (ptrAt q.tailSeg (64 * q.tailIdx)) (bytesOfWords m.words)
    let l := t1.linkSegment m.job m.core { q with tailIdx := q.tailIdx + 1, count := q.count + 1, total := q.total + 1 }
    (writeSpill l.1 m.job m.core l.2).setCore m.core (fun c => { c with spillMeta := c.spillMeta ++ [m] })

/-- The oldest entry of a core's spill ring leaves it; an emptied segment returns to the pool. -/
def State.unspill (s : State) (job core : Nat) : State × Option Message :=
  let r := readSpill s job core
  match (s.core core).spillMeta.find? (fun m => m.job == job) with
  | none => (s, none)
  | some m =>
    let b := devRead s job (ptrAt r.headSeg (64 * r.headIdx)) 64
    let s1 := b.1.setCore core (fun c => { c with spillMeta := c.spillMeta.filter (fun x => x.id != m.id) })
    let s2 :=
      if r.count ≤ 1 then
        writeSpill (s1.setJob job (fun j =>
            { j with spillPool := j.spillPool ++ (if r.headSeg = r.tailSeg then [r.headSeg] else [r.headSeg, r.tailSeg]) })) job core
          { r with headSeg := 0, tailSeg := 0, headIdx := 1, tailIdx := 1, count := 0 }
      else if r.headIdx = 1023 then
        let next := (devWord s1 job r.headSeg).2
        writeSpill (s1.setJob job (fun j => { j with spillPool := j.spillPool ++ [r.headSeg] })) job core
          { r with headSeg := next, headIdx := 1, count := r.count - 1 }
      else writeSpill s1 job core { r with headIdx := r.headIdx + 1, count := r.count - 1 }
    (s2, some { m with words := wordsOfBytes b.2 })

/-- A START entry is consumed: its launch is cancelled and the broadcast has reached its core's bay. -/
def State.consumed (s : State) (m : Message) : Bool :=
  m.start && (match s.launch? m.launch with
    | some l => l.cancelReached.contains (bayOfCore m.core)
    | none => false)

/-- Strands of a core that wait in RECV look again. -/
def State.wakeRecv (s : State) (core : Nat) : State :=
  s.mapStrands (fun t => match t.wait with
    | some (.recv _) => if t.core = core then { t with wait := none } else t
    | _ => t)

/-- A message enters its core's mailbox; a START is work that wakes the bay (R354). -/
def State.enterMailbox (s : State) (m : Message) : State :=
  if s.consumed m then s.childDone m.launch m.parent
  else if m.start then (s.setCore m.core (fun c => { c with starts := c.starts ++ [m] })).rouse (bayOfCore m.core)
  else (s.setCore m.core (fun c => { c with posts := c.posts ++ [m] })).wakeRecv m.core

/-- Whether messages to the partition of a job that holds a bay are parked: from T until its switch is complete (R45). -/
def State.parking (s : State) (job bay : Nat) : Bool :=
  match s.partAt job bay with
  | none => false
  | some p => s.reg.switches.any (fun w => w.outJob == job && w.outPart == p && (w.phase == 1 || w.phase == 2))

/-- Whether messages of the job stand before a new arrival: parked or spilled ones. -/
def State.queuedBefore (s : State) (m : Message) : Bool :=
  (s.core m.core).parked.any (fun x => x.job == m.job) || (s.core m.core).spillMeta.any (fun x => x.job == m.job)

/-- MAILBOX_ARRIVAL: id. A full mailbox sends it to the spill ring. From T on it is parked, where the room of the parking buffer is
left open (L2), and once the partition is out it joins the ring behind the parked ones (R45). -/
def execMailboxArrival (s : State) : Out State :=
  match s.reg.messages.find? (fun m => m.id == s.arg.id) with
  | none => .next s
  | some m =>
    if (m.start && m.index.isNone) || s.reg.messages.any (fun x =>
        x.sender == m.sender && x.core == m.core && x.start == m.start && decide (x.id < m.id)) then .next s
    else
      let s1 := { s with reg := { s.reg with messages := s.reg.messages.filter (fun x => x.id != m.id) } }
      if s1.consumed m then .next (s1.childDone m.launch m.parent)
      else if s1.takesMessages m.job (bayOfCore m.core) then
        if s1.queuedBefore m || decide (64 ≤ (s1.core m.core).mailboxUsed) then .next (s1.spillMessage m)
        else .next (s1.enterMailbox m)
      else if !s1.parking m.job (bayOfCore m.core) || (s1.core m.core).spillMeta.any (fun x => x.job == m.job) || Config.choice s.ticks then
        .next (s1.spillMessage m)
      else .next (s1.setCore m.core (fun c => { c with parked := c.parked ++ [m] }))

/-- The job whose work goes on in the bay of a core. -/
def State.residentJob (s : State) (core : Nat) : Option Nat :=
  (s.jobs.find? (fun j => s.takesMessages j.num (bayOfCore core))).map (·.num)

/-- SPILL_RETURN: core. Parked messages return first, then spilled ones (R45, R46, R123). -/
def execSpillReturn (s : State) : Out State :=
  let core := s.arg.id
  match s.residentJob core with
  | none => .next s
  | some job =>
    if 64 ≤ (s.core core).mailboxUsed then .next s
    else match (s.core core).parked.find? (fun m => m.job == job) with
      | some m => .next ((s.setCore core (fun c => { c with parked := c.parked.filter (fun x => x.id != m.id) })).enterMailbox m)
      | none => match s.unspill job core with
        | (s1, some m) => .next (s1.enterMailbox m)
        | (s1, none) => .next s1

/-- HANDLER_START: core. The oldest START entry starts once a slot and 16 KiB of LM are free. -/
def execHandlerStart (s : State) : Out State :=
  let core := s.arg.id
  match (s.core core).starts with
  | [] => .next s
  | m :: _ =>
    let s1 := s.setCore core (fun c => { c with starts := c.starts.drop 1 })
    if s.consumed m then .next (s1.childDone m.launch m.parent)
    else match s.launch? m.launch, freeOffset (s.windows core) 16384 with
      | some l, some o =>
        if !s.baysOpen l.job l.part (bayOfCore core) || decide (4 ≤ s.slotsUsed core) then .next s
        else
          let entry := ((m.words.headD 0).extractLsb' 0 32).toNat
          let u := { newTroupe s1 l (m.index.getD 0) m.parent (bayOfCore core) (some core) ⟨entry, 1, 1, 16⟩ (.fresh 0 (m.words.drop 1)) with
                     place := .placed, core0 := core, lmOff := o }
          .next ((s1.addTroupe u).startFresh u 0 (m.words.drop 1))
      | _, _ => .next s

end Sys2Proof.Machine
end

