-- ==== Sys2Proof/Machine/Resume.lean ====
section
/-! DEFINITION. Continuation objects as the device reads them: the checks of RESUME, CCOPY, CDISCARD and CEXPORT (spec/21 R395, R396),
what each does (spec/08 R153 to R158; spec/15 R318, R319, R324), the restoring of a troupe (R154), the placing of waiting troupes
(spec/02 R26, R32) and the cancel broadcast (spec/09 R175). -/

namespace Sys2Proof.Machine

/-! ### The restoring of a troupe (R153, R154) -/

def Cause.all : List Cause :=
  [.illegal, .trapz, .fetchLimit, .misalign, .space, .translate, .protect, .emptyReg, .feTimeout, .arith, .postedRefused,
   .doubleResume, .badCont, .registry, .channelBroken, .remoteTimeout, .poison, .cancel, .brk, .soft, .watchdog]

/-- The cause with a code. -/
def causeOf (n : Nat) : Cause := (Cause.all.find? (fun c => c.code == n)).getD .soft

/-- The offset of the record of each strand index. -/
def recordOffsets (img : List Byte) : Nat → Nat → List Nat
  | 0, _ => []
  | n + 1, o => o :: recordOffsets img n (o + fieldAt img (o + 12) 4)

/-- The offset of the section of each core index. -/
def sectionOffsets (img : List Byte) : Nat → Nat → List Nat
  | 0, _ => []
  | n + 1, o => o :: sectionOffsets img n (o + fieldAt img (o + 8) 4)

/-- What a register that the object does not save holds afterwards: left open (L39). -/
def unsavedReg (s : State) (i n : Nat) : VReg := Config.unsaved s.ticks (128 * i + n)

/-- Where an x or v register is saved in a record: its place among those saved. -/
def savedAt (live : Quad) (base size r : Nat) : Option Nat :=
  if live.getLsbD r then some (base + size * ((List.range r).filter live.getLsbD).length) else none

/-- A pending trap in a record. -/
def trapAt (img : List Byte) (o : Nat) : Trap :=
  let w (i : Nat) : Word := BitVec.ofNat 64 (fieldAt img (o + 8 * i) 8)
  ⟨causeOf (fieldAt img o 1), w 1, w 2, w 3, w 4, fieldAt img (o + 40) 8⟩

/-- The physical address of a pending word. -/
def pendingAt (s : State) (job : Nat) (ptr : Word) (img : List Byte) (i k : Nat) : Option Nat :=
  physOf s job (ptrAt ptr (fieldAt img 96 8 + 128 * i + 8 * k))

/-- The credits of a pending word now. -/
def creditAt (s : State) (job : Nat) (ptr : Word) (img : List Byte) (i k : Nat) : Nat :=
  ((pendingAt s job ptr img i k).map (fun a => s.readN a 4)).getD 0

/-- The strand of a record, on a core. It starts at a safe point (R153), and its registers' reserved bits read 0 (R5). -/
def restoredStrand (s : State) (u : Troupe) (ptr : Word) (img : List Byte) (o i sid core hw : Nat) : Strand :=
  let f (off n : Nat) : Nat := fieldAt img (o + off) n
  let w (off : Nat) : Word := BitVec.ofNat 64 (f off 8)
  let q (off : Nat) : Quad := BitVec.ofNat 32 (f off 4)
  let xl := q 16
  let vl := q 20
  let vbase := roundUp (256 + 8 * (savedRegs xl).length) 32
  let tbase := vbase + 32 * (savedRegs vl).length
  let free (n : Nat) : Word := (unsavedReg s i n).setWidth 64
  { Strand.blank with
    sid := sid, mode := .running, core := core, slot := i % max u.s 1, hw := hw, troupe := u.uid,
    pc := padd (s.job u.job).codeBase (w 0),
    x := Vector.ofFn (fun r => if r.val = 0 then 0 else match savedAt xl 256 8 r.val with
      | some a => w a
      | none => free r.val),
    v := Vector.ofFn (fun r => match savedAt vl vbase 32 r.val with
      | some a => BitVec.ofNat 256 (f a 32)
      | none => unsavedReg s i (32 + r.val)),
    p := Vector.ofFn (fun r => q (32 + 4 * r.val)),
    k := Vector.ofFn (fun r => q (64 + 4 * r.val) + BitVec.ofNat 32 (creditAt s u.job ptr img i r.val)),
    xfull := q 24, vfull := q 28,
    sr := { SRegs.reset with
      strand := i, round := roundValue (w 128), seed := low32 (w 136), lfsr := low32 (w 144), xage := w 152, fewait := low32 (w 168),
      chan := w 176 &&& 0xFFF, fstat := w 184 &&& 0x1F,
      cause := free 64 &&& 0x40FF, epc := free 65, c0 := free 66, c1 := free 67, c2 := free 68, c3 := free 69 },
    tx := { Tx.none with status := w 160 &&& ~~~(0xE000000000 : Word) },
    pend := (List.range (f 192 1)).map (fun n => trapAt img (o + tbase + 48 * n)),
    cancelDue := (match s.launch? u.launch with | some l => l.cancelBit | none => false) && !u.taken.contains sid,
    cancelTaken := u.taken.contains sid,
    live := (xl, vl), safe := true, stopAs := f 9 1 % 4 }

/-- A trap that the Registrar held for a strand of an object reaches it: a broken channel and an engine's fault set their bits of the FENCE
latch, a failure that a LANDED brought sets none (R378, R394). -/
def State.giveHeld (s : State) (sid : Nat) (p : Trap) : State :=
  (if p.cause = .channelBroken then s.latch sid 0 else if p.endsCommand then s.latch sid 3 else s).pendTrap sid p

/-- A core takes its section: rings moved with the window, accumulators claimed for their holders, the LM image with its tags. -/
def State.restoreSection (s : State) (u : Troupe) (img : List Byte) (o i : Nat) (sids : List Nat) : State :=
  let core := u.core0 + i
  let f (off n : Nat) : Nat := fieldAt img (o + off) n
  let move (a : Nat) : Nat := a + u.lmOff - f 12 4
  let held (z : Nat) : Bool := f 1 1 / 2 ^ z % 2 == 1
  let ring (q : Nat) : Ring :=
    let g (off n : Nat) : Nat := f (256 + 32 * q + off) n
    { Ring.unbound with
      base := move (g 0 4), count := g 4 1, fmt := g 5 1, flags := g 6 1 % 2,
      sbase := if g 6 1 % 2 = 1 then move (g 8 4) else g 8 4, head := g 12 1, ready := g 13 1, troupe := u.uid }
  let zoff (z : Nat) : Nat := 512 + (if z = 1 ∧ held 0 then 16384 else 0)
  let lm := 512 + 16384 * ((held 0).toNat + (held 1).toNat)
  let n := u.lm * 1024
  let a := lmAddr core u.lmOff
  let s1 := s.setCore core (fun c =>
    { c with
      rings := Vector.ofFn (fun q => if f 4 1 / 2 ^ q.val % 2 = 1 then ring q.val else c.rings[q]),
      z := Vector.ofFn (fun z => if held z.val then BitVec.ofNat 131072 (f (zoff z.val) 16384) else c.z[z]),
      zholder := Vector.ofFn (fun z => if held z.val then sids[f (2 + z.val) 1]? else c.zholder[z]) })
  if fieldAt img 7 1 / 2 % 2 = 0 then s1.zeroRange a (a + n)
  else
    let s2 := { s1 with poison := eraseRange s1.poison a (a + n) }.put a ((img.drop (o + lm)).take n)
    (List.range (n / 8)).foldl (fun t k => t.setTag (a + 8 * k) (f (lm + n + k / 8) 1 / 2 ^ (k % 8) % 2 == 1)) s2

/-- Journal entries of a snapshot, in the order of their issue. -/
def snapshot (img : List Byte) (i : Nat) : List (List Byte) :=
  let o := fieldAt img 104 8 + 2048 * i
  ((List.range 32).map (fun n => (img.drop (o + 64 * n)).take 64)).filter (fun e => fieldAt e 43 1 == 2)

/-- The instructions whose posted stores write n bytes (R233, R236, R263), as R364 packs them. -/
def storeOps (n : Nat) : List Word :=
  match n with
  | 1 => [opOf [0xB000]]
  | 2 => [opOf [0xB400]]
  | 4 => [opOf [0xB800]]
  | 8 => [opOf [0xBC00], opOf [0xE800, 0xC400]]
  | _ => [opOf [0xF080, 0x8400]]

/-- The snapshot of a core enters its journal, as far as there is room, ahead of what the strands will store (R147). An entry belongs to the
strand that had its slot, and takes that strand's slot (R55; L78); which of the instructions that store its size it came from the object
does not say (L39). -/
def State.restoreJournal (s : State) (u : Troupe) (img : List Byte) (i : Nat) (sids : List Nat) : State :=
  (snapshot img i).foldl (fun t b =>
    let place := (List.range u.s).find? (fun k => u.slots[i * u.s + k]? == some (fieldAt b 41 1))
    let sid := sids.getD (i * u.s + place.getD (fieldAt b 41 1 % max u.s 1)) 0
    let ops := storeOps (fieldAt b 40 1)
    let e (c : Core) : JEntry :=
      { id := t.nextId, dest := BitVec.ofNat 64 (fieldAt b 0 8), data := BitVec.ofNat 256 (fieldAt b 8 32), size := fieldAt b 40 1,
        slot := ((t.strands.find? (fun x => x.sid == sid)).map (·.hw)).getD (fieldAt b 41 1 % 4), mod := fieldAt b 42 1, state := 2, seq := c.jseq,
        sid := sid, applied := false, refused := 0,
        op := ops.getD ((Config.unsaved t.ticks (t.nextId + 4096)).toNat % max ops.length 1) 0, again := true }
    { t.setCore (u.core0 + i) (fun c =>
        if c.journal.length < 32 ∧ c.replay.isEmpty then { c with journal := c.journal ++ [e c], jseq := c.jseq + 1 }
        else { c with replay := c.replay ++ [e c], jseq := c.jseq + 1 }) with nextId := t.nextId + 1 }) s

/-- The commands bound to an object's pending words credit the new counters (R153). The bound fields in the object's memory stay as they
are (L85). -/
def State.rebindCmds (s : State) (u : Troupe) (ptr : Word) (img : List Byte) (sids : List Nat) : State :=
  let place (a : Nat) : Option Nat :=
    (List.range sids.length).find? (fun i => (List.range 16).any (fun k => pendingAt s u.job ptr img i k == some a))
  let back (c : Cmd) : Cmd :=
    match c.bound with
    | some (a, v) =>
      if c.k < 16 then (match place a with
        | some i => { c with bound := none, sid := sids.getD i c.sid, troupe := u.uid, job := u.job }
        | none => c)
      else if v = u.uid then { c with bound := none } else c
    | none => c
  { s with cmds := s.cmds.map back }

/-- The strands of a troupe on a core that had ended have, each, a slot that no other of its strands there has, so that a journal entry
names its strand (R55; L78). -/
def State.placeEnded (s : State) (t : Strand) : State :=
  let others := (s.strands.filter (fun x => x.troupe == t.troupe && x.core == t.core && x.mode != .vacant && x.sid != t.sid)).map (·.hw)
  let hw := ((List.range 4).find? (fun h => !others.contains h)).getD 0
  { s with rest := s.rest ++ [{ t with mode := .ended, safe := false, hw := hw }] }

/-- A troupe that has been placed comes out of its object. The strands that had ended keep their records (R144). -/
def State.startObject (s : State) (u : Troupe) (ptr : Word) (img : List Byte) (value : Option Word) : State :=
  let n := u.c * u.s
  let sids := if u.sids.length = n then u.sids else (List.range n).map (s.nextId + ·)
  let s0 := { s with nextId := s.nextId + n }
  let offs := recordOffsets img n (fieldAt img 80 8)
  let live := (List.range n).filter (fun i => fieldAt img (offs.getD i 0 + 9) 1 != 4)
  let strand (t : State) (i : Nat) : Strand :=
    let core := u.core0 + i / max u.s 1
    restoredStrand t u ptr img (offs.getD i 0) i (sids.getD i 0) core ((t.freeSlots core).headD 0)
  let ended := (List.range n).filter (fun i => !live.contains i)
  let known (t : Strand) : Bool := t.troupe == u.uid && t.mode == .ended
  let s0 : State := { s0 with cur := if known s0.cur then Strand.blank else s0.cur, rest := s0.rest.filter (fun t => !known t) }
  let s0 := live.foldl (fun t i => t.addStrand (strand t i)) s0
  let s1 := ended.foldl (fun t i => t.placeEnded (strand t i)) s0
  let s2 := ((sectionOffsets img u.c (fieldAt img 88 8)).zipIdx).foldl (fun t e => t.restoreSection u img e.1 e.2 sids) s1
  let s3 := (List.range u.c).foldl (fun t i => t.restoreJournal u img i sids) (s2.rebindCmds u ptr img sids)
  let s4 := match sids[fieldAt img 27 1]?, value with
    | some sid, some v => s3.setStrand sid (fun t => t.putX (BitVec.ofNat 5 (fieldAt img 28 1)) (v &&& 0x7FFFFFFFFFFFFFFF))
    | _, _ => s3
  let s5 := u.faults.foldl (fun t e => t.giveHeld e.1 e.2) (u.replayed.foldl (fun t sid => t.latch sid 4) s4)
  s5.setTroupe u.uid (fun x =>
    { x with
      strandsLeft := live.length, faults := [], replayed := [], object := 0, serial := 0, sids := [], slots := [], taken := [],
      arith := Vector.ofFn (fun i => BitVec.ofNat 32 (fieldAt img (128 + 4 * i.val) 4)),
      alimit := Vector.ofFn (fun i => BitVec.ofNat 32 (fieldAt img (148 + 4 * i.val) 4)) })

/-! ### Placement (R26, R32, R154) -/

/-- A troupe is placed and its strands start. -/
def State.placeTroupe (s : State) (u : Troupe) (g o : Nat) : State :=
  let v : Troupe := { u with place := .placed, core0 := g, lmOff := o }
  let s1 := s.setTroupe u.uid (fun x => { x with place := .placed, core0 := g, lmOff := o })
  match u.start with
  | .fresh arg payload => s1.startFresh v arg payload
  | .object ptr img value _ => s1.startObject v ptr img value

/-- Free accumulators of a bay go to the strands that wait for them. -/
def State.grantBay (s : State) (bay : Nat) : State :=
  (List.range 8).foldl (fun t i => (t.grantZ (8 * bay + i) 0).grantZ (8 * bay + i) 1) s

/-- TROUPE_PLACEMENT: uid. A waiting troupe is placed when its bay has room; one of a cohort starts where its resources are once the
wake has reached its bay. -/
def execTroupePlacement (s : State) : Out State :=
  let u := s.troupe s.arg.id
  match u.place with
  | .waiting => match s.roomFor u with
    | some (g, o) => .next ((s.placeTroupe u g o).grantBay u.bay)
    | none => .next (s.grantBay u.bay)
  | .reserved =>
    match s.launch? u.launch with
    | none => .next s
    | some l =>
      if reachedBay l.wakePending u.bay && s.bayServes u.job u.part u.bay then .next (s.placeTroupe u u.core0 u.lmOff)
      else .next s
  | _ => .next s

/-! ### The cancel broadcast (R175) -/

/-- Troupes of a launch that wait in a bay, or are reserved there, are done without running; the others' barrier waits for them no more
(R35). -/
def State.dropWaiting (s : State) (l : Word) (bay : Nat) : State :=
  let gone := s.troupes.filter (fun u => u.launch == l && u.bay == bay && (u.place == .reserved || (u.place == .waiting && (match u.start with
    | .fresh _ _ => true
    | .object _ _ _ _ => false))))
  (gone.foldl (fun t u => { t with troupes := t.troupes.filter (fun v => v.uid != u.uid) }.childDone l u.parent) s).openLbar l

/-- START entries of a launch that lie in a core's mailbox are consumed. -/
def State.dropStarts (s : State) (l : Word) (core : Nat) : State :=
  let mine (m : Message) : Bool := m.start && m.launch == l
  let gone := ((s.core core).starts ++ (s.core core).parked).filter mine
  gone.foldl (fun t m => t.childDone l m.parent) (s.setCore core (fun c =>
    { c with starts := c.starts.filter (fun m => !mine m), parked := c.parked.filter (fun m => !mine m) }))

/-- CANCEL_BROADCAST: bay, launch. -/
def execCancelBroadcast (s : State) : Out State :=
  let b := s.arg.id
  match s.launch? s.arg.word with
  | none => .next s
  | some l =>
    if !l.cancelPending.contains b then .next s
    else
      let s1 := s.setLaunch l.ident (fun x =>
        { x with cancelPending := x.cancelPending.filter (· != b) ++ s.treeBelow b, cancelReached := x.cancelReached ++ [b] })
      let s2 := s1.mapStrands (fun t =>
        if t.exists? ∧ bayOfCore t.core = b ∧ (s.troupe t.troupe).launch = l.ident ∧ !t.cancelTaken then { t with cancelDue := true } else t)
      .next ((List.range 8).foldl (fun t i => t.dropStarts l.ident (8 * b + i)) (s2.dropWaiting l.ident b))

/-! ### Requests on objects -/

/-- A request of the strand in hand on an object: its result register is empty from issue. -/
def State.askCont (s : State) (kind : Nat) (obj : Word) (reg : Reg) (value dest : Word) (rights target : Nat) (any' : Bool) : State :=
  let r : ContReq := { id := s.nextId, kind := kind, sid := s.cur.sid, troupe := s.cur.troupe, job := s.myTroupe.job, obj := obj, reg := reg,
                       value := value, dest := dest, rights := rights, target := target, any := any', bay := s.myBay }
  let s1 := { s with reg := { s.reg with conts := s.reg.conts ++ [r] }, nextId := s.nextId + 1 }.advance
  s1.emptyX reg

/-- The object pointer of an instruction: 256-byte aligned, in gallery or depot (R142, R300). -/
def State.objectPtr (s : State) (p : Word) (k : State → State) : State := s.operand p true 256 8 accLoad (reachHome p) k

/-- RESUME: the child is counted at issue, and the strand goes on with its next instruction once the compare-and-clear has
succeeded, or a check has failed (R153). -/
def resumeOp (any' : Bool) (o : ResumeOp) (s : State) : Out State :=
  withRegs s [rx 1 o.a o.ta, rx 2 o.b o.tb] [wx o.d] (fun s =>
    s.afterHold (fun s => s.objectPtr (s.x o.a) (fun s =>
      s.releasing o.o (widerScope o.c .pkg) (fun s =>
        let s1 := s.countChild.askCont 1 (s.x o.a) o.d (s.x o.b) 0 0 0 any'
        { s1 with cur := { s1.cur with blocked := some s.nextId } }))))

def execResumeHere (o : ResumeOp) (s : State) : Out State := resumeOp false o s
def execResumeAny (o : ResumeOp) (s : State) : Out State := resumeOp true o s

/-- CCOPY: whether the destination is aligned, apart from the source and large enough is checked after issue (R395). -/
def execCcopy (o : SysOp) (s : State) : Out State :=
  withRegs s [rx 1 o.a o.ta, rx 2 o.b o.tb] [wx o.d] (fun s =>
    s.afterHold (fun s => s.objectPtr (s.x o.a) (fun s =>
      s.operand (s.x o.b) true 1 8 accStore (reachHome (s.x o.b)) (fun s =>
        orElse (noTx s xLocal) (fun _ => s.askCont 2 (s.x o.a) o.d 0 (s.x o.b) o.rights.toNat 0 false)))))

def execCdiscard (o : RR) (s : State) : Out State :=
  withRegs s [rx 1 o.a o.ta] [wx o.d] (fun s =>
    s.afterHold (fun s => s.objectPtr (s.x o.a) (fun s =>
      orElse (noTx s xLocal) (fun _ => s.askCont 3 (s.x o.a) o.d 0 0 0 0 false))))

/-- CEXPORT: the target job accepts exports from the issuing job. -/
def execCexport (o : SysOp) (s : State) : Out State :=
  withRegs s [rx 1 o.a o.ta, rx 2 o.b o.tb] [wx o.d] (fun s =>
    let target := (s.x o.b).toNat % 65536
    s.afterHold (fun s => s.objectPtr (s.x o.a) (fun s =>
      if (s.job? target).isNone ∨ !(s.job target).accepts.contains s.myTroupe.job then s.refuseValue (s.x o.b)
      else orElse (noTx s xLocal) (fun _ => s.askCont 4 (s.x o.a) o.d 0 0 o.rights.toNat target false))))

/-! ### The checks (R395, R396) -/

/-- Why a check fails: cause, reason, serial, registry entry. -/
structure ContFail where
  cause : Cause
  reason : Nat
  serial : Nat
  entry : Nat
  deriving DecidableEq, Repr

/-- Checks 1 to 9, the kind and rights as the action wants them: the object's bytes, or the first check that fails. -/
def State.checkObject (s : State) (job : Nat) (ptr : Word) (area : Bool) (kind : Nat → Bool) (right : Nat → Bool) :
    State × Except ContFail (List Byte) :=
  let head := if ptrOff ptr % 256 = 0 then objRead s job area ptr 32 else (s, none)
  match head with
  | (s1, none) => (s1, .error ⟨.badCont, 1, 0, 0⟩)
  | (s1, some h) =>
    let serial := fieldAt h 8 8
    let bad (n : Nat) : State × Except ContFail (List Byte) := (s1, .error ⟨.badCont, n, serial, 0⟩)
    if fieldAt h 248 8 = 0 then (s1, .error ⟨.badCont, 1, 0, 0⟩)
    else if fieldAt h 248 8 ≠ serial + 2 ^ 63 then bad 1
    else if fieldAt h 0 4 ≠ 0x544E4F43 then bad 2
    else if fieldAt h 4 1 ≠ 1 then bad 3
    else if fieldAt h 5 1 ≠ 0 then bad 4
    else if !kind (fieldAt h 6 1) then bad 5
    else if !right (fieldAt h 21 1) then bad 6
    else if fieldAt h 18 2 ≠ job then bad 7
    else
      let total := fieldAt h 32 8
      if total < 256 ∨ csizeOf 8 4 384 < total then bad 8
      else match objRead s1 job area ptr (total / 8) with
        | (s2, none) => (s2, .error ⟨.badCont, 8, serial, 0⟩)
        | (s2, some o) =>
          if (o.drop 224).take 16 ≠ sealOf s2 job o then (s2, .error ⟨.badCont, 8, serial, 0⟩)
          else if fieldAt o 7 1 / 4 % 2 = 1 ∧ fieldAt o 120 8 ≠ ptr.toNat then (s2, .error ⟨.badCont, 9, serial, 0⟩)
          else (s2, .ok o)

/-- Checks 12 and 13, in one step of the hub. -/
def State.checkLive (s : State) (job : Nat) (o : List Byte) : Option ContFail :=
  let serial := fieldAt o 8 8
  let self := fieldAt o 112 8
  let entry := s.registryAt job serial
  if entry ≠ serial then some ⟨.doubleResume, 1, serial, entry⟩
  else if self = 0 then (if fieldAt o 7 1 % 2 = 1 then none else some ⟨.badCont, 0x0B, serial, 0⟩)
  else match s.troupe? self with
    | some u => if u.job = job ∧ u.place = .object then none else some ⟨.badCont, 0x0B, serial, 0⟩
    | none => some ⟨.badCont, 0x0B, serial, 0⟩

def State.cont? (s : State) (id kind : Nat) : Option ContReq := s.reg.conts.find? (fun r => r.id == id && r.kind == kind)

def State.dropCont (s : State) (id : Nat) : State := { s with reg := { s.reg with conts := s.reg.conts.filter (fun r => r.id != id) } }

/-- The result of an action on an object. A strand that waits for it goes on, and its read of the completion word acquires
(R152, R153). -/
def State.answerCont (s : State) (r : ContReq) (v : Nat) : State :=
  let s1 := (s.dropCont r.id).setStrand r.sid (fun t =>
    { t.fillX r.reg (BitVec.ofNat 64 v) with blocked := if t.blocked = some r.id then none else t.blocked })
  match s.strand? r.sid with
  | some t => if r.kind = 1 then s1.acquire t.core else s1
  | none => s1

/-- A child that RESUME counted and that does not come. -/
def State.uncount (s : State) (u : Nat) : State := s.setTroupe u (fun x => { x with children := x.children - 1 })

/-- A check has failed: 0 in the register and the trap, or a report when the strand has ended. -/
def State.failCont (s : State) (r : ContReq) (f : ContFail) : State :=
  let s1 := (if r.kind = 1 then s.uncount r.troupe else s).answerCont r 0
  match s1.strand? r.sid with
  | some _ => s1.pendTrap r.sid ⟨f.cause, r.obj, BitVec.ofNat 64 (f.reason * 256 + r.kind), BitVec.ofNat 64 f.serial, BitVec.ofNat 64 f.entry, s.now⟩
  | none => s1.fabric 7 f.reason r.job (((s.strands.find? (fun t => t.sid == r.sid)).map (·.core)).getD 0) 0 r.obj

/-- An object's shape. -/
def objectShape (o : List Byte) : Template := ⟨0, fieldAt o 22 1, fieldAt o 23 1, fieldAt o 24 2⟩

/-! ### RESUME (R153, R154, R318) -/

/-- What is kept of the record of an exported object that no job has resumed, by the job and the serial that name the object wherever its
bytes lie. -/
def State.exported (s : State) (job serial : Nat) : Option Troupe :=
  s.troupes.find? (fun u => u.launch == 0 && u.place == .object && u.job == job && u.serial == serial)

/-- The record of the troupe that an exported object becomes: a child of the resumer's troupe in its launch (R158). What the old
engine commands of the object left goes with it. Its partition is the resumer's (L46). -/
def State.adopt (s : State) (r : ContReq) (o : List Byte) : State × Troupe :=
  let me := s.troupe r.troupe
  let old := s.exported r.job (fieldAt o 8 8)
  let t := objectShape o
  let u : Troupe :=
    { Troupe.blank with
      uid := s.nextId, job := r.job, launch := me.launch, index := fieldAt o 44 4, part := me.part, parent := me.uid, c := t.c, s := t.s, lm := t.lm,
      seed := me.seed, place := .object, strandsLeft := t.c * t.s, faults := (old.map (·.faults)).getD [], sids := (old.map (·.sids)).getD [],
      slots := (old.map (·.slots)).getD [], replayed := (old.map (·.replayed)).getD [] }
  let gone := (old.map (·.uid)).getD 0
  (({ s with troupes := s.troupes.filter (fun x => x.uid != gone) } : State).addTroupe u, u)

/-- The troupe of an object waits in its bay to be placed. -/
def State.queueObject (s : State) (u : Troupe) (part bay : Nat) (start : Start) : State :=
  (s.rouse bay).setTroupe u.uid (fun x => { x with place := .waiting, part := part, bay := bay, named := none, start := start })

/-- COMPARE_AND_CLEAR: id. -/
def execCompareAndClear (s : State) : Out State :=
  match s.cont? s.arg.id 1 with
  | none => .next s
  | some r =>
    if (s.job r.job).stopped then .next s
    else match s.checkObject r.job r.obj false (fun k => k == 1 || k == 3) (fun n => n / 2 % 2 == 1) with
      | (s1, .error f) => .next (s1.failCont r f)
      | (s1, .ok o) =>
        match s1.checkLive r.job o with
        | some f => .next (s1.failCont r f)
        | none =>
          let serial := fieldAt o 8 8
          let s2 := (s1.setRegistry r.job serial 0).answerCont r serial
          let ours := fieldAt o 112 8 != 0
          let (s3, u) := if ours then (s2.uncount r.troupe, s2.troupe (fieldAt o 112 8)) else s2.adopt r o
          let part := if r.any then u.part else (s3.partAt r.job r.bay).getD u.part
          let bay := if r.any then s3.chooseBay u u.part (s3.takesSection o) else r.bay
          .next (s3.queueObject u part bay (.object r.obj o (some r.value) none))

/-! ### CCOPY (R155, R157, R319) -/

/-- Whether some bound field of an object is not 0. -/
def objectBound (o : List Byte) : Bool :=
  (List.range (16 * fieldAt o 26 1)).any (fun i => fieldAt o (fieldAt o 96 8 + 8 * i + 4) 4 != 0)

/-- The destination of a copy: aligned, apart from the source, writable. -/
def State.copyDest (s : State) (job : Nat) (src dst : Word) (n : Nat) : Bool :=
  ptrOff dst % 256 == 0
    && !(src.extractLsb' 48 16 == dst.extractLsb' 48 16 && decide (ptrOff src < ptrOff dst + n) && decide (ptrOff dst < ptrOff src + n))
    && objRun s job false false true dst n

/-- Each credit folded into the saved counter of its record; the pending words become 0. -/
def foldCredits (o : List Byte) : List Byte :=
  let n := fieldAt o 26 1
  let pend := fieldAt o 96 8
  ((recordOffsets o n (fieldAt o 80 8)).zipIdx).foldl (fun b e =>
    (List.range 16).foldl (fun b k =>
      let a := pend + 128 * e.2 + 8 * k
      putField (putField b (e.1 + 64 + 4 * k) 4 (fieldAt b (e.1 + 64 + 4 * k) 4 + fieldAt b a 4)) a 8 0) b) o

/-- The reserved bytes of an object's header, as offset and length, and its flags and rights without their reserved bits (R143). -/
def headerReserved (o : List Byte) : List (Nat × Nat × Nat) :=
  [(7, 1, fieldAt o 7 1 % 8), (21, 1, fieldAt o 21 1 % 8), (29, 3, 0), (76, 4, 0), (168, 56, 0), (240, 8, 0)]

/-- The same of its records, its sections with their ring definitions and its journal entries (R55, R69, R144, R145). -/
def bodyReserved (o : List Byte) : List (Nat × Nat × Nat) :=
  let ring (p q : Nat) : List (Nat × Nat × Nat) :=
    let a := p + 256 + 32 * q
    [(a + 6, 2, fieldAt o (a + 6) 1 % 2), (a + 15, 17, 0)]
  (recordOffsets o (fieldAt o 26 1) (fieldAt o 80 8)).flatMap (fun p => [(p + 10, 2, 0), (p + 193, 63, 0)])
    ++ (sectionOffsets o (fieldAt o 22 1) (fieldAt o 88 8)).flatMap (fun p =>
      [(p + 5, 3, 0), (p + 16, 240, 0)] ++ (List.range 8).flatMap (ring p))
    ++ (List.range (32 * fieldAt o 22 1)).map (fun n => (fieldAt o 104 8 + 64 * n + 48, 16, 0))

/-- The copy of an object, its reserved bytes, its seal and its completion word zero; it becomes complete now (R5, R143; L47). -/
def copyBytes (o : List Byte) (serial rights uid : Nat) (dst : Word) (now : Nat) : List Byte :=
  putFields (putFields (foldCredits o) (headerReserved o ++ bodyReserved o))
    [(6, 1, 3), (7, 1, fieldAt o 7 1 % 4), (8, 8, serial), (21, 1, rights), (64, 8, now), (112, 8, uid), (120, 8, dst.toNat), (224, 8, 0), (232, 8, 0), (248, 8, 0)]

/-- The record of a copy with a serial: under the parent of the source, with no children (R157); that of an exported object's copy holds,
as its own does, only what the object does not. -/
def State.copyRecord (s : State) (o : List Byte) (dst : Word) (job serial : Nat) : State × Nat :=
  match if fieldAt o 112 8 = 0 then s.exported job (fieldAt o 8 8) else s.troupe? (fieldAt o 112 8) with
  | none => (s, 0)
  | some u =>
    let n := u.c * u.s
    let ids := (List.range n).map (s.nextId + 1 + ·)
    let copied (l : List Nat) : List Nat := (List.range n).filterMap (fun i => if l.contains (u.sids.getD i 0) then ids[i]? else none)
    let v : Troupe := { u with uid := s.nextId, children := 0, place := .object, object := dst, serial := serial, faults := [],
                               sids := ids, taken := copied u.taken, replayed := copied u.replayed }
    let s1 := { s with troupes := s.troupes ++ [v], nextId := s.nextId + 1 + n }
    if u.launch = 0 then (s1, 0)
    else ((if u.parent = 0 then s1.setLaunch u.launch (fun l => { l with rootCount := l.rootCount + 1 })
      else s1.setTroupe u.parent (fun x => { x with children := x.children + 1 })), v.uid)

/-- CCOPY_WRITE: id. Nothing happens while a bound field is not 0. -/
def execCcopyWrite (s : State) : Out State :=
  match s.cont? s.arg.id 2 with
  | none => .next s
  | some r =>
    if (s.job r.job).stopped then .next s
    else match s.checkObject r.job r.obj false (fun k => k == 1 || k == 3) (fun n => n % 2 == 1) with
      | (s1, .error f) => .next (s1.failCont r f)
      | (s1, .ok o) =>
        let serial := fieldAt o 8 8
        if !s1.copyDest r.job r.obj r.dest (fieldAt o 32 8) then .next (s1.failCont r ⟨.badCont, 0x0A, serial, 0⟩)
        else if objectBound o then .next s1
        else match s1.nextSerial r.job, s1.checkLive r.job o with
          | none, _ => .next (s1.failCont r ⟨.registry, 1, serial, 0⟩)
          | _, some f => .next (s1.failCont r f)
          | some v, none =>
            let s2 := s1.takeSerial r.job v
            let c := s2.copyRecord o r.dest r.job v
            let b := copyBytes o v (fieldAt o 21 1 &&& r.rights) c.2 r.dest s.now
            let sealed := b.take 224 ++ sealOf c.1 r.job b ++ b.drop 240
            let s3 := devWrite c.1 r.job r.dest sealed
            .next ((devWrite s3 r.job (completionPtr r.dest) (natBytes 8 (v + 2 ^ 63))).answerCont r v)

/-! ### CDISCARD (R156, R157, R363, R378) -/

/-- The troupe of an object counts as ended: its strands count toward no barrier any more (R35, R157). -/
def State.endObject (s : State) (u : Troupe) : State :=
  (s.setTroupe u.uid (fun x => { x with place := .ended, strandsLeft := 0, faults := [] })).openLbar u.launch

/-- What an object still carried is dropped and reported, an engine's fault as R385 has it, another trap as R401; the troupe in it counts
as ended. -/
def State.discardTroupe (s : State) (job : Nat) (o : List Byte) (ptr : Word) : State :=
  let old := match s.troupe? (fieldAt o 112 8) with
    | some u => some u
    | none => s.exported job (fieldAt o 8 8)
  let core := fieldAt o 72 4
  let n := ((recordOffsets o (fieldAt o 26 1) (fieldAt o 80 8)).map (fun x => fieldAt o (x + 192) 1)).sum
  let s1 := (List.range n).foldl (fun t _ => t.fabric 8 0 job core 0 ptr) s
  match old with
  | none => s1
  | some u =>
    let s2 := u.faults.foldl (fun t e =>
      if e.2.ofEngine then t.memReport 8 0 job (bayOfCore core) (dieOfCore core) e.2.c0 else t.fabric 8 0 job core 0 ptr) s1
    if u.launch = 0 then { s2 with troupes := s2.troupes.filter (fun x => x.uid != u.uid) } else s2.endObject u

/-- CDISCARD_CLEAR: id. -/
def execCdiscardClear (s : State) : Out State :=
  match s.cont? s.arg.id 3 with
  | none => .next s
  | some r =>
    if (s.job r.job).stopped then .next s
    else match s.checkObject r.job r.obj false (fun k => k == 1 || k == 3) (fun n => n / 4 % 2 == 1) with
      | (s1, .error f) => .next (s1.failCont r f)
      | (s1, .ok o) =>
        if objectBound o then .next s1
        else match s1.checkLive r.job o with
          | some f => .next (s1.failCont r f)
          | none =>
            let serial := fieldAt o 8 8
            .next (((s1.setRegistry r.job serial 0).answerCont r serial).discardTroupe r.job o r.obj)

/-! ### CEXPORT (R158, R324) -/

/-- The header of an exported object, under its new serial, its reserved bytes 0 (R5). -/
def exportBytes (o : List Byte) (serial target rights : Nat) : List Byte :=
  putFields (putFields o (headerReserved o))
    [(7, 1, fieldAt o 7 1 % 8 ||| 1), (8, 8, serial), (18, 2, target), (21, 1, fieldAt o 21 1 % 8 &&& rights), (48, 8, 0), (56, 8, 0), (112, 8, 0)]

/-- A command bound to an object follows it to another record. -/
def Cmd.follow (c : Cmd) (u v : Nat) : Cmd :=
  match c.bound with
  | some (a, w) => if w = u then { c with bound := some (a, v) } else c
  | none => c

/-- What the exported object keeps of its record until the target job resumes it: the traps of its engine commands. -/
def State.exportRecord (s : State) (o : List Byte) (target serial : Nat) (ptr : Word) (job : Nat) : State :=
  match s.troupe? (fieldAt o 112 8) with
  | none => match s.exported job (fieldAt o 8 8) with
    | some u => s.setTroupe u.uid (fun x => { x with job := target, serial := serial })
    | none => s
  | some u =>
    let v : Troupe := { u with uid := s.nextId, job := target, launch := 0, parent := 0, children := 0, place := .object, object := ptr,
                               serial := serial, taken := [] }
    let s1 : State := { s with troupes := s.troupes ++ [v], nextId := s.nextId + 1, cmds := s.cmds.map (fun c => c.follow u.uid v.uid) }
    s1.endObject u

/-- CEXPORT_SERVICE: id. -/
def execCexportService (s : State) : Out State :=
  match s.cont? s.arg.id 4 with
  | none => .next s
  | some r =>
    if (s.job r.job).stopped then .next s
    else match s.checkObject r.job r.obj false (fun k => k == 1 || k == 3) (fun n => n % 8 != 0) with
      | (s1, .error f) => .next (s1.failCont r f)
      | (s1, .ok o) =>
        let serial := fieldAt o 8 8
        match s1.nextSerial r.target, s1.checkLive r.job o with
        | none, _ => .next (s1.failCont r ⟨.registry, 2, serial, 0⟩)
        | _, some f => .next (s1.failCont r f)
        | some v, none =>
          let s2 := (s1.setRegistry r.job serial 0).takeSerial r.target v
          let b := exportBytes o v r.target r.rights
          let head := (b.take 224 ++ sealOf s2 r.target b ++ b.drop 240).take 248
          let s3 := devWrite s2 r.job r.obj head
          .next (((devWrite s3 r.job (completionPtr r.obj) (natBytes 8 (v + 2 ^ 63))).answerCont r v).exportRecord o r.target v r.obj r.job)

end Sys2Proof.Machine
end

