-- ==== Sys2Proof/Machine/Delivery.lean ====
section
/-! DEFINITION. What can happen to a strand at an instruction boundary before its instruction issues: CANCEL, a pending asynchronous trap,
a stop (spec/19 R358, R362, R363, R413; spec/02 R43, R44; spec/21 R399). -/

namespace Sys2Proof.Machine

/-- A pending trap that step 3 of R362 could deliver. -/
def deliverable (t : Strand) : Bool := t.mode == .running && !t.busy && !t.pend.isEmpty

/-- Whether the strand's stop can be taken now: a forced one at any boundary, as is one whose safe point lies behind it, the others at a
safe point (R43, R44, R106). -/
def stopHere (t : Strand) (safePoint : Bool) : Bool :=
  t.mode == .running && !t.busy && (decide (2 ≤ t.stopDue) || (t.stopDue != 0 && safePoint))

/-- A CANCEL that is due becomes pending at a safe point. -/
def cancelAt (s : State) (safePoint : Bool) : State := if safePoint && cancelHere s.cur then s.cancelNow s.cur else s

/-- Stop the strand in hand: after a SAFE with the registers of its mask live, at a wait before it, where a resume has started it as it had
stopped there, by force anywhere (R43, R44, R144). -/
def stopNow (s : State) : State :=
  s.stopStrand s.cur.sid (if 2 ≤ s.cur.stopDue then s.cur.stopDue else if s.cur.safe then s.cur.stopAs else 1) (s.stopCause s.cur)

/-- Deliver the pending trap that comes first: the strand leaves its wait (R413), and %epc names the instruction at its boundary. -/
def State.deliverFirst (s : State) : State :=
  match firstTrap s.cur.pend with
  | none => s
  | some p =>
    let s1 := s.leaveWait s.cur
    { s1 with cur := { s1.cur with pend := dropTrap p s1.cur.pend } }.takeTrap true p.cause p.c0 p.c1 p.c2 p.c3 s1.cur.pc

/-- ASYNC_TRAP_DELIVERY: strand (id). While busy is 1, after an issued instruction has yet to end, or while a transaction commits,
nothing is delivered. -/
def execAsyncTrapDelivery (s : State) : Out State :=
  let s1 := s.focus s.arg.id
  if s1.cur.sid = s.arg.id ∧ deliverable s1.cur ∧ s1.cur.blocked.isNone ∧ !s1.cur.tx.committing then
    .next s1.deliverFirst
  else .next s

end Sys2Proof.Machine
end

