-- ==== Sys2Proof/Machine/Errors.lean ====
section
/-! DEFINITION. Shootdowns (spec/03 R62, R63; spec/20 R379), detected errors (R380, R381), the fencing of a bay (R383) and an agent
declared dead (R385). -/

namespace Sys2Proof.Machine

/-! ### Shootdowns (R62) -/

/-- The agents that a shootdown goes to: the job's bays, the copy engines (80 to 103), the hub (104). -/
def shootAgents (j : Job) : List Nat := bayList j.bays ++ (List.range 25).map (80 + ·)

/-- Whether a pointer to depot space and n bytes overlap a range of depot offsets. -/
def rangesMeet (start len off n : Nat) : Bool := decide (off < start + len) && decide (start < off + n)

/-- Whether an entry of an agent's cache is one that a shootdown drops. -/
def Shoot.hits (h : Shoot) (unit : Nat) (e : TlbEntry) : Bool :=
  e.unit == unit && e.job == h.job && e.space == 3 && rangesMeet h.start h.len e.base e.len

/-- An agent's cache drops what matches, once, and the shootdown keeps what that was. -/
def State.dropEntries (s : State) (h : Shoot) (unit : Nat) : State :=
  if h.drops.any (fun d => d.1 == unit) then s
  else
    let ranges := (h.start, h.len) :: (s.tlb.filter (h.hits unit)).map (fun e => (e.base, e.len))
    { s with
      tlb := s.tlb.filter (fun e => !h.hits unit e), nextId := s.nextId + 1,
      reg := { s.reg with shoots := s.reg.shoots.map (fun x =>
        if x.id = h.id then { x with drops := x.drops ++ ranges.map (fun r => (unit, s.nextId + 1, r.1, r.2)) } else x) } }

/-- Whether an access of an agent, the n-th, to n bytes of depot space went through what the shootdown dropped. -/
def Shoot.concerns (h : Shoot) (unit id off n : Nat) : Bool :=
  h.drops.any (fun d => d.1 == unit && decide (id < d.2.1) && rangesMeet d.2.2.1 d.2.2.2 off n)

/-- Whether an access of an agent, the n-th, came before the agent dropped its entries. -/
def Shoot.before (h : Shoot) (unit id : Nat) : Bool := h.drops.any (fun d => d.1 == unit && decide (id < d.2.1))

/-- Whether a translation that an engine holds lies in the range. -/
def heldInRange (h : Shoot) (xs : List Xlat) : Bool :=
  xs.any (fun x => ptrSpace x.base == 3 && rangesMeet h.start h.len (ptrOff x.base) x.len)

/-- Whether an agent can answer: a bay and the hub when every access translated through what it dropped has completed at its home, deposits
merged, transactions that wrote there at their end and writes landed, an engine when its commands of the job are paused or outside the
range. Of deposits and landing writes any to the depot counts. -/
def State.canAnswer (s : State) (h : Shoot) (agent : Nat) : Bool :=
  if agent < 80 then
    s.reqs.all (fun r => bayOfCore r.core != agent || s.jobOf r.sid != h.job || ptrSpace r.ptr != 3
      || !h.concerns agent r.id (ptrOff r.ptr) (max 1 r.kind.span) || r.done)
    && s.cores.all (fun c => bayOfCore c.num != agent || c.upd.all (fun u => addrSpace u.dep.unit != 3 || !h.before agent u.dep.id
      || u.sids.all (fun sid => s.jobOf sid != h.job)))
    && s.strands.all (fun t => !t.exists? || bayOfCore t.core != agent || s.jobOf t.sid != h.job
      || (t.tx.comm.all (fun d => addrSpace d.unit != 3 || !h.before agent d.id)
        && t.tx.tiles.all (fun x => !x.write || ptrSpace x.ptr != 3 || !h.concerns agent 0 (ptrOff x.ptr / 2048 * 2048) 2048)))
  else if agent < 104 then
    s.cmds.all (fun c => c.engine != agent - 80 || c.job != h.job || c.state != .active || !(heldInRange h c.sx || heldInRange h c.dx))
  else s.hub.landings.all (fun l => !h.before agent l.id || s.hub.accs.all (fun a => a.num != l.chan || a.job != h.job)
    || l.left.all (fun u => addrSpace u.1 != 3))

/-- The last answer ends a shootdown: paused commands go on, pages go back to the allotment, the register of TLBINV or of the call is
filled. -/
def State.endShoot (s : State) (h : Shoot) : State :=
  let s1 : State := { s with reg := { s.reg with shoots := s.reg.shoots.filter (fun x => x.id != h.id) } }
  let s2 := s1.setJob h.job (fun j => { j with allotment := h.free.foldl insertNat j.allotment })
  let s3 := (s2.setStrand h.sid (fun t => t.fillX h.reg (if h.fenced ∧ !h.call then 1 else 0)))
  match s.strand? h.sid with
  | some t => s3.acquire t.core
  | none => s3

/-- An agent has answered. -/
def State.answerShoot (s : State) (id agent : Nat) (fenced : Bool) : State :=
  let upd (x : Shoot) : Shoot :=
    if x.id = id then { x with waiting := x.waiting.filter (· != agent), fenced := x.fenced || fenced } else x
  let s1 : State := { s with reg := { s.reg with shoots := s.reg.shoots.map upd } }
  match s1.reg.shoots.find? (fun x => x.id == id) with
  | some x => if x.waiting.isEmpty then s1.endShoot x else s1
  | none => s1

def State.shoot? (s : State) (id : Nat) : Option Shoot := s.reg.shoots.find? (fun x => x.id == id)

/-- A shootdown begins; its result register is empty until it ends. -/
def State.startShoot (s : State) (start len : Nat) (reg : Reg) (free : List Nat) (call : Bool) : State :=
  let h : Shoot := { id := s.nextId, job := s.myTroupe.job, start := start, len := len, waiting := shootAgents s.myJob, sid := s.cur.sid,
                     reg := reg, free := free, call := call, fenced := false, time := s.now, drops := [] }
  { s with reg := { s.reg with shoots := s.reg.shoots ++ [h] }, nextId := s.nextId + 1 }

/-- SHOOTDOWN_ANSWER: id, agent. -/
def execShootdownAnswer (s : State) : Out State :=
  match s.shoot? s.arg.id with
  | none => .next s
  | some h =>
    if !h.waiting.contains s.arg.sel then .next s
    else
      let s1 := s.dropEntries h s.arg.sel
      .next (if s1.canAnswer ((s1.shoot? h.id).getD h) s.arg.sel then s1.answerShoot h.id s.arg.sel false else s1)

/-! ### Words and lines go bad (R381) -/

/-- The job that a physical word concerns (R385): the one whose troupe holds it in its LM, whose window covers it, whose depot it lies in. -/
def State.jobAt (s : State) (a : Nat) : Nat :=
  let o := addrOff a
  let holds (j : Job) : Bool :=
    if addrSpace a = 2 then
      j.windows.any (fun w => w.die == addrUnit a && decide (w.pbase * 65536 ≤ o) && decide (o < (w.pbase + w.size) * 65536))
    else if addrSpace a = 3 then j.memory.any (fun r => decide (r.1 ≤ o) && decide (o < r.1 + r.2))
    else s.troupes.any (fun u => u.job == j.num && u.place == .placed && decide (u.core0 ≤ addrUnit a) && decide (addrUnit a < u.core0 + u.c)
      && decide (u.lmOff ≤ o) && decide (o < u.lmOff + u.lm * 1024))
  ((s.jobs.find? holds).map (·.num)).getD noJob

/-- A word is poisoned and reported. -/
def State.loseWord (s : State) (store a : Nat) : State :=
  (s.poisonStamped a).memReport 3 store (s.jobAt a) (homeDie a) (homeDie a) (BitVec.ofNat 64 (wordOf a))

/-- Every word of a line. -/
def State.loseLine (s : State) (store ln : Nat) : State := (List.range 16).foldl (fun t i => t.loseWord store (ln * 128 + 8 * i)) s

/-- A lasting error in a speculative tile, in the L1 or in a vitrine: its transaction aborts with FAULT; one that commits writes the words
of the tile poisoned, and its strand takes POISON after XEND (R382). -/
def State.loseTile (s : State) (store sid tile : Nat) : State :=
  match s.strand? sid with
  | none => s
  | some t =>
    if t.tx.depth = 0 then s
    else if !t.tx.committing then s.abortTx sid xFault 0 none
    else
      let mine (c : Host.Cell) : Bool := tileOf c.1 == tile
      let ws := ((t.tx.spec.filter mine).map (fun c => wordOf c.1)).dedup
      let s1 := (ws.foldl (fun u a => u.loseWord store a) s).setStrand sid (fun u =>
        { u with tx := { u.tx with spec := u.tx.spec.filter (fun c => !mine c) } })
      s1.commitLoses t (ws.headD (tile * 2048))

/-- What the L1s of some cores hold of deposits for some addresses, which lie in the lines given, is lost: the homes no longer wait for
it (R117, R380). -/
def State.loseDeposits (s : State) (lns : List Nat) (lost : Nat → Bool) (which : Core → Bool) : State :=
  let s1 : State := { s with cores := s.cores.map (fun c => if which c then c.loseDeposits lost else c) }
  lns.foldl (fun t ln => (t.setLine ln (t.noteDeposits ln)).reserveLine ln) s1

/-- An update-only line of a core is lost: the words that it covers are poisoned (R380). -/
def State.loseUpdate (s : State) (c a : Nat) : State :=
  let r := (s.core c).updateLine a
  ((wordsOf r.1 r.2).foldl (fun t w => t.loseWord 3 w) s).loseDeposits [lineOf a] (fun x => decide (r.1 ≤ x) && decide (x < r.1 + r.2))
    (fun k => k.num == c)

/-- The bay of the slice that serves a line on a die (R57). -/
def sliceBay (s : State) (ln die : Nat) : Nat := bayOfSlice (sliceOn s ln die)

/-- Whether a home slice holds a line that differs from memory: left open (L41). -/
def homeDirty (s : State) (ln : Nat) : Bool := Config.homeDirty s.ticks ln

/-! ### Fencing a bay (R383) -/

/-- A job is stopped with SOFT; the report names a strand of it if there is one. -/
def State.softStop (s : State) (job core : Nat) : State :=
  match s.strands.find? (fun t => t.exists? && (s.troupe t.troupe).job == job) with
  | some t => s.stopFor t 0 true .soft 0 0 0 0 t.pc
  | none => s.stopBare job 0 core .soft 0 0 0

/-- Jobs with a strand or a resident partition on a bay. -/
def State.jobsOn (s : State) (b : Nat) : List Nat :=
  (s.jobs.filter (fun j => !j.stopped && (j.parts.toList.any (fun p => p.state == .resident && p.bays.getLsbD b)
    || s.strands.any (fun t => t.exists? && bayOfCore t.core == b && (s.troupe t.troupe).job == j.num)))).map (·.num)

/-- The bay leaves every partition. -/
def Part.without (p : Part) (b : Nat) : Part := { p with bays := p.bays &&& ~~~((1 : BitVec 80) <<< b) }
def Job.without (j : Job) (b : Nat) : Job := { j with parts := j.parts.map (fun p => p.without b) }

/-- Whether a die's proxy alone holds the newest data of a line: it owns it in M or O, or has been asked for it and not answered (R115). -/
def Line.dirtyAt (l : Line) (die : Nat) : Bool :=
  l.owner == die && (l.share == .m || l.share == .o || (l.stale.isSome && l.awaiting.contains die))

/-- What the bay's caches alone held is lost: dirty copies of proxies, update-only lines, deposits its slices registered, lines dirty
in its home slices; transactions with tiles in its vitrines abort, those that commit lose the tiles (R382). -/
def State.loseBay (s : State) (b : Nat) : State :=
  let die := dieOfBay b
  let proxies := (s.coh.lines.filter (fun l => homeDie (l.line * 128) != die && sliceBay s l.line die == b && l.dirtyAt die)).map (·.line)
  let upd := (s.cores.filter (fun c => bayOfCore c.num == b)).flatMap (fun c => c.upd)
  let update := upd.flatMap (fun u => linesOf u.dep.unit u.dep.bytes)
  let deposits := List.flatten (s.cores.map (fun c => List.flatten (c.upd.map (fun u =>
    (linesOf u.dep.unit u.dep.bytes).filter (fun ln => u.registered && (sliceBay s ln (homeDie (ln * 128)) == b || sliceBay s ln (dieOfCore c.num) == b))))))
  let homes := (s.coh.lines.filter (fun l => homeDie (l.line * 128) == die && sliceBay s l.line die == b)).map (·.line)
  let tiles := (s.strands.filter (·.exists?)).flatMap (fun t => (t.tx.tiles.filter (fun x =>
    x.vitrine && homeDie (x.tile * 2048) == die && sliceBay s (x.tile * 16) die == b)).map (fun x => (t.sid, x.tile)))
  let s1 := tiles.foldl (fun t e => t.loseTile 6 e.1 e.2) s
  let s2 := (proxies ++ update ++ homes.filter (homeDirty s)).dedup.foldl (fun t ln => t.loseLine 6 ln) s1
  let lose (t : State) (lns : List Nat) (which : Core → Bool) : State := t.loseDeposits lns (fun a => lns.contains (lineOf a)) which
  let s3 := lose (lose (deposits.dedup.foldl (fun t ln => t.loseLine 3 ln) s2) deposits.dedup (fun _ => true)) update.dedup
    (fun c => bayOfCore c.num == b)
  { s3 with
    cores := s3.cores.map (fun c => if bayOfCore c.num = b then { c with l1 := [], acks := [], upd := [], icache := [] } else c),
    tlb := s3.tlb.filter (fun e => e.unit != b),
    reqs := s3.reqs.filter (fun r => bayOfCore r.core != b),
    coh := { s3.coh with
      lines := s3.coh.lines.filter (fun l => !homes.contains l.line),
      proxies := s3.coh.proxies.filter (fun p => !homes.contains p.line && !(p.die == die && sliceBay s p.line die == b)) } }

/-- The home role of the bay's slices moves to the next slice of an unfenced bay of the die. -/
def State.moveHomes (s : State) (b : Nat) : State :=
  let die := dieOfBay b
  let open' (sl : Nat) : Bool := !(s.bay (20 * die + sl / 4)).fenced
  let next (sl : Nat) : Nat := (((List.range 80).map (fun i => (sl + 1 + i) % 80)).find? open').getD sl
  let mine (r : Nat × Nat × Nat) : Bool := r.1 == die && r.2.2 / 4 == b % 20
  let moved := s.coh.rehomed.map (fun r => if mine r then (r.1, r.2.1, next r.2.2) else r)
  let own := ((List.range 4).map (fun i => 4 * (b % 20) + i)).filter (fun sl => !moved.any (fun r => r.1 == die && r.2.1 == sl))
  { s with coh := { s.coh with rehomed := moved ++ own.map (fun sl => (die, sl, next sl)) } }

/-- Every shootdown under way has seen a bay or engine fenced (R379). -/
def State.markShoots (s : State) : State := { s with reg := { s.reg with shoots := s.reg.shoots.map (fun h => { h with fenced := true }) } }

/-- The conservator fences a bay. -/
def State.fenceBay (s : State) (b : Nat) : State :=
  if (s.bay b).fenced then s
  else
    let s1 : State := (s.jobsOn b).foldl (fun t j => State.softStop t j (8 * b)) s
    let s2 : State := { s1 with jobs := s1.jobs.map (fun j => Job.without j b) }.setBay b (fun x => { x with fenced := true })
    let s3 := ((s2.loseBay b).moveHomes b).zeroStamps
    let s4 : State := { s3 with coh := { s3.coh with rebasing := true } }.memReport 4 0 noJob b (dieOfBay b) 0 |>.markShoots
    s4.reg.shoots.foldl (fun t h => if h.waiting.contains b then t.answerShoot h.id b true else t) s4

/-- Whether a command lies in an engine: not one that the hub alone handles. -/
def Cmd.inEngine (c : Cmd) (e : Nat) : Bool := c.engine == e && decide (c.units ≠ 0)

/-- A copy engine that is found bad is fenced: it drops its translations and takes no further command, and the jobs whose commands it has
stop, so that its accesses are dropped (L40). -/
def State.fenceEngine (s : State) (e : Nat) : State :=
  let s1 : State := { s.markShoots with
    tlb := s.tlb.filter (fun x => x.unit != engineUnit e), mgmt := { s.mgmt with fencedEngines := insertNat s.mgmt.fencedEngines e } }
  ((s.cmds.filter (fun c => c.inEngine e)).map (·.job)).dedup.foldl (fun t j => t.softStop j 0) s1

/-- The row of the table, and the bay or die of a site. -/
def siteRow : ErrSite → Nat
  | .registers _ _ => 0 | .icache _ _ => 1 | .leased _ _ _ => 2 | .updateOnly _ _ _ => 3 | .speculative _ _ _ => 4 | .localMem _ _ => 5
  | .l2 _ _ _ | .vitrine _ _ => 6 | .directory _ => 7 | .gallery _ => 8 | .depot _ => 9 | .table _ _ => 10

/-- The core of a strand. -/
def State.coreOf (s : State) (sid : Nat) : Nat := ((s.strands.find? (fun t => t.sid == sid)).map (·.core)).getD 0

/-- The flat bay of a site, and its die; the hub counts as die 4. -/
def State.siteBay (s : State) (e : ErrSite) : Nat :=
  match e with
  | .registers sid _ => bayOfCore (s.coreOf sid)
  | .icache c _ | .leased c _ _ | .updateOnly c _ _ => bayOfCore c
  | .speculative sid _ _ => bayOfCore (s.coreOf sid)
  | .vitrine _ tile => bayOfSlice (sliceOf s (tile * 16))
  | .localMem a _ => bayOfCore (addrUnit a)
  | .l2 die ln _ => sliceBay s ln die
  | .directory b => b
  | .gallery a | .depot a => 20 * homeDie a
  | .table u _ => if u < 80 then u else if u < 104 then 20 * ((u - 80) / 6) else 80

/-- SHOOTDOWN_TIMEOUT: id, agent. An agent silent for 100 µs is checked; when the retry fails the error of its translation cache is
lasting and reported, and it is fenced (R379, R380, R385). -/
def execShootdownTimeout (s : State) : Out State :=
  match s.shoot? s.arg.id with
  | none => .next s
  | some h =>
    let a := s.arg.sel
    if !h.waiting.contains a ∨ s.now < h.time + 100000 ∨ 104 ≤ a then .next s
    else if Config.retrySucceeds s.ticks then .next (s.transient 10 (if a < 80 then dieOfBay a else (a - 80) / 6) a)
    else
      let b := s.siteBay (.table a true)
      let s1 := s.memReport 2 10 noJob b (dieOfBay b) 0
      if a < 80 then .next (s1.fenceBay a) else .next ((s1.fenceEngine (a - 80)).answerShoot h.id a true)

/-! ### Detected errors (R380) -/

/-- Whether an error lies in control state. -/
def siteControl : ErrSite → Bool
  | .registers _ c | .icache _ c | .leased _ _ c | .updateOnly _ _ c | .speculative _ _ c | .localMem _ c | .table _ c => c
  | .directory _ => true
  | _ => false

/-- A lasting error in data. -/
def State.lastingData (s : State) (e : ErrSite) : State :=
  match e with
  | .registers sid _ => match s.strand? sid with
    | some t => s.stopFor t 0 true .soft 0 0 0 0 t.pc
    | none => s
  | .icache _ _ | .directory _ => s
  | .leased c ln _ => s.setCore c (fun k => { k with l1 := k.l1.filter (fun l => l.line != ln) })
  | .updateOnly c a _ => s.loseUpdate c a
  | .speculative sid tile _ => s.loseTile 4 sid tile
  | .vitrine sid tile => s.loseTile 6 sid tile
  | .localMem a _ => s.loseWord 5 a
  | .l2 die ln dirty =>
    if dirty ∧ die ≠ homeDie (ln * 128) then (s.loseLine 6 ln).settle ln true
    else if dirty then s.loseLine 6 ln
    else s
  | .gallery a => s.loseWord 8 a
  | .depot a => s.loseWord 9 a
  | .table u _ => { s with tlb := s.tlb.filter (fun x => x.unit != u) }

/-- A lasting error in control state: the bay is fenced, or the hub has a lasting error. -/
def State.lastingControl (s : State) (e : ErrSite) : State :=
  match e with
  | .table u _ => if 80 ≤ u then { s with mgmt := { s.mgmt with hubError := true } } else s.fenceBay u
  | _ => s.fenceBay (s.siteBay e)

/-- Whether the retry of an error always succeeds: the refetch of an instruction word is always clean (R380). -/
def alwaysClean : ErrSite → Bool
  | .icache _ false => true
  | _ => false

/-- The physical address of the word that an error concerns, and its job (R385): 0 and none where it lies in no word. -/
def siteAddr : ErrSite → Nat
  | .leased _ ln _ | .l2 _ ln _ => ln * 128
  | .speculative _ tile _ | .vitrine _ tile => tile * 2048
  | .localMem a _ | .gallery a | .depot a | .updateOnly _ a _ => wordOf a
  | .registers _ _ | .icache _ _ | .directory _ | .table _ _ => 0
def State.siteJob (s : State) (e : ErrSite) : Nat :=
  match e with
  | .registers sid _ | .speculative sid _ _ | .vitrine sid _ => ((s.strand? sid).map (fun t => (s.troupe t.troupe).job)).getD noJob
  | .icache _ _ | .directory _ | .table _ _ => noJob
  | _ => s.jobAt (siteAddr e)

/-- A detected error is retried once; a second failure makes it lasting. -/
def State.errorAt (s : State) (e : ErrSite) : State :=
  let b := s.siteBay e
  if alwaysClean e || Config.retrySucceeds s.ticks then s.transient (siteRow e) (dieOfBay b) b
  else
    let s1 := s.memReport 2 (siteRow e) (s.siteJob e) b (dieOfBay b) (BitVec.ofNat 64 (siteAddr e))
    if siteControl e then s1.lastingControl e else s1.lastingData e

/-- ERROR_DETECTED: site. -/
def execErrorDetected (s : State) : Out State :=
  match s.arg.site with
  | none => .next s
  | some e => .next (s.errorAt e)

/-- PATROL_SCRUB: address; `yes` when the word's code shows an error. -/
def execPatrolScrub (s : State) : Out State :=
  if s.arg.yes ∧ addrSpace s.arg.id = 2 then .next (s.errorAt (.gallery s.arg.id)) else .next s

/-! ### A dead agent (R385) -/

/-- A line no longer waits for a die or its cores; with no proxy left to answer the home copy counts again. -/
def Line.forget (l : Line) (die : Nat) : Line :=
  let left := l.awaiting.filter (fun a => !(a == die || a == die + 4 || (decide (8 ≤ a) && dieOfCore (a - 8) == die)))
  { l with awaiting := left, stale := if left.all (8 ≤ ·) && (l.share == .i || l.share == .s) then none else l.stale }

/-- Whether a line waits for an answer of a die: its proxy's or, for a deposit, that of one of its cores. -/
def Line.waitsFor (l : Line) (die : Nat) : Bool := l.awaiting.any (fun a => a == die || (decide (8 ≤ a) && dieOfCore (a - 8) == die))

/-- AGENT_DEAD: die. It has left an invalidation, recall or downgrade unanswered for 100 µs, and for 100 µs again. What it has written back
and what has not arrived is lost with it. -/
def execAgentDead (s : State) : Out State :=
  let d := s.arg.id
  if 4 ≤ d ∨ !s.coh.lines.any (fun l => l.waitsFor d && decide (l.askedAt + 200000 ≤ s.now)) then .next s
  else
    let dirty := (s.coh.lines.filter (fun l =>
      l.dirtyAt d || (l.owner == d && l.stale.isSome && l.awaiting.contains (d + 4)) || l.umask.getLsbD d
        || (homeDie (l.line * 128) == d && homeDirty s l.line))).map (·.line)
    let s1 : State := { s with mgmt := { s.mgmt with
      incarnation := Vector.ofFn (fun i => if i.val = d then (s.mgmt.incarnation[i] + 1) % 65536 else s.mgmt.incarnation[i]) } }
    let s2 := dirty.foldl (fun t ln => t.loseLine 6 ln) s1
    let s3 : State := { s2 with coh := { s2.coh with
      lines := s2.coh.lines.map (fun l => l.forget d), proxies := s2.coh.proxies.filter (fun p => p.die != d) } }
    let free := (s2.coh.lines.filter (fun l => l.inTransition && !(l.forget d).inTransition)).map (·.line)
    let s4 := (List.range 20).foldl (fun t i => t.fenceBay (20 * d + i)) (free.foldl (fun t ln => t.reserveLine ln) s3)
    .next (s4.memReport 5 0 noJob d d 0)

end Sys2Proof.Machine
end

