-- ==== Sys2Proof/Machine/Switches.lean ====
section
/-! DEFINITION. The switch of partitions: the request and its limits (spec/09 R178, spec/15 R323), the stop at T and at T + 20 µs
(spec/02 R44, spec/19 R362), and the switch itself with the incoming partition's objects (R45, R46; spec/20 R384; spec/21 R397). -/

namespace Sys2Proof.Machine

/-- Change a partition. -/
def State.setPart (s : State) (job part : Nat) (f : Part → Part) : State :=
  s.setJob job (fun j => { j with parts := Vector.ofFn (fun i => if i.val = part then f j.parts[i] else j.parts[i]) })

/-- Whether bays are held by a partition other than one: resident, or in a switch that is not over. R178 names resident partitions alone;
that the bays of one whose state is 3 count, too, is the model's choice (DESIGN CHOICE, L74). -/
def State.heldElsewhere (s : State) (bays : BitVec 80) (job part : Nat) : Bool :=
  s.jobs.any (fun j => (List.range 8).any (fun p =>
    !(j.num == job && p == part) && ((j.part p).state == .resident || (j.part p).state == .switching) && (j.part p).bays &&& bays != 0))

/-- A request that meets R178 is taken; another changes nothing. -/
def State.requestSwitch (s : State) (outJob outPart inJob inPart t : Nat) : Option State :=
  let o := (s.job outJob).part outPart
  let i := (s.job inJob).part inPart
  if t < s.now + 5000 ∨ o.state ≠ .resident ∨ i.state ≠ .out ∨ s.heldElsewhere i.bays outJob outPart then none
  else
    let s1 := (s.setPart outJob outPart (fun p => { p with state := .switching })).setPart inJob inPart (fun p => { p with state := .switching })
    let w : Switch := { id := s.nextId, outJob := outJob, outPart := outPart, inJob := inJob, inPart := inPart, t := t, phase := 0 }
    some { s1 with reg := { s1.reg with switches := s1.reg.switches ++ [w] }, nextId := s.nextId + 1 }.ageRecords

def State.switch? (s : State) (id : Nat) : Option Switch := s.reg.switches.find? (fun w => w.id == id)
def State.setSwitch (s : State) (id : Nat) (f : Switch → Switch) : State :=
  let upd (w : Switch) : Switch := if w.id = id then f w else w
  { s with reg := { s.reg with switches := s.reg.switches.map upd } }

/-- The strands of a partition that run. -/
def State.runningIn (s : State) (job part : Nat) : List Strand :=
  s.strands.filter (fun t => t.mode == .running && (s.troupe t.troupe).job == job && (s.troupe t.troupe).part == part)

/-- A strand at T: inside a transaction it aborts and stops, waiting it stops, else it is due to stop (R44, R106); one that another's
stop has stopped with the job stays so (R359). -/
def State.stopAtT (s : State) (t : Strand) : State :=
  let s1 := s.setStrand t.sid (fun u => { u with stopDue := max 1 u.stopDue })
  if (s1.strand? t.sid).all (fun u => u.mode != .running) then s1
  else if t.tx.depth ≠ 0 then s1.stopTx t xPreempt
  else if t.wait.isSome ∧ !t.busy ∧ t.pend.isEmpty ∧ !(t.cancelDue && !t.cancelTaken) then s1.stopStrand t.sid 1 xPreempt
  else s1

/-- SWITCH_TIME: id. The objects of this switch are laid from the base of the pre-emption area (R150); those of troupes that still wait to
be placed from it were read at the switch-in (L45). -/
def execSwitchTime (s : State) : Out State :=
  match s.switch? s.arg.id with
  | none => .next s
  | some w =>
    if w.phase ≠ 0 ∨ s.now < w.t then .next s
    else
      let s1 := (s.setSwitch w.id (fun x => { x with phase := 1 })).setPart w.outJob w.outPart (fun p => { p with preNext := 0 })
      .next ((s1.runningIn w.outJob w.outPart).foldl (fun t x => t.stopAtT x) s1)

/-- SWITCH_FORCED_STOP: id. A strand still in a handler stops its job with WATCHDOG. -/
def execSwitchForcedStop (s : State) : Out State :=
  match s.switch? s.arg.id with
  | none => .next s
  | some w =>
    if w.phase ≠ 1 ∨ s.now < w.t + 20000 then .next s
    else
      let s1 := s.setSwitch w.id (fun x => { x with phase := 2 })
      let late := s1.runningIn w.outJob w.outPart
      match late.find? Strand.busy with
      | some t =>
        let c := (s1.troupe t.troupe).capture
        .next (s1.stopFor t 0 true .watchdog 1 ((c.map (·.ptr)).getD 0) (BitVec.ofNat 64 ((c.map (·.start)).getD 0)) (BitVec.ofNat 64 w.t) t.pc)
      | none => .next (late.foldl (fun a t => a.setStrand t.sid (fun u => { u with stopDue := 2 })) s1)

/-! ### The switch (R45, R46, R178) -/

/-- Cores of a set of bays. -/
def coresOf (bays : BitVec 80) : List Nat := List.flatten ((bayList bays).map (fun b => (List.range 8).map (fun i => 8 * b + i)))

/-- A core's mailbox entries move to the parking buffer, ahead of those parked in flight. -/
def Core.park (c : Core) : Core := { c with starts := [], posts := [], parked := c.starts ++ c.posts ++ c.parked }

/-- What a stopped job's troupes hold in a partition is given up with its bays. -/
def State.clearStopped (s : State) (job part : Nat) : State :=
  let mine (u : Troupe) : Bool := u.job == job && u.part == part && u.place == .placed
  let gone (t : Strand) : Bool := s.troupes.any (fun u => mine u && u.uid == t.troupe)
  let free (u : Troupe) : Troupe := if mine u then { u with place := .done, capture := none } else u
  { s with
    troupes := s.troupes.map free, cur := if gone s.cur then Strand.blank else s.cur, rest := s.rest.filter (fun t => !gone t),
    cores := s.cores.map (fun c =>
      { c with
        rings := c.rings.map (fun r => if s.troupes.any (fun u => mine u && u.uid == r.troupe) then Ring.unbound else r),
        zholder := c.zholder.map (fun h => if s.strands.any (fun t => gone t && h == some t.sid) then none else h),
        zwait := c.zwait.map (fun l => l.filter (fun sid => !s.strands.any (fun t => gone t && sid == t.sid))) }) }

/-- The Registrar resumes one PREEMPT object: on the cores it was taken from, or in another bay when theirs has been fenced. -/
def State.resumePreempt (s : State) (job part : Nat) (e : Nat × Word × Bool) : State :=
  let (uid, ptr, registered) := e
  if (s.job job).stopped then s
  else match s.checkObject job ptr true (· == 2) (fun _ => true) with
    | (s1, .error f) => s1.stopBare job part (s.troupe uid).core0 .badCont ptr (BitVec.ofNat 64 (f.reason * 256 + 1)) (BitVec.ofNat 64 f.serial)
    | (s1, .ok o) =>
      match if registered then s1.checkLive job o else none with
      | some f => s1.stopBare job part (s.troupe uid).core0 .badCont ptr (BitVec.ofNat 64 (f.reason * 256 + 1)) (BitVec.ofNat 64 f.serial)
      | none =>
        let s2 := if registered then s1.setRegistry job (fieldAt o 8 8) 0 else s1
        let u := s2.troupe uid
        let home := fieldAt o 72 4
        if !(s2.bay (bayOfCore home)).fenced then
          let v : Troupe := { u with start := .object ptr o none (some home) }
          ((s2.rouse (bayOfCore home)).setTroupe uid (fun _ => v)).placeTroupe v home (fieldAt o (fieldAt o 88 8 + 12) 4)
        else s2.queueObject u part (s2.chooseBay u part (s2.takesSection o)) (.object ptr o none none)

/-- Every entry of a core's spill ring leaves it, and its segments return to the pool. -/
def State.emptySpill (s : State) (job core : Nat) : State :=
  ((s.core core).spillMeta.filter (fun m => m.job == job)).foldl (fun t _ => (t.unspill job core).1) s

/-- Messages of a job to cores of fenced bays are discarded at its switch-in; a START counts done to its parent (R384). -/
def State.discardFenced (s : State) (job : Nat) : State :=
  let lost (c : Core) : List Message :=
    if (s.bay (bayOfCore c.num)).fenced then (c.starts ++ c.posts ++ c.parked ++ c.spillMeta).filter (fun m => m.job == job) else []
  let all := List.flatten (s.cores.map lost)
  if all.isEmpty then s
  else
    let drop (c : Core) : Core :=
      if (s.bay (bayOfCore c.num)).fenced then
        { c with
          starts := c.starts.filter (fun m => m.job != job), posts := c.posts.filter (fun m => m.job != job),
          parked := c.parked.filter (fun m => m.job != job) }
      else c
    let s0 := (s.cores.filter (fun c => (s.bay (bayOfCore c.num)).fenced)).foldl (fun t c => t.emptySpill job c.num) s
    let s1 : State := { s0 with cores := s0.cores.map drop }
    ((all.filter (·.start)).foldl (fun t m => t.childDone m.launch m.parent) s1).memReport 9 0 job (bayOfCore ((all.map (·.core)).headD 0))
      (dieOfCore ((all.map (·.core)).headD 0)) (BitVec.ofNat 64 all.length)

/-- A troupe that waits in a fenced bay of a partition, or is one of a cohort reserved there, waits in another; where its launch's cancel
has come there before it, it is done without running (R10, R175; L64). -/
def State.moveTroupe (s : State) (u : Troupe) : State :=
  let bay := s.chooseBay u u.part (s.takes { u with named := none })
  let fresh := match u.start with | .fresh _ _ => true | .object _ _ _ _ => false
  if fresh && ((s.launch? u.launch).map (·.cancelReached.contains bay)).getD false then
    ({ s with troupes := s.troupes.filter (fun v => v.uid != u.uid) }.childDone u.launch u.parent).openLbar u.launch
  else s.setTroupe u.uid (fun x => { x with place := .waiting, bay := bay, named := none })

/-- Troupes that wait in a fenced bay of a partition wait in another. -/
def State.moveWaiting (s : State) (job part : Nat) : State :=
  (s.troupes.filter (fun u => u.job == job && u.part == part && (u.place == .waiting || u.place == .reserved) && (s.bay u.bay).fenced)).foldl
    State.moveTroupe s

/-- Bays of a partition that has become resident wake when work lies in them: troupes that wait or are reserved (R354). -/
def State.rouseWaiting (s : State) (job part : Nat) : State :=
  ((s.liveBays job part).filter (fun b => s.troupes.any (fun u => u.job == job && u.part == part && u.bay == b
    && (u.place == .waiting || u.place == .reserved)))).foldl State.rouse s

/-- Whether every troupe of the outgoing partition has been written, or its job has stopped. -/
def State.emptied (s : State) (job part : Nat) : Bool :=
  (s.job job).stopped || s.troupes.all (fun u => u.job != job || u.part != part || u.place != .placed)

/-- SWITCH_COMPLETE: id. An incoming partition that has no bay left has its job stopped (R384). -/
def execSwitchComplete (s : State) : Out State :=
  match s.switch? s.arg.id with
  | none => .next s
  | some w =>
    if w.phase = 0 ∨ !s.emptied w.outJob w.outPart then .next s
    else
      let outBays := ((s.job w.outJob).part w.outPart).bays
      let inBays := ((s.job w.inJob).part w.inPart).bays
      let s0 := if (s.job w.outJob).stopped then s.clearStopped w.outJob w.outPart else s
      let s1 := (coresOf outBays).foldl (fun t c => t.setCore c Core.park) ((bayList outBays).foldl (fun t b =>
        t.setBay b (fun x => { x with idleSince := s.now })) (s0.setPart w.outJob w.outPart (fun p => { p with state := .out })))
      let s2 := if w.inJob = w.outJob then s1
        else (coresOf (outBays &&& inBays)).foldl (fun t c => t.zeroRange (lmAddr c 0) (lmAddr c 0x60000)) s1
      let objs := ((s2.job w.inJob).part w.inPart).objects
      let s3 := (s2.discardFenced w.inJob).setPart w.inJob w.inPart (fun p => { p with objects := [], state := .resident })
      let s4 := if (s3.liveBays w.inJob w.inPart).isEmpty then
          s3.stopBare w.inJob w.inPart ((objs.head?.map (fun e => (s3.troupe e.1).core0)).getD 0) .soft 0 0 0
        else ((objs.foldl (fun t e => t.resumePreempt w.inJob w.inPart e) s3).moveWaiting w.inJob w.inPart).rouseWaiting w.inJob w.inPart
      .next ({ s4 with reg := { s4.reg with switches := s4.reg.switches.filter (fun x => x.id != w.id) } } : State).ageRecords

end Sys2Proof.Machine
end

