-- ==== Sys2Proof/Machine/System.lean ====
section
/-! DEFINITION. TLBINV, SYSCALL with its services, and MEASURE (spec/15 R321, R323, R325; spec/03 R59, R60, R62; spec/21 R403). -/

namespace Sys2Proof.Machine

/-! ### TLBINV (R321, R62) -/

/-- TLBINV: start and length are checked one after the other; a length of 0 completes at once. -/
def execTlbinv (o : SysOp) (s : State) : Out State :=
  withRegs s [rx 1 o.a o.ta, rx 2 o.b o.tb] [wx o.d] (fun s =>
    let p := s.x o.a
    let n := s.x o.b
    if ptrSpace p = 3 ∧ ptrOwner p ≠ 0 then s.illegal 0x0C
    else if ptrOff p % 65536 ≠ 0 then s.spaceTrap .misalign p accLoad 8
    else if ptrSpace p ≠ 3 then s.spaceTrap .space p accLoad 8
    else if 2 ^ 40 < n.toNat then s.illegal 0x0C
    else if n.toNat % 65536 ≠ 0 then s.spaceTrap .misalign n accLoad 8
    else orElse (noTx s xLocal) (fun _ =>
      if n = 0 then (s.setX o.d 0).advance
      else (s.startShoot (ptrOff p) n.toNat o.d [] false).advance.emptyX o.d))

/-! ### Page tables as the conservator writes them (R59, R60; L9) -/

/-- The size of a page by its code. -/
def pageBytes (code : Nat) : Nat := if code = 0 then 2 ^ 16 else if code = 1 then 2 ^ 21 else 2 ^ 30

/-- A leaf: rights rd, w, x in bits [4:2]. -/
def leafWord (phys rights : Nat) : Nat := phys + rights % 8 * 4 + 2

/-- A leaf that covers an offset: the address of its entry, its first offset, its size, its physical base. -/
structure LeafAt where
  entry : Nat
  off : Nat
  size : Nat
  phys : Nat
  deriving DecidableEq, Repr

def leafAt (s : State) (off : Nat) : Nat → List (Nat × Nat × Nat) → Option LeafAt
  | _, [] => none
  | base, (_, lo, n) :: rest =>
    let a := depAddr (base + off / 2 ^ lo % 2 ^ n * 8)
    let e := s.readN a 8
    let pa := e / 2 ^ 8 % 2 ^ 33 * 2 ^ 8
    if e % 4 = 2 then some ⟨a, off / 2 ^ lo * 2 ^ lo, 2 ^ lo, pa⟩
    else if e % 4 = 1 then leafAt s off pa rest
    else none

def State.leafOf (s : State) (job off : Nat) : Option LeafAt := leafAt s off (s.job job).ptBase walkLevels

/-- The leaves that meet a range of offsets. -/
def State.leavesIn (s : State) (job off len : Nat) : List LeafAt :=
  ((List.range (roundUp len 65536 / 65536)).filterMap (fun i => s.leafOf job (off + 65536 * i))).dedup

/-- Whether a leaf lies wholly in a range. -/
def LeafAt.within (l : LeafAt) (off len : Nat) : Bool := decide (off ≤ l.off) && decide (l.off + l.size ≤ off + len)

/-- Write a page-table entry. -/
def State.writeEntry (s : State) (a v : Nat) : State := s.agentWrite a (natBytes 8 v)

/-- Zero depot memory, as writes of the device. -/
def State.zeroDevice (s : State) (a n : Nat) : State :=
  let lns := (s.coh.lines.map (·.line)).filter (fun ln => decide (ln * 128 < a + n) && decide (a < ln * 128 + 128))
  let s1 := lns.foldl (fun t ln => (t.settle ln true).setLine ln (fun l => l.stampWrite 0)) s
  s1.zeroRange a (a + n)

/-- Set up a leaf of a size, with the tables it needs: each new table takes the next 4 KiB of the job's table area; nothing when that is
full. -/
def State.setLeaf (s : State) (job off size v : Nat) : Nat → List (Nat × Nat × Nat) → Option State
  | _, [] => some s
  | base, (_, lo, n) :: rest =>
    let a := depAddr (base + off / 2 ^ lo % 2 ^ n * 8)
    if 2 ^ lo ≤ size then some (s.writeEntry a v)
    else
      let e := s.readN a 8
      if e % 4 = 1 then s.setLeaf job off size v (e / 2 ^ 8 % 2 ^ 33 * 2 ^ 8) rest
      else
        let j := s.job job
        let t := j.tableArea + 4096 * j.tables
        if j.tableRoom ≤ j.tables then none
        else ((((s.setJob job (fun j => { j with tables := j.tables + 1 })).zeroDevice (depAddr t) 4096).writeEntry a (t + 1)).setLeaf
          job off size v t rest)

/-- Put a page into a job's table. -/
def State.mapPage (s : State) (job off size phys rights : Nat) : Option State :=
  s.setLeaf job off size (leafWord phys rights) (s.job job).ptBase walkLevels

/-- The lowest aligned run of free frames of 64 KiB for a page. -/
def findFrames (free : List Nat) (n : Nat) : Option Nat :=
  free.find? (fun f => f % n == 0 && (List.range n).all (fun i => free.contains (f + i)))

/-- Map pages one after another on zeroed frames of the allotment; nothing when these or the job's tables do not suffice. -/
def State.mapPages (s : State) (job off size rights : Nat) : Nat → Option State
  | 0 => some s
  | k + 1 =>
    let n := size / 65536
    match findFrames (s.job job).allotment n with
    | none => none
    | some f =>
      let s1 := s.setJob job (fun j => { j with allotment := j.allotment.filter (fun x => decide (x < f) || decide (f + n ≤ x)) })
      ((s1.zeroDevice (depAddr (65536 * f)) size).mapPage job off size (65536 * f) rights).bind
        (fun t => t.mapPages job (off + size) size rights k)

/-! ### SYSCALL (R323) -/

/-- The result of a service, which the register receives later. -/
def State.sysResult (s : State) (reg : Reg) (v : Int) : State :=
  let r := { newReq s (.conserv reg) 0 0 .rlx .str with state := .answered ((BitVec.ofInt 64 v).setWidth 256) true }
  ((s.acquire s.cur.core).post r).advance.emptyX reg

/-- A service: the argument block is read at issue, in the own LM; the call is a release at pkg scope. -/
def syscall (o : SyscallOp) (s : State) (k : State → Nat → Nat → Nat → State) : Out State :=
  withRegs s [rx 0 o.d o.td] [] (fun s =>
    let p := s.x o.d
    s.afterHold (fun s => s.checked p 64 64 accLoad true false (s.ownLm p) (fun s a =>
      s.releasing .rel .pkg (fun s =>
        if s.moving a 64 then s.notReady
        else
          let b := s.rawBytes a 64
          k s (fieldAt b 0 8) (fieldAt b 8 8) (fieldAt b 16 8)))))

def execSyscallNop (o : SyscallOp) (s : State) : Out State := syscall o s (fun s _ _ _ => s.sysResult o.d 0)
def execSyscallUnassigned (o : SyscallOp) (s : State) : Out State := syscall o s (fun s _ _ _ => s.sysResult o.d (-1))

/-- MAP: offset, length, page size and rights. -/
def execSyscallMap (o : SyscallOp) (s : State) : Out State :=
  syscall o s (fun s off len w =>
    let job := s.myTroupe.job
    let size := pageBytes (w % 4)
    if w % 4 = 3 ∨ off % size ≠ 0 ∨ len % size ≠ 0 ∨ 2 ^ 48 < off + len then s.sysResult o.d (-2)
    else if !(s.leavesIn job off len).isEmpty then s.sysResult o.d (-2)
    else match s.mapPages job off size (w / 4 % 8) (len / size) with
      | some t => t.sysResult o.d 0
      | none => s.sysResult o.d (-3))

/-- The frames of a leaf. -/
def LeafAt.frames (l : LeafAt) : List Nat := (List.range (l.size / 65536)).map (l.phys / 65536 + ·)

/-- UNMAP: the leaves go, the shootdown runs, then the pages return; the tables stay in place for later leaves (L9, L75). -/
def execSyscallUnmap (o : SyscallOp) (s : State) : Out State :=
  syscall o s (fun s off len _ =>
    let ls := s.leavesIn s.myTroupe.job off len
    if off % 65536 ≠ 0 ∨ len % 65536 ≠ 0 ∨ 2 ^ 48 < off + len ∨ !ls.all (fun l => l.within off len) then s.sysResult o.d (-2)
    else if len = 0 then s.sysResult o.d 0
    else
      let s1 := ls.foldl (fun t l => t.writeEntry l.entry 0) s
      (s1.startShoot off len o.d (List.flatten (ls.map (·.frames))) true).advance.emptyX o.d)

/-- SWITCH: outgoing, incoming partition of the job, T. -/
def execSyscallSwitch (o : SyscallOp) (s : State) : Out State :=
  syscall o s (fun s out in' t =>
    let job := s.myTroupe.job
    match s.requestSwitch job (out % 8) job (in' % 8) t with
    | some u => u.sysResult o.d 0
    | none => s.sysResult o.d (-2))

/-- RIGHTS: the mapped leaves of the range get new rights, those of the event table and the registry too (L75). -/
def execSyscallRights (o : SyscallOp) (s : State) : Out State :=
  syscall o s (fun s off len w =>
    let ls := s.leavesIn s.myTroupe.job off len
    if off % 65536 ≠ 0 ∨ 2 ^ 48 < off + len ∨ !ls.all (fun l => l.within off len) then s.sysResult o.d (-2)
    else (ls.foldl (fun t l => t.writeEntry l.entry (leafWord l.phys (w / 4 % 8))) s).sysResult o.d 0)

/-! ### MEASURE (R325, R403) -/

def execMeasure (o : SysOp) (s : State) : Out State :=
  withRegs s [rx 1 o.a o.ta, rx 2 o.b o.tb] [wx o.d] (fun s =>
    let p := s.x o.a
    let n := s.x o.b
    if !s.mayAccess .rlx then s.notReady
    else if ptrOff p % 8 ≠ 0 then s.spaceTrap .misalign p accLoad 8
    else if !reachHome p then s.spaceTrap .space p accLoad 8
    else if n.toNat < 8 ∨ 2 ^ 30 < n.toNat then s.illegal 0x0C
    else if n.toNat % 8 ≠ 0 then s.spaceTrap .misalign n accLoad 8
    else s.releasing .rel .pkg (fun s =>
      let r : MeasReq := { id := s.nextId, job := s.myTroupe.job, sid := s.cur.sid, ptr := p, len := n.toNat, reg := o.d }
      let s1 : State := { s with reg := { s.reg with measures := s.reg.measures ++ [r] }, nextId := s.nextId + 1 }
      s1.advance.emptyX o.d))

/-- Read a region for the conservator: its bytes, or the first word that fails a check, with the cause, reason and level. -/
def readRegion (s : State) (job : Nat) (p : Word) : Nat → State × Except (Word × Cause × Nat × Nat) (List Byte)
  | 0 => (s, .ok [])
  | n + 1 =>
    match lookup s 104 job p 8 true false false with
    | .bad c reason level => (s, .error (p, c, reason, level))
    | .good a _ =>
      if s.isPoison a then (s, .error (p, .poison, 0x20, 0))
      else
        let r := s.freshBytes a 8
        match readRegion r.1 job (ptrAt p 8) n with
        | (t, .ok bs) => (t, .ok (r.2 ++ bs))
        | (t, .error e) => (t, .error e)

/-- The measurement log holds 4,096 entries. -/
def logRoom (s : State) (n : Nat) : Bool := decide (s.mgmt.log.length + n ≤ 4096)

/-- MEASUREMENT_EXTENSION: id. The digest of the region and the new J enter the log. -/
def execMeasurementExtension (s : State) : Out State :=
  match s.reg.measures.find? (fun r => r.id == s.arg.id) with
  | none => .next s
  | some r =>
    if (s.job r.job).stopped then .next s
    else
      let s1 : State := { s with reg := { s.reg with measures := s.reg.measures.filter (fun x => x.id != r.id) } }
      let answer (t : State) (v : Int) : State := t.setStrand r.sid (fun u => u.fillX r.reg (BitVec.ofInt 64 v))
      match readRegion s1 r.job r.ptr (r.len / 8) with
      | (s2, .error (p, c, reason, level)) =>
        .next ((answer s2 0).pendTrap r.sid ⟨c, p, accInfo accLoad 8, BitVec.ofNat 64 (7 * 256 + 5), whyInfo reason 0 level, s.now⟩)
      | (s2, .ok bs) =>
        if !logRoom s2 2 then .next (answer s2 (-3))
        else
          let d := sha256 bs
          let j := digestOf (sha256 (digestBytes (s2.job r.job).measure ++ d))
          let s3 := s2.setJob r.job (fun x => { x with measure := j })
          .next (answer { s3 with mgmt := { s3.mgmt with log := s3.mgmt.log ++ [⟨3, r.job, digestOf d⟩, ⟨3, r.job, j⟩] } } 0)

end Sys2Proof.Machine
end

