-- ==== Sys2Proof/Machine/Transactions.lean ====
section
/-! DEFINITION. Tile transactions: the five instructions, registration and its limits, conflicts, the abort message and the
commit (spec/05 R91 to R105, spec/06 R115, R122, spec/14 R294). -/

namespace Sys2Proof.Machine

/-! ### The instructions -/

/-- The checkpoint of R93. -/
def Strand.checkpoint (t : Strand) : Ckpt := ⟨t.x, t.v, t.p, t.xfull, t.vfull⟩

/-- A transaction starts: checkpoint, handler, age (R91, R92, R103). -/
def State.beginTx (s : State) (handler : Word) : State :=
  let t := s.cur
  let fresh := t.sr.xage == 0
  let age : Word := if fresh then BitVec.ofNat 64 (max (s.timeAt t.core) 1) else t.sr.xage
  let status : Word := if fresh then t.tx.status &&& ~~~(0xF00000000000 : Word) else t.tx.status
  { s with cur := { t with
      sr := { t.sr with xage := age },
      tx := { Tx.none with depth := 1, handler := handler, ckpt := some t.checkpoint, status := status } } }

/-- XBEGIN (R91, R93): the start of a transaction is an acquire at pkg scope (R88). -/
def execXbegin (o : BZ) (s : State) : Out State :=
  .next (
    if s.cur.tx.depth = 0 then
      if s.cur.xfull ||| 1 = BitVec.allOnes 32 ∧ s.cur.vfull = BitVec.allOnes 32 then
        ((s.beginTx (s.target o.off)).acquire s.cur.core).advance
      else s.notReady
    else if s.cur.tx.depth < 15 then
      { s with cur := { s.cur with tx := { s.cur.tx with depth := s.cur.tx.depth + 1 } } }.advance
    else s.abortTx s.cur.sid xNest 0 none)

/-- XEND (R91, R105): at depth 1 the commit starts once every access of the transaction is granted and performed. -/
def execXend (s : State) : Out State :=
  .next (
    if s.cur.tx.depth = 0 then s.illegal 0x0B
    else if s.cur.tx.depth ≠ 1 then { s with cur := { s.cur with tx := { s.cur.tx with depth := s.cur.tx.depth - 1 } } }.advance
    else if s.reqs.any (fun r => r.sid == s.cur.sid && r.tx && !r.done) || s.cur.tx.doomed.isSome
        || !s.releaseReady s.cur.sid s.cur.core .pkg s.nextId then s.notReady
    else
      { s with
        reqs := s.reqs.map (fun r => if r.sid = s.cur.sid then { r with tx := false } else r),
        cur := { s.cur with tx := { s.cur.tx with committing := true }, skip := s.nextPc, stalled := false, safe := false } })

/-- XABORT (R91, R294). -/
def execXabort (s : State) : Out State :=
  .next (
    if s.cur.tx.depth = 0 then s.illegal 0x0B
    else s.abortTx s.cur.sid xExplicit ((rawOf s.ir).imm.toNat % 256) none)

def execXtest (d : Reg) (s : State) : Out State :=
  withRegs s [] [wx d] (fun s => (s.setX d (BitVec.ofNat 64 s.cur.tx.depth)).advance)

def execXstat (d : Reg) (s : State) : Out State := withRegs s [] [wx d] (fun s => (s.setX d s.cur.tx.status).advance)

/-! ### Registration (R94 to R97) -/

/-- Whether a transaction is older than another (R92). -/
def olderTx (t u : Strand) : Bool :=
  decide (t.sr.xage.toNat < u.sr.xage.toNat) || (t.sr.xage == u.sr.xage &&
    (decide (t.core < u.core) || (t.core == u.core && decide (t.hw < u.hw))))

/-- The home slice of a tile: that of its first line (L8). -/
def tileSlice (s : State) (tile : Nat) : Nat × Nat := sliceOf s (tile * 16)

/-- The speculative tiles in the L1 of a core: the strand and the tile (R95). -/
def State.l1Tiles (s : State) (core : Nat) : List (Nat × TxTile) :=
  List.flatten ((s.strands.filter (fun t => t.exists? && t.core == core && t.tx.depth != 0)).map (fun t =>
    (t.tx.tiles.filter (fun x => x.write && !x.vitrine)).map (fun x => (t.sid, x))))

/-- Speculative tiles in the vitrine of a slice (R96). -/
def State.vitrineCount (s : State) (k : Nat × Nat) : Nat :=
  ((s.strands.filter (·.exists?)).map (fun t => (t.tx.tiles.filter (fun x => x.vitrine && tileSlice s x.tile == k)).length)).sum

/-- The tile of a list that was written least recently. -/
def oldestTile : List (Nat × TxTile) → Option (Nat × TxTile)
  | [] => none
  | e :: r => match oldestTile r with
    | none => some e
    | some f => if f.2.last < e.2.last then some f else some e

/-- Make room in the L1 for one more speculative tile: nothing to do, a tile moves to the vitrine of its slice, or no room
there (R95, R96) or a gated slice (R122). -/
def State.spillTile (s : State) (core : Nat) : Option State :=
  let here := s.l1Tiles core
  if here.length < 16 then some s
  else match oldestTile here with
    | none => some s
    | some (sid, x) =>
      let k := tileSlice s x.tile
      if 150 ≤ s.vitrineCount k ∨ (s.bay (bayOfSlice k)).power = .gated then none
      else some ((s.setStrand sid (fun t => { t with tx := { t.tx with
        tiles := t.tx.tiles.map (fun y => if y.tile = x.tile then { y with vitrine := true } else y) } })).keepSlice k (x.tile * 16))

/-- The lines of the tile of a request. -/
def Req.tileLines (r : Req) : List Nat := (List.range 16).map (fun i => tileOf r.addr * 16 + i)

/-- A registration finds the deposits on its tile merged, so that none is later a write against it (R82, R97); a writer's every
proxy of the tile invalidated, a reader's the dirty data recalled (R115, R119). -/
def State.tileReady (s : State) (r : Req) (write : Bool) : Bool :=
  r.tileLines.all (if write then s.homeWritable else s.homeReadable)

/-- The lines of a tile that are not ready begin their transition. -/
def State.recallTile (s : State) (r : Req) (write : Bool) : State :=
  r.tileLines.foldl (fun x ln => if (if write then x.homeWritable ln else x.homeReadable ln) then x else x.beginRecall ln write) s

/-- The registration is granted, and the access is performed on the tile; the L1 gives up the leases that a new speculative tile leaves no
line for (R11). -/
def State.grantTx (s : State) (r : Req) (t : Strand) : State :=
  let tile := tileOf r.addr
  let reads := r.kind.reads
  let writes := r.kind.txWrites
  let newPlace := writes && !t.tx.tiles.any (fun x => x.tile == tile && x.write)
  match (if newPlace then s.spillTile t.core else some s) with
  | none => s.abortTx r.sid xCapacity 0 (some r.ptr)
  | some s1 =>
    ((((s1.setStrand r.sid (fun u => { u with tx := u.tx.enter tile reads writes r.ptr s.ticks })).acquire t.core).trimLeases t.core).txPerform r).noteServed r

/-- A transactional access that was not registered at issue, at its tile's home: limits, refusals, conflicts by age, grant. -/
def State.registerTx (s : State) (r : Req) (t : Strand) : State :=
  let tile := tileOf r.addr
  let writes := r.kind.txWrites
  let rivals := (s.conflicts tile writes).filter (fun u => u.sid != r.sid)
  if t.tx.exceeds tile r.kind.reads writes then s.abortTx r.sid xCapacity 0 (some r.ptr)
  else if t.tx.has tile writes then
    (s.setStrand r.sid (fun u => { u with tx := u.tx.enter tile r.kind.reads writes r.ptr s.ticks })).txPerform r
  else if s.coh.rebasing then s.refuse r false
  else if !(linesOf r.addr (max r.kind.span 1)).all (s.lineFree r) then s.refuse r true
  else if rivals.any (fun u => olderTx u t) then s.abortTx r.sid xConflict 0 (some r.ptr)
  else if !rivals.isEmpty then (s.doom tile writes r.sid).attempt r
  else if s.tileReady r writes then s.grantTx r t
  else if r.tileLines.any (fun ln => (s.line ln).inTransition) then s.refuse r true
  else (s.recallTile r writes).attempt r

/-- TRANSACTIONAL_REGISTRATION: the request id reaches the home of its tile. -/
def execTransactionalRegistration (s : State) : Out State :=
  match s.req? s.arg.id with
  | none => .next s
  | some r =>
    match s.strand? r.sid with
    | none => .next s
    | some t => if r.tx && r.kind.span != 0 && s.mayServe r && t.tx.doomed.isNone then .next (s.registerTx r t) else .next s

/-- CONFLICT_ABORT: the abort message reaches the strand (R97, R98, R103). -/
def execConflictAbort (s : State) : Out State :=
  match s.strand? s.arg.id with
  | none => .next s
  | some t =>
    match t.tx.doomed with
    | some p => if t.tx.depth = 0 ∨ t.tx.committing then .next s else .next (s.abortTx t.sid xConflict 0 (some p))
    | none => .next s

/-! ### Commit (R105) -/

/-- COMMIT_APPLY: a slice, numbered 80 for each die, applies the speculative versions of the tiles it is home to. -/
def execCommitApply (s : State) : Out State :=
  match s.strand? s.arg.id with
  | none => .next s
  | some t =>
    if t.tx.committing then
      .next (s.applyTiles t.sid (fun x => tileSlice s x.tile == (s.arg.sel / 80, s.arg.sel % 80)))
    else .next s

/-- The transaction is over: held commands are released, depth and age become 0, XEND retires. -/
def State.retireTx (s : State) (sid : Nat) : State :=
  (s.releaseHeld sid).setStrand sid (fun t =>
    { t.finishWait with sr := { t.sr with xage := 0 }, tx := { Tx.none with handler := t.tx.handler, status := t.tx.status } })

/-- TRANSACTION_COMMIT: every version is applied; the buffered comm accesses are deposited in issue order, one at a time as the
L1 has room, then XEND retires. -/
def execTransactionCommit (s : State) : Out State :=
  match s.strand? s.arg.id with
  | none => .next s
  | some t =>
    if !t.tx.committing || !t.tx.tiles.isEmpty then .next s
    else match t.tx.comm with
      | [] => .next (s.retireTx t.sid)
      | d :: r =>
        if !(s.focus t.sid).canDeposit d then .next (if s.updFull t.core d then s.evictOldest t.core else s)
        else .next ((s.takeDeposit t.core t.sid d).setStrand t.sid (fun u => { u with tx := { u.tx with comm := r } }))

end Sys2Proof.Machine
end

