-- ==== Sys2Proof/Machine/Power.lean ====
section
/-! DEFINITION. Power, reset, boot and measurement of the firmware (spec/18 R348 to R350; spec/21 R402), the module's outputs
(spec/20 R385), and the gating of bays (spec/18 R354, spec/06 R122). -/

namespace Sys2Proof.Machine

/-! ### Power and reset (R349) -/

/-- Everything as at the start of bring-up: nothing survives but the flash. The model's own counters go on (L2). -/
def State.cleared (s : State) (powered : Bool) : State :=
  { State.reset with
    mgmt := { Mgmt.reset with
      powered := powered, refclkA := false, refclkB := false, inReset := true, boot := 0, flash := s.mgmt.flash, draws := s.mgmt.draws },
    now := s.now, agenda := s.agenda, ticks := s.ticks, nextId := s.nextId }

/-- POWER_ON: the tray holds RSTN low. -/
def execPowerOn (s : State) : Out State := if s.mgmt.powered then .next s else .next (s.cleared true)

/-- RESET_ASSERT. -/
def execResetAssert (s : State) : Out State := if s.mgmt.powered then .next (s.cleared true) else .next s

/-- VIN_LOSS. -/
def execVinLoss (s : State) : Out State := .next (s.cleared false)

/-! ### The firmware image (R350) -/

/-- A section: offset, length, target. -/
def imageSection (f : List Byte) (i : Nat) : Nat × Nat × Nat := (fieldAt f (16 + 16 * i) 4, fieldAt f (20 + 16 * i) 4, fieldAt f (24 + 16 * i) 4)

/-- The sections of an image. -/
def imageSections (f : List Byte) : List (Nat × Nat × Nat) := (List.range (fieldAt f 12 4)).map (imageSection f)

/-- Whether the length and the section table are in range. -/
def imageInRange (f : List Byte) : Bool :=
  let n := fieldAt f 8 4
  n % 64 == 0 && decide (272 ≤ n) && decide (n + 384 ≤ f.length) && decide (1 ≤ fieldAt f 12 4) && decide (fieldAt f 12 4 ≤ 16)
    && (imageSections f).all (fun x => decide (x.1 + x.2.1 ≤ n) && decide (x.2.2 ≤ 5))

/-- The checks of the boot in their order: the first that fails, or 1. -/
def imageStatus (f : List Byte) : Nat :=
  let n := fieldAt f 8 4
  if fieldAt f 0 4 ≠ 0x57465748 then 0x10
  else if !imageInRange f then 0x11
  else if !Config.vendorSigned (digestOf (sha256 (f.take n))) ((f.drop n).take 384) then 0x12
  else 1

/-- The digest of a section of image f in the bytes b. -/
def sectionDigest (f b : List Byte) (i : Nat) : BitVec 256 :=
  let x := imageSection f i
  digestOf (sha256 ((b.drop x.1).take x.2.1))

/-- Whether every section loads with the digest that the signature check took of it (R402); b is what the load reads. -/
def loadsSame (f b : List Byte) : Bool := (List.range (fieldAt f 12 4)).all (fun i => sectionDigest f b i == sectionDigest f f i)

/-- Log entry 0 for the image, one more for each section. Entry 0 reports the image's version, in its index (R350; DESIGN CHOICE, L55). -/
def imageLog (f : List Byte) : List LogEntry :=
  ⟨1, fieldAt f 4 4, digestOf (sha256 (f.take (fieldAt f 8 4)))⟩ ::
    (List.range (fieldAt f 12 4)).map (fun i => ⟨2, i, sectionDigest f f i⟩)

/-- RESET_RELEASE: `bytes` what the load of the sections reads of the flash, where that is not what the signature check read; `yes` when the
links and LPDDR train, `also` when gallery and LM are zeroed without a lasting error. The reference clocks are stable by now; global time
starts at 0; a boot that fails waits for RSTN (R402). -/
def execResetRelease (s : State) : Out State :=
  if !s.mgmt.powered || !s.mgmt.inReset then .next s
  else
    let t := s.cleared true
    let f := s.mgmt.flash
    let image := imageStatus f
    let same := s.arg.bytes.isEmpty || loadsSame f s.arg.bytes
    let status := if image ≠ 1 then image else if !same then 0x13 else if !s.arg.yes then 0x20 else if !s.arg.also then 0x21 else 1
    .next { t with now := 0, mgmt := { t.mgmt with
      refclkA := true, refclkB := true, inReset := false, boot := status, log := if image = 1 ∧ same then imageLog f else [] } }

/-! ### Outputs (R348, R385, R402) -/

/-- PWRGD is high. -/
def State.pwrgd (s : State) : Bool := s.mgmt.powered

/-- FLTN is low: a bay is fenced, an agent has been declared dead, a stopped job has not been destroyed, the hub holds a lasting error,
or the boot has failed. -/
def State.faultOut (s : State) : Bool :=
  s.mgmt.bays.any (·.fenced) || s.mgmt.incarnation.toList.any (· != 1) || s.jobs.any (·.stopped) || s.mgmt.hubError
    || decide (2 ≤ s.mgmt.boot)

/-- What a register reads as on the SMBus, at address 0x4C: the boot status at 0x10 (R402), a power or temperature reading elsewhere (L56). -/
def State.smbus (s : State) (reg : Nat) : Byte := if reg = 0x10 then BitVec.ofNat 8 s.mgmt.boot else Config.smbusReading reg s.ticks

/-- The JTAG functions other than boundary scan are locked. -/
def State.jtagLocked (s : State) : Bool := s.mgmt.boot != 0

/-- The Ethernet ports are up. -/
def State.ethernetUp (s : State) : Bool := s.mgmt.boot == 1

/-! ### Bays asleep (R122, R354) -/

/-- Whether a partition that is resident or in a switch holds a bay. -/
def State.bayHeld (s : State) (b : Nat) : Bool :=
  s.jobs.any (fun j => j.parts.toList.any (fun p => (p.state == .resident || p.state == .switching) && p.bays.getLsbD b))

/-- Whether a line's home is in a slice of a bay. -/
def homedIn (s : State) (b ln : Nat) : Bool := bayOfSlice (sliceOf s ln) == b

/-- The deposit masks that a bay's slices keep as proxies are clear: no registered deposit of a core of their die lies on a line
homed elsewhere that they would hold (R118, R122). -/
def State.proxyMasksClear (s : State) (b : Nat) : Bool :=
  s.cores.all (fun c => dieOfCore c.num != dieOfBay b || c.upd.all (fun u => !u.registered
    || (linesOf u.dep.unit u.dep.bytes).all (fun ln => homeDie (ln * 128) == dieOfBay b || sliceBay s ln (dieOfBay b) != b)))

/-- A bay may be gated: no work for 100 µs, nothing of its cores on its way, update-only lines merged; its slices hold no dirty
proxy copy, no vitrine tile and no entry in a deposit mask, kept as homes or as proxies. -/
def State.mayGate (s : State) (b : Nat) : Bool :=
  (s.bay b).power == .active && !(s.bay b).fenced && !s.bayHeld b && decide ((s.bay b).idleSince + 100000 ≤ s.now)
    && s.strands.all (fun t => !t.exists? || bayOfCore t.core != b)
    && s.reqs.all (fun r => bayOfCore r.core != b) && s.cores.all (fun c => bayOfCore c.num != b || (c.upd.isEmpty && c.journal.isEmpty))
    && s.coh.lines.all (fun l => !homedIn s b l.line || (l.awaiting.isEmpty && l.umask == 0 && (s.depositCores l.line).isEmpty))
    && s.proxyMasksClear b
    && s.coh.proxies.all (fun p => p.die != dieOfBay b || sliceBay s p.line p.die != b
      || (let l := s.line p.line; !l.inTransition && !((l.share == .m || l.share == .o) && l.owner == p.die)))
    && s.strands.all (fun t => !t.exists? || t.tx.tiles.all (fun x => !x.vitrine || bayOfSlice (tileSlice s x.tile) != b))

/-- BAY_GATE: bay. Its leases and clean copies go, its lines are as evicted. -/
def execBayGate (s : State) : Out State :=
  let b := s.arg.id
  if 80 ≤ b ∨ !s.mayGate b then .next s
  else
    let s1 := (s.coh.proxies.filter (fun p => p.die == dieOfBay b && sliceBay s p.line p.die == b)).foldl State.evictProxy s
    let s2 : State := { s1 with
      cores := s1.cores.map (fun c => if bayOfCore c.num = b then { c with l1 := [], acks := [] } else c),
      tlb := s1.tlb.filter (fun e => e.unit != b) }
    let s3 := (s2.coh.lines.filter (fun l => homedIn s2 b l.line)).foldl State.evictHome s2
    .next (s3.setBay b (fun x => { x with power := .gated, gatedAt := s.now }))

/-- BAY_WAKE: bay. The cycles spent gated do not count (R242); its slices hold no line, so that each is filled at their floor (R111,
R122). -/
def execBayWake (s : State) : Out State :=
  let b := s.arg.id
  if (s.bay b).power = .waking then
    .next (s.setBay b (fun x => { x with power := .active, gatedNs := x.gatedNs + (s.now - x.gatedAt), idleSince := s.now }))
  else .next s

end Sys2Proof.Machine
end

