-- ==== Sys2Proof/Machine/SpanSend.lean ====
section
/-! DEFINITION. The sending side of Span: packets, the acceptance of commands, the replay journal, remote requests, LANDED, GAP and
RESPONSE, the timeouts and the break of a send channel (spec/10 R179 to R188, R194 to R198; spec/21 R387 to R393, R414;
spec/20 R376, R377). -/

namespace Sys2Proof.Machine

/-! ### Packets (R181 to R183) -/

/-- A packet of this package with nothing in it, its payload still as it is to be rebuilt. -/
def newPacket (s : State) (ty : Nat) (dst chan : BitVec 12) : Packet :=
  { ptype := BitVec.ofNat 8 ty, flags := 0, src := s.hub.own, dst := dst, chan := chan, seq := 0, flagno := 0, offset := 0,
    length := 0, op := 0, size := 0, tag := 0, a := 0, b := 0, zmap := 0, check := 0, payload := [], port := 0, vector := false }

/-- The words of a payload that are not all zero. -/
def keptWords (bs : List Byte) : List Word := (wordsOfBytes bs).filter (· != 0)

/-- Whether the hub compresses a payload: words all there, at least one flit saved (R183). -/
def compresses (offset : Word) (bs : List Byte) : Bool :=
  ptrOff offset % 8 == 0 && bs.length % 8 == 0 && decide ((8 * (keptWords bs).length + 63) / 64 < (bs.length + 63) / 64)

/-- Bit i for each word i that is not all zero. -/
def zmapOf (bs : List Byte) : Nat := ((wordsOfBytes bs).zipIdx.map (fun e => if e.1 = 0 then 0 else 2 ^ e.2)).sum

/-- Bytes as whole flits. -/
def flits (bs : List Byte) : List Byte := bs ++ zeros ((64 - bs.length % 64) % 64)

/-- The header's bytes 0 to 59 (R181). -/
def headerBytes (p : Packet) : List Byte :=
  natBytes 1 p.ptype.toNat ++ natBytes 1 p.flags.toNat ++ natBytes 2 p.src.toNat ++ natBytes 2 p.dst.toNat ++ natBytes 2 p.chan.toNat
    ++ natBytes 4 p.seq.toNat ++ natBytes 4 p.flagno.toNat ++ natBytes 8 p.offset.toNat ++ natBytes 2 p.length.toNat ++ natBytes 1 p.op.toNat
    ++ natBytes 1 p.size.toNat ++ natBytes 4 p.tag.toNat ++ natBytes 8 p.a.toNat ++ natBytes 8 p.b.toNat ++ natBytes 4 p.zmap.toNat ++ zeros 8

/-- The check value over header and payload as sent. -/
def packetCheck (p : Packet) : Quad := BitVec.ofNat 32 (crc32c (headerBytes p ++ p.payload))

/-- A packet as it is sent: a WRITE's or RESPONSE's payload compressed where that saves a flit, whole flits, the check. -/
def wirePacket (p : Packet) : Packet :=
  let q := if (p.ptype = 1 ∨ p.ptype = 7) ∧ compresses p.offset p.payload then
      { p with flags := p.flags ||| 1, zmap := BitVec.ofNat 32 (zmapOf p.payload), payload := flits (bytesOfWords (keptWords p.payload)) }
    else { p with payload := flits p.payload }
  { q with check := packetCheck q }

/-- Rebuild n words: the next word carried for each bit set of zmap, 0 for the others. -/
def unpackWords (z : Quad) : Nat → Nat → List Byte → List Byte
  | 0, _, _ => []
  | n + 1, i, bs => if z.getLsbD i then bs.take 8 ++ unpackWords z n (i + 1) (bs.drop 8) else zeros 8 ++ unpackWords z n (i + 1) bs

/-- The payload that a packet carries, as its receiver rebuilds it; a GAP's is its flits (R183, R387). -/
def rebuilt (p : Packet) : List Byte :=
  if p.flags.getLsbD 0 then unpackWords p.zmap (p.length.toNat / 8) 0 p.payload
  else if p.ptype = 6 then p.payload
  else p.payload.take p.length.toNat

/-- The ports that reach a destination, removed ones apart (R179, R390). -/
def State.routeOf (s : State) (dst : BitVec 12) : BitVec 36 :=
  ((s.hub.routes.find? (fun r => r.1 == dst)).map (·.2)).getD 0 &&& ~~~s.hub.removed

/-- The ports of a destination in the order of their turn: those after the one last used first. -/
def State.portsFor (s : State) (dst : BitVec 12) : List Nat :=
  let ports := (List.range 36).filter (fun i => (s.routeOf dst).getLsbD i)
  match (s.hub.outbox.filter (fun q => q.dst == dst)).getLast? with
  | none => ports
  | some q => ports.filter (fun i => decide (q.port < i)) ++ ports.filter (fun i => decide (i ≤ q.port))

/-- The port that a packet leaves on: the next one that has credit for its virtual lane, which is left open; without any the packet waits
for the next one (R180; L27). -/
def State.portFor (s : State) (dst : BitVec 12) : Option Nat :=
  match s.portsFor dst with
  | [] => none
  | [i] => some i
  | i :: r => ((i :: r).find? (fun k => Config.portCredit s.ticks k)).orElse (fun _ => some i)

/-- Send a packet: to the own package it turns at the hub (R64); with no route it is dropped (R390); else it leaves on a port of the
destination's mask (R180). -/
def State.sendPacket (s : State) (p : Packet) : State :=
  if p.dst = s.hub.own then { s with hub := { s.hub with outbox := s.hub.outbox ++ [wirePacket p] } }
  else match s.portFor p.dst with
    | none => s
    | some i => { s with hub := { s.hub with outbox := s.hub.outbox ++ [{ wirePacket p with port := i }] } }

/-- The packet that a step arrives with. One that turned at the hub is the n-th of those the hub holds for itself, and leaves it. -/
def State.arriving (s : State) : State × Option Packet :=
  if s.arg.yes then
    match s.hub.outbox[s.arg.id]? with
    | some p => if p.dst = s.hub.own then ({ s with hub := { s.hub with outbox := s.hub.outbox.eraseIdx s.arg.id } }, some p) else (s, none)
    | none => (s, none)
  else (s, s.arg.packet)

/-- The first look at an arriving packet of a type: one whose check disagrees is dropped and counted (R390); another's payload is rebuilt. -/
def State.arrive? (s : State) (ty : Nat) : State × Option Packet :=
  match s.arriving with
  | (s1, none) => (s1, none)
  | (s1, some p) =>
    if p.check ≠ packetCheck p then
      ({ s1 with hub := { s1.hub with drops := s1.hub.drops ++ [(p.port, s1.now)] } }.transient 255 4 p.port, none)
    else if p.ptype.toNat = ty ∧ p.dst = s1.hub.own then (s1, some { p with payload := rebuilt p }) else (s1, none)

/-! ### Sequence numbers (R187) -/

def precedes (a b : Quad) : Bool := b - a != 0 && decide ((b - a).toNat < 2 ^ 31)
def atOrBelow (a b : Quad) : Bool := a == b || precedes a b

/-- The flag number after f: 0 is never one (R191). -/
def nextFlagNo (f : Quad) : Quad := if f = BitVec.allOnes 32 then 1 else f + 1

/-! ### The replay journal (R195) -/

/-- The bytes of a record. -/
def JRec.bytes (j : JRec) : List Byte :=
  natBytes 4 j.seq.toNat ++ natBytes 4 j.flagno.toNat ++ natBytes 1 (if j.flag then 2 else 1) ++ natBytes 1 (j.mask * 16)
    ++ natBytes 2 j.payload.length ++ natBytes 4 j.size ++ natBytes 8 j.offset.toNat ++ natBytes 8 j.value.toNat
    ++ j.payload ++ zeros (j.size - 32 - j.payload.length)

/-- A pad record. -/
def padBytes (n : Nat) : List Byte := zeros 12 ++ natBytes 4 n ++ zeros 16

/-- Append a record at its place, in memory too as far as the job's depot space maps it (L92); a journal that was empty starts its timer
(R389). -/
def State.journal (s : State) (n : Nat) (j : JRec) (pad : Option Nat) : State :=
  match s.send? n with
  | none => s
  | some c =>
    let s1 := match pad with
      | some p => devWrite s c.job (ptrAt c.jbase p) (padBytes (c.ring - p))
      | none => s
    (devWrite s1 c.job (ptrAt c.jbase j.place) j.bytes).setSend n (fun h =>
      { h with
        progress := if h.journal.isEmpty then s.now else h.progress,
        journal := h.journal ++ [j], jhead := if h.journal.isEmpty then j.place else h.jhead,
        jtail := (j.place + j.size) % h.ring })

/-- Records are freed: jhead passes them. -/
def SendChan.free (c : SendChan) (keep : JRec → Bool) : SendChan :=
  let left := c.journal.filter keep
  { c with journal := left, jhead := match left with | [] => c.jtail | j :: _ => j.place }

/-- The packet of a record: replayed, it goes to the channel's peer (L91). -/
def JRec.packet (s : State) (c : SendChan) (j : JRec) : Packet :=
  { newPacket s (if j.flag then 2 else 1) c.peer c.peerAcc with
    flags := BitVec.ofNat 8 (j.mask % 16 * 16), seq := j.seq, flagno := j.flagno, offset := j.offset,
    length := BitVec.ofNat 16 j.payload.length, a := j.value, payload := j.payload, vector := j.vector }

/-! ### Accepting commands (R187, R188, R195, R307) -/

/-- The first command of each strand in a channel's queue. -/
def firstOfEach (s : State) : List Nat → List Nat → List Cmd
  | [], _ => []
  | id :: r, seen => match s.cmd? id with
    | none => firstOfEach s r seen
    | some c => if seen.contains c.sid then firstOfEach s r seen else c :: firstOfEach s r (c.sid :: seen)

/-- Take commands up to and with the first flag that has to wait (R195). -/
def untilFlag (full : Bool) : List Cmd → List Cmd
  | [] => []
  | c :: r => match c.kind with
    | .flag _ _ => if full then [] else c :: untilFlag full r
    | _ => c :: untilFlag full r

/-- The command that the hub accepts from next: a copy it has begun, else one of those that may come first. -/
def State.nextCommand (s : State) (h : SendChan) : Option Cmd :=
  let all := firstOfEach s h.queue []
  match all.find? (fun c => decide (0 < c.packets)) with
  | some c => some c
  | none =>
    let cs := (untilFlag (decide (16 ≤ h.flagsOut)) all).filter (fun c => c.state = .channel || c.state = .active || c.state = .paused)
    cs[Config.pick s.ticks % max cs.length 1]?

/-- Whether a command sends vector registers: a PUTV, or a vector store to REM. -/
def Cmd.vector (c : Cmd) : Bool := match c.kind with | .put _ data => decide (32 ≤ data.length) | _ => false

/-- One WRITE is formed, journaled and sent; `after` follows. -/
def State.formWrite (s : State) (n : Nat) (c : Cmd) (dst : Word) (data : List Byte) (after : State → State) : State :=
  match s.send? n with
  | none => s
  | some h =>
    if !h.inWindow 1 then s
    else match h.room (jrecSize data.length) with
      | none => s
      | some (place, pad) =>
        let j : JRec := { seq := h.nextSeq, flagno := 0, flag := false, mask := c.mask, offset := BitVec.ofNat 64 (ptrOff dst),
                          value := 0, payload := data, place := place, size := jrecSize data.length, cmd := c.id, sid := c.sid, plain := c.k == noCounter,
                          vector := c.vector }
        let p := { (j.packet s h) with dst := BitVec.ofNat 12 (ptrOwner dst) }
        after (((s.journal n j pad).sendPacket p).setSend n (fun h => { h with nextSeq := h.nextSeq + 1 }))

/-- A FLAG is formed, journaled and sent; its command waits for LANDED. -/
def State.formFlag (s : State) (n : Nat) (c : Cmd) (dst value : Word) : State :=
  match s.send? n with
  | none => s
  | some h => match h.room 32 with
    | none => s
    | some (place, pad) =>
      let j : JRec := { seq := h.nextSeq - 1, flagno := h.nextFlag, flag := true, mask := 0, offset := BitVec.ofNat 64 (ptrOff dst),
                        value := value, payload := [], place := place, size := 32, cmd := c.id, sid := c.sid, plain := c.k == noCounter, vector := false }
      let p := { (j.packet s h) with dst := BitVec.ofNat 12 (ptrOwner dst) }
      (((s.journal n j pad).sendPacket p).setSend n (fun h =>
        { h with nextFlag := nextFlagNo h.nextFlag, flagsOut := h.flagsOut + 1, queue := h.queue.filter (· != c.id) })).setCmd c.id
        (fun x => { x with state := .sent })

/-- The next packet of a copy, once all of its units are read. -/
def State.formCopy (s : State) (n : Nat) (c : Cmd) : State :=
  let p := c.ptrs s c.pos
  let m := c.packetUnits s
  let data := (List.range m).map (fun i => c.got (c.pos + i))
  if m = 0 ∨ data.any (·.isNone) then s
  else
    s.formWrite n c p.2 (data.flatMap (·.getD [])) (fun t =>
      let t1 := t.setCmd c.id (fun x =>
        { x with pos := x.pos + m, packets := x.packets + 1, loaded := x.loaded.filter (fun e => decide (c.pos + m ≤ e.1)) })
      if c.units ≤ c.pos + m then t1.setSend n (fun h => { h with queue := h.queue.filter (· != c.id) }) else t1)

/-- ACCEPT_CHANNEL_COMMAND: one WRITE or FLAG of a channel. A put is over once its WRITE is sent. -/
def execAcceptChannelCommand (s : State) : Out State :=
  let n := s.arg.id
  match s.send? n with
  | none => .next s
  | some h =>
    if h.state ≠ 1 ∧ h.state ≠ 2 then .next s
    else match s.nextCommand h with
      | none => .next s
      | some c => match c.kind with
        | .put dst data => .next (s.formWrite n c dst data (fun t => t.endCmd c))
        | .flag dst v => .next (s.formFlag n c dst v)
        | _ => .next (s.formCopy n c)

/-! ### Remote requests (R196, R393) -/

/-- The generation of a tag. -/
def State.generation (s : State) (tag : Nat) : Nat := ((s.hub.gens.find? (fun g => g.1 == tag)).map (·.2)).getD 0

/-- A tag is freed with its generation raised (R393). -/
def State.retireTag (s : State) (tag : Nat) : State :=
  { s with hub := { s.hub with
    tags := s.hub.tags.filter (fun t => t.1 != tag),
    gens := (tag, (s.generation tag + 1) % 2 ^ 19) :: s.hub.gens.filter (fun g => g.1 != tag) } }

/-- The lowest free tag of 8,192 (L88). -/
def State.freeTag (s : State) : Option Nat := (List.range 8192).find? (fun i => !s.hub.tags.any (fun t => t.1 == i))

/-- The bytes that a remote request asks for, and its access code. -/
def remSpan : ReqKind → Nat
  | .remRead n _ _ _ => n
  | .remAmo _ n _ _ _ _ => n
  | _ => 0

/-- The packet of a request. -/
def State.remPacket (s : State) (h : SendChan) (r : Req) (tag : Nat) : Packet :=
  let base := { newPacket s 4 (BitVec.ofNat 12 (ptrOwner r.ptr)) h.peerAcc with
    offset := BitVec.ofNat 64 (ptrOff r.ptr), tag := BitVec.ofNat 32 (tag + 8192 * s.generation tag) }
  match r.kind with
  | .remAmo op n _ a b _ => { base with ptype := 3, op := BitVec.ofNat 8 op, size := BitVec.ofNat 8 n, a := a, b := b }
  | k => { base with length := BitVec.ofNat 16 (remSpan k) }

/-- REMOTE_REQUEST_SEND: the request id takes a free tag and is sent; a release waits for the strand's earlier accesses, its
counted writes apart (R86, R308). -/
def execRemoteRequestSend (s : State) : Out State :=
  match s.req? s.arg.id with
  | none => .next s
  | some r =>
    if remSpan r.kind = 0 || r.state != .sent || (r.order.releases && !s.localReady r.sid r.core r.scope r.id) then .next s
    else match s.send? r.chan, s.freeTag with
      | some h, some tag =>
        let s1 := { s with hub := { s.hub with tags := s.hub.tags ++ [(tag, s.generation tag, r.id)] } }
        .next ((s1.setReq r.id (fun q => { q with state := .sentRemote tag, retryAt := s.now })).sendPacket (s.remPacket h r tag))
      | _, _ => .next s

/-- A request ends with 0 in its registers. -/
def State.zeroRequest (s : State) (r : Req) : State :=
  let s1 := match r.state with | .sentRemote tag => s.retireTag tag | _ => s
  (s1.dropReq r.id).setStrand r.sid (deliverTo r.kind 0)

/-- A failure status as a cause, with the reason of R376. -/
def statusCause (op : Nat) : Option (Cause × Nat) :=
  match op with
  | 1 => some (.translate, 0) | 2 => some (.protect, 0) | 3 => some (.poison, 0x20)
  | _ => none

/-- The counter of the RESPONSEs dropped for an old generation, which no report carries (R393). -/
def oldResponses : Nat := 0

/-- RESPONSE: the request of the tag completes into its registers; a failure gives 0 and its trap (R376). One with an old generation is
dropped and counted (R393). -/
def execResponse (s : State) : Out State :=
  match s.arrive? 7 with
  | (s1, none) => .next s1
  | (s1, some p) =>
    let tag := p.tag.toNat % 8192
    match s1.hub.tags.find? (fun t => t.1 == tag && t.2.1 == p.tag.toNat / 8192) with
    | none => .next (s1.countEvent oldResponses)
    | some (_, _, id) =>
      let s2 := { s1 with hub := { s1.hub with tags := s1.hub.tags.filter (fun t => t.1 != tag) } }
      match s2.req? id with
      | none => .next s2
      | some r =>
        let s3 := (s2.dropReq id).setStrand r.sid (deliverTo r.kind (if p.op = 0 then leNat p.payload else 0))
        let s4 := if r.order.acquires then s3.acquire r.core else s3
        match statusCause p.op.toNat with
        | none => .next s4
        | some (c, reason) =>
          .next (s4.pendTrap r.sid ⟨c, r.ptr, accInfo r.kind.acc (remSpan r.kind), BitVec.ofNat 64 (r.page * 256 + r.opcode),
            whyInfo reason 1 0, s4.now⟩)

/-- REMOTE_TIMEOUT (R393): tag. -/
def execRemoteTimeout (s : State) : Out State :=
  match s.hub.tags.find? (fun t => t.1 == s.arg.id) with
  | none => .next s
  | some (tag, gen, id) =>
    match s.req? id with
    | none => .next (s.retireTag tag)
    | some r =>
      let gap := ((s.send? r.chan).map (·.gapUs)).getD 50
      if r.retryAt + 8 * gap * 1000 ≤ s.now then
        let kind : Nat := match r.kind with | .remAmo op _ _ _ _ _ => 1 + 256 * op | _ => 0
        .next (((s.zeroRequest r).latch r.sid 1).pendTrap r.sid
          ⟨.remoteTimeout, r.ptr, BitVec.ofNat 64 kind, BitVec.ofNat 64 r.chan, BitVec.ofNat 64 (tag + 8192 * gen), s.now⟩)
      else .next s

/-! ### The break of a send channel (R391, R392) -/

/-- The trap of a bound command goes with its object; another goes to its strand. -/
def State.tellCmd (s : State) (n : Nat) (c : Cmd) (dropped : Nat) : State :=
  match c.bound with
  | some (_, u) => s.tellOnce n c.sid dropped (fun t p => t.setTroupe u (fun x => { x with faults := x.faults ++ [(c.sid, p)] }))
  | none => s.tellBroken n c.sid dropped

/-- The channel breaks: its commands end and credit, its requests end with 0, each strand so affected is told once. -/
def State.breakSend (s : State) (n side : Nat) : State :=
  match s.send? n with
  | none => s
  | some h =>
    let mine := s.cmds.filter (fun c => c.chan == n && c.state != .held && (c.toRem || (match c.kind with
      | .put _ _ | .flag _ _ => true
      | _ => false)))
    let reqs := s.reqs.filter (fun r => r.chan == n && remSpan r.kind != 0)
    let s1 := s.setSend n (fun h => { h with state := 3, queue := [], journal := [], jhead := h.jtail, flagsOut := 0, told := [], side := side })
    let s2 := mine.foldl (fun t c =>
      (t.tellCmd n c (mine.filter (fun d => d.sid == c.sid)).length).endCmd c) s1
    let s3 := reqs.foldl (fun t r => (t.zeroRequest r).tellBroken n r.sid 0) s2
    s3.fabric 1 { h with side := side }.breakRounds h.job n h.peer.toNat (h.landed.setWidth 64)

/-- A reply names an open send channel and comes from its peer; another is dropped and reported (R414). -/
def State.replyChan (s : State) (p : Packet) : State × Option SendChan :=
  match s.send? p.chan.toNat with
  | some h => if h.state = 0 ∨ h.peer ≠ p.src then (s.fabric 10 2 h.job p.chan.toNat p.src.toNat 0, none) else (s, some h)
  | none => (s.fabric 10 2 noJob p.chan.toNat p.src.toNat 0, none)

/-- A FLAGR is credited by its LANDED; a failure status goes to its strand (R377). -/
def State.creditFlag (s : State) (j : JRec) (status : Nat) : State :=
  match s.cmd? j.cmd with
  | none => s
  | some c =>
    let s1 := s.endCmd c
    match statusCause status with
    | none => s1
    | some (cause, reason) =>
      let t : Trap := ⟨cause, c.dst, accInfo accStore 8, BitVec.ofNat 64 (c.page * 256 + c.opcode), whyInfo reason 1 0, s.now⟩
      match c.bound with
      | some (_, u) => s1.setTroupe u (fun x => { x with faults := x.faults ++ [(c.sid, t)] })
      | none => match s1.strand? c.sid with
        | some _ => s1.pendTrap c.sid t
        | none => s1.fabric 8 0 c.job c.core 0 c.dst

/-- LANDED (R195, R388, R389). On a broken channel it moves nothing (R392). -/
def execLanded (s : State) : Out State :=
  match s.arrive? 5 with
  | (s1, none) => .next s1
  | (s1, some p) =>
    match s1.replyChan p with
    | (s2, none) => .next s2
    | (s2, some h) =>
      if h.state = 3 then .next s2 else
      let n := h.num
      let advanced := precedes h.landed p.seq
      let landed := if advanced then p.seq else h.landed
      let flag := if p.flagno = 0 then none else h.journal.find? (fun j => j.flag && j.flagno == p.flagno)
      let s3 := s2.setSend n (fun c =>
        { (c.free (fun j => !(!j.flag && atOrBelow j.seq landed) && !(j.flag && p.flagno != 0 && j.flagno == p.flagno))) with
          landed := landed,
          flagsOut := if flag.isSome then c.flagsOut - 1 else c.flagsOut,
          progress := if advanced || flag.isSome then s.now else c.progress,
          rounds := if advanced || flag.isSome then 0 else c.rounds })
      match flag with
      | some j => .next (s3.creditFlag j p.op.toNat)
      | none => .next s3

/-! ### The flag-hold table of the receiver (R192) -/

/-- The 32 bytes of a flag-hold entry (R192). -/
def flagBytes (h : HeldFlag) (state : Nat) : List Byte :=
  natBytes 2 h.chan ++ zeros 2 ++ natBytes 4 h.flagno.toNat ++ natBytes 4 h.through.toNat ++ natBytes 4 state ++ natBytes 8 h.offset.toNat
    ++ natBytes 8 h.value.toNat

/-- Hold a flag: in the table while one of its 4,096 entries is free, else in the lowest free entry of the overflow area (R192; L90). -/
def State.holdFlag (s : State) (h : HeldFlag) : State :=
  let keep (t : State) (v : HeldFlag) : State := { t with hub := { t.hub with flags := t.hub.flags ++ [v] } }
  let used := (s.hub.flags.filter (fun x => !x.hardware)).map (·.place)
  if (s.hub.flags.filter (·.hardware)).length < 4096 then keep s { h with hardware := true }
  else keep (s.agentWrite (depAddr (s.hub.flagArea + 32 * lowestFree used)) (flagBytes h 1)) { h with hardware := false, place := lowestFree used }

/-- The entry of a released flag in the overflow area is free. -/
def State.freeFlag (s : State) (h : HeldFlag) : State :=
  if h.hardware then s else s.agentWrite (depAddr (s.hub.flagArea + 32 * h.place)) (flagBytes h 0)

/-! ### Replay (R388, R389) -/

/-- A number lies in a range of a GAP. -/
def inRange (first : Quad) (n : Nat) (x : Quad) : Bool := decide ((x - first).toNat < n)

/-- Resend the records that one range lists. -/
def State.replayRange (s : State) (h : SendChan) (first : Quad) (count : Nat) : State :=
  let flags := decide (2 ^ 31 ≤ count)
  (h.journal.filter (fun j => j.flag == flags && inRange first (count % 2 ^ 31) (if flags then j.flagno else j.seq))).foldl
    (fun t j => t.sendPacket (j.packet t h)) s

/-- A GAP sets the replay bit of a strand's FENCE latch; for one that lies in an object the Registrar keeps it (R394). -/
def State.latchReplay (s : State) (sid : Nat) : State :=
  { s.latch sid 4 with troupes := s.troupes.map (fun u =>
    if u.sids.contains sid then { u with replayed := insertNat u.replayed sid } else u) }

/-- GAP: replay the listed records; round 9 announces the break. -/
def execGap (s : State) : Out State :=
  match s.arrive? 6 with
  | (s1, none) => .next s1
  | (s1, some p) =>
    match s1.replyChan p with
    | (s2, none) => .next s2
    | (s2, some h) =>
      if h.state = 3 then .next s2
      else if fieldAt p.payload 4 4 = 9 then .next (s2.breakSend h.num 1)
      else
        let s3 := (List.range (min (fieldAt p.payload 0 4) 31)).foldl (fun t i =>
          t.replayRange h (BitVec.ofNat 32 (fieldAt p.payload (8 + 8 * i) 4)) (fieldAt p.payload (12 + 8 * i) 4)) s2
        .next (h.users.foldl State.latchReplay s3)

/-- SENDER_TIMEOUT: channel. -/
def execSenderTimeout (s : State) : Out State :=
  match s.send? s.arg.id with
  | none => .next s
  | some h =>
    if h.state = 0 ∨ h.state = 3 ∨ s.now < h.progress + 2 * h.gapUs * 1000 then .next s
    else match h.journal.getLast? with
      | none => .next s
      | some j =>
        if 8 ≤ h.rounds then .next (s.breakSend h.num 0)
        else .next ((s.sendPacket (j.packet s h)).setSend h.num (fun c => { c with rounds := c.rounds + 1, progress := s.now }))

/-- CHANNEL_DRAINED (R198): channel. -/
def execChannelDrained (s : State) : Out State :=
  match s.send? s.arg.id with
  | none => .next s
  | some h =>
    if h.state = 2 ∧ h.queue.isEmpty ∧ !s.cmds.any (fun c => c.chan == h.num && (c.toRem || c.state = .sent || c.state = .channel))
        ∧ h.nextSeq - 1 = h.landed ∧ h.flagsOut = 0 then
      .next (s.setSend h.num (fun c => { c with state := 0 }))
    else .next s

/-- Whether 64 drops at a port fell within 1 ms (R390). -/
def Hub.manyDrops (h : Hub) (port : Nat) : Bool :=
  let times := (h.drops.filter (fun d => d.1 == port)).map (·.2)
  (times.zip (times.drop 63)).any (fun e => decide (e.2 ≤ e.1 + 1000000))

/-- PORT_REMOVAL (R390): port. 64 drops within 1 ms take it out of every route mask. -/
def execPortRemoval (s : State) : Out State :=
  let i := s.arg.id
  if s.hub.manyDrops i ∧ i < 36 ∧ !s.hub.removed.getLsbD i then
    .next ({ s with hub := { s.hub with
      removed := s.hub.removed ||| ((1 : BitVec 36) <<< i), drops := s.hub.drops.filter (fun d => d.1 != i) } }.fabric 3 0 noJob i 0 0)
  else .next s

end Sys2Proof.Machine
end

