-- ==== Sys2Proof/Machine/Host.lean ====
section
/-! DEFINITION. The management requests of the host (spec/18 R351 to R353; spec/10 R198; spec/21 R391, R403) and its RDMA accesses
(spec/06 R121; spec/20 R381). A request that arrives while the queue pair does not listen has no effect. -/

namespace Sys2Proof.Machine

/-! ### Requests and replies (R351, R403) -/

/-- Status values. -/
def stDone : Nat := 0
def stUnknown : Nat := 1
def stInvalid : Nat := 2
def stExhausted : Nat := 3
def stNotNow : Nat := 4

/-- A reply: the code of the request, its status, its value. -/
def State.replyTo (s : State) (code status value : Nat) : State := s.send (.reply code status value)

/-- What reaches the queue pair has an effect once it listens. -/
def listening (s : State) (k : State → State) : Out State := if s.mgmt.boot = 1 then .next (k s) else .next s

/-- Serve a request. One that carries a code of its own which is none of the eight is answered with that code and status 1 (R403; L23). -/
def served (s : State) (k : State → State) : Out State :=
  listening s (fun s => match s.arg.code with
    | some c => if 1 ≤ c ∧ c ≤ 8 then k s else s.replyTo c stUnknown 0
    | none => k s)

/-! ### IDENT and ROUTE (R179, R390) -/

/-- The route table is written; a port that a mask names serves again. -/
def State.setRoutes (s : State) (routes : List (BitVec 12 × BitVec 36)) : State :=
  { s with hub := { s.hub with
    routes := routes, removed := routes.foldl (fun m r => m &&& ~~~r.2) s.hub.removed,
    drops := s.hub.drops.filter (fun d => !(s.hub.removed.getLsbD d.1 && routes.any (fun r => r.2.getLsbD d.1))) } }

/-- IDENT: identifier (id), routes. -/
def execIdent (s : State) : Out State :=
  served s (fun s =>
    if s.mgmt.identDone then s.replyTo 1 stNotNow 0
    else if 4096 ≤ s.arg.id then s.replyTo 1 stInvalid 0
    else
      let s1 := s.setRoutes s.arg.routes
      ({ s1 with mgmt := { s1.mgmt with identDone := true }, hub := { s1.hub with own := BitVec.ofNat 12 s.arg.id } } : State).replyTo 1 stDone 0)

/-- ROUTE: routes. -/
def execRoute (s : State) : Out State :=
  served s (fun s => if s.mgmt.identDone then (s.setRoutes s.arg.routes).replyTo 8 stDone 0 else s.replyTo 8 stNotNow 0)

/-! ### ATTEST (R352) -/

/-- The 48 bytes of a log entry. -/
def LogEntry.bytes (e : LogEntry) : List Byte := natBytes 4 e.kind ++ natBytes 4 e.index ++ zeros 8 ++ digestBytes e.digest

/-- ATTEST: nonce; `yes` with a job (id). -/
def execAttest (s : State) : Out State :=
  served s (fun s =>
    if s.arg.yes ∧ (s.job? s.arg.id).isNone then s.send (.attest stInvalid [] none 0 [])
    else
      let log := s.mgmt.log
      let j := if s.arg.yes then some (s.job s.arg.id).measure else none
      let msg := digestBytes s.arg.nonce ++ sha256 (List.flatten (log.map LogEntry.bytes))
        ++ (match j with | some x => digestBytes x | none => [])
      s.send (.attest stDone log j (Config.deviceSignature (digestOf (sha256 msg))) Config.deviceCertificate))

/-! ### REG_MR (R65, R121) -/

/-- The lowest number from 1 on that no region of a sort has. -/
def State.freeKey (s : State) (host : Bool) : Nat :=
  ((List.range (s.mgmt.regions.length + 1)).find? (fun k => !s.mgmt.regions.any (fun g => g.host == host && g.key == k + 1))).getD 0 + 1

def State.addRegion (s : State) (g : Region) : State := { s with mgmt := { s.mgmt with regions := s.mgmt.regions ++ [g] } }

/-- REG_MR: mr. The reply holds the rkey or the region handle. -/
def execRegMr (s : State) : Out State :=
  served s (fun s =>
    match s.arg.mr with
    | none => s.replyTo 3 stInvalid 0
    | some (.job job ptr len r w) =>
      if (s.job? job).isNone ∨ !reachHome ptr ∨ 2 ^ 48 < ptrOff ptr + len then s.replyTo 3 stInvalid 0
      else (s.addRegion ⟨s.freeKey false, false, job, ptr, len, r, w⟩).replyTo 3 stDone (s.freeKey false)
    | some (.host job len) =>
      if (s.job? job).isNone ∨ 2 ^ 48 < len then s.replyTo 3 stInvalid 0
      else if 4096 ≤ s.freeKey true then s.replyTo 3 stExhausted 0
      else (s.addRegion ⟨s.freeKey true, true, job, 0, len, true, true⟩).replyTo 3 stDone (s.freeKey true))

/-! ### JOB_CREATE (R353) -/

/-- A partition as it is made. -/
def partMade (p : PartReq) : Part :=
  { bays := p.bays, state := if p.resident then .resident else .out, preArea := p.preArea, preSize := p.preSize, preNext := 0, objects := [] }

/-- Whether no two of a list of bay sets meet. -/
def baysDisjoint : List (BitVec 80) → Bool
  | [] => true
  | b :: r => r.all (fun c => b &&& c == 0) && baysDisjoint r

/-- Whether windows keep to R58. -/
def windowsOk : List GalWindow → Bool
  | [] => true
  | w :: r => decide (w.die < 4) && decide (w.pbase + w.size ≤ 32768) && decide (w.vbase + w.size ≤ 2 ^ 32)
      && r.all (fun x => x.die != w.die || decide (x.vbase + x.size ≤ w.vbase) || decide (w.vbase + w.size ≤ x.vbase)) && windowsOk r

/-- The bytes of the depot: 2 TiB (R1, R8). -/
def depotBytes : Nat := 2 ^ 41

/-- Whether a range of physical depot addresses exists. -/
def inDepot (a n : Nat) : Bool := decide (a + n ≤ depotBytes)

/-- Whether two ranges have no byte in common. -/
def apart (a m b n : Nat) : Bool := decide (a + m ≤ b) || decide (b + n ≤ a)

/-- Whether a range has no byte in common with some ranges; whether no two of some ranges have. -/
def clearOf (x : Nat × Nat) (l : List (Nat × Nat)) : Bool := l.all (fun y => apart x.1 x.2 y.1 y.2)
def allApart : List (Nat × Nat) → Bool
  | [] => true
  | x :: r => clearOf x r && allApart r

/-- A DEP pointer at a multiple of some bytes. -/
def depAligned (p : Word) (align : Nat) : Bool := ptrSpace p == 3 && ptrOwner p == 0 && ptrOff p % align == 0

/-- The size of the page of a leaf at a level (R59). -/
def mappingSize (m : Mapping) : Nat := if m.level = 1 then 2 ^ 30 else if m.level = 2 then 2 ^ 21 else 2 ^ 16

/-- Whether an initial page mapping keeps to R59 and R60 and lies in the depot. -/
def mappingOk (m : Mapping) : Bool :=
  decide (1 ≤ m.level) && decide (m.level ≤ 3) && m.off % mappingSize m == 0 && decide (m.off + mappingSize m ≤ 2 ^ 48) && m.phys % mappingSize m == 0
    && inDepot m.phys (mappingSize m)

/-- Whether a remote window keeps to R64. -/
def remoteOk (w : RemWindow) : Bool :=
  w.vbase % 65536 == 0 && w.size % 65536 == 0 && decide (w.vbase + w.size ≤ 2 ^ 48) && (ptrSpace w.target == 2 || ptrSpace w.target == 3)

/-- Whether a launch queue keeps to R164. -/
def queueOk (q : QueueDesc) : Bool :=
  decide (q.queue < 256) && decide (6 ≤ q.log2size) && decide (q.log2size ≤ 16) && decide (1 ≤ q.feed) && decide (q.feed ≤ 3)
    && depAligned q.base 4096 && depAligned q.tailAddr 8 && depAligned q.headAddr 8

/-- The bytes of the event table and of the registry: whole pages of 64 KiB (R149, R167). -/
def evtabBytes : Nat := 2 ^ 18
def registryBytes (r : JobReq) : Nat := 8 * 2 ^ r.log2n

/-- Whether the frames of the allotment exist, are given once and suffice for the two tables that the conservator maps. -/
def framesOk (r : JobReq) : Bool :=
  r.allotment.all (fun f => inDepot (65536 * f) 65536) && decide r.allotment.Nodup
    && decide ((evtabBytes + registryBytes r) / 65536 ≤ r.allotment.length)

/-- Whether the places of what the conservator sets up in the job's DEP space are aligned and the tables that it maps stand clear of each
other and of the initial mappings (R123, R149, R150, R167, R171). -/
def placesOk (r : JobReq) : Bool :=
  depAligned r.evtab 65536 && depAligned r.creg 65536 && depAligned r.spillTable 65536 && r.spillPool.all (fun g => depAligned g 65536)
    && depAligned r.matchArea 4096 && r.parts.all (fun p => p.preSize == 0 || depAligned p.preArea 256)
    && apart (ptrOff r.evtab) evtabBytes (ptrOff r.creg) (registryBytes r) && allApart (r.mappings.map (fun m => (m.off, mappingSize m)))
    && r.mappings.all (fun m => apart m.off (mappingSize m) (ptrOff r.evtab) evtabBytes && apart m.off (mappingSize m) (ptrOff r.creg) (registryBytes r))

/-- The ranges of the depot that become the job's own: its level-1 table, its lower tables, its overflow areas, its allotment; and the pages
that it is created with. -/
def jobMemory (r : JobReq) : List (Nat × Nat) :=
  ([(r.ptBase, 2 ^ 21), (r.tableArea, 4096 * r.tableRoom), (r.waitArea, r.waitOverflow), (r.launchArea, r.launchOverflow)]
    ++ r.allotment.map (fun f => (65536 * f, 65536))).filter (fun x => x.2 != 0)
def jobPages (r : JobReq) : List (Nat × Nat) := r.mappings.map (fun m => (m.phys, mappingSize m))

/-- Whether the tables and areas are aligned, lie in the depot and stand clear of each other, of the allotment and of the first pages; and
whether there is room for the lower tables that the conservator sets up, at most two for a page (R59, R192; L9). -/
def areasOk (r : JobReq) : Bool :=
  r.ptBase % 2 ^ 21 == 0 && r.tableArea % 4096 == 0 && r.waitArea % 16 == 0 && r.launchArea % 64 == 0
    && (jobMemory r).all (fun x => inDepot x.1 x.2 && clearOf x (jobPages r)) && allApart (jobMemory r)
    && decide (2 * (r.mappings.length + (evtabBytes + registryBytes r) / 65536) ≤ r.tableRoom)

/-- Whether a request keeps to the rules its items cite: R1, R41, R58, R59, R60, R64, R123, R149, R150, R164, R167, R171, R177. -/
def jobValid (r : JobReq) : Bool :=
  decide (r.job < 65535) && decide (r.parts.length ≤ 8) && r.parts.all (fun p => decide (p.part < 8)) && baysDisjoint (r.parts.map (·.bays))
    && decide ((r.parts.map (·.part)).Nodup)
    && windowsOk r.windows && (List.range 4).all (fun d => decide ((r.windows.filter (fun w => w.die == d)).length ≤ 16))
    && decide (r.remotes.length ≤ 64) && r.remotes.all remoteOk && decide (16 ≤ r.log2n) && decide (r.log2n ≤ 24)
    && r.queues.all queueOk && decide (r.matchFirst + r.matchCount ≤ 1024) && ptrSpace r.codeBase == 3 && ptrSpace r.codeLimit == 3
    && r.mappings.all mappingOk && framesOk r && placesOk r && areasOk r

/-- Whether a request's memory stands clear of the flag overflow area, which the conservator has reserved (R192, R349), and its own of what
other jobs have; two jobs may be created with the same page mapped. -/
def State.sparesOthers (s : State) (r : JobReq) : Bool :=
  (jobMemory r ++ jobPages r).all (fun x => apart x.1 x.2 s.hub.flagArea flagAreaBytes)
    && s.jobs.all (fun j => (jobMemory r).all (fun x => clearOf x (j.memory ++ j.pages)) && (jobPages r).all (fun x => clearOf x j.memory))

/-- Whether the package still has what a request asks for: its bays, its queues, its match entries, its number. -/
def State.hasFor (s : State) (r : JobReq) : Bool :=
  (s.job? r.job).isNone
    && r.parts.all (fun p => !p.resident || (bayList p.bays).all (fun b => !s.bayHeld b && !(s.bay b).fenced))
    && r.queues.all (fun q => s.reg.queues.all (fun x => x.queue != q.queue)) && decide ((r.queues.map (·.queue)).Nodup) && s.sparesOthers r
    && s.jobs.all (fun j => decide (r.matchFirst + r.matchCount ≤ j.matchFirst) || decide (j.matchFirst + j.matchCount ≤ r.matchFirst))

/-- The record of the new job. -/
def jobRecord (r : JobReq) (draw : Nat) : Job :=
  { num := r.job, parts := Vector.ofFn (fun i => ((r.parts.find? (fun p => p.part == i.val)).map partMade).getD Part.blank),
    codeBase := r.codeBase, codeLimit := r.codeLimit, tvec := r.tvec, ptBase := r.ptBase, allotment := r.allotment,
    tableArea := r.tableArea, tableRoom := r.tableRoom, tables := 0, memory := jobMemory r, pages := jobPages r, windows := r.windows,
    remotes := r.remotes, creg := r.creg, log2n := r.log2n, serial := 1, sealDraw := draw, evtab := r.evtab,
    spillTable := r.spillTable, spillPool := r.spillPool, waitOverflow := r.waitOverflow, waitArea := r.waitArea,
    launchOverflow := r.launchOverflow, launchArea := r.launchArea, overflow := [],
    matchFirst := r.matchFirst, matchCount := r.matchCount, matchArea := r.matchArea, accepts := r.accepts, measure := 0,
    stale := Vector.replicate 8 0, admissions := 0, stopped := false, stopReported := false }

/-- Zero a range of a job's space, page by page. -/
def State.zeroJob (s : State) (job : Nat) (p : Word) (n : Nat) : State :=
  let off := ptrOff p
  (List.range ((off % 65536 + n + 65535) / 65536)).foldl (fun t i =>
    let page := off / 65536 * 65536 + 65536 * i
    let lo := max off page
    let hi := min (off + n) (page + 65536)
    match physOf t job (ptrAt p (lo - off)) with
    | some a => t.zeroDevice a (hi - lo)
    | none => t) s

/-- The first page mappings of a job. -/
def State.mapFirst (s : State) (job : Nat) : List Mapping → Option State
  | [] => some s
  | m :: ms => (s.mapPage job m.off (mappingSize m) m.phys (m.r.toNat + 2 * m.w.toNat + 4 * m.x.toNat)).bind (fun t => t.mapFirst job ms)

/-- Map a table of the conservator into a job's DEP space with the right rd and without w, on zeroed frames of the allotment (R149, R167). -/
def State.mapTable (s : State) (job : Nat) (p : Word) (n : Nat) : Option State := s.mapPages job (ptrOff p) 65536 1 (n / 65536)

/-- Zero the LM of a set of bays and set its tags full (R52). -/
def State.zeroBays (s : State) (bays : List Nat) : State :=
  bays.foldl (fun t b => (List.range 8).foldl (fun u i => u.zeroRange (lmAddr (8 * b + i) 0) (lmAddr (8 * b + i) 0x60000)) t) s

/-- Zero gallery windows and set their tags full (R58). -/
def State.zeroWindows (s : State) (ws : List GalWindow) : State :=
  ws.foldl (fun t w => t.zeroDevice (galAddr w.die (w.pbase * 65536)) (w.size * 65536)) s

/-- The conservator sets a job up: its table, its windows, the LM of its bays, its event table, registry, spill table and match area. What
the tail and head words of its queues hold stays as it is, and the count of records taken starts at 0 (L69). Nothing when its memory does
not suffice. -/
def State.makeJob (s : State) (r : JobReq) : Option State :=
  let fresh := (bayList (r.parts.foldl (fun a p => a ||| p.bays) 0)).filter (fun b => !s.bayHeld b)
  let s1 : State := { s with
    jobs := s.jobs ++ [jobRecord r s.mgmt.draws], mgmt := { s.mgmt with draws := s.mgmt.draws + 1 },
    reg := { s.reg with queues := s.reg.queues ++ r.queues.map (fun q => { q with job := r.job }) } }
  (((s1.zeroDevice (depAddr r.ptBase) (2 ^ 21)).mapFirst r.job r.mappings).bind (fun t =>
    (((t.zeroWindows r.windows).zeroBays fresh).mapTable r.job r.evtab evtabBytes).bind (fun t =>
      t.mapTable r.job r.creg (registryBytes r)))).map (fun t =>
        (t.zeroJob r.job r.spillTable (640 * 64)).zeroJob r.job r.matchArea (128 * r.matchCount))

/-- JOB_CREATE: job. -/
def execJobCreate (s : State) : Out State :=
  served s (fun s =>
    match s.arg.job with
    | none => s.replyTo 4 stInvalid 0
    | some r =>
      if !jobValid r || !s.hasFor r then s.replyTo 4 stInvalid 0
      else if 8 ≤ s.jobs.length then s.replyTo 4 stExhausted 0
      else match s.makeJob r with
        | none => s.replyTo 4 stExhausted 0
        | some t => t.replyTo 4 stDone r.job)

/-! ### JOB_DESTROY -/

/-- Deposits that strands of a job still hold in update-only lines are merged. -/
def State.mergeJob (s : State) (mine : Nat → Bool) : State :=
  s.cores.foldl (fun t c =>
    (c.upd.filter (fun u => u.sids.any mine)).foldl (fun y u => (y.clearTiles u.dep.unit u.dep.bytes true).mergeUnit c.num u.dep) t) s

/-- What a core holds for a job goes. -/
def Core.release (c : Core) (job : Nat) (mine troupe : Nat → Bool) : Core :=
  { c with
    rings := c.rings.map (fun r => if troupe r.troupe then Ring.unbound else r),
    zholder := c.zholder.map (fun h => match h with | some sid => if mine sid then none else some sid | none => none),
    zwait := c.zwait.map (fun l => l.filter (fun sid => !mine sid)),
    array := c.array.filter (fun o => match o with | .mma sid .. => !mine sid | .zscale sid .. => !mine sid),
    journal := c.journal.filter (fun e => !mine e.sid), replay := c.replay.filter (fun e => !mine e.sid),
    starts := c.starts.filter (fun m => m.job != job), posts := c.posts.filter (fun m => m.job != job),
    parked := c.parked.filter (fun m => m.job != job), spillMeta := c.spillMeta.filter (fun m => m.job != job) }

/-- What the Registrar holds for a job goes; a switch of one of its partitions goes on with the other side alone. -/
def Registrar.release (g : Registrar) (job : Nat) (mine troupe : Nat → Bool) : Registrar :=
  let queue (q : Nat) : Bool := g.queues.any (fun x => x.job == job && x.queue == q)
  { g with
    queues := g.queues.filter (fun q => q.job != job), heads := g.heads.filter (fun h => !queue h.1),
    records := g.records.filter (fun r => r.job != job), waits := g.waits.filter (fun w => w.job != job),
    requests := g.requests.filter (fun r => match r.2 with
      | .spawn u _ _ _ _ => !troupe u
      | .sendStart u _ _ => !troupe u
      | .event j _ _ _ _ _ => j != job),
    switches := g.switches.map (fun w =>
      { w with outJob := if w.outJob = job then noJob else w.outJob, inJob := if w.inJob = job then noJob else w.inJob }),
    messages := g.messages.filter (fun m => m.job != job), conts := g.conts.filter (fun c => c.job != job),
    shoots := g.shoots.filter (fun h => h.job != job), measures := g.measures.filter (fun m => m.job != job && !mine m.sid),
    reserved := g.reserved.filter (fun x => x.1 != job) }

/-- What the hub holds for a job goes; its channels are free. -/
def Hub.release (h : Hub) (job : Nat) (req : Nat → Bool) : Hub :=
  let acc (n : Nat) : Bool := h.accs.any (fun a => a.job == job && a.num == n)
  { h with
    sends := h.sends.filter (fun c => c.job != job), accs := h.accs.filter (fun a => a.job != job),
    flags := h.flags.filter (fun f => !acc f.chan), landings := h.landings.filter (fun l => !acc l.chan),
    tags := h.tags.filter (fun t => req t.2.2) }

/-- A job goes with everything it holds; the LM of its bays that no other job's partition holds and its gallery windows are zeroed. -/
def State.dropJob (s : State) (n : Nat) : State :=
  let j := s.job n
  let troupe (u : Nat) : Bool := s.troupes.any (fun t => t.uid == u && t.job == n)
  let mine (sid : Nat) : Bool := s.strands.any (fun t => t.sid == sid && t.exists? && troupe t.troupe)
  let bays := (bayList j.bays).filter (fun b => !s.jobs.any (fun k => k.num != n && (List.range 8).any (fun p => s.partHolds k.num p && (k.part p).bays.getLsbD b)))
  let held := s.hub.flags.filter (fun f => s.hub.accs.any (fun a => a.job == n && a.num == f.chan))
  let s1 := held.foldl State.freeFlag (s.mergeJob mine)
  let reqs := s1.reqs.filter (fun r => !mine r.sid)
  let s2 : State := { s1 with
    cur := if troupe s1.cur.troupe then Strand.blank else s1.cur, rest := s1.rest.filter (fun t => !troupe t.troupe),
    troupes := s1.troupes.filter (fun t => t.job != n), launches := s1.launches.filter (fun l => l.job != n),
    jobs := s1.jobs.filter (fun k => k.num != n), tlb := s1.tlb.filter (fun e => e.job != n),
    reqs := reqs, sfu := s1.sfu.filter (fun q => !mine q.sid), moves := s1.moves.filter (fun m => !mine m.sid),
    cmds := s1.cmds.filter (fun c => c.job != n), cores := s1.cores.map (fun c => c.release n mine troupe),
    reg := s1.reg.release n mine troupe, hub := s1.hub.release n (fun r => reqs.any (fun q => q.id == r)),
    mgmt := { s1.mgmt with regions := s1.mgmt.regions.filter (fun g => g.job != n) } }
  let s3 := (s2.zeroBays bays).zeroWindows j.windows
  bays.foldl (fun t b => t.setBay b (fun x => { x with idleSince := s.now })) s3

/-- JOB_DESTROY: job (id). -/
def execJobDestroy (s : State) : Out State :=
  served s (fun s =>
    if (s.job? s.arg.id).isNone then s.replyTo 5 stInvalid 0
    else (s.dropJob s.arg.id).replyTo 5 stDone 0)

/-! ### CHAN (R198, R391) -/

/-- A gap timeout: 50 µs when none is given. -/
def gapOf (g : Nat) : Nat := if g = 0 then 50 else g

def openAcc (chan job : Nat) (peer peerSend : BitVec 12) (gap : Nat) : AccChan :=
  { num := chan, job := job, peer := peer, peerSend := peerSend, state := 1, lwm := 0, nextFlag := 1, held := 0, since := 0, bits := 0,
    gapUs := gap, gapStart := 0, round := 0, lastLanded := none, lastGap := 0, failed := 0 }

def openSend (chan job : Nat) (peer peerAcc : BitVec 12) (gap : Nat) (jbase : Word) (jsize now : Nat) : SendChan :=
  { num := chan, job := job, peer := peer, peerAcc := peerAcc, state := 1, flagsOut := 0, nextSeq := 1, landed := 0, nextFlag := 1, gapUs := gap,
    jbase := jbase, jsize := jsize, jhead := 0, jtail := 0, queue := [], journal := [], progress := now, rounds := 0, users := [], told := [], side := 0 }

/-- Whether a job exists and a gap timeout is in range. -/
def State.chanArgs (s : State) (chan job gap : Nat) : Bool := decide (chan < 4096) && (s.job? job).isSome && decide (1 ≤ gap) && decide (gap ≤ 10000)

/-- CHAN: chan. -/
def execChan (s : State) : Out State :=
  served s (fun s =>
    match s.arg.chan with
    | none => s.replyTo 6 stInvalid 0
    | some (.openAcc chan job peer peerSend gap) =>
      if !s.chanArgs chan job (gapOf gap) then s.replyTo 6 stInvalid 0
      else if s.hub.accs.any (fun a => a.num == chan && a.state != 0) then s.replyTo 6 stNotNow 0
      else ({ s with hub := { s.hub with
        accs := s.hub.accs.filter (fun a => a.num != chan) ++ [openAcc chan job peer peerSend (gapOf gap)] } } : State).replyTo 6 stDone 0
    | some (.openSend chan job peer peerAcc gap jbase jsize) =>
      let size := if jsize = 0 then 64 else jsize
      if !s.chanArgs chan job (gapOf gap) || 1024 < size || ptrSpace jbase != 3 || ptrOff jbase % 65536 != 0 then s.replyTo 6 stInvalid 0
      else if s.hub.sends.any (fun c => c.num == chan && c.state != 0) then s.replyTo 6 stNotNow 0
      else ({ s with hub := { s.hub with
        sends := s.hub.sends.filter (fun c => c.num != chan) ++ [openSend chan job peer peerAcc (gapOf gap) jbase size s.now] } } : State).replyTo 6 stDone 0
    | some (.closeSend chan) =>
      match s.send? chan with
      | none => s.replyTo 6 stInvalid 0
      | some c =>
        if c.state = 1 then (s.setSend chan (fun x => { x with state := 2 })).replyTo 6 stDone 0
        else if c.state = 3 then (s.setSend chan (fun x => { x with state := 0 })).replyTo 6 stDone 0
        else s.replyTo 6 stNotNow 0
    | some (.closeAcc chan) =>
      match s.hub.accs.find? (fun a => a.num == chan) with
      | none => s.replyTo 6 stInvalid 0
      | some a =>
        if a.state = 2 ∨ (a.state = 1 ∧ a.held = 0) then
          ({ s with hub := { s.hub with
            accs := s.hub.accs.map (fun x => if x.num == chan then { x with state := 0, held := 0 } else x),
            landings := s.hub.landings.filter (fun l => l.chan != chan) } } : State).replyTo 6 stDone 0
        else s.replyTo 6 stNotNow 0)

/-! ### SWITCH (R178) -/

/-- SWITCH: outgoing job and partition, incoming job and partition, T (nums). -/
def execSwitch (s : State) : Out State :=
  served s (fun s =>
    match s.arg.nums with
    | [oj, op, ij, ip, t] => match s.requestSwitch oj op ij ip t with
      | some u => u.replyTo 7 stDone 0
      | none => s.replyTo 7 stInvalid 0
    | _ => s.replyTo 7 stInvalid 0)

/-! ### Host RDMA (R121) -/

/-- The region of an rkey. -/
def State.region? (s : State) (key : Nat) : Option Region := s.mgmt.regions.find? (fun g => !g.host && g.key == key)

/-- The pieces of a range, one for each aligned word: pointer and length. -/
def wordPieces (p : Word) : Nat → Nat → List (Word × Nat)
  | 0, _ => []
  | _ + 1, 0 => []
  | k + 1, n + 1 =>
    let m := min (n + 1) (8 - ptrOff p % 8)
    (p, m) :: wordPieces (ptrAt p m) k (n + 1 - m)

/-- Translate every piece with a right; one that fails fails the access. -/
def translatePieces (s : State) (job : Nat) (r w : Bool) : List (Word × Nat) → State × Option (List (Nat × Nat))
  | [] => (s, some [])
  | (p, n) :: rest => match lookup s 104 job p n r w false with
    | .bad _ _ _ => (s, none)
    | .good a e => match translatePieces (s.cacheAgent e) job r w rest with
      | (t, some l) => (t, some ((a, n) :: l))
      | (t, none) => (t, none)

/-- The access is refused: a NAK, and a report of kind 7 by the hub, which counts as die 4. -/
def State.nak (s : State) (key job : Nat) (p : Word) : State := (s.send (.rdmaNak key)).memReport 7 0 job 4 4 p

/-- Apply the pieces of a WRITE in order. -/
def writePieces (s : State) : List (Nat × Nat) → List Byte → State
  | [], _ => s
  | (a, n) :: rest, bs => writePieces (s.agentWrite a (bs.take n)) rest (bs.drop n)

/-- Read pieces in order. -/
def readPieces (s : State) : List (Nat × Nat) → State × List Byte
  | [] => (s, [])
  | (a, n) :: rest =>
    let r := s.freshBytes a n
    let t := readPieces r.1 rest
    (t.1, r.2 ++ t.2)

/-- A host access to a region: its rights, its range, the job's mapping. -/
def hostAccess (s : State) (key off n : Nat) (r w : Bool) (k : State → List (Nat × Nat) → Option State) : State :=
  match s.region? key with
  | none => s.nak key noJob 0
  | some g =>
    let p := ptrAt g.ptr off
    if (r && !g.r) || (w && !g.w) || g.len < off + n then s.nak key g.job p
    else match translatePieces s g.job r w (wordPieces p n n) with
      | (t, none) => t.nak key g.job p
      | (t, some l) => (k t l).getD (t.nak key g.job p)

/-- HOST_RDMA_WRITE: rkey (id), offset (sel), bytes. A piece of a poisoned word narrower than it is refused (R381). -/
def execHostRdmaWrite (s : State) : Out State :=
  listening s (fun s => hostAccess s s.arg.id s.arg.sel s.arg.bytes.length false true (fun t l =>
    if l.any (fun x => t.refusesWrite x.1 x.2) then none else some ((writePieces t l t.arg.bytes).send (.rdmaAck t.arg.id))))

/-- HOST_RDMA_READ: rkey (id), offset (sel), length (nums). -/
def execHostRdmaRead (s : State) : Out State :=
  listening s (fun s => hostAccess s s.arg.id s.arg.sel (s.arg.nums.headD 0) true false (fun t l =>
    if l.any (fun x => t.isPoison x.1) then none
    else
      let r := readPieces t l
      some (r.1.send (.rdmaData t.arg.id r.2))))

end Sys2Proof.Machine
end

