-- ==== Sys2Proof/Machine/SpanReceive.lean ====
section
/-! DEFINITION. The receiving side of Span: the landing of counted writes, flags and their release, the match table, LANDED and GAP,
remote atomics and reads as the destination performs them (spec/10 R186, R189 to R194, R196; spec/09 R171 to R173;
spec/20 R374, R377, R381; spec/21 R386 to R388, R391, R414). -/

namespace Sys2Proof.Machine

/-! ### Accession channels (R186) -/

def State.acc? (s : State) (n : Nat) : Option AccChan := s.hub.accs.find? (fun a => a.num == n)
def State.setAcc (s : State) (n : Nat) (f : AccChan → AccChan) : State :=
  { s with hub := { s.hub with accs := s.hub.accs.map (fun a => if a.num == n then f a else a) } }

/-- A held flag of a channel. -/
def State.heldOf (s : State) (n : Nat) : List HeldFlag := s.hub.flags.filter (fun h => h.chan == n)

/-- Whether a sequence number has landed. -/
def AccChan.landed (a : AccChan) (q : Quad) : Bool := a.bits.getLsbD (q.toNat % 2048)

/-- A channel has a gap (R386): lwm + 1 never has its bit set, so any bit is one after it. -/
def State.hasGap (s : State) (a : AccChan) : Bool :=
  a.bits != 0 || (s.heldOf a.num).any (fun h => !atOrBelow h.through a.lwm || h.flagno != a.nextFlag)

/-- After a change of a channel: progress restarts its timer, and so does a gap that appears (R386). -/
def State.regap (s : State) (old : AccChan) (hadGap : Bool) : State :=
  match s.acc? old.num with
  | none => s
  | some a =>
    if a.lwm ≠ old.lwm ∨ a.nextFlag ≠ old.nextFlag then s.setAcc a.num (fun a => { a with gapStart := s.now, round := 0 })
    else if s.hasGap a && !hadGap then s.setAcc a.num (fun a => { a with gapStart := s.now })
    else s

/-! ### What the receiver sends (R193, R194, R387) -/

/-- No LANDED was sent on a channel within the last 5 µs, as before the first one (R194, R388; L89). -/
def AccChan.landedDue (a : AccChan) (now : Nat) : Bool := a.lastLanded.all (fun t => decide (t + 5000 ≤ now))

/-- A LANDED: since becomes lwm (R186); one with a flag number carries and clears the channel's failure status (R377). -/
def State.sendLanded (s : State) (a : AccChan) (flagno : Quad) : State :=
  let p := { newPacket s 5 a.peer a.peerSend with seq := a.lwm, flagno := flagno, op := if flagno = 0 then 0 else BitVec.ofNat 8 a.failed }
  (s.sendPacket p).setAcc a.num (fun a =>
    { a with since := a.lwm, lastLanded := some s.now, failed := if flagno = 0 then a.failed else 0 })

/-- A GAP with its ranges. -/
def State.sendGap (s : State) (a : AccChan) (round : Nat) (ranges : List (Quad × Nat)) : State :=
  let rs := ranges.take 31
  let body := natBytes 4 rs.length ++ natBytes 4 round
    ++ List.flatten (rs.map (fun r => natBytes 4 r.1.toNat ++ natBytes 4 r.2))
  s.sendPacket { newPacket s 6 a.peer a.peerSend with seq := a.lwm, payload := body ++ zeros (256 - body.length) }

/-- A RESPONSE (R196). -/
def State.respond (s : State) (p : Packet) (status : Nat) (bs : List Byte) : State :=
  s.sendPacket { newPacket s 7 p.src 0 with
    length := BitVec.ofNat 16 bs.length, op := BitVec.ofNat 8 status, tag := p.tag, payload := bs }

/-! ### What arrives (R388, R391, R414) -/

/-- A request that arrives on an open channel from its peer. On a broken channel it is dropped and at most once per 5 µs answered
with a GAP of round 9; another is dropped and reported. -/
def State.acceptRequest (s : State) (ty : Nat) : State × Option (Packet × AccChan) :=
  match s.arrive? ty with
  | (s1, none) => (s1, none)
  | (s1, some p) =>
    let n := p.chan.toNat
    match s1.acc? n with
    | none => (s1.fabric 10 1 noJob n p.src.toNat 0, none)
    | some a =>
      if a.state = 0 ∨ a.peer ≠ p.src then (s1.fabric 10 1 a.job n p.src.toNat 0, none)
      else if a.state = 2 then
        if a.lastGap + 5000 ≤ s1.now then ((s1.sendGap a 9 []).setAcc n (fun a => { a with lastGap := s1.now }), none) else (s1, none)
      else (s1, some (p, a))

/-! ### Translation at the destination (R64, R190, R374) -/

/-- A failing cause as a status (R376). -/
def causeStatus : Cause → Nat
  | .protect => 2
  | .poison => 3
  | _ => 1

/-- The remote window that covers an offset. -/
def Job.remoteAt (j : Job) (off : Nat) : Option RemWindow :=
  j.remotes.find? (fun w => decide (w.vbase ≤ off) && decide (off < w.vbase + w.size))

/-- Translate pointers one after another: the physical addresses, or the first failing status. -/
def translateAll (s : State) (job n : Nat) (r w : Bool) : List Word → State × Except Nat (List Nat)
  | [] => (s, .ok [])
  | p :: rest => match lookup s 104 job p n r w false with
    | .bad c _ _ => (s, .error (causeStatus c))
    | .good a e => match translateAll (s.cacheAgent e) job n r w rest with
      | (t, .ok as) => (t, .ok (a :: as))
      | (t, .error st) => (t, .error st)

/-- Translate a remote access of n bytes: `right` looks at the window's rights; a die mask asks for a copy on each of its dies. -/
def remoteTarget (s : State) (job : Nat) (off : Word) (n mask : Nat) (r w : Bool) (right : RemWindow → Bool) :
    State × Except Nat (List Nat) :=
  match (s.job job).remoteAt (ptrOff off) with
  | none => (s, .error 1)
  | some win =>
    let p := ptrAt win.target (ptrOff off - win.vbase)
    let ps := if mask = 0 ∨ ptrSpace p ≠ 2 then [p]
      else ((List.range 4).filter (fun d => mask / 2 ^ d % 2 == 1)).map (fun d => BitVec.ofNat 64 (galAddr d (ptrOff p)))
    match translateAll s job n r w ps with
    | (t, .error st) => (t, .error st)
    | (t, .ok as) =>
      if !right win || (mask != 0 && (ptrSpace p != 2 || !win.mask)) then (t, .error 2) else (t, .ok as)

/-! ### WRITE (R189, R190) -/

/-- The units of n bytes from an address on: what lies in each word. -/
def unitsAt (a off : Nat) : Nat → Nat → List (Nat × Nat × Nat)
  | 0, _ => []
  | _ + 1, 0 => []
  | k + 1, n + 1 =>
    let m := min (n + 1) (8 - a % 8)
    (a, off, m) :: unitsAt (a + m) (off + m) k (n + 1 - m)

/-- The units of one copy: each vector register of a payload formed from them, else each word (R74, R189, R307). -/
def copyUnits (a n : Nat) (vector : Bool) : List (Nat × Nat × Nat) :=
  if vector ∧ a % 32 = 0 ∧ n % 32 = 0 then (List.range (n / 32)).map (fun i => (a + 32 * i, 32 * i, 32)) else unitsAt a 0 n n

/-- The pointer of an offset of this package, as its peers name it. -/
def State.ownRem (s : State) (off : Word) : Word := BitVec.ofNat 64 (4 * 2 ^ 60 + s.hub.own.toNat * 2 ^ 48 + ptrOff off)

/-- A counted write fails: its status is kept if it is the first since the last flag release, and it is reported (R377). -/
def State.failWrite (s : State) (a : AccChan) (status : Nat) (where_ : Word) : State :=
  (s.setAcc a.num (fun x => { x with failed := if x.failed = 0 then status else x.failed })).memReport 6 255 a.job a.num 4 where_

/-- WRITE: duplicates and writes outside the window are dropped; another's copies are to be performed, unless it fails its checks: it then
writes no byte (R377). -/
def execWrite (s : State) : Out State :=
  match s.acceptRequest 1 with
  | (s1, none) => .next s1
  | (s1, some (p, a)) =>
    if atOrBelow p.seq a.lwm then .next (if a.landedDue s1.now then s1.sendLanded a 0 else s1)
    else if 2048 < (p.seq - a.lwm).toNat then .next (s1.fabric 2 0 a.job a.num a.peer.toNat (a.lwm.setWidth 64))
    else if a.landed p.seq || s1.hub.landings.any (fun l => l.chan == a.num && l.seq == p.seq) then .next s1
    else
      let n := p.payload.length
      match remoteTarget s1 a.job p.offset n (p.flags.toNat / 16) false true (·.write) with
      | (s2, .error st) =>
        let s3 := s2.failWrite a st (s2.ownRem p.offset)
        .next { s3 with hub := { s3.hub with landings := s2.hub.landings ++ [⟨a.num, p.seq, [], [], s2.nextId⟩] } }
      | (s2, .ok as) =>
        let units := List.flatten (as.map (fun x => copyUnits x n p.vector))
        if units.any (fun u => s2.refusesWrite u.1 u.2.2) then
          let s3 := s2.failWrite a 3 (s2.ownRem p.offset)
          .next { s3 with hub := { s3.hub with landings := s2.hub.landings ++ [⟨a.num, p.seq, [], [], s2.nextId⟩] } }
        else .next { s2 with hub := { s2.hub with landings := s2.hub.landings ++ [⟨a.num, p.seq, units, p.payload, s2.nextId⟩] } }

/-- lwm passes every number whose bit is set. -/
def advanceLwm : Nat → Quad → BitVec 2048 → Quad × BitVec 2048
  | 0, l, b => (l, b)
  | n + 1, l, b =>
    let i := (l + 1).toNat % 2048
    if b.getLsbD i then advanceLwm n (l + 1) (b &&& ~~~((1 : BitVec 2048) <<< i)) else (l, b)

/-- A write has landed. -/
def State.land (s : State) (a : AccChan) (seq : Quad) : State :=
  let had := s.hasGap a
  let r := advanceLwm 2048 a.lwm (a.bits ||| (1 : BitVec 2048) <<< (seq.toNat % 2048))
  ({ s with hub := { s.hub with landings := s.hub.landings.filter (fun l => !(l.chan == a.num && l.seq == seq)) } }.setAcc a.num (fun a =>
    { a with lwm := r.1, bits := r.2 })).regap a had

/-- WRITE_LANDS: channel, sequence. One more unit is performed, in no fixed order; after the last of every copy the write lands. One that
meets a word poisoned since it arrived fails there, and what is left of it is not performed (R377). -/
def execWriteLands (s : State) : Out State :=
  let seq := BitVec.ofNat 32 s.arg.sel
  match s.acc? s.arg.id, s.hub.landings.find? (fun l => l.chan == s.arg.id && l.seq == seq) with
  | some a, some l =>
    match l.left[Config.pick s.ticks % max l.left.length 1]? with
    | none => .next (s.land a seq)
    | some u =>
      let bs := (l.payload.drop u.2.1).take u.2.2
      let fails := s.refusesWrite u.1 u.2.2
      let left := if fails then [] else l.left.filter (· != u)
      let s2 := if fails then s.failWrite a 3 (BitVec.ofNat 64 u.1) else if addrSpace u.1 = 1 then s.storeAt u.1 bs else s.agentWrite u.1 bs
      let s3 := { s2 with hub := { s2.hub with landings := s2.hub.landings.map (fun x =>
        if x.chan = l.chan ∧ x.seq = l.seq then { x with left := left } else x) } }
      .next (if left.isEmpty then s3.land ((s3.acc? a.num).getD a) seq else s3)
  | _, _ => .next s

/-! ### The match table (R171 to R173) -/

/-- Action 1: a launch of one handler troupe on a core. -/
def State.fireHandler (s : State) (job core fires : Nat) (words : List Word) : State :=
  match s.partAt job (bayOfCore core) with
  | none => s.fabric 9 1 job core 0 0
  | some p =>
    if (s.bay (bayOfCore core)).fenced || decide (640 ≤ core) then s.fabric 9 1 job core 0 0
    else
      let ident := BitVec.ofNat 64 (job * 2 ^ 48 + (s.job job).admissions + 1)
      let entry := ((words.headD 0).extractLsb' 0 32).toNat
      let l : Launch := { ident := ident, job := job, part := p, entry := entry, c := 1, s := 1, lm := 16, arg := 0,
                          seed := BitVec.ofNat 32 fires, scope := .sys, signal := none, cohort := false, system := false, setMask := 0,
                          templates := [], rootCount := 1, nextIndex := 1, shares := [], wakePending := [], ran := [],
                          cancelBit := false, cancelPending := [], cancelReached := [], complete := false }
      let m : Message := { id := s.nextId, core := core, start := true, words := words, job := job, launch := ident, parent := 0,
                           index := some 0, sender := 0 }
      { (s.setJob job (fun j => { j with admissions := j.admissions + 1 })) with
        launches := s.launches ++ [l], nextId := s.nextId + 1, reg := { s.reg with messages := s.reg.messages ++ [m] } }

/-- One entry of a job's match area fires for a flag released on a channel; the control word is written with its reserved bits 0 (R5). -/
def State.fireEntry (s : State) (job : Nat) (a : AccChan) (entry : Word) (offset value : Word) : State :=
  let r := devRead s job entry 128
  let b := r.2
  let control := fieldAt b 0 8
  if control % 2 = 1 ∧ control / 16 % 4096 = a.num ∧ fieldAt b 8 8 = ptrOff offset then
    let fires := fieldAt b 24 8 + 1
    let s1 := devWrite r.1 job (ptrAt entry 24) (natBytes 8 fires)
    let s2 := if control / 4 % 2 = 1 then s1 else devWrite s1 job entry (natBytes 8 (control % 65536 - 1))
    let words := wordsOfBytes (b.drop 64)
    if control / 2 % 2 = 0 then
      let q := fieldAt b 16 2
      match s2.queue? q with
      | some d => if d.job = job ∧ d.feed = 2 then s2.enqueue d words else s2.fabric 9 2 job q 0 0
      | none => s2.fabric 9 2 job q 0 0
    else s2.fireHandler job (fieldAt b 20 4) fires (if control / 8 % 2 = 1 then words.set 1 value else words)
  else s

/-- The jobs with a range of the match table, in the order of their ranges. -/
def State.matchJobs (s : State) : List Job :=
  (s.jobs.filter (fun j => j.matchCount != 0)).insertionSort (fun x y => x.matchFirst ≤ y.matchFirst)

/-- Every matching armed entry of the match table fires, whichever job's area it lies in, in ascending number. -/
def State.fireMatches (s : State) (a : AccChan) (offset value : Word) : State :=
  s.matchJobs.foldl (fun t j =>
    (List.range j.matchCount).foldl (fun t i => t.fireEntry j.num a (ptrAt j.matchArea (128 * i)) offset value) t) s

/-! ### Flags (R191 to R193) -/

/-- Release a flag: its write and its fires unless it fails its checks, then next_flag, since and the LANDED (R377). -/
def State.releaseFlag (s : State) (a : AccChan) (h : HeldFlag) : State :=
  let had := s.hasGap a
  let s1 := match remoteTarget s a.job h.offset 8 0 false true (·.write) with
    | (t, .ok (p :: _)) => (t.agentWrite p (natBytes 8 h.value.toNat)).fireMatches a h.offset h.value
    | (t, .ok []) => t
    | (t, .error st) => t.setAcc a.num (fun x => { x with failed := if x.failed = 0 then st else x.failed })
  let s2 := ({ s1 with hub := { s1.hub with flags := s1.hub.flags.filter (fun x => !(x.chan == a.num && x.flagno == h.flagno)) } }).freeFlag h
  let s3 := s2.setAcc a.num (fun x => { x with nextFlag := nextFlagNo x.nextFlag, held := x.held - 1 })
  match s3.acc? a.num with
  | some a1 => (s3.sendLanded a1 h.flagno).regap a had
  | none => s3

/-- The held flag of a channel that is releasable (R191). -/
def State.releasable (s : State) (a : AccChan) : Option HeldFlag :=
  (s.heldOf a.num).find? (fun h => h.flagno == a.nextFlag && atOrBelow h.through a.lwm)

/-- FLAG: one released already is answered, one held already is dropped; a releasable one is released at once, another is held. -/
def execFlag (s : State) : Out State :=
  match s.acceptRequest 2 with
  | (s1, none) => .next s1
  | (s1, some (p, a)) =>
    if precedes p.flagno a.nextFlag then .next (s1.sendLanded a p.flagno)
    else if (s1.heldOf a.num).any (fun h => h.flagno == p.flagno) then .next s1
    else
      let had := s1.hasGap a
      let h : HeldFlag := ⟨a.num, p.flagno, p.seq, p.offset, p.a, true, 0⟩
      let s2 := s1.setAcc a.num (fun x => { x with held := x.held + 1 })
      if p.flagno = a.nextFlag ∧ atOrBelow p.seq a.lwm then .next (s2.releaseFlag ((s2.acc? a.num).getD a) h)
      else .next ((s2.holdFlag h).regap a had)

/-- FLAG_RELEASE: channel. -/
def execFlagRelease (s : State) : Out State :=
  match s.acc? s.arg.id with
  | none => .next s
  | some a => match s.releasable a with
    | some h => if a.state = 1 then .next (s.releaseFlag a h) else .next s
    | none => .next s

/-! ### Remote atomics and reads at the destination (R196) -/

/-- AMO: one read-modify-write at the home. A code above 0x0B or another size is never sent (R196). -/
def execAmo (s : State) : Out State :=
  match s.acceptRequest 3 with
  | (s1, none) => .next s1
  | (s1, some (p, a)) =>
    let n := p.size.toNat
    if 0x0B < p.op.toNat ∨ (n ≠ 4 ∧ n ≠ 8) then .next s1
    else match remoteTarget s1 a.job p.offset n 0 false false (·.atomic) with
    | (s2, .error st) => .next (s2.respond p st [])
    | (s2, .ok []) => .next s2
    | (s2, .ok (x :: _)) =>
      if s2.anyPoison x n then .next (s2.respond p 3 [])
      else
        let r := s2.freshBytes x n
        let old := leNat r.2
        let v := amoResult p.op.toNat n old (p.a.toNat % 2 ^ (8 * n)) (p.b.toNat % 2 ^ (8 * n))
        .next ((if v.2 then r.1.agentWrite x (natBytes n v.1) else r.1).respond p 0 r.2)

/-- READ. -/
def execRead (s : State) : Out State :=
  match s.acceptRequest 4 with
  | (s1, none) => .next s1
  | (s1, some (p, a)) =>
    let n := p.length.toNat
    match remoteTarget s1 a.job p.offset n 0 true false (·.read) with
    | (s2, .error st) => .next (s2.respond p st [])
    | (s2, .ok []) => .next s2
    | (s2, .ok (x :: _)) =>
      if s2.anyPoison x n then .next (s2.respond p 3 [])
      else let r := s2.freshBytes x n; .next (r.1.respond p 0 r.2)

/-! ### Timers (R194, R387, R391) -/

/-- LANDED_TIMER: channel. -/
def execLandedTimer (s : State) : Out State :=
  match s.acc? s.arg.id with
  | none => .next s
  | some a =>
    if a.state = 1 ∧ (512 ≤ (a.lwm - a.since).toNat ∨ (a.lwm ≠ a.since ∧ a.landedDue s.now)) then
      .next (s.sendLanded a 0)
    else .next s

/-- Runs of consecutive numbers of a rising list of distances. -/
def runs : List Nat → List (Nat × Nat)
  | [] => []
  | x :: r => match runs r with
    | (y, n) :: t => if y = x + 1 then (x, n + 1) :: t else (x, 1) :: (y, n) :: t
    | [] => [(x, 1)]

/-- The flag numbers from one up to below another, as ranges: after 0xFFFF_FFFF comes 1 (R191). -/
def flagRanges (first stop : Quad) : List (Quad × Nat) :=
  if first.toNat ≤ stop.toNat then [(first, stop.toNat - first.toNat)].filter (·.2 != 0)
  else [(first, 2 ^ 32 - first.toNat), (1, stop.toNat - 1)].filter (·.2 != 0)

/-- The missing numbers of a channel as ranges: sequence numbers, then flag numbers (R387). -/
def State.missing (s : State) (a : AccChan) : List (Quad × Nat) :=
  let held := s.heldOf a.num
  let far := (List.range 2048).foldl (fun m i => if a.landed (a.lwm + BitVec.ofNat 32 (i + 1)) then i + 1 else m) 0
  let top := held.foldl (fun m h => if precedes a.lwm h.through then max m (h.through - a.lwm).toNat else m) far
  let clear := (List.range top).filterMap (fun i => if a.landed (a.lwm + BitVec.ofNat 32 (i + 1)) then none else some (i + 1))
  let seqs := (runs clear).map (fun r => (a.lwm + BitVec.ofNat 32 r.1, r.2))
  let lowest := held.foldl (fun m h => match m with
    | none => some h.flagno
    | some f => some (if precedes h.flagno f then h.flagno else f)) (none : Option Quad)
  seqs ++ match lowest with
    | none => []
    | some f => (flagRanges a.nextFlag f).map (fun r => (r.1, 2 ^ 31 + r.2))

/-- The channel breaks at the receiver. -/
def State.breakAcc (s : State) (a : AccChan) : State :=
  let s0 := (s.heldOf a.num).foldl State.freeFlag s
  let s1 := { s0 with hub := { s0.hub with flags := s0.hub.flags.filter (fun h => h.chan != a.num) } }
  ((s1.setAcc a.num (fun x => { x with state := 2, held := 0, lastGap := s.now })).sendGap a 9 []).fabric 1 a.round a.job a.num a.peer.toNat
    (a.lwm.setWidth 64)

/-- GAP_TIMEOUT: channel. -/
def execGapTimeout (s : State) : Out State :=
  match s.acc? s.arg.id with
  | none => .next s
  | some a =>
    if a.state = 1 ∧ s.hasGap a ∧ a.gapStart + a.gapUs * 1000 ≤ s.now then
      if a.round = 8 then .next (s.breakAcc a)
      else .next ((s.sendGap a (a.round + 1) (s.missing a)).setAcc a.num (fun x => { x with round := x.round + 1, gapStart := s.now }))
    else .next s

end Sys2Proof.Machine
end

