-- ==== Sys2Proof/Machine/Sync.lean ====
section
/-! DEFINITION. Fences, barriers, completion counters, events and watched words (spec/14 R291 to R298; spec/04 R83 to R85;
spec/21 R394). -/

namespace Sys2Proof.Machine

/-! ### FENCE (R83, R291) -/

/-- Whether a strand has no deposit that is not merged. -/
def State.depositsMerged (s : State) (sid core : Nat) : Bool := (s.core core).upd.all (fun u => !u.sids.contains sid)

/-- Whether the conditions of a fence hold, for the accesses before `id`; a ZLD reads local memory (R83, R271). -/
def State.fenceReady (s : State) (sid core id : Nat) (o : Order) (c : Scope) : Bool :=
  (!o.acquires || (s.reqs.all (fun q => q.sid != sid || decide (id ≤ q.id) || q.done || !q.kind.reads)
      && s.moves.all (fun m => m.sid != sid || decide (id ≤ m.id) || m.store)))
    && (!o.releases || s.releaseReady sid core c id)
    && (o != .comm || s.depositsMerged sid core)

/-- The status word, and the latch after it (R394): outside a transaction the latched bits, which are cleared. -/
def Strand.takeStatus (t : Strand) (d : Reg) : Strand :=
  if t.tx.depth = 0 then { t.fillX d t.sr.fstat with sr := { t.sr with fstat := 0 } } else t.fillX d 0

/-- A fence is done: the status is written, and an acquiring fence acquires. -/
def State.fenceEnd (s : State) (sid core : Nat) (o : Order) (d : Reg) : State :=
  (if o.acquires then s.acquire core else s).setStrand sid (fun t => { t.takeStatus d with blocked := none })

def execFence (o : MsgOp) (s : State) : Out State :=
  withRegs s [] [wx o.d] (fun s =>
    if s.fenceReady s.cur.sid s.cur.core s.nextId o.o o.c then (s.fenceEnd s.cur.sid s.cur.core o.o o.d).advance
    else
      let r := newReq s (.fence o.d) 0 0 o.o o.c
      let s1 := (s.post r).advance
      { s1 with cur := { s1.cur.emptyX o.d with blocked := some r.id } })

/-- Whether a strand's issued FENCE is done (R83). -/
def fenceDone (s : State) (t : Strand) : Bool :=
  match t.blocked.bind s.req? with
  | some r => (match r.kind with
      | .fence _ => s.fenceReady t.sid t.core r.id r.order r.scope
      | _ => false)
  | none => false

/-- The issued FENCE of the strand in hand completes. -/
def finishFence (s : State) : State :=
  match s.cur.blocked.bind s.req? with
  | some r => (match r.kind with
      | .fence d => (s.dropReq r.id).fenceEnd s.cur.sid s.cur.core r.order d
      | _ => s)
  | none => s

/-- FENCEI (R84, R292): the words fetched for the strand go, and no later fetch misses a store that the strand has issued. -/
def execFencei (s : State) : Out State :=
  let lo := s.cur.sid * 2 ^ 64
  let s1 := (s.setCore s.cur.core (fun c =>
    { c with icache := c.icache.filter (fun e => decide (e.1 < lo) || decide (lo + 2 ^ 64 ≤ e.1)) })).advance
  .next { s1 with cur := { s1.cur with fencei := s.nextId } }

/-! ### Barriers (R28, R35, R293) -/

/-- Arrive at a barrier: inside a transaction only one that opens at once (R99). -/
def State.arrive (s : State) (w : Wait) (openIt : State → State) : State :=
  let s1 := openIt (s.waitFor w)
  if s1.cur.wait = some w then orElse (noTx s xLocal) (fun _ => s1) else s1

def execTbar (s : State) : Out State :=
  .next (
    let c : Scope := if (s.myTroupe).c = 1 then .cor else .bay
    if !s.mayAccess .rlx || !s.releaseReady s.cur.sid s.cur.core c s.nextId then s.notReady
    else s.arrive .tbar (fun t => t.openTbar t.cur.troupe))

def execLbar (s : State) : Out State :=
  .next (
    let l := s.myTroupe.launch
    if !(s.launch? l).any (·.cohort) then s.illegal 0x0B
    else if !s.mayAccess .rlx || !s.releaseReady s.cur.sid s.cur.core (s.launchScope l) s.nextId then s.notReady
    else s.arrive .lbar (fun t => t.openLbar l))

/-! ### Completion counters (R295, R296) -/

/-- The counter that field d names. -/
def counterOf (d : Reg) : BitVec 4 := d.setWidth 4

def execKset (o : IM) (s : State) : Out State := .next (s.setK (counterOf o.d) (o.imm.setWidth 32)).advance

def execKadd (o : IM) (s : State) : Out State :=
  .next (s.setK (counterOf o.d) (s.k (counterOf o.d) + o.imm.setWidth 32)).advance

def execKread (o : RR) (s : State) : Out State :=
  withRegs s [] [wx o.d] (fun s => (s.setX o.d ((s.k (counterOf o.a)).setWidth 64)).advance)

/-- KWAIT: the count is taken when it is reached; the wait acquires what was credited (R85). -/
def execKwait (o : IM) (s : State) : Out State :=
  .next (
    let k := counterOf o.d
    let n : Quad := o.imm.setWidth 32
    if n ≤ s.k k then ((s.setK k (s.k k - n)).acquire s.cur.core).advance
    else orElse (noTx s xLocal) (fun _ => s.waitFor (.kwait k.toNat n)))

/-! ### Events (R297) -/

/-- The event that X[d] names, if its upper bits are 0. -/
def State.eventOk (s : State) (d : Reg) (k : State → State) : State := if (s.x d).toNat < 65536 then k s else s.illegal 0x0C

/-- EVSIG accesses no memory: the strand goes on, and the sending waits for its earlier accesses (R235, R297). -/
def execEvsig (o : RR) (s : State) : Out State :=
  withRegs s [rx 1 o.a o.ta, rx 0 o.d o.td] [] (fun s =>
    s.eventOk o.d (fun s =>
      orElse (noTx s xLocal) (fun _ =>
        { s with
          reg := { s.reg with requests := s.reg.requests ++
            [(s.nextId, RegReq.event s.myTroupe.job (s.x o.d).toNat ((s.x o.a).setWidth 32) s.cur.sid s.cur.core none)] },
          nextId := s.nextId + 1 }.advance)))

def execEvwait (o : RR) (s : State) : Out State :=
  withRegs s [rx 1 o.a o.ta, rx 0 o.d o.td] [] (fun s =>
    s.eventOk o.d (fun s =>
      let e := (s.x o.d).toNat
      let target : Quad := (s.x o.a).setWidth 32
      let job := s.myTroupe.job
      if target.toNat ≤ s.eventCount job e then ((s.widen job e [bayOfCore s.cur.core]).acquire s.cur.core).advance
      else orElse (noTx s xLocal) (fun _ =>
        { s.waitFor (.event s.nextId) with nextId := s.nextId + 1 }.enterWait ⟨s.nextId, job, e, target, none, s.cur.sid, true, false, 0⟩)))

/-! ### WAITW (R298) -/

/-- Spaces of WAITW. -/
def reachWatch (p : Word) : Bool := [1, 2, 3].contains (ptrSpace p)

/-- The fresh read of the watched word: the state after it, the value, whether it is poisoned. A transaction, whose tile is registered,
reads it with its own speculative bytes in their places (R94, R95). -/
def State.watchRead (s : State) (a : Nat) (o : Order) : State × Word × Bool :=
  let s1 := if s.cur.tx.depth = 0 ∨ addrSpace a = 1 then (s.freshBytes a 8).1 else s
  let s2 := if o.acquires then s1.acquire s.cur.core else s1
  let s3 := if addrSpace a = 1 then s2 else s2.raiseLt s.cur.core (s2.line (lineOf a)).wts
  (s3, BitVec.ofNat 64 (leNat (s3.cur.tx.bytes s3.mem a 8)), s3.txPoison s3.cur.tx a 8)

/-- Whether the strand's posted stores to another core's LM have been applied. -/
def State.postedDone (s : State) (p : Word) : Bool :=
  ptrSpace p != 1 || ((s.core s.cur.core).journal ++ (s.core s.cur.core).replay).all
    (fun e => e.sid != s.cur.sid || ptrOwner e.dest != ptrOwner p || e.applied)

/-- Whether a WAITW may read its word now: in a transaction its tile is registered as read (R94). -/
def State.watchable (s : State) (a : Nat) : Bool :=
  s.cur.tx.depth == 0 || addrSpace a == 1 || s.cur.tx.tiles.any (fun x => x.tile == tileOf a && x.read)

/-- A WAITW whose tile is not registered has its access sent, once, and stays (R94; L43). -/
def State.registerWatch (s : State) (p : Word) (a : Nat) (c : Scope) : State :=
  if s.reqs.any (fun q => q.sid == s.cur.sid && q.kind == .watch) then s.notReady
  else (s.postAccess .watch p a .rlx c s.nextId).notReady

/-- WAITW. -/
def execWaitw (o : MEM) (s : State) : Out State :=
  withRegs s [rx 1 o.a o.ta, rx 0 o.d o.td] [wx o.d] (fun s =>
    let p := memPtr s o.a o.imm
    if !s.mayAccess o.o then s.notReady
    else s.checked p 8 8 accLoad true false (reachWatch p) (fun s a =>
      if !s.watchable a then s.registerWatch p a o.c
      else if s.behindOlder s.cur.sid s.nextId a 8 || !s.postedDone p || (s.ownLm p && s.moving a 8)
          || s.ownDeposits s.cur.core a 8 then s.notReady
      else
        let s0 := if o.o = .sc then s.acquire s.cur.core else s
        let r := s0.watchRead a o.o
        if r.2.2 then ((r.1.setX o.d 0).poisonRead s.cur.sid p accLoad 8 (opOf s.ir)).advance
        else if r.2.1 ≠ s.x o.d then (r.1.setX o.d r.2.1).advance
        else orElse (noTx r.1 xLocal) (fun _ => r.1.waitFor (.watch a o.d r.2.1))))

end Sys2Proof.Machine
end

