-- ==== Sys2Proof/Machine/Pending.lean ====
section
/-! DEFINITION. Which steps of the device can happen now: the work that the records of the state hold (L2). A step named here whose
condition does not hold leaves the state as it is (L19). -/

namespace Sys2Proof.Machine

/-- A step with the number it names, and with two. -/
def ev (i : Instr) (id : Nat) : Happening := ⟨i, { id := id }⟩
def ev2 (i : Instr) (id sel : Nat) : Happening := ⟨i, { id := id, sel := sel }⟩

/-- A step when a condition holds. -/
def evIf (c : Bool) (h : Happening) : List Happening := if c then [h] else []

/-! ### The Registrar and the bays -/

def queueSteps (s : State) : List Happening :=
  s.reg.queues.flatMap (fun d => evIf (d.feed != 0 && !(s.job d.job).stopped && decide (s.headOf d.queue < s.tailOf d)) (ev .recordTaken d.queue))
    ++ evIf (!s.admissible.isEmpty) (ev .launchAdmission 0)
    ++ s.reg.records.flatMap (fun r => evIf (match r.since with
        | some t => decide (r.waited / 1000000 < (r.waited + (s.now - t)) / 1000000)
        | none => false) (ev2 .priorityAging r.queue r.recno))
    ++ s.jobs.flatMap (fun j => evIf (!j.overflow.isEmpty && !j.stopped) (ev .launchOverflowAppend j.num))

def launchSteps (s : State) : List Happening :=
  s.launches.flatMap (fun l => l.wakePending.map (fun b => ⟨.wakeMessage, { id := b, word := l.ident }⟩)
    ++ l.cancelPending.map (fun b => ⟨.cancelBroadcast, { id := b, word := l.ident }⟩))

def requestSteps (s : State) : List Happening :=
  s.reg.requests.map (fun r => match r.2 with
    | .event _ _ _ _ _ _ => ev .eventAdd r.1
    | _ => ev .spawnRecord r.1)

def waitSteps (s : State) : List Happening :=
  s.jobs.flatMap (fun j =>
    let ws := s.reg.waits.filter (fun w => w.job == j.num && !w.hardware)
    (ws.zipIdx.filter (fun e => e.1.changed)).map (fun e => ev2 .overflowWaitTest j.num e.2))

def troupeSteps (s : State) : List Happening :=
  s.troupes.flatMap (fun u => match u.place with
    | .waiting => evIf (s.roomFor u).isSome (ev .troupePlacement u.uid)
    | .reserved => [ev .troupePlacement u.uid]
    | .ended => evIf (u.children == 0) (ev .troupeDone u.uid)
    | .placed => match u.capture with
      | some c => evIf c.allStopped.isSome (ev .troupeCapture u.uid)
        ++ evIf (c.allStopped.any (fun n => decide (n + 1000000 ≤ s.now))) (ev .captureWatchdog u.uid)
      | none => []
    | _ => [])

def baySteps (s : State) : List Happening :=
  s.mgmt.bays.flatMap (fun b => evIf (b.power == .waking) (ev .bayWake b.num))
    ++ (List.range 80).flatMap (fun b => evIf (s.mayGate b) (ev .bayGate b))

def switchSteps (s : State) : List Happening :=
  s.reg.switches.flatMap (fun w =>
    evIf (w.phase == 0 && decide (w.t ≤ s.now)) (ev .switchTime w.id)
      ++ evIf (w.phase == 1 && decide (w.t + 20000 ≤ s.now)) (ev .switchForcedStop w.id)
      ++ evIf (w.phase != 0 && s.emptied w.outJob w.outPart) (ev .switchComplete w.id))

def messageSteps (s : State) : List Happening :=
  s.reg.messages.map (fun m => ev .mailboxArrival m.id)
    ++ s.cores.flatMap (fun c => evIf (!c.starts.isEmpty) (ev .handlerStart c.num)
      ++ evIf (!c.parked.isEmpty || !c.spillMeta.isEmpty) (ev .spillReturn c.num))

/-- Steps on objects, shootdowns and measurements. -/
def hubSteps (s : State) : List Happening :=
  s.reg.conts.map (fun c => match c.kind with
    | 1 => ev .compareAndClear c.id
    | 2 => ev .ccopyWrite c.id
    | 3 => ev .cdiscardClear c.id
    | _ => ev .cexportService c.id)
    ++ s.reg.shoots.flatMap (fun h => h.waiting.flatMap (fun a => ev2 .shootdownAnswer h.id a
      :: evIf (decide (h.time + 100000 ≤ s.now)) (ev2 .shootdownTimeout h.id a)))
    ++ s.reg.measures.map (fun m => ev .measurementExtension m.id)

/-! ### Requests and lines -/

/-- The steps that a request can take part in. -/
def reqSteps (s : State) (r : Req) : List Happening :=
  match r.state with
  | .answered _ _ => [ev .loadReturn r.id]
  | .performed => [ev .storeAck r.id]
  | .refused => evIf (decide (r.retryAt ≤ s.now)) (ev .coherenceRetry r.id)
  | .queued => [ev .taggedWordRequest r.id] ++ evIf (s.expired r && !(s.strand? r.sid).any (fun t => !t.busy && (!t.pend.isEmpty || cancelHere t)))
      (ev .feTimeout r.id)
  | .sentRemote _ => []
  | .sent =>
    let ln := lineOf r.addr
    let die := dieOfCore r.core
    let away := homeDie r.addr != die
    if r.tx ∧ r.kind.span ≠ 0 then [ev .transactionalRegistration r.id]
    else match r.kind with
    | .load _ _ _ | .vload _ | .vlane _ _ _ | .pref =>
      [ev .leaseRenewal r.id] ++ (if away then evIf (s.proxy ln die).isNone (ev2 .proxyReadMiss ln die) else [ev .freshRead ln])
    | .store _ _ => [ev .storeApply r.id] ++ evIf (away && !s.proxyOwns ln die) (ev2 .proxyWrite ln die)
    | .atomic _ _ _ _ _ _ => [ev .atomicAtHome r.id]
    | .row _ _ _ _ | .ldrow _ _ _ _ _ => [ev .rowAtHome r.id]
    | .topk _ _ _ => [ev .topkAtHome r.id]
    | .tagged _ _ _ => [ev .taggedWordRequest r.id]
    | .remote _ _ _ | .remoteVec _ => [ev .remoteRead r.id]
    | .remRead _ _ _ _ | .remAmo _ _ _ _ _ _ => [ev .remoteRequestSend r.id]
    | .divide _ _ => [ev .divideComplete r.id]
    | .watch | .recv _ _ | .fill _ _ | .conserv _ | .fence _ => []

def lineSteps (s : State) : List Happening :=
  s.coh.lines.flatMap (fun l =>
    l.awaiting.map (fun a => if 4 ≤ a ∧ a < 8 then ev2 .transitionAnswer l.line (a - 4) else ev2 .recall l.line a)
      ++ evIf (l.reserved.isSome && decide (l.reservedAt + cyclesNs 16384 ≤ s.now)) (ev .reservationPass l.line))
    ++ s.coh.proxies.flatMap (fun p =>
      evIf (!(s.line p.line).inTransition) (ev2 .proxyEviction p.line p.die))
    ++ s.coh.lines.flatMap (fun l => evIf (!l.inTransition) (ev2 .proxyEviction l.line (homeDie (l.line * 128))))
    ++ evIf (!s.coh.rebasing && rebaseDue s) (ev .rebase 0) ++ evIf s.coh.rebasing (ev .rebaseEnd 0)

/-! ### Strands, cores, engines -/

def strandSteps (s : State) : List Happening :=
  (s.strands.filter (·.exists?)).flatMap (fun t =>
    evIf t.yield (ev .yieldEnd t.sid)
      ++ evIf (t.tx.doomed.isSome && !t.tx.committing) (ev .conflictAbort t.sid)
      ++ (if t.tx.committing then
            (if t.tx.tiles.isEmpty then [ev .transactionCommit t.sid]
             else ((t.tx.tiles.map (fun x => (tileSlice s x.tile).1 * 80 + (tileSlice s x.tile).2)).dedup).map (ev2 .commitApply t.sid))
          else []))

def coreSteps (s : State) : List Happening :=
  s.cores.flatMap (fun c =>
    (c.upd.zipIdx.map (fun e => ev2 (if e.1.registered then .depositMerge else .depositRegistration) c.num e.2))
      ++ c.journal.map (fun e => ev2 (if e.applied then .postedStoreAck else .postedStoreApply) c.num e.seq.toNat)
      ++ evIf (c.array != startFirst c.array) (ev .mmaStart c.num)
      ++ (match c.array with
        | .mma _ _ _ _ _ _ _ _ _ _ true _ :: _ => [ev .mmaRetire c.num]
        | .zscale _ _ _ _ _ _ _ true _ :: _ => [ev .zscaleRetire c.num]
        | _ => []))

def unitSteps (s : State) : List Happening :=
  (((s.sfu.filter (fun q => !q.served)).map (·.bay)).dedup).map (ev .sfuService)
    ++ (s.sfu.filter (·.served)).map (fun q => ev .sfuResult q.id)
    ++ s.moves.map (fun m => ev .zmoveComplete m.id)

def cmdSteps (s : State) : List Happening :=
  (((s.cmds.filter (fun c => c.state == .queued)).map (·.engine)).dedup).map (ev .engineCommandStart)
    ++ s.cmds.flatMap (fun c => match c.state with
      | .active => [ev2 .enginePageBoundary c.id (Config.pick s.ticks)]
      | .paused => [ev2 .enginePageBoundary c.id 0]
      | .done => [ev .engineCommandComplete c.id]
      | .reserving => [ev .cpyrReserve c.id]
      | _ => [])

/-! ### The Span -/

/-- The step that takes a packet of a type. -/
def packetStep : Nat → Option Instr
  | 1 => some .write
  | 2 => some .flag
  | 3 => some .amo
  | 4 => some .read
  | 5 => some .landed
  | 6 => some .gap
  | 7 => some .response
  | _ => none

def packetSteps (s : State) : List Happening :=
  s.hub.outbox.zipIdx.flatMap (fun e => match packetStep e.1.ptype.toNat with
    | some i => evIf (e.1.dst == s.hub.own) ⟨i, { id := e.2, yes := true }⟩
    | none => [])

def spanSteps (s : State) : List Happening :=
  s.hub.sends.flatMap (fun c =>
    evIf (!c.queue.isEmpty && (c.state == 1 || c.state == 2)) (ev .acceptChannelCommand c.num)
      ++ evIf (!c.journal.isEmpty && decide (c.progress + 2 * c.gapUs * 1000 ≤ s.now)) (ev .senderTimeout c.num)
      ++ evIf (c.state == 2) (ev .channelDrained c.num))
    ++ s.hub.landings.map (fun l => ev2 .writeLands l.chan l.seq.toNat)
    ++ s.hub.accs.flatMap (fun a =>
      evIf (s.releasable a).isSome (ev .flagRelease a.num)
        ++ evIf (a.lwm != a.since) (ev .landedTimer a.num)
        ++ evIf (s.hasGap a && decide (a.gapStart + a.gapUs * 1000 ≤ s.now)) (ev .gapTimeout a.num))
    ++ s.hub.tags.map (fun t => ev .remoteTimeout t.1)
    ++ ((s.hub.drops.map (·.1)).dedup).map (ev .portRemoval)

/-- The steps of the device that can happen now. -/
def pendingEvents (s : State) : List Happening :=
  queueSteps s ++ launchSteps s ++ requestSteps s ++ waitSteps s ++ troupeSteps s ++ baySteps s ++ switchSteps s ++ messageSteps s
    ++ hubSteps s ++ s.reqs.flatMap (reqSteps s) ++ lineSteps s ++ strandSteps s ++ coreSteps s ++ unitSteps s ++ cmdSteps s
    ++ packetSteps s ++ spanSteps s

end Sys2Proof.Machine
end

