-- ==== Sys2Proof/Machine/Issue.lean ====
section
/-! DEFINITION. What comes next: fetching the words at a PC (spec/11 R199, spec/12 R228, spec/19 R367, spec/04 R84), the order
at an instruction boundary (spec/19 R362), the strand whose turn it is (spec/02 R22) and the choice between issuing an
instruction and a step of the device (L2). -/

namespace Sys2Proof.Machine

/-- What the machine does next: run an instruction or a step of the device, a state reached at once, or a stop. -/
inductive Plan
  | run (i : Instr) (s : State)
  | done (s : State)
  | stop (f : Fault)
  deriving DecidableEq, Repr

/-! ### Fetch -/

/-- Why a fetch fails: the trap of step 1 of R366. -/
structure FetchFault where
  cause : Cause
  c0 : Word
  c1 : Word
  c2 : Word
  c3 : Word
  deriving DecidableEq, Repr

/-- The number under which the instruction cache of a core holds a word for a strand (L16). -/
def icacheKey (s : State) (phys : Nat) : Nat := s.cur.sid * 2 ^ 64 + phys

/-- The word the instruction cache holds. -/
def icacheWord (s : State) (phys : Nat) : Option Half :=
  ((s.core s.cur.core).icache.find? (fun e => e.1 == icacheKey s phys)).map (·.2)

/-- The bytes of a store request in their places among bytes at an address. -/
def Req.overlay (q : Req) (a : Nat) (bs : List Byte) : List Byte :=
  bs.zipIdx.map (fun e => if q.addr ≤ a + e.2 then q.kind.storeBytes.getD (a + e.2 - q.addr) e.1 else e.1)

/-- The word at a physical address as a fetch of the strand may no longer miss it: memory's, commits finished (R105), with the stores in
their places that the strand issued before its last FENCEI and that are still on their way (R292). -/
def codeAt (s : State) (a : Nat) : Half :=
  let own := s.reqs.filter (fun q => q.sid == s.cur.sid && !q.tx && !q.done && decide (q.id < s.cur.fencei))
  BitVec.ofNat 16 (leNat (own.foldl (fun bs q => q.overlay a bs) ((List.range 2).map (fun i => s.committedByte (a + i)))))

/-- The word that a fetch returns: the one that memory has for the strand, or an older one that the cache still holds (R84). -/
def codeWord (s : State) (phys : Nat) : Half :=
  let now := codeAt s phys
  match icacheWord s phys with
  | none => now
  | some w => if Config.fetchHit s.ticks phys then w else now

/-- The words of an instruction cache of 32 KiB (R11). -/
def icacheRoom : Nat := 16384

/-- The cache holds a fetched word. -/
def State.noteWord (s : State) (phys : Nat) (w : Half) : State :=
  s.setCore s.cur.core (fun c =>
    { c with icache := (icacheKey s phys, w) ::
        makeRoom (c.icache.filter (fun e => e.1 != icacheKey s phys)) icacheRoom (Config.pick s.ticks) })

/-- The cache takes in words ahead of their fetch, as they now stand: which ones is open, so that a later fetch may return an old
word that the strand has never fetched before (R84; L16). -/
def State.prefetch (s : State) : State :=
  let ahead := (Config.prefetched s.ticks).map (fun a => (icacheKey s a, codeAt s a))
  s.setCore s.cur.core (fun c =>
    { c with icache := c.icache ++ (ahead.filter (fun e => !c.icache.any (fun x => x.1 == e.1))).take (icacheRoom - c.icache.length) })

/-- Fetch one word. -/
def fetchWord (s : State) (p : Word) : State × Except FetchFault Half :=
  if !inCode s.myJob p then (s, .error ⟨.fetchLimit, p, s.cur.came, 0, 0⟩)
  else match fetchAddr s p with
    | .bad c reason level => (s.walked p, .error ⟨c, p, accInfo accFetch 2, 0, whyInfo reason 0 level⟩)
    | .good phys e =>
      let s1 := s.cacheEntry e
      if s1.isPoison phys then (s1, .error ⟨.poison, p, accInfo accFetch 2, 0, whyInfo 0x20 0 0⟩)
      else
        let w := codeWord s1 phys
        (s1.noteWord phys w, .ok w)

/-- Fetch the words of one instruction, at most n: up to the operation word, a KEXT word or the last (L24). -/
def fetchGroup : Nat → State → Word → List Half → State × Except FetchFault (List Half)
  | 0, s, _, acc => (s, .ok acc)
  | n + 1, s, p, acc =>
    match fetchWord s p with
    | (s1, .error f) => (s1, .error f)
    | (s1, .ok w) =>
      if isPrefixWord w && !isKext w then fetchGroup n s1 (ptrAt p 2) (acc ++ [w]) else (s1, .ok (acc ++ [w]))

/-! ### The boundary (R362) -/

/-- The wait instructions of R42, which are safe points as such. -/
def isWaitInstr : Instr → Bool
  | .kwait _ | .evwait _ | .tbar | .lbar | .ldfe _ | .stfe _ | .waitw _ | .recv _ | .zclaim _ => true
  | _ => false

/-- The strand in hand at a boundary with its instruction decoded: END, then a pending trap, then a stop, then issue. After a YIELD the
strand is not ready to issue (R316). -/
def afterDecode (s : State) (i : Instr) : Plan :=
  match i with
  | .illegalEncoding => .run i s
  | .trapz => .run i s
  | .endStrand => .run i s
  | _ =>
    let here := isWaitInstr i || s.cur.safe
    let s1 := cancelAt s here
    if deliverable s1.cur then .run .asyncTrapDelivery { s1 with arg := { id := s1.cur.sid } }
    else if stopHere s1.cur here then .done (stopNow s1)
    else if s1.cur.yield ∨ s1.cur.mode ≠ .running then .done s1
    else .run i s1

/-- The strand in hand at a boundary: one that waits leaves its wait for a trap or a stop, one whose instruction has issued finishes it,
another fetches and decodes. -/
def boundary (s : State) : Plan :=
  match s.cur.wait with
  | some _ =>
    let s1 := cancelAt s true
    if deliverable s1.cur then .run .asyncTrapDelivery { s1 with arg := { id := s1.cur.sid } }
    else .done (if stopHere s1.cur true then stopNow s1 else s1)
  | none =>
    if s.cur.blocked.isSome then .done (finishFence s)
    else match fetchGroup 5 s s.cur.pc [] with
      | (s1, .error f) => .done ({ s1 with ir := [] }.trap f.cause f.c0 f.c1 f.c2 f.c3)
      | (s1, .ok ws) => afterDecode { s1.prefetch with ir := ws } (decodeGroup ws)

/-! ### Whose turn it is (R22) -/

/-- Whether a strand has something to do at a boundary now; one in a bay that is still waking waits for it (R354). -/
def canIssue (s : State) (t : Strand) : Bool :=
  t.mode == .running && !t.tx.committing && (s.bay (bayOfCore t.core)).power == .active &&
    (match t.wait with
      | some _ => deliverable t || stopHere t true || cancelHere t
      | none => match t.blocked with
        | some _ => fenceDone s t
        | none => !t.yield || deliverable t || (t.stopDue != 0 && !t.busy))

/-- Whether the last instruction tried has not issued: it was not ready, or a register it needs was empty (R22). -/
def Strand.unready (t : Strand) : Bool := t.stalled || t.wait == some .empty

/-- Every strand may be tried again. -/
def State.retryAll (s : State) : State := s.mapStrands (fun t => { t with stalled := false })

/-- The round-robin pointer of a core moves past a strand that has issued, not past one that was tried and not ready (R22). What the
issue changed may have made others ready. -/
def State.turn (s : State) : State :=
  match s.tried with
  | none => s
  | some (core, hw, sid) =>
    if s.cur.sid = sid ∧ s.cur.unready then { s with tried := none }
    else { (s.setCore core (fun c => { c with rr := (hw + 1) % 4 })).retryAll with tried := none }

/-- The cores that have a strand to try. -/
def issuingCores (s : State) : List Nat := ((s.strands.filter (fun t => canIssue s t && !t.stalled)).map (·.core)).dedup

/-- Whether a strand has to leave its wait: it waits where an asynchronous trap can be delivered or a CANCEL that is due becomes pending. -/
def mustLeave (s : State) (t : Strand) : Bool := t.wait.isSome && canIssue s t && (deliverable t || cancelHere t)

/-- A strand that has to leave its wait does so before anything else happens (R413). -/
def State.leaver (s : State) : Option Strand :=
  if s.mgmt.powered && !s.mgmt.inReset && s.mgmt.boot == 1 then s.strands.find? (mustLeave s) else none

/-- The strands of a core that can be tried: of several, those whose next instruction has been fetched (R22; L2). -/
def triable (s : State) (core : Nat) : List Strand :=
  match s.strands.filter (fun t => t.core == core && canIssue s t && !t.stalled) with
  | [t] => [t]
  | l => l.filter (fun t => Config.fetched s.ticks (4 * core + t.hw))

/-- The strand of a core that issues: the first one, in slot order, at or after the round-robin pointer. -/
def nextStrand (s : State) (core : Nat) : Option Strand :=
  let cand := triable s core
  let rr := (s.core core).rr
  ((List.range 4).map (fun i => (rr + i) % 4)).findSome? (fun h => cand.find? (fun t => t.hw == h))

/-- Let a core issue. -/
def issueOn (s : State) (core : Nat) : Plan :=
  match nextStrand s core with
  | none => .done s
  | some t => boundary ({ s with tried := some (core, t.hw, t.sid) }.focus t.sid)

/-- Choose one entry of a list by a free number; a list of one entry needs no choice. -/
def choose (l : List Nat) (n : Nat) : Option Nat :=
  match l with
  | [] => none
  | [a] => some a
  | l => l[n % l.length]?

/-! ### The next step -/

/-- Time passes (R6; L3). -/
def State.tick (s : State) : State := { s with ticks := s.ticks + 1, now := s.now + Config.elapsed s.ticks }

/-- What happens next: a strand leaves its wait for a trap (R413); else the head of the agenda, which holds what comes from outside (L13);
else nothing without power, in reset or after a failed boot; else a pending step or an instruction, by free choice (L2). -/
def planNext (s0 : State) : Plan :=
  let s := s0.turn
  match s.leaver, s.agenda with
  | some t, _ => boundary (s.tick.focus t.sid)
  | none, h :: r =>
    if h.step.isEvent then .run h.step { s.tick.retryAll with agenda := r, arg := h.arg, ir := [] }
    else .done { s.tick with agenda := r }
  | none, [] =>
    if !s.mgmt.powered then .stop .noPower
    else if s.mgmt.inReset then .stop .heldInReset
    else if s.mgmt.boot != 1 then .stop .bootFailed
    else
      let evs := pendingEvents s
      let cores := issuingCores s
      let n := if evs.isEmpty then 0 else Config.pick s.ticks % (evs.length + 1)
      match (if n = 0 then none else evs[n - 1]?), choose cores (Config.choiceOf s.ticks) with
      | some h, _ => .run h.step { s.tick.retryAll with arg := h.arg, ir := [] }
      | none, some c => issueOn s.tick c
      | none, none => .done s.tick.retryAll

end Sys2Proof.Machine
end

