-- ==== Sys2Proof/Machine/Span.lean ====
section
/-! DEFINITION. The instructions that send on Span: PUTR, PUTV, FLAGR, AMOR, GETR (spec/15 R300, R301, R307 to R309;
spec/10 R184, R187, R196; spec/21 R392). -/

namespace Sys2Proof.Machine

/-- The check of a REM pointer: alignment, then space. -/
def State.remPtr (s : State) (p : Word) (align size acc : Nat) (k : State → State) : State :=
  if ptrOff p % align ≠ 0 then s.spaceTrap .misalign p acc size
  else if ptrSpace p ≠ 4 then s.spaceTrap .space p acc size
  else k s

/-- A hub command issues: outside a transaction, within the limit of 32; on a broken channel it ends at once (R392). -/
def State.issueHub (s : State) (c : Cmd) : State :=
  if 32 ≤ s.outstanding s.cur.sid then s.notReady
  else if s.chanBroken c.chan then (({ s with nextId := s.nextId + 1 }.endCmd c).tellBroken c.chan c.sid 1).advance
  else (s.enterChan { c with state := .channel }).advance

/-- A hub command on %chan, after the check of its pointer. -/
def State.hubCommand (s : State) (p : Word) (align size : Nat) (k : State → State) : State :=
  if !s.mayAccess .rlx then s.notReady
  else s.remPtr p align size accStore (fun s =>
    s.withChan s.myChan p accStore size (fun s => orElse (noTx s xRemote) (fun _ => k s)))

def execPutr (o : PutOp) (s : State) : Out State :=
  withRegs s [rx 1 o.a o.ta, rx 0 o.d o.td] [] (fun s =>
    let n := 2 ^ o.size.toNat
    let p := s.x o.a
    s.hubCommand p n n (fun s =>
      s.issueHub (newCmd s (.put p (natBytes n (s.x o.d).toNat)) o.q.k.toNat o.q.bytes n (qScope o.q) s.myChan o.mask.toNat)))

def execPutv (o : PutOp) (s : State) : Out State :=
  withRegs s [rx 1 o.a o.ta, rv 0 o.w o.d o.td] [] (fun s =>
    let n := 32 * o.w.count
    let p := s.x o.a
    s.hubCommand p n n (fun s =>
      let data := List.flatten ((groupRegs o.w o.d).map (fun r => vbytes (s.v r)))
      s.issueHub (newCmd s (.put p data) o.q.k.toNat o.q.bytes n (qScope o.q) s.myChan o.mask.toNat)))

def execFlagr (o : PutOp) (s : State) : Out State :=
  withRegs s [rx 1 o.a o.ta, rx 0 o.d o.td] [] (fun s =>
    let p := s.x o.a
    s.hubCommand p 8 8 (fun s =>
      s.issueHub (newCmd s (.flag p (s.x o.d)) o.q.k.toNat o.q.bytes 8 (qScope o.q) s.myChan 0)))

/-- Whether a remote atomic sign-extends its result (R308). -/
def amorSigned (op : Nat) : Bool := !(op == 6 || op == 7 || op == 10 || op == 11)

/-- AMOR: a release part waits for the strand's earlier accesses when the request is sent. -/
def execAmor (o : AmorOp) (s : State) : Out State :=
  let usesD := o.op.toNat = 9 ∨ o.op.toNat = 10
  withRegs s ([rx 1 o.a o.ta, rx 2 o.b o.tb] ++ (if usesD then [rx 0 o.d o.td] else [])) [wx o.d] (fun s =>
    let n := if o.wide then 8 else 4
    let p := s.x o.a
    if !s.mayAccessRem o.o then s.notReady
    else s.remPtr p n n accRmw (fun s =>
      s.withChan s.myChan p accRmw n (fun s =>
        orElse (noTx s xRemote) (fun _ =>
          (s.remRequest (.remAmo o.op.toNat n (amorSigned o.op.toNat) (s.x o.b) (s.x o.d) o.d) p o.o).advance))))

/-- GETR: one READ of the whole group. -/
def execGetr (o : MEM) (s : State) : Out State :=
  withRegs s [rx 1 o.a o.ta] [⟨false, groupRegs o.w o.d⟩] (fun s =>
    let n := 8 * o.w.count
    let p := memPtr s o.a o.imm
    if !s.mayAccessRem o.o then s.notReady
    else s.remPtr p n n accLoad (fun s =>
      s.withChan s.myChan p accLoad n (fun s =>
        orElse (noTx s xRemote) (fun _ => (s.remRequest (.remRead n false o.d false) p o.o).advance))))

end Sys2Proof.Machine
end

