-- ==== Sys2Proof/Machine/Dispatch.lean ====
section
/-! DEFINITION. What each instruction does: one arm per constructor of `Instr`. -/

namespace Sys2Proof.Machine

/-- The meaning of an instruction: one arm per constructor. -/
def exec (i : Instr) (s : State) : Host.Outcome State Fault Refusal :=
  match i with
  | .mov o => Sys2Proof.Machine.execMov o s
  | .movi o => Sys2Proof.Machine.execMovi o s
  | .add o => Sys2Proof.Machine.execAdd o s
  | .addImm o => Sys2Proof.Machine.execAddImm o s
  | .sub o => Sys2Proof.Machine.execSub o s
  | .neg o => Sys2Proof.Machine.execNeg o s
  | .mul o => Sys2Proof.Machine.execMul o s
  | .mulImm o => Sys2Proof.Machine.execMulImm o s
  | .mulh o => Sys2Proof.Machine.execMulh o s
  | .mulhn o => Sys2Proof.Machine.execMulhn o s
  | .div o => Sys2Proof.Machine.execDiv o s
  | .divn o => Sys2Proof.Machine.execDivn o s
  | .rem o => Sys2Proof.Machine.execRem o s
  | .remn o => Sys2Proof.Machine.execRemn o s
  | .abs o => Sys2Proof.Machine.execAbs o s
  | .min o => Sys2Proof.Machine.execMin o s
  | .max o => Sys2Proof.Machine.execMax o s
  | .minn o => Sys2Proof.Machine.execMinn o s
  | .maxn o => Sys2Proof.Machine.execMaxn o s
  | .br o => Sys2Proof.Machine.execBr o s
  | .beqz o => Sys2Proof.Machine.execBeqz o s
  | .bnez o => Sys2Proof.Machine.execBnez o s
  | .bltz o => Sys2Proof.Machine.execBltz o s
  | .bgez o => Sys2Proof.Machine.execBgez o s
  | .beq o => Sys2Proof.Machine.execBeq o s
  | .bne o => Sys2Proof.Machine.execBne o s
  | .blt o => Sys2Proof.Machine.execBlt o s
  | .bge o => Sys2Proof.Machine.execBge o s
  | .bltn o => Sys2Proof.Machine.execBltn o s
  | .bgen o => Sys2Proof.Machine.execBgen o s
  | .call o => Sys2Proof.Machine.execCall o s
  | .callr o => Sys2Proof.Machine.execCallr o s
  | .jmpr o => Sys2Proof.Machine.execJmpr o s
  | .loop o => Sys2Proof.Machine.execLoop o s
  | .ldS8 o => Sys2Proof.Machine.execLdS8 o s
  | .ldS16 o => Sys2Proof.Machine.execLdS16 o s
  | .ldS32 o => Sys2Proof.Machine.execLdS32 o s
  | .ldS64 o => Sys2Proof.Machine.execLdS64 o s
  | .ldzN8 o => Sys2Proof.Machine.execLdzN8 o s
  | .ldzN16 o => Sys2Proof.Machine.execLdzN16 o s
  | .ldzN32 o => Sys2Proof.Machine.execLdzN32 o s
  | .stS8 o => Sys2Proof.Machine.execStS8 o s
  | .stS16 o => Sys2Proof.Machine.execStS16 o s
  | .stS32 o => Sys2Proof.Machine.execStS32 o s
  | .stS64 o => Sys2Proof.Machine.execStS64 o s
  | .ldx o => Sys2Proof.Machine.execLdx o s
  | .stx o => Sys2Proof.Machine.execStx o s
  | .pref o => Sys2Proof.Machine.execPref o s
  | .trap o => Sys2Proof.Machine.execTrap o s
  | .and o => Sys2Proof.Machine.execAnd o s
  | .andImm o => Sys2Proof.Machine.execAndImm o s
  | .or o => Sys2Proof.Machine.execOr o s
  | .orImm o => Sys2Proof.Machine.execOrImm o s
  | .xor o => Sys2Proof.Machine.execXor o s
  | .xorImm o => Sys2Proof.Machine.execXorImm o s
  | .andn o => Sys2Proof.Machine.execAndn o s
  | .not o => Sys2Proof.Machine.execNot o s
  | .sll o => Sys2Proof.Machine.execSll o s
  | .sllImm o => Sys2Proof.Machine.execSllImm o s
  | .srl o => Sys2Proof.Machine.execSrl o s
  | .srlImm o => Sys2Proof.Machine.execSrlImm o s
  | .sra o => Sys2Proof.Machine.execSra o s
  | .sraImm o => Sys2Proof.Machine.execSraImm o s
  | .rol o => Sys2Proof.Machine.execRol o s
  | .rolImm o => Sys2Proof.Machine.execRolImm o s
  | .ror o => Sys2Proof.Machine.execRor o s
  | .clz o => Sys2Proof.Machine.execClz o s
  | .ctz o => Sys2Proof.Machine.execCtz o s
  | .popc o => Sys2Proof.Machine.execPopc o s
  | .bswap o => Sys2Proof.Machine.execBswap o s
  | .bext o => Sys2Proof.Machine.execBext o s
  | .bins o => Sys2Proof.Machine.execBins o s
  | .cmpeq o => Sys2Proof.Machine.execCmpeq o s
  | .cmpeqImm o => Sys2Proof.Machine.execCmpeqImm o s
  | .cmpne o => Sys2Proof.Machine.execCmpne o s
  | .cmplt o => Sys2Proof.Machine.execCmplt o s
  | .cmpltImm o => Sys2Proof.Machine.execCmpltImm o s
  | .cmpltn o => Sys2Proof.Machine.execCmpltn o s
  | .cmple o => Sys2Proof.Machine.execCmple o s
  | .cmplen o => Sys2Proof.Machine.execCmplen o s
  | .sel o => Sys2Proof.Machine.execSel o s
  | .ldpc o => Sys2Proof.Machine.execLdpc o s
  | .gets o => Sys2Proof.Machine.execGets o s
  | .puts o => Sys2Proof.Machine.execPuts o s
  | .putsSeed o => Sys2Proof.Machine.execPutsSeed o s
  | .putsLfsr o => Sys2Proof.Machine.execPutsLfsr o s
  | .putsXage o => Sys2Proof.Machine.execPutsXage o s
  | .putsRound o => Sys2Proof.Machine.execPutsRound o s
  | .putsCause o => Sys2Proof.Machine.execPutsCause o s
  | .ptag o => Sys2Proof.Machine.execPtag o s
  | .pspc o => Sys2Proof.Machine.execPspc o s
  | .pown o => Sys2Proof.Machine.execPown o s
  | .poff o => Sys2Proof.Machine.execPoff o s
  | .padd o => Sys2Proof.Machine.execPadd o s
  | .paddImm o => Sys2Proof.Machine.execPaddImm o s
  | .rdtime o => Sys2Proof.Machine.execRdtime o s
  | .rdcyc o => Sys2Proof.Machine.execRdcyc o s
  | .vadd o => Sys2Proof.Machine.execVadd o s
  | .vsub o => Sys2Proof.Machine.execVsub o s
  | .vmul o => Sys2Proof.Machine.execVmul o s
  | .vmulh o => Sys2Proof.Machine.execVmulh o s
  | .vmin o => Sys2Proof.Machine.execVmin o s
  | .vmax o => Sys2Proof.Machine.execVmax o s
  | .vabs o => Sys2Proof.Machine.execVabs o s
  | .vand o => Sys2Proof.Machine.execVand o s
  | .vor o => Sys2Proof.Machine.execVor o s
  | .vxor o => Sys2Proof.Machine.execVxor o s
  | .vsll o => Sys2Proof.Machine.execVsll o s
  | .vsrl o => Sys2Proof.Machine.execVsrl o s
  | .vsra o => Sys2Proof.Machine.execVsra o s
  | .vcmp o => Sys2Proof.Machine.execVcmp o s
  | .vsel o => Sys2Proof.Machine.execVsel o s
  | .vrsumInt o => Sys2Proof.Machine.execVrsumInt o s
  | .vrmaxInt o => Sys2Proof.Machine.execVrmaxInt o s
  | .vrminInt o => Sys2Proof.Machine.execVrminInt o s
  | .vperm o => Sys2Proof.Machine.execVperm o s
  | .vshuf o => Sys2Proof.Machine.execVshuf o s
  | .vbcast o => Sys2Proof.Machine.execVbcast o s
  | .vext o => Sys2Proof.Machine.execVext o s
  | .vins o => Sys2Proof.Machine.execVins o s
  | .pset o => Sys2Proof.Machine.execPset o s
  | .pand o => Sys2Proof.Machine.execPand o s
  | .por o => Sys2Proof.Machine.execPor o s
  | .pnot o => Sys2Proof.Machine.execPnot o s
  | .pcnt o => Sys2Proof.Machine.execPcnt o s
  | .pfirst o => Sys2Proof.Machine.execPfirst o s
  | .vld o => Sys2Proof.Machine.execVld o s
  | .vst o => Sys2Proof.Machine.execVst o s
  | .vlds o => Sys2Proof.Machine.execVlds o s
  | .vgath o => Sys2Proof.Machine.execVgath o s
  | .vscat o => Sys2Proof.Machine.execVscat o s
  | .vfadd o => Sys2Proof.Machine.execVfadd o s
  | .vfsub o => Sys2Proof.Machine.execVfsub o s
  | .vfmul o => Sys2Proof.Machine.execVfmul o s
  | .vfma o => Sys2Proof.Machine.execVfma o s
  | .vfms o => Sys2Proof.Machine.execVfms o s
  | .vfnma o => Sys2Proof.Machine.execVfnma o s
  | .vfmin o => Sys2Proof.Machine.execVfmin o s
  | .vfmax o => Sys2Proof.Machine.execVfmax o s
  | .vfcmp o => Sys2Proof.Machine.execVfcmp o s
  | .vfdiv o => Sys2Proof.Machine.execVfdiv o s
  | .vfsqrt o => Sys2Proof.Machine.execVfsqrt o s
  | .vrsumFloat o => Sys2Proof.Machine.execVrsumFloat o s
  | .vrmaxFloat o => Sys2Proof.Machine.execVrmaxFloat o s
  | .vrminFloat o => Sys2Proof.Machine.execVrminFloat o s
  | .vcvt o => Sys2Proof.Machine.execVcvt o s
  | .vpack o => Sys2Proof.Machine.execVpack o s
  | .vunpack o => Sys2Proof.Machine.execVunpack o s
  | .vqnt o => Sys2Proof.Machine.execVqnt o s
  | .vdqnt o => Sys2Proof.Machine.execVdqnt o s
  | .vexp2 o => Sys2Proof.Machine.execVexp2 o s
  | .vlog2 o => Sys2Proof.Machine.execVlog2 o s
  | .vrsqrt o => Sys2Proof.Machine.execVrsqrt o s
  | .vrcp o => Sys2Proof.Machine.execVrcp o s
  | .vsincos o => Sys2Proof.Machine.execVsincos o s
  | .vtanh o => Sys2Proof.Machine.execVtanh o s
  | .rngdef o => Sys2Proof.Machine.execRngdef o s
  | .rngadv o => Sys2Proof.Machine.execRngadv o s
  | .rngstat o => Sys2Proof.Machine.execRngstat o s
  | .mma o => Sys2Proof.Machine.execMma o s
  | .zclr o => Sys2Proof.Machine.execZclr o s
  | .zld o => Sys2Proof.Machine.execZld o s
  | .zst o => Sys2Proof.Machine.execZst o s
  | .zred o => Sys2Proof.Machine.execZred o s
  | .zscale o => Sys2Proof.Machine.execZscale o s
  | .zclaim o => Sys2Proof.Machine.execZclaim o s
  | .zfree o => Sys2Proof.Machine.execZfree o s
  | .amoaddS32 o => Sys2Proof.Machine.execAmoaddS32 o s
  | .amoaddS64 o => Sys2Proof.Machine.execAmoaddS64 o s
  | .amoandS32 o => Sys2Proof.Machine.execAmoandS32 o s
  | .amoandS64 o => Sys2Proof.Machine.execAmoandS64 o s
  | .amoorS32 o => Sys2Proof.Machine.execAmoorS32 o s
  | .amoorS64 o => Sys2Proof.Machine.execAmoorS64 o s
  | .amoxorS32 o => Sys2Proof.Machine.execAmoxorS32 o s
  | .amoxorS64 o => Sys2Proof.Machine.execAmoxorS64 o s
  | .amominS32 o => Sys2Proof.Machine.execAmominS32 o s
  | .amominS64 o => Sys2Proof.Machine.execAmominS64 o s
  | .amominN32 o => Sys2Proof.Machine.execAmominN32 o s
  | .amominN64 o => Sys2Proof.Machine.execAmominN64 o s
  | .amomaxS32 o => Sys2Proof.Machine.execAmomaxS32 o s
  | .amomaxS64 o => Sys2Proof.Machine.execAmomaxS64 o s
  | .amomaxN32 o => Sys2Proof.Machine.execAmomaxN32 o s
  | .amomaxN64 o => Sys2Proof.Machine.execAmomaxN64 o s
  | .amoswpS32 o => Sys2Proof.Machine.execAmoswpS32 o s
  | .amoswpS64 o => Sys2Proof.Machine.execAmoswpS64 o s
  | .amocasS32 o => Sys2Proof.Machine.execAmocasS32 o s
  | .amocasS64 o => Sys2Proof.Machine.execAmocasS64 o s
  | .amobaddN32 o => Sys2Proof.Machine.execAmobaddN32 o s
  | .amobaddN64 o => Sys2Proof.Machine.execAmobaddN64 o s
  | .amofaddF32 o => Sys2Proof.Machine.execAmofaddF32 o s
  | .rowadd o => Sys2Proof.Machine.execRowadd o s
  | .rowmax o => Sys2Proof.Machine.execRowmax o s
  | .ldrowFresh o => Sys2Proof.Machine.execLdrowFresh o s
  | .ldrowStale o => Sys2Proof.Machine.execLdrowStale o s
  | .topk o => Sys2Proof.Machine.execTopk o s
  | .ldfe o => Sys2Proof.Machine.execLdfe o s
  | .ldff o => Sys2Proof.Machine.execLdff o s
  | .stfe o => Sys2Proof.Machine.execStfe o s
  | .stff o => Sys2Proof.Machine.execStff o s
  | .fepoll o => Sys2Proof.Machine.execFepoll o s
  | .feclr o => Sys2Proof.Machine.execFeclr o s
  | .fence o => Sys2Proof.Machine.execFence o s
  | .xbegin o => Sys2Proof.Machine.execXbegin o s
  | .xtest o => Sys2Proof.Machine.execXtest o s
  | .xstat o => Sys2Proof.Machine.execXstat o s
  | .kset o => Sys2Proof.Machine.execKset o s
  | .kadd o => Sys2Proof.Machine.execKadd o s
  | .kwait o => Sys2Proof.Machine.execKwait o s
  | .kread o => Sys2Proof.Machine.execKread o s
  | .evsig o => Sys2Proof.Machine.execEvsig o s
  | .evwait o => Sys2Proof.Machine.execEvwait o s
  | .waitw o => Sys2Proof.Machine.execWaitw o s
  | .cpy o => Sys2Proof.Machine.execCpy o s
  | .cpy2 o => Sys2Proof.Machine.execCpy2 o s
  | .cpyc o => Sys2Proof.Machine.execCpyc o s
  | .cpyr o => Sys2Proof.Machine.execCpyr o s
  | .cpyg o => Sys2Proof.Machine.execCpyg o s
  | .cpys o => Sys2Proof.Machine.execCpys o s
  | .putr o => Sys2Proof.Machine.execPutr o s
  | .putv o => Sys2Proof.Machine.execPutv o s
  | .flagr o => Sys2Proof.Machine.execFlagr o s
  | .amor o => Sys2Proof.Machine.execAmor o s
  | .getr o => Sys2Proof.Machine.execGetr o s
  | .sendStart o => Sys2Proof.Machine.execSendStart o s
  | .sendPost o => Sys2Proof.Machine.execSendPost o s
  | .recv o => Sys2Proof.Machine.execRecv o s
  | .spawn o => Sys2Proof.Machine.execSpawn o s
  | .launch o => Sys2Proof.Machine.execLaunch o s
  | .cancel o => Sys2Proof.Machine.execCancel o s
  | .suspend o => Sys2Proof.Machine.execSuspend o s
  | .resumeHere o => Sys2Proof.Machine.execResumeHere o s
  | .resumeAny o => Sys2Proof.Machine.execResumeAny o s
  | .ccopy o => Sys2Proof.Machine.execCcopy o s
  | .cdiscard o => Sys2Proof.Machine.execCdiscard o s
  | .csize o => Sys2Proof.Machine.execCsize o s
  | .tlbinv o => Sys2Proof.Machine.execTlbinv o s
  | .syscallNop o => Sys2Proof.Machine.execSyscallNop o s
  | .syscallMap o => Sys2Proof.Machine.execSyscallMap o s
  | .syscallUnmap o => Sys2Proof.Machine.execSyscallUnmap o s
  | .syscallSwitch o => Sys2Proof.Machine.execSyscallSwitch o s
  | .syscallRights o => Sys2Proof.Machine.execSyscallRights o s
  | .syscallUnassigned o => Sys2Proof.Machine.execSyscallUnassigned o s
  | .cexport o => Sys2Proof.Machine.execCexport o s
  | .measure o => Sys2Proof.Machine.execMeasure o s
  | .trapz => Sys2Proof.Machine.execTrapz s
  | .nop => Sys2Proof.Machine.execNop s
  | .ret => Sys2Proof.Machine.execRet s
  | .endStrand => Sys2Proof.Machine.execEndStrand s
  | .safe => Sys2Proof.Machine.execSafe s
  | .brk => Sys2Proof.Machine.execBrk s
  | .fencei => Sys2Proof.Machine.execFencei s
  | .tbar => Sys2Proof.Machine.execTbar s
  | .lbar => Sys2Proof.Machine.execLbar s
  | .xend => Sys2Proof.Machine.execXend s
  | .xabort => Sys2Proof.Machine.execXabort s
  | .yield => Sys2Proof.Machine.execYield s
  | .sret => Sys2Proof.Machine.execSret s
  | .powerOn => Sys2Proof.Machine.execPowerOn s
  | .resetAssert => Sys2Proof.Machine.execResetAssert s
  | .resetRelease => Sys2Proof.Machine.execResetRelease s
  | .ident => Sys2Proof.Machine.execIdent s
  | .attest => Sys2Proof.Machine.execAttest s
  | .regMr => Sys2Proof.Machine.execRegMr s
  | .jobCreate => Sys2Proof.Machine.execJobCreate s
  | .jobDestroy => Sys2Proof.Machine.execJobDestroy s
  | .chan => Sys2Proof.Machine.execChan s
  | .switch => Sys2Proof.Machine.execSwitch s
  | .route => Sys2Proof.Machine.execRoute s
  | .hostRdmaWrite => Sys2Proof.Machine.execHostRdmaWrite s
  | .hostRdmaRead => Sys2Proof.Machine.execHostRdmaRead s
  | .recordTaken => Sys2Proof.Machine.execRecordTaken s
  | .launchAdmission => Sys2Proof.Machine.execLaunchAdmission s
  | .priorityAging => Sys2Proof.Machine.execPriorityAging s
  | .wakeMessage => Sys2Proof.Machine.execWakeMessage s
  | .troupePlacement => Sys2Proof.Machine.execTroupePlacement s
  | .bayWake => Sys2Proof.Machine.execBayWake s
  | .bayGate => Sys2Proof.Machine.execBayGate s
  | .spawnRecord => Sys2Proof.Machine.execSpawnRecord s
  | .troupeDone => Sys2Proof.Machine.execTroupeDone s
  | .eventAdd => Sys2Proof.Machine.execEventAdd s
  | .overflowWaitTest => Sys2Proof.Machine.execOverflowWaitTest s
  | .cancelBroadcast => Sys2Proof.Machine.execCancelBroadcast s
  | .launchOverflowAppend => Sys2Proof.Machine.execLaunchOverflowAppend s
  | .switchTime => Sys2Proof.Machine.execSwitchTime s
  | .switchForcedStop => Sys2Proof.Machine.execSwitchForcedStop s
  | .troupeCapture => Sys2Proof.Machine.execTroupeCapture s
  | .captureWatchdog => Sys2Proof.Machine.execCaptureWatchdog s
  | .switchComplete => Sys2Proof.Machine.execSwitchComplete s
  | .mailboxArrival => Sys2Proof.Machine.execMailboxArrival s
  | .handlerStart => Sys2Proof.Machine.execHandlerStart s
  | .spillReturn => Sys2Proof.Machine.execSpillReturn s
  | .acceptChannelCommand => Sys2Proof.Machine.execAcceptChannelCommand s
  | .remoteRequestSend => Sys2Proof.Machine.execRemoteRequestSend s
  | .write => Sys2Proof.Machine.execWrite s
  | .writeLands => Sys2Proof.Machine.execWriteLands s
  | .flag => Sys2Proof.Machine.execFlag s
  | .flagRelease => Sys2Proof.Machine.execFlagRelease s
  | .amo => Sys2Proof.Machine.execAmo s
  | .read => Sys2Proof.Machine.execRead s
  | .landed => Sys2Proof.Machine.execLanded s
  | .gap => Sys2Proof.Machine.execGap s
  | .response => Sys2Proof.Machine.execResponse s
  | .landedTimer => Sys2Proof.Machine.execLandedTimer s
  | .gapTimeout => Sys2Proof.Machine.execGapTimeout s
  | .senderTimeout => Sys2Proof.Machine.execSenderTimeout s
  | .remoteTimeout => Sys2Proof.Machine.execRemoteTimeout s
  | .portRemoval => Sys2Proof.Machine.execPortRemoval s
  | .channelDrained => Sys2Proof.Machine.execChannelDrained s
  | .leaseRenewal => Sys2Proof.Machine.execLeaseRenewal s
  | .loadReturn => Sys2Proof.Machine.execLoadReturn s
  | .storeApply => Sys2Proof.Machine.execStoreApply s
  | .storeAck => Sys2Proof.Machine.execStoreAck s
  | .proxyReadMiss => Sys2Proof.Machine.execProxyReadMiss s
  | .proxyWrite => Sys2Proof.Machine.execProxyWrite s
  | .proxyEviction => Sys2Proof.Machine.execProxyEviction s
  | .freshRead => Sys2Proof.Machine.execFreshRead s
  | .recall => Sys2Proof.Machine.execRecall s
  | .transitionAnswer => Sys2Proof.Machine.execTransitionAnswer s
  | .depositRegistration => Sys2Proof.Machine.execDepositRegistration s
  | .depositMerge => Sys2Proof.Machine.execDepositMerge s
  | .coherenceRetry => Sys2Proof.Machine.execCoherenceRetry s
  | .reservationPass => Sys2Proof.Machine.execReservationPass s
  | .rebase => Sys2Proof.Machine.execRebase s
  | .rebaseEnd => Sys2Proof.Machine.execRebaseEnd s
  | .postedStoreApply => Sys2Proof.Machine.execPostedStoreApply s
  | .postedStoreAck => Sys2Proof.Machine.execPostedStoreAck s
  | .remoteRead => Sys2Proof.Machine.execRemoteRead s
  | .taggedWordRequest => Sys2Proof.Machine.execTaggedWordRequest s
  | .feTimeout => Sys2Proof.Machine.execFeTimeout s
  | .atomicAtHome => Sys2Proof.Machine.execAtomicAtHome s
  | .rowAtHome => Sys2Proof.Machine.execRowAtHome s
  | .topkAtHome => Sys2Proof.Machine.execTopkAtHome s
  | .transactionalRegistration => Sys2Proof.Machine.execTransactionalRegistration s
  | .conflictAbort => Sys2Proof.Machine.execConflictAbort s
  | .transactionCommit => Sys2Proof.Machine.execTransactionCommit s
  | .commitApply => Sys2Proof.Machine.execCommitApply s
  | .divideComplete => Sys2Proof.Machine.execDivideComplete s
  | .sfuService => Sys2Proof.Machine.execSfuService s
  | .sfuResult => Sys2Proof.Machine.execSfuResult s
  | .mmaStart => Sys2Proof.Machine.execMmaStart s
  | .mmaRetire => Sys2Proof.Machine.execMmaRetire s
  | .zscaleRetire => Sys2Proof.Machine.execZscaleRetire s
  | .zmoveComplete => Sys2Proof.Machine.execZmoveComplete s
  | .yieldEnd => Sys2Proof.Machine.execYieldEnd s
  | .asyncTrapDelivery => Sys2Proof.Machine.execAsyncTrapDelivery s
  | .engineCommandStart => Sys2Proof.Machine.execEngineCommandStart s
  | .enginePageBoundary => Sys2Proof.Machine.execEnginePageBoundary s
  | .engineCommandComplete => Sys2Proof.Machine.execEngineCommandComplete s
  | .cpyrReserve => Sys2Proof.Machine.execCpyrReserve s
  | .shootdownAnswer => Sys2Proof.Machine.execShootdownAnswer s
  | .shootdownTimeout => Sys2Proof.Machine.execShootdownTimeout s
  | .compareAndClear => Sys2Proof.Machine.execCompareAndClear s
  | .ccopyWrite => Sys2Proof.Machine.execCcopyWrite s
  | .cdiscardClear => Sys2Proof.Machine.execCdiscardClear s
  | .cexportService => Sys2Proof.Machine.execCexportService s
  | .measurementExtension => Sys2Proof.Machine.execMeasurementExtension s
  | .errorDetected => Sys2Proof.Machine.execErrorDetected s
  | .patrolScrub => Sys2Proof.Machine.execPatrolScrub s
  | .agentDead => Sys2Proof.Machine.execAgentDead s
  | .illegalEncoding => Sys2Proof.Machine.execIllegalEncoding s
  | .vinLoss => Sys2Proof.Machine.execVinLoss s

end Sys2Proof.Machine
end

