-- ==== Sys2Proof/Machine/Step.lean ====
section
/-! DEFINITION. One step of the machine (see Sys2Proof.Machine.Issue), and the placing of an instruction where the next
step fetches it. -/

namespace Sys2Proof.Machine

/-- One step: what comes next is planned, and an instruction or a step of the device is run by `exec`. -/
def step (s : State) : Host.Outcome State Fault Refusal :=
  match planNext s with
  | .run i t => exec i t
  | .done t => .next t
  | .stop f => .fault f

/-- A job, a troupe and a strand as a job creation and a launch would leave them (L1): the code region starts at DEP
offset 0, and one leaf of the page table maps it onto physical depot address 2^30 with every right. -/
def State.withProgram (s : State) : State :=
  { s with
    jobs := [{ Job.blank with
      num := 1, codeBase := 0x3000000000000000#64, codeLimit := 0x3000000000100000#64, admissions := 1,
      parts := Job.blank.parts.set 0 { Part.blank with bays := 1, state := .resident } }],
    troupes := [{ Troupe.blank with uid := 1, job := 1, launch := 0x0001000000000001#64, place := .placed, strandsLeft := 1 }],
    launches := [{
      ident := 0x0001000000000001#64, job := 1, part := 0, entry := 0, c := 1, s := 1, lm := 16, arg := 0, seed := 0, scope := .pkg,
      signal := none, cohort := false, system := false, setMask := 0, templates := [], rootCount := 1, nextIndex := 1, shares := [(0, 0, 1)],
      wakePending := [], ran := [], cancelBit := false, cancelPending := [], cancelReached := [], complete := false }],
    cur := { Strand.blank with sid := 1, mode := .running, troupe := 1, pc := 0x3000000000000000#64 },
    rest := [],
    mem := Memory.writeN s.mem (depAddr 0) 8 0x4000001E,
    nextId := s.nextId + 2 }

/-- The words of a table row stored where the next step fetches its instruction, zeros after them (L1, L12). -/
def State.withFetchWord (s : State) (nbits w : Nat) : State :=
  let ws := Sys2Proof.tableWords nbits w ++ [0, 0, 0, 0]
  let t := s.withProgram
  { t with mem := Memory.setBytes t.mem (depAddr 0x40000000) (List.flatten (ws.map (fun x => natBytes 2 x.toNat))) }

end Sys2Proof.Machine
end

