-- ==== Sys2Proof/Safety.lean ====
section
/-! DEFINITION. What claims are said in: when the machine can take a step, the form every step keeps, the conditions under which
an instruction issues, and the states that instructions of one shape leave behind. -/

namespace Sys2Proof.Machine

/-- The machine can take a step here: it has power, is out of reset and has booted, or a step is on the agenda. -/
abbrev CanStep (s : State) : Prop :=
  s.agenda ≠ [] ∨ (s.mgmt.powered = true ∧ s.mgmt.inReset = false ∧ s.mgmt.boot = 1)

/-- A list of numbers rises strictly. -/
def rising : List Nat → Bool
  | [] => true
  | [_] => true
  | a :: b :: r => decide (a < b) && rising (b :: r)

/-- What every step keeps: the memory, the list of empty words and the list of poisoned words are each in their one form
(see Sys2Proof.Machine.Memory). -/
abbrev Safe (s : State) : Prop := Memory.wf s.mem = true ∧ rising s.empties = true ∧ rising s.poison = true

/-! ### When an instruction issues -/

/-- X[r] is full. -/
abbrev State.readyX (s : State) (r : Reg) : Prop := s.cur.fullX r = true

/-- Every register of a group of vector registers is full. -/
abbrev State.readyV (s : State) (w : Grp) (r : Reg) : Prop := ∀ q ∈ groupRegs w r, s.cur.fullV q = true

/-- No arithmetic counter of the strand's troupe has a limit. -/
abbrev State.noLimits (s : State) : Prop := ∀ i : Fin 5, (s.troupe s.cur.troupe).alimit[i] = 0

/-! ### What an instruction leaves behind -/

/-- The strand in hand goes on at p; `c` is what a FETCH_LIMIT there would name as its origin. -/
def State.wentTo (s : State) (p c : Word) : State :=
  { s with cur := { s.cur with pc := p, came := c, wait := none, blocked := none, stalled := false, safe := false } }

/-- The strand in hand goes on after the instruction in hand. -/
def State.wentOn (s : State) : State := s.wentTo (padd s.cur.pc (BitVec.ofNat 64 (2 * s.ir.length))) 0

/-- The instruction writes X[d] and the strand goes on. -/
def State.wrote (s : State) (d : Reg) (v : Word) : State := { s with cur := s.cur.putX d v }.wentOn

/-- The target of a relative transfer, `off` words of 16 bits from the instruction's own address. -/
def State.relative (s : State) (off : Word) : Word := padd s.cur.pc (off * 2)

/-- A branch taken or not. -/
def State.branched (s : State) (taken : Bool) (off : Word) : State :=
  if taken then s.wentTo (s.relative off) s.cur.pc else s.wentOn

/-- Quotient and remainder of the signed division. -/
def SignedDivision (a b q r : Word) : Prop :=
  (b = 0 → q = BitVec.allOnes 64 ∧ r = a)
  ∧ (a = 0x8000000000000000#64 → b = BitVec.allOnes 64 → q = a ∧ r = 0)
  ∧ (b ≠ 0 → ¬(a = 0x8000000000000000#64 ∧ b = BitVec.allOnes 64) →
      a.toInt = q.toInt * b.toInt + r.toInt ∧ r.toInt.natAbs < b.toInt.natAbs ∧ (r.toInt = 0 ∨ (r.toInt < 0 ↔ a.toInt < 0)))

/-- Quotient and remainder of the unsigned division. -/
def UnsignedDivision (a b q r : Word) : Prop :=
  (b = 0 → q = BitVec.allOnes 64 ∧ r = a)
  ∧ (b ≠ 0 → a.toNat = q.toNat * b.toNat + r.toNat ∧ r.toNat < b.toNat)

/-- A division issued: the result is on its way to X[d], which is empty until it comes. -/
def State.divides (s : State) (d : Reg) (v : Word) : State :=
  { s with cur := s.cur.emptyX d, reqs := s.reqs ++ [newReq s (.divide v d) 0 0 .rlx .str], nextId := s.nextId + 1 }.wentOn

/-- The state registers of the strand in hand change and it goes on. -/
def State.setRegs (s : State) (f : SRegs → SRegs) : State := { s with cur := { s.cur with sr := f s.cur.sr } }.wentOn

/-- A predicate register is written and the strand goes on. -/
def State.wroteP (s : State) (d : BitVec 3) (v : Quad) : State := { s with cur := s.cur.putP d v }.wentOn

/-- A 0 or 1 for a relation. -/
def truth (p : Prop) [Decidable p] : Word := if p then 1 else 0

/-! ### Numbers -/

/-- The LFSR after a number of draws, which only the mode sr makes. -/
def drawn (rm : Rm) (k : Nat) (l : Quad) : Quad := if rm = .sr then lfsrSteps k l else l

/-- The floating formats with the largest finite magnitude as significand and exponent, and the canonical NaN (e2m1 has none and gives
+0 for it). -/
def formatRows : List (FF × Nat × Int × Nat) :=
  [(ffF32, 2 ^ 24 - 1, 104, 0x7FC00000), (ffF16, 2047, 5, 0x7E00), (ffBf16, 255, 120, 0x7FC0), (ffE4m3, 14, 5, 0x7F),
    (ffE5m2, 7, 13, 0x7E), (ffE2m1, 3, 1, 0)]

/-- A finite number of a sign and a magnitude. -/
def Num.Is (v : Num) (neg : Bool) (x : ℝ) : Prop := ∃ (m : Nat) (e : Int), v = .fin neg m e ∧ (m : ℝ) * 2 ^ e = x

/-- The place of a number that is not NaN among the extended reals. -/
def Num.At (v : Num) (x : EReal) : Prop :=
  match v with
  | .nan => False
  | .inf neg => x = if neg then ⊥ else ⊤
  | .fin neg m e => x = (((if neg then -1 else 1) * (m : ℝ) * 2 ^ e : ℝ) : EReal)

/-- a lies below b in the order of VFMIN and VFMAX: by their values, and −0 below +0. -/
def Num.Under (a b : Num) : Prop :=
  ∃ x y : EReal, Num.At a x ∧ Num.At b y ∧ (x < y ∨ (x = y ∧ a.isZero = true ∧ a.sign = true ∧ b.sign = false))

/-- A pattern of a format that stands for a finite number of a sign and a magnitude. -/
def FF.Shows (f : FF) (b : Nat) (neg : Bool) (x : ℝ) : Prop := b < 2 ^ f.width ∧ Num.Is (f.decode b) neg x

/-- n is the number of units u that a magnitude x rounds to in a mode, in sr with d random bits of s. -/
def RoundsToUnits (rm : Rm) (neg : Bool) (x u : ℝ) (d : Nat) (s : Quad) (n : Nat) : Prop :=
  let floor := n * u ≤ x ∧ x < (n + 1) * u
  let ceil := x ≤ n * u ∧ n * u < x + u
  match rm with
  | .rne | .dyn => |n * u - x| ≤ u / 2 ∧ (|n * u - x| = u / 2 → n % 2 = 0)
  | .rtz => floor
  | .rdn => if neg then ceil else floor
  | .rup => if neg then floor else ceil
  | .sr => let y : ℝ := x + (s.toNat % 2 ^ d : Nat) * u / 2 ^ d; n * u ≤ y ∧ y < (n + 1) * u

/-- A rounded result without an event. -/
def Rounded.plain (r : Rounded) : Prop := r.nan = false ∧ r.inf = false ∧ r.sat = false

/-- An infinite result in a format with the largest magnitude lm·2^le: clamped with .sat, else an infinity, in e4m3 NaN, in e2m1 ±6. -/
def FF.GivesInf (f : FF) (lm : Nat) (le : Int) (neg sat inInf : Bool) (r : Rounded) : Prop :=
  (sat = true → f.Shows r.bits neg (lm * 2 ^ le) ∧ r.sat = true ∧ r.nan = false ∧ r.inf = false)
  ∧ (sat = false → r.sat = false ∧ (f.hasInf = true → f.decode r.bits = .inf neg ∧ r.inf = !inInf ∧ r.nan = false)
      ∧ (f = ffE4m3 → r.bits = 0x7F ∧ r.nan = true ∧ r.inf = false) ∧ (f = ffE2m1 → f.Shows r.bits neg (lm * 2 ^ le) ∧ r.plain))

/-- The result of rounding a number of sign `neg` and magnitude x to a format: units of the spacing 2^q of its grid at x, the grid extended
past its largest magnitude lm·2^le; beyond that the mode says whether the largest or an infinity results. `src` is the least exponent that
the source of a conversion can occupy. -/
def FF.Rounds (f : FF) (lm : Nat) (le : Int) (neg : Bool) (x : ℝ) (rm : Rm) (sat : Bool) (l : Quad) (src : Option Int) (r : Rounded) : Prop :=
  r.lfsr = drawn rm 1 l
  ∧ ∃ (q : Int) (n : Nat), 1 - (f.bias : Int) - f.fb ≤ q ∧ x < (2 : ℝ) ^ (q + f.fb + 1)
    ∧ (q = 1 - (f.bias : Int) - f.fb ∨ (2 : ℝ) ^ (q + f.fb) ≤ x)
    ∧ RoundsToUnits rm neg x ((2 : ℝ) ^ q) (match src with | none => 16 | some e => min 16 (q - e).toNat) (drawn rm 1 l) n
    ∧ ((n : ℝ) * 2 ^ q ≤ lm * 2 ^ le → f.Shows r.bits neg (n * 2 ^ q) ∧ r.plain)
    ∧ ((lm : ℝ) * 2 ^ le < n * 2 ^ q →
        if rm = .rtz ∨ (rm = .rdn ∧ neg = false) ∨ (rm = .rup ∧ neg = true) then f.Shows r.bits neg (lm * 2 ^ le) ∧ r.plain
        else f.GivesInf lm le neg sat false r)

/-- The greater or the lesser of two patterns: the one that is no NaN, the canonical NaN nb where both are, else one that no other passes. -/
def FF.Picks (f : FF) (wantMax : Bool) (nb a b r : Nat) : Prop :=
  (f.decode a = .nan → f.decode b = .nan → r = nb)
  ∧ (f.decode a = .nan → f.decode b ≠ .nan → r = b) ∧ (f.decode a ≠ .nan → f.decode b = .nan → r = a)
  ∧ (f.decode a ≠ .nan → f.decode b ≠ .nan → (r = a ∨ r = b) ∧ ∀ z, z = a ∨ z = b →
      if wantMax then ¬Num.Under (f.decode r) (f.decode z) else ¬Num.Under (f.decode z) (f.decode r))

/-- The sum of two patterns of a format with infinities, rounded once in rne. -/
def FF.Sums (f : FF) (lm : Nat) (le : Int) (nb a b r : Nat) : Prop :=
  let x := f.decode a
  let y := f.decode b
  (x = .nan ∨ y = .nan ∨ (∃ s, x = .inf s ∧ y = .inf (!s)) → r = nb)
  ∧ (∀ s, (x = .inf s ∧ y ≠ .nan ∧ y ≠ .inf (!s)) ∨ (y = .inf s ∧ x ≠ .nan ∧ x ≠ .inf (!s)) → f.decode r = .inf s)
  ∧ ∀ (n1 n2 neg : Bool) (v1 v2 : ℝ), Num.Is x n1 v1 → Num.Is y n2 v2 →
      let v := (if n1 then -v1 else v1) + (if n2 then -v2 else v2)
      (v < 0 → neg = true) → (0 < v → neg = false) → (v = 0 → neg = (n1 && n2)) →
      ∃ q : Rounded, f.Rounds lm le neg |v| .rne false 0 none q ∧ q.bits = r

/-- What VQNT makes of 32 values in an element format with element maximum `emax`: the first number fixes the block's exponent, which the
largest magnitude sets, and every element is its quotient by it, rounded once and clamped. -/
def Quantises (f : FF) (lm : Nat) (le emax : Int) (src : Fmt) (vals : List Nat) (rm : Rm) (l : Quad) (q : MxBlock) : Prop :=
  let x := fun k => fmtValue src (vals.getD k 0)
  q.lfsr = drawn rm 32 l ∧ q.elems.length = 32 ∧ q.sats.length = 32
  ∧ ((∃ k, k < 32 ∧ (x k = .nan ∨ (x k).isInf = true)) →
      q.scale = 0xFF ∧ (∀ e ∈ q.elems, e = 0) ∧ (∀ c ∈ q.sats, c = false) ∧ q.above = false ∧ q.below = false)
  ∧ ∀ (neg : Nat → Bool) (v : Nat → ℝ), (∀ k, k < 32 → Num.Is (x k) (neg k) (v k)) →
      ∃ first e : Int, ((∀ k, k < 32 → v k = 0) → first = -127)
        ∧ ((∃ k, k < 32 ∧ v k ≠ 0) → (∃ k, k < 32 ∧ (2 : ℝ) ^ (first + emax) ≤ v k) ∧ ∀ k, k < 32 → v k < (2 : ℝ) ^ (first + emax + 1))
        ∧ e = min (max first (-127)) 127 ∧ (q.scale : Int) = e + 127
        ∧ (q.above = true ↔ 127 < first) ∧ (q.below = true ↔ first < -127)
        ∧ ∀ k, k < 32 → ∃ r : Rounded, f.Rounds lm le (neg k) (v k / 2 ^ e) rm true (drawn rm k l) (some (srcLsb src (x k) - e)) r
            ∧ q.elems[k]? = some r.bits ∧ q.sats[k]? = some r.sat

/-- What VDQNT makes of one element of a block in a format: scale times element, rounded once; NaN where the scale is 0xFF. -/
def Dequantises (f g : FF) (lm : Nat) (le : Int) (nb scale b : Nat) (rm : Rm) (sat : Bool) (l : Quad) (r : Rounded) : Prop :=
  (scale = 0xFF ∨ f.decode b = .nan → r.bits = nb ∧ r.lfsr = drawn rm 1 l ∧ r.inf = false ∧ r.sat = false)
  ∧ (scale < 0xFF →
    (∀ n : Bool, f.decode b = .inf n → r.lfsr = drawn rm 1 l ∧ g.GivesInf lm le n sat true r)
    ∧ ∀ (n : Bool) (v : ℝ), Num.Is (f.decode b) n v →
        g.Rounds lm le n (v * 2 ^ ((scale : Int) - 127)) rm sat l (some (mxLsb f scale b)) r)

/-- Operands for which an operation is invalid. -/
def FBin.Invalid (op : FBin) (x y : Num) : Prop :=
  (op = .add ∧ ∃ s, x = .inf s ∧ y = .inf (!s)) ∨ (op = .sub ∧ ∃ s, x = .inf s ∧ y = .inf s)
  ∨ (op = .mul ∧ ((x.isInf = true ∧ y.isZero = true) ∨ (x.isZero = true ∧ y.isInf = true)))
  ∨ (op = .div ∧ ((x.isInf = true ∧ y.isInf = true) ∨ (x.isZero = true ∧ y.isZero = true)))

/-- Operands, neither NaN, for which an operation is valid and its result an infinity of sign s. -/
def FBin.Infinite (op : FBin) (x y : Num) (s : Bool) : Prop :=
  x ≠ .nan ∧ y ≠ .nan ∧ ¬op.Invalid x y
  ∧ ((op = .add ∧ (x = .inf s ∨ y = .inf s)) ∨ (op = .sub ∧ (x = .inf s ∨ y = .inf (!s)))
    ∨ (op = .mul ∧ (x.isInf = true ∨ y.isInf = true) ∧ s = (x.sign != y.sign))
    ∨ (op = .div ∧ (x.isInf = true ∨ y.isZero = true) ∧ s = (x.sign != y.sign)))

/-! ### Counters -/

/-- n events take a counter across its limit. -/
abbrev Crosses (old limit : Quad) (n : Nat) : Prop := old.toNat < limit.toNat ∧ limit.toNat ≤ old.toNat + n

/-- How many events of a list are of a counter. -/
def tally (evs : List Ev) (c : Fin 5) : Nat := evs.countP (fun e => e.counter == c)

/-- The troupes after events have been counted for one of them. -/
def State.counted (s : State) (uid : Nat) (evs : List Ev) : State :=
  { s with troupes := s.troupes.map (fun u : Troupe => if u.uid = uid then
      { u with arith := Vector.ofFn (fun i => u.arith[i] + BitVec.ofNat 32 (tally evs i)) } else u) }

/-- What ARITH carries of an instruction whose events cross counters of a troupe: page and opcode with the lowest crossed counter and the
mask of all crossed, the element whose event crossed that counter, the formats, the instruction's address. -/
def CarriesArith (u : Troupe) (evs : List Ev) (page opcode fmta fmtb : Nat) (c0 c1 c2 : Word) : Prop :=
  ∃ (f : Fin 5) (e : Ev) (l r : List Ev),
    Crosses u.arith[f] u.alimit[f] (tally evs f) ∧ (∀ g, g < f → ¬Crosses u.arith[g] u.alimit[g] (tally evs g))
    ∧ evs = l ++ e :: r ∧ e.counter = f ∧ u.arith[f].toNat + tally l f + 1 = u.alimit[f].toNat
    ∧ c0 = BitVec.ofNat 64 (opcode * 2 ^ 16 + page * 2 ^ 8 + f.val * 2 ^ 5
        + ((List.finRange 5).map (fun g => if Crosses u.arith[g] u.alimit[g] (tally evs g) then 2 ^ g.val else 0)).sum)
    ∧ c1 = BitVec.ofNat 64 (e.kind * 2 ^ 24 + e.reg * 2 ^ 16 + e.row * 2 ^ 8 + e.col) ∧ c2 = BitVec.ofNat 64 (fmtb * 2 ^ 16 + fmta * 2 ^ 8 + e.k)

/-! ### Vectors -/

/-- From s to t the strand has gone on, and nothing else has changed but the registers of a group, the LFSR, and the arithmetic
counters of the strand's troupe, which have grown by `n`. -/
def VectorOnly (s t : State) (w : Grp) (d : Reg) (n : Fin 5 → Nat) : Prop :=
  ∃ v lf, t = { s with
      cur := { s.cur with v := v, sr := { s.cur.sr with lfsr := lf } },
      troupes := s.troupes.map (fun u : Troupe => if u.uid = s.cur.troupe then
        { u with arith := Vector.ofFn (fun i => u.arith[i] + BitVec.ofNat 32 (n i)) } else u) }.wentOn
    ∧ ∀ q, q ∉ groupRegs w d → t.v q = s.v q

/-- Lane l of register r of the group at d. -/
def State.laneOf (s : State) (d : Reg) (w r l : Nat) : Nat := (s.v (inGroup d r)).toNat / 2 ^ (w * l) % 2 ^ w

/-- Whether lane l of register r of a group of W-bit lanes is active under predicate p. -/
def State.active (s : State) (p : BitVec 3) (w r l : Nat) : Bool := (s.p p).getLsbD ((r * (256 / w) + l) % 32)

/-- How many lanes of a group have a property. -/
def laneCount (w : Grp) (bits : Nat) (c : Nat → Nat → Bool) : Nat :=
  ((List.range w.count).map (fun r => (List.range (256 / bits)).countP (c r))).sum

/-- Active lanes of a group before lane l of register r. -/
def State.lanesBefore (s : State) (p : BitVec 3) (bits r l : Nat) : Nat :=
  (List.range (r * (256 / bits) + l)).countP (fun g => (s.p p).getLsbD (g % 32))

/-- A number as a lane of a class V type reads it. -/
def laneVal (m : VMod) (v : Nat) : Int := if m.unsigned then (v : Int) else (BitVec.ofNat (laneBits m.lw) v).toInt

/-- The least and greatest value of a class V type. -/
def laneMin (m : VMod) : Int := if m.unsigned then 0 else -(2 ^ (laneBits m.lw - 1) : Int)
def laneMax (m : VMod) : Int := if m.unsigned then 2 ^ laneBits m.lw - 1 else 2 ^ (laneBits m.lw - 1) - 1

/-- The pairwise tree over 2^n values from value i·2^n on. -/
def treeOf {α : Type} (f : α → α → α) (g : Nat → α) : Nat → Nat → α
  | 0, i => g i
  | n + 1, i => f (treeOf f g n (2 * i)) (treeOf f g n (2 * i + 1))

/-- The same tree of nodes that know their level, counted from the leaves, and their place on it. -/
def nodesOf {α : Type} (f : Nat → Nat → α → α → α) (g : Nat → α) : Nat → Nat → α
  | 0, i => g i
  | n + 1, i => f n i (nodesOf f g n (2 * i)) (nodesOf f g n (2 * i + 1))

/-! ### Memory -/

/-- A byte of memory by its physical address. -/
def State.byte (s : State) (a : Nat) : Byte := Memory.get s.mem a

/-- Every byte outside n bytes at a reads as before. -/
def SameBytesBut (s t : State) (a n : Nat) : Prop := ∀ b, b < a ∨ a + n ≤ b → t.byte b = s.byte b

/-- Pointers of spaces 1, 2, 3 and 5 pass every check of an access of n bytes aligned to n, one after the other: `as` are their
physical addresses, and t is the state with the translations cached. -/
def passes (s : State) (n : Nat) (r w : Bool) : List Word → State → List Nat → Prop
  | [], t, as => t = s ∧ as = []
  | p :: ps, t, as => ∃ a e as', ptrOff p % n = 0 ∧ lookup s s.myBay s.myTroupe.job p n r w false = .good a e ∧ as = a :: as'
      ∧ passes (s.cacheEntry e) n r w ps t as'

/-- A pointer into the local memory of the strand's own core, of another core, into the gallery or the depot, to another package. -/
abbrev State.own (s : State) (p : Word) : Prop := ptrSpace p = 1 ∧ ptrOwner p = s.cur.core
abbrev State.other (s : State) (p : Word) : Prop := ptrSpace p = 1 ∧ ptrOwner p ≠ s.cur.core
abbrev leased (p : Word) : Prop := ptrSpace p = 2 ∨ ptrSpace p = 3
abbrev away (p : Word) : Prop := ptrSpace p = 4

/-- The channel that %chan names takes this strand's requests: it is bound to its job and open. -/
def State.channelOpen (s : State) : Prop :=
  ∃ c, s.hub.sends.find? (fun c => c.num == s.cur.sr.chan.toNat % 4096) = some c ∧ c.job = s.myTroupe.job ∧ c.state = 1

/-- The scalar loads: bytes, sign extension. -/
def scalarLoads (o : MEM) : List (Instr × Nat × Bool) :=
  [(.ldS8 o, 1, true), (.ldS16 o, 2, true), (.ldS32 o, 4, true), (.ldS64 o, 8, true),
    (.ldzN8 o, 1, false), (.ldzN16 o, 2, false), (.ldzN32 o, 4, false)]

/-- The scalar stores. -/
def scalarStores (o : MEM) : List (Instr × Nat) := [(.stS8 o, 1), (.stS16 o, 2), (.stS32 o, 4), (.stS64 o, 8)]

/-- An n-byte number extended to 64 bits. -/
def extended (signed : Bool) (n v : Nat) : Word :=
  if signed then (BitVec.ofNat (8 * n) v).signExtend 64 else BitVec.ofNat 64 (v % 2 ^ (8 * n))

/-- A request of the strand in hand as it is sent: its number is the next one. -/
def State.sends (s : State) (r : Req) (k : ReqKind) (p : Word) (a : Nat) : Prop :=
  r.id = s.nextId ∧ r.sid = s.cur.sid ∧ r.core = s.cur.core ∧ r.kind = k ∧ r.ptr = p ∧ r.addr = a

/-- What a scalar load of pointer p into X[d] does, by the space of its pointer. -/
def LoadsX (s : State) (i : Instr) (p : Word) (n : Nat) (signed : Bool) (d : Reg) (o : Order) : Prop :=
  (∀ t as, s.own p → passes s n true false [p] t as → (∀ a ∈ as, s.moving a n = false ∧ s.anyPoison a n = false) →
    exec i s = .next ((if o.acquires then s.acquire s.cur.core else s).wrote d
      (extended signed n (Memory.readN s.mem (lmAddr (ptrOwner p) (ptrOff p)) n))))
  ∧ (∀ t a, leased p → s.cur.tx.depth = 0 → passes s n true false [p] t [a] →
    ∃ s' r, exec i s = .next s' ∧ s'.reqs = s.reqs ++ [r] ∧ s.sends r (.load n signed d) p a ∧ r.order = o
      ∧ (r.state = .sent ∨ ∃ v, r.state = .answered v true)
      ∧ s'.cur = ({ s with cur := s.cur.emptyX d }.wentOn).cur ∧ s'.rest = s.rest ∧ s'.mem = s.mem ∧ s'.empties = s.empties)
  ∧ (∀ t a, s.other p → passes s n true false [p] t [a] →
    ∃ s' r, exec i s = .next s' ∧ s'.reqs = s.reqs ++ [r] ∧ s.sends r (.remote n signed d) p a
      ∧ s'.cur = { s.wentOn.cur with blocked := some s.nextId } ∧ s'.rest = s.rest ∧ s'.mem = s.mem)
  ∧ (away p → ptrOff p % n = 0 → s.channelOpen → s.cur.tx.depth = 0 →
    ∃ s' r, exec i s = .next s' ∧ s'.reqs = s.reqs ++ [r] ∧ s.sends r (.remRead n signed d false) p 0
      ∧ s'.cur = ({ s with cur := s.cur.emptyX d }.wentOn).cur ∧ s'.rest = s.rest ∧ s'.mem = s.mem)

/-- What a store of the n low bytes of v through pointer p does, by the space of its pointer. -/
def StoresX (s : State) (i : Instr) (p : Word) (n : Nat) (v : Word) (o : Order) (c : Scope) : Prop :=
  (∀ t a, s.own p → s.cur.tx.depth = 0 → passes s n false true [p] t [a] → s.moving a n = false → s.mayRelease o c = true →
      s.refusesWrite a n = false → s.watchers a n = [] → Safe s →
    ∃ s', exec i s = .next s' ∧ SameBytesBut s s' a n ∧ Memory.readN s'.mem a n = v.toNat % 2 ^ (8 * n)
      ∧ s'.cur = s.wentOn.cur ∧ s'.rest = s.rest ∧ s'.reqs = s.reqs)
  ∧ (∀ t a, leased p → s.cur.tx.depth = 0 → passes s n false true [p] t [a] →
    ∃ s' r, exec i s = .next s' ∧ s'.reqs = s.reqs ++ [r] ∧ s.sends r (.store n (v.setWidth 256)) p a ∧ r.order = o ∧ r.scope = c
      ∧ r.state = .sent ∧ s'.cur = s.wentOn.cur ∧ s'.rest = s.rest ∧ s'.mem = s.mem)
  ∧ (∀ t a, s.other p → s.cur.tx.depth = 0 → passes s n false true [p] t [a] →
      (s.core s.cur.core).journal.length < 32 → (s.core s.cur.core).replay = [] →
    ∃ s' e, exec i s = .next s' ∧ (s'.core s.cur.core).journal = (s.core s.cur.core).journal ++ [e]
      ∧ e.dest = p ∧ e.data = v.setWidth 256 ∧ e.size = n ∧ e.seq = (s.core s.cur.core).jseq ∧ e.sid = s.cur.sid ∧ e.slot = s.cur.hw
      ∧ (o.releases = true → e.state = 2) ∧ (s'.core s.cur.core).jseq = (s.core s.cur.core).jseq + 1
      ∧ s'.cur = s.wentOn.cur ∧ s'.rest = s.rest ∧ s'.mem = s.mem)
  ∧ (away p → ptrOff p % n = 0 → s.channelOpen → s.cur.tx.depth = 0 → s.mayReleaseRem o = true →
      s.chanAccepts (s.cur.sr.chan.toNat % 4096) 1 n = true →
    ∃ s' q, exec i s = .next s' ∧ s'.cmds = s.cmds ++ [q] ∧ q.kind = .put p (natBytes n v.toNat) ∧ q.id = s.nextId ∧ q.sid = s.cur.sid
      ∧ q.k = 16 ∧ q.chan = s.cur.sr.chan.toNat % 4096 ∧ s'.cur = s.wentOn.cur ∧ s'.rest = s.rest ∧ s'.mem = s.mem)

/-! ### Tagged words, atomics, rows -/

/-- No waiter has queued at a word. -/
abbrev State.noWaiters (s : State) (a : Nat) : Prop := ∀ q ∈ s.reqs, q.state = .queued → q.addr ≠ a

/-- Outside one word every tag is as before. -/
def SameTagsBut (s t : State) (a : Nat) : Prop := ∀ b, wordOf b ≠ wordOf a → t.tagFull b = s.tagFull b

/-- The scalar atomics with operation (the codes of R196), bytes, sign of the cell, and whether d is an operand. -/
def atomics (o : AT) : List (Instr × Nat × Nat × Bool × Bool) :=
  [(.amoaddS32 o, 0x00, 4, true, false), (.amoaddS64 o, 0x00, 8, true, false),
    (.amoandS32 o, 0x01, 4, true, false), (.amoandS64 o, 0x01, 8, true, false),
    (.amoorS32 o, 0x02, 4, true, false), (.amoorS64 o, 0x02, 8, true, false),
    (.amoxorS32 o, 0x03, 4, true, false), (.amoxorS64 o, 0x03, 8, true, false),
    (.amominS32 o, 0x04, 4, true, false), (.amominS64 o, 0x04, 8, true, false),
    (.amominN32 o, 0x06, 4, false, false), (.amominN64 o, 0x06, 8, false, false),
    (.amomaxS32 o, 0x05, 4, true, false), (.amomaxS64 o, 0x05, 8, true, false),
    (.amomaxN32 o, 0x07, 4, false, false), (.amomaxN64 o, 0x07, 8, false, false),
    (.amoswpS32 o, 0x08, 4, true, false), (.amoswpS64 o, 0x08, 8, true, false),
    (.amocasS32 o, 0x09, 4, true, true), (.amocasS64 o, 0x09, 8, true, true),
    (.amobaddN32 o, 0x0A, 4, false, true), (.amobaddN64 o, 0x0A, 8, false, true),
    (.amofaddF32 o, 0x0B, 4, false, false)]

/-- What an atomic on n bytes makes of the old value with operands a and b: the new value, or no write. -/
def AtomicRule (op n old a b : Nat) : Option Nat :=
  let signed (v : Nat) : Int := if v < 2 ^ (8 * n - 1) then (v : Int) else (v : Int) - 2 ^ (8 * n)
  if op = 0x00 then some ((old + a) % 2 ^ (8 * n))
  else if op = 0x01 then some (old &&& a)
  else if op = 0x02 then some (old ||| a)
  else if op = 0x03 then some (old ^^^ a)
  else if op = 0x04 then some (if signed a < signed old then a else old)
  else if op = 0x05 then some (if signed old < signed a then a else old)
  else if op = 0x06 then some (min old a)
  else if op = 0x07 then some (max old a)
  else if op = 0x08 then some a
  else if op = 0x09 then (if old = b then some a else none)
  else if op = 0x0A then (if old + a ≤ b then some (old + a) else none)
  else some (ffF32.bin .add old a .rne false 0).bits

/-- What an element of a row becomes: the sum modulo 2^32 or the greater of two signed words of 32 bits, or of two floats. -/
def RowRule (op e old delta new : Nat) : Prop :=
  let signed (v : Nat) : Int := if v < 2 ^ 31 then (v : Int) else (v : Int) - 2 ^ 32
  (e = 0 → new = if op = 0x0B then (old + delta) % 2 ^ 32 else if signed old < signed delta then delta else old)
  ∧ ∀ (f : FF) (lm : Nat) (le : Int) (nb : Nat), (e, f) ∈ [(4, ffF32), (5, ffBf16), (6, ffF16)] → (f, lm, le, nb) ∈ formatRows →
      if op = 0x0B then f.Sums lm le nb old delta new else f.Picks true nb old delta new

/-- A field of a record, and its entry i as score and expert. -/
def recField (r : List Byte) (o n : Nat) : Nat := leNat ((r.drop o).take n)
def recEntry (r : List Byte) (i : Nat) : Nat × Nat := (recField r (8 + 8 * i) 4, recField r (12 + 8 * i) 2)

/-- An entry ranks above another: a higher score first, between equal scores the lower expert. -/
def Outranks (a b : Nat × Nat) : Prop :=
  Num.Under (ffF32.decode b.1) (ffF32.decode a.1) ∨ (ffF32.decode a.1 = ffF32.decode b.1 ∧ a.2 < b.2)

/-- A record holds n entries, the others as unused ones are written. -/
def RecordHolds (r : List Byte) (n : Nat) (e : Nat → Nat × Nat) : Prop :=
  recField r 5 1 = n ∧ ∀ i, i < 7 → recEntry r i = if i < n then e i else (0xFF800000, 0xFFFF)

/-- What TOPK makes of a record, whose entries have scores that are no NaN, and the position it returns. -/
def TopkRule (old new : List Byte) (score expert : Nat) (pos : Int) : Prop :=
  let k := recField old 4 1
  let q := min (recField old 5 1) k
  let ent := recEntry old
  let isDup := fun j => j < q ∧ ∀ i, i < q → ((ent i).2 = expert ↔ i = j)
  let better := fun j => Num.Under (ffF32.decode (ent j).1) (ffF32.decode score)
  recField new 0 4 = (recField old 0 4 + 1) % 2 ^ 32 ∧ recField new 4 1 = k
  ∧ (k = 0 ∨ 7 < k ∨ ffF32.decode score = .nan → RecordHolds new q ent ∧ pos = -1)
  ∧ (1 ≤ k → k ≤ 7 → ffF32.decode score ≠ .nan → (∀ i, i < q → ffF32.decode (ent i).1 ≠ .nan) →
    (∀ j, isDup j → ¬better j → RecordHolds new q ent ∧ pos = -1)
    ∧ ∀ (n : Nat) (e : Nat → Nat × Nat),
        ((∀ i, i < q → (ent i).2 ≠ expert) ∧ n = q ∧ e = ent)
          ∨ (∃ j, isDup j ∧ better j ∧ n = q - 1 ∧ e = fun i => ent (if i < j then i else i + 1)) →
        let p := Set.ncard {i | i < n ∧ Outranks (e i) (score, expert)}
        (p < k → RecordHolds new (min (n + 1) k) (fun i => if i < p then e i else if i = p then (score, expert) else e (i - 1)) ∧ pos = p)
        ∧ (k ≤ p → RecordHolds new n e ∧ pos = -1))

/-- The x register that an answer fills and what it then holds, by what was asked for. -/
def answerX (k : ReqKind) (v : Nat) : Option (Reg × Word) :=
  match k with
  | .load n signed d => some (d, extended signed n v)
  | .atomic _ n signed _ _ d => some (d, extended signed n v)
  | .topk _ _ d => some (d, extended true 1 v)
  | .tagged op _ d => if op = 0 ∨ op = 1 ∨ op = 4 then some (d, BitVec.ofNat 64 v) else none
  | .conserv d => some (d, BitVec.ofNat 64 v)
  | _ => none

/-- How POISON names an access that could not be answered: its kind and its size. -/
def poisonedAs : ReqKind → Nat × Nat
  | .load n _ _ => (0, n)
  | .vload _ => (0, 32)
  | .vlane _ _ n => (0, n)
  | .atomic _ n _ _ _ _ => (2, n)
  | .topk _ _ _ => (2, 64)
  | .tagged op _ _ => (if op = 0 then 2 else if op = 2 ∨ op = 3 ∨ op = 5 then 1 else 0, 8)
  | _ => (0, 0)

/-- From s to t the answer of request r has come to strand u, which is now u': the request is gone, the core's lt has the answer's stamp;
of the strand only registers change, a wait for one ends, and POISON is pending when a word was poisoned. -/
def ReturnedTo (s t : State) (r : Req) (ok : Bool) (u u' : Strand) : Prop :=
  t.req? r.id = none ∧ t.mem = s.mem ∧ t.strand? r.sid = some u' ∧ (t.core r.core).lt = max (s.core r.core).lt r.wts
  ∧ (ok = true ∨ u.pend.length < 16 →
      (∀ q, q ≠ r.sid → t.strand? q = s.strand? q) ∧ (u.wait ≠ some .empty → u'.wait = u.wait))
  ∧ (ok = true → u' = { u with x := u'.x, v := u'.v, xfull := u'.xfull, vfull := u'.vfull, wait := u'.wait })
  ∧ (ok = false → u.mode ≠ .stopped 5 → u.pend.length < 16 →
      u' = { u with x := u'.x, v := u'.v, xfull := u'.xfull, vfull := u'.vfull, wait := u'.wait, pend := u.pend ++ [⟨.poison, r.ptr,
        BitVec.ofNat 64 ((poisonedAs r.kind).1 + (poisonedAs r.kind).2 % 2 ^ 32 * 2 ^ 16), BitVec.ofNat 64 (r.page * 256 + r.opcode),
        BitVec.ofNat 64 0x20, s.now⟩] })

/-- The home of a request can serve it now: it may be sent, no rebase runs, its lines are free and of the needed state, and no
transaction conflicts. -/
abbrev State.homeServes (s : State) (r : Req) (write : Bool) : Prop :=
  s.mayServe r = true ∧ s.coh.rebasing = false
  ∧ (∀ ln ∈ linesOf r.addr (max r.kind.span 1), s.lineFree r ln = true
      ∧ (if write then s.homeWritable ln else s.homeReadable ln) = true)
  ∧ (write = true → s.conflicts (tileOf r.addr) true = [])

/-- Nothing is outstanding behind the caches: no deposit, no line record, no copy at a proxy, no transaction. -/
abbrev State.Quiet (s : State) : Prop :=
  (∀ c ∈ s.cores, c.upd = []) ∧ s.coh.lines = [] ∧ s.coh.proxies = []
  ∧ ∀ u ∈ s.strands, u.tx.depth = 0 ∧ u.tx.committing = false

/-- The stamps of a line are those of a line that its home slice does not hold: the floor of the slice. -/
abbrev State.StampsAtFloor (s : State) (ln : Nat) : Prop :=
  (s.line ln).wts = s.floorOf (sliceOf s ln) ∧ (s.line ln).rts = s.floorOf (sliceOf s ln)

/-- A line has the stamps it had, when l was its record, if its home slice held it then; else those of the floor. -/
abbrev State.StampsFrom (s : State) (l : Line) : Prop :=
  if l.cached then (s.line l.line).wts = l.wts ∧ (s.line l.line).rts = l.rts else s.StampsAtFloor l.line

/-- The 64 bytes of the slot at a queue's tail lie at b and its tail word at c, apart from each other and from what their
translation reads. -/
def State.TailAt (s : State) (d : QueueDesc) (b c : Nat) : Prop :=
  (c + 8 ≤ b ∨ b + 64 ≤ c)
  ∧ ∀ u : State, (u.job d.job).windows = (s.job d.job).windows → (u.job d.job).ptBase = (s.job d.job).ptBase → u.poison = s.poison →
      (∀ x, x + 8 ≤ b ∨ b + 64 ≤ x → x + 8 ≤ c ∨ c + 8 ≤ x → u.freshWord x = s.freshWord x) →
      physOf u d.job d.tailAddr = some c ∧ ∀ k, k < 8 → physOf u d.job (ptrAt (slotPtr d (s.tailOf d)) (8 * k)) = some (b + 8 * k)

/-- From s to t a record of eight words has been appended to a queue: the words lie in the slot at its old tail, the tail word counts one
more, and no other byte has changed. -/
def Appended (s t : State) (d : QueueDesc) (ws : List Word) (b c : Nat) : Prop :=
  (∀ x, x < b ∨ b + 64 ≤ x → x < c ∨ c + 8 ≤ x → t.byte x = s.byte x)
  ∧ (∀ k, k < 8 → some (t.word (b + 8 * k)) = ws[k]?) ∧ t.word c = BitVec.ofNat 64 (s.tailOf d + 1)

/-! ### Transactions and waits -/

/-- From s to t the transaction of strand u has been aborted: its registers are those of the checkpoint, it stands at the handler
outside a transaction, the status names cause, depth and code; held commands and transactional requests are gone, memory stays. -/
def Aborted (s t : State) (u : Strand) (cause code : Nat) : Prop :=
  (∃ u', t.strand? u.sid = some u' ∧ u'.tx.depth = 0 ∧ u'.tx.tiles = [] ∧ u'.tx.spec = [] ∧ u'.tx.comm = [] ∧ u'.pc = u.tx.handler
    ∧ u'.wait = none ∧ u'.sr = u.sr ∧ u'.k = u.k
    ∧ (∀ k, u.tx.ckpt = some k → u'.x = k.x ∧ u'.v = k.v ∧ u'.p = k.p ∧ u'.xfull = k.xfull ∧ u'.vfull = k.vfull)
    ∧ u'.tx.status.extractLsb' 60 4 = BitVec.ofNat 4 cause ∧ u'.tx.status.extractLsb' 56 4 = BitVec.ofNat 4 u.tx.depth
    ∧ u'.tx.status.extractLsb' 48 8 = BitVec.ofNat 8 code)
  ∧ t.mem = s.mem ∧ t.cmds = s.cmds.filter (fun c => ¬(c.sid = u.sid ∧ c.state = .held))
  ∧ t.reqs = s.reqs.filter (fun r => ¬(r.sid = u.sid ∧ r.tx = true))

/-- The strand waits at the instruction in hand. -/
def State.waitsFor (s : State) (w : Wait) : State :=
  { s with cur := { s.cur with wait := some w, skip := s.wentOn.cur.pc, stalled := false, safe := false } }

/-- Strand u of troupe n has not ended. -/
abbrev Strand.inTroupe (u : Strand) (n : Nat) : Prop := u.troupe = n ∧ u.exists? = true

/-- Every completed launch of a job that signals an event is covered already: nothing is merged before a strand goes on with it. -/
abbrev State.nothingToWiden (s : State) (job e : Nat) : Prop :=
  ∀ l ∈ s.launches, l.job = job → l.complete = true → l.signal ≠ some e

/-! ### Engine commands -/

/-- A command can enter: its die has an engine, the limits of R301 leave room, and the next number is fresh. -/
abbrev State.roomForCmd (s : State) : Prop :=
  s.mayCommand = true ∧ s.outstanding s.cur.sid < 32
  ∧ (s.pickEngine (dieOfCore s.cur.core)).any (fun e => decide (s.engineLoad e < 256)) = true
  ∧ ∀ x ∈ s.cmds, x.id < s.nextId

/-- What a command of the strand in hand looks like: its kind, its counter, what it credits, its engine one of the strand's die. -/
def State.isCmd (s : State) (c : Cmd) (kind : CmdKind) (q : QMod) (bytes chan mask : Nat) : Prop :=
  c.id = s.nextId ∧ c.sid = s.cur.sid ∧ c.job = s.myTroupe.job ∧ c.kind = kind ∧ c.k = q.k.toNat
  ∧ c.amount = (if q.bytes then bytes else 1) ∧ c.chan = chan ∧ c.mask = mask ∧ c.engine / 6 = s.cur.core / 160

/-- Instruction i enters one command: queued outside a transaction, held inside one; the strand goes on and nothing else of it changes. -/
def Enters (s : State) (i : Instr) (kind : CmdKind) (q : QMod) (bytes chan mask : Nat) : Prop :=
  ∃ t c, exec i s = .next t ∧ t.cmds = s.cmds ++ [c] ∧ s.isCmd c kind q bytes chan mask
    ∧ c.state = (if s.cur.tx.depth = 0 then .queued else .held) ∧ t.cur = s.wentOn.cur ∧ t.rest = s.rest ∧ t.mem = s.mem

/-! ### Span -/

/-- A packet to a package can leave: it turns at the hub, or some port of the route is there. -/
abbrev State.Reaches (s : State) (dst : BitVec 12) : Prop := dst = s.hub.own ∨ s.routeOf dst ≠ 0

/-- A packet of a type for this package arrives with the right check; `p` is that packet with its payload rebuilt. -/
abbrev State.Arrives (s : State) (ty : Nat) (p : Packet) : Prop :=
  s.arg.yes = false ∧ (∃ w, s.arg.packet = some w ∧ w.check = packetCheck w ∧ p = { w with payload := rebuilt w })
    ∧ p.ptype.toNat = ty ∧ p.dst = s.hub.own

/-- It is a request on an open accession channel from its peer. -/
abbrev State.Asks (s : State) (ty : Nat) (p : Packet) (a : AccChan) : Prop :=
  s.Arrives ty p ∧ s.acc? p.chan.toNat = some a ∧ a.state = 1 ∧ a.peer = p.src

/-- It is a reply to a send channel from its peer. -/
abbrev State.Replies (s : State) (ty : Nat) (p : Packet) (h : SendChan) : Prop :=
  s.Arrives ty p ∧ s.send? p.chan.toNat = some h ∧ h.state ≠ 0 ∧ h.peer = p.src

/-- From s to t a request has taken a free tag. -/
def State.TagTaken (s t : State) (r : Req) (tag : Nat) : Prop :=
  tag < 8192 ∧ (∀ x ∈ s.hub.tags, x.1 ≠ tag) ∧ t.hub.tags = s.hub.tags ++ [(tag, s.generation tag, r.id)]
  ∧ t.req? r.id = some { r with state := .sentRemote tag, retryAt := s.now } ∧ t.mem = s.mem ∧ t.cur = s.cur

/-- From s to t the write with a sequence number has landed on a channel: it is no longer under way, its number counts as landed beside
those that did before, and the low-water mark stands before the first of the window that has not. -/
def Lands (s t : State) (a : AccChan) (seq : Quad) : Prop :=
  (∀ l ∈ t.hub.landings, ¬(l.chan = a.num ∧ l.seq = seq)) ∧ (∀ l ∈ s.hub.landings, ¬(l.chan = a.num ∧ l.seq = seq) → l ∈ t.hub.landings)
  ∧ ∃ a', t.acc? a.num = some a'
    ∧ a' = { a with lwm := a'.lwm, bits := a'.bits, gapStart := a'.gapStart, round := a'.round }
    ∧ (a'.lwm - a.lwm).toNat ≤ 2048 ∧ a'.landed (a'.lwm + 1) = false
    ∧ ∀ q : Quad, 1 ≤ (q - a.lwm).toNat → (q - a.lwm).toNat ≤ 2048 →
        ((atOrBelow q a'.lwm = true ∨ a'.landed q = true) ↔ (a.landed q = true ∨ q = seq))

/-- The x registers that the value of a remote request fills, with what they then hold. -/
def remX (k : ReqKind) (v : Nat) : List (Reg × Word) :=
  match k with
  | .remRead n sg d false =>
    if n ≤ 8 then [(d, extended sg n v)] else (List.range (n / 8)).map (fun i => (d + BitVec.ofNat 5 i, BitVec.ofNat 64 (v / 2 ^ (64 * i))))
  | .remAmo _ n sg _ _ d => [(d, extended sg n v)]
  | _ => []

/-- From s to t a flag of a channel has been released: its 8 bytes are at x, the flag number has moved on, it is no longer held, and a
LANDED has answered it. -/
def FlagReleased (s t : State) (a : AccChan) (flagno : Quad) (x : Nat) (value : Word) : Prop :=
  SameBytesBut s t x 8 ∧ Memory.readN t.mem x 8 = value.toNat
  ∧ (∃ a', t.acc? a.num = some a' ∧ a'.nextFlag = (if a.nextFlag = BitVec.allOnes 32 then 1 else a.nextFlag + 1) ∧ a'.since = a.lwm
      ∧ a'.lwm = a.lwm ∧ a'.failed = 0)
  ∧ (∀ h ∈ t.hub.flags, ¬(h.chan = a.num ∧ h.flagno = flagno))
  ∧ (s.Reaches a.peer → ∃ q, t.hub.outbox = s.hub.outbox ++ [q] ∧ q.ptype = 5 ∧ q.dst = a.peer ∧ q.chan = a.peerSend ∧ q.seq = a.lwm
      ∧ q.flagno = flagno ∧ q.op = BitVec.ofNat 8 a.failed)

/-- What answers a host access that is refused: a NAK and a report of kind 7 with the job and the pointer. -/
def State.nakSent (s : State) (job : Nat) (p : Word) : List Sent :=
  [.rdmaNak s.arg.id, .memory 7 0 job 4 s.mgmt.incarnation[4] (s.transientCount 0 4) p s.now]

/-! ### Objects and calls -/

/-- A request on a continuation object as the strand in hand enters it. -/
def State.asksFor (s : State) (r : ContReq) (kind : Nat) (obj : Word) (reg : Reg) : Prop :=
  r.id = s.nextId ∧ r.kind = kind ∧ r.sid = s.cur.sid ∧ r.troupe = s.cur.troupe ∧ r.job = s.myTroupe.job ∧ r.obj = obj ∧ r.reg = reg

/-- A system call answers v: the answer is on its way to X[d], which is empty until it comes, memory is that of u, the strand goes on. -/
def State.Calls (s : State) (i : Instr) (d : Reg) (v : Int) (u : State) : Prop :=
  ∃ t r, exec i s = .next t ∧ t.reqs = u.reqs ++ [r] ∧ r.kind = .conserv d ∧ r.sid = s.cur.sid
    ∧ r.state = .answered ((BitVec.ofInt 64 v).setWidth 256) true ∧ t.mem = u.mem ∧ t.cur.pc = s.wentOn.cur.pc ∧ t.cur.x = s.cur.x
    ∧ t.cur.fullX d = decide (d = 0)

/-! ### Traps -/

/-- A trap raised now goes to the strand's handler: outside a transaction, busy is 0, the job has a handler. -/
abbrev State.canTrap (s : State) : Prop := s.cur.tx.depth = 0 ∧ s.cur.sr.cause.getLsbD 15 = false ∧ s.myJob.tvec ≠ 0

/-- What delivering a trap leaves: the five cause registers, the PC at the handler. -/
def State.delivered (s : State) (async : Bool) (code : Nat) (c0 c1 c2 c3 epc : Word) : State :=
  { s with cur := { s.cur with
      sr := { s.cur.sr with
        epc := epc, c0 := c0, c1 := c1, c2 := c2, c3 := c3,
        cause := BitVec.ofNat 64 (2 ^ 15 + (if async then 2 ^ 14 else 0) + code) } } }.wentTo (padd s.myJob.codeBase s.myJob.tvec) 0

/-- What an ILLEGAL trap of the instruction in hand leaves, with its sub-code. -/
def State.refusedAs (s : State) (sub : Nat) : State :=
  s.delivered false 0x01 (wordsInfo s.ir).1 (wordsInfo s.ir).2 (BitVec.ofNat 64 sub) 0 s.cur.pc

/-- Checks in their order, each with what its failure leaves: the first that fails says what the instruction does. -/
def FirstFails (s : State) (i : Instr) : List (Bool × State) → Prop
  | [] => True
  | (ok, t) :: r => (ok = false → exec i s = .next t) ∧ (ok = true → FirstFails s i r)

/-- From s to t every strand of job n has stopped and is not saved, no engine command of the job is left, the job is marked stopped, and
every other strand, every other job and memory are as before. -/
def JobStops (s t : State) (n : Nat) : Prop :=
  (∀ u ∈ t.strands, u.exists? = true → (s.troupe u.troupe).job = n → u.mode = .stopped 5)
  ∧ (∀ u ∈ s.strands, (s.troupe u.troupe).job ≠ n → u ∈ t.strands)
  ∧ t.cmds = s.cmds.filter (fun c => c.job ≠ n)
  ∧ (∀ j ∈ t.jobs, j.num = n → j.stopped = true) ∧ (∀ j ∈ s.jobs, j.num ≠ n → j ∈ t.jobs)
  ∧ t.mem = s.mem ∧ t.troupes = s.troupes ∧ t.hub = s.hub ∧ t.launches = s.launches

/-- The causes that go to the conservator. -/
abbrev conservators (c : Cause) : Prop := c = .soft ∨ c = .watchdog

/-- What a MISALIGN or SPACE trap of the instruction in hand leaves: the pointer, the kind and size of the access, page and opcode. -/
def State.misplaced (s : State) (code : Nat) (ptr : Word) (acc size : Nat) : State :=
  s.delivered false code ptr (BitVec.ofNat 64 (acc + size % 2 ^ 32 * 2 ^ 16)) (opOf s.ir) 0 s.cur.pc

end Sys2Proof.Machine
end

