-- ==== Sys2Proof/Certificates/Slice0/Obligations.lean ====
section
/-! DEFINITION. The statements for the provers. Each is said in words in OBLIGATIONS.json; names of helpers are of Sys2Proof.Safety. -/

open Sys2Proof Sys2Proof.Machine

/-- After an instruction has written a value to X[d] and the strand has gone on, X[d] reads that value, x0 reads 0
whatever was written to it, every other x register reads as before, and the PC is the pointer after the instruction:
its space and owner stay and its offset has advanced by twice the instruction's word count modulo 2^48. Vector,
predicate and counter registers, state registers, the transaction, memory, tags, poison, every other strand and every
record of the machine are as before. -/
def Obligations.RegisterWrite : Prop :=
  ∀ (s : State) (d r : Reg) (v : Word),
    (s.wrote d v).x r = (if r = 0 then 0 else if r = d then v else s.x r)
    ∧ ptrOff (s.wrote d v).cur.pc = (ptrOff s.cur.pc + 2 * s.ir.length) % 2 ^ 48
    ∧ ptrSpace (s.wrote d v).cur.pc = ptrSpace s.cur.pc ∧ ptrOwner (s.wrote d v).cur.pc = ptrOwner s.cur.pc
    ∧ ∃ x pc, s.wrote d v = { s with cur := { s.cur with
        x := x, pc := pc, came := 0, wait := none, blocked := none, stalled := false, safe := false } }

/-- With its registers full, each of ADD, ADD_IMM, SUB, NEG, MUL, MUL_IMM, MULH, MULHN, ABS, MIN, MAX, MINN, MAXN, MOV and
MOVI writes the result of R218 or R224 into X[d] and goes on, and changes nothing else. MULH and MULHN are said by
128-bit products of the sign-extended and the zero-extended operands. -/
def Obligations.ArithmeticResults : Prop :=
  ∀ (o : RRR) (n : RR) (i : RI) (m : IM) (s : State),
    (s.readyX o.a → s.readyX o.b → s.readyX o.d →
      exec (.add o) s = .next (s.wrote o.d (s.x o.a + s.x o.b))
      ∧ exec (.sub o) s = .next (s.wrote o.d (s.x o.a - s.x o.b))
      ∧ exec (.mul o) s = .next (s.wrote o.d (s.x o.a * s.x o.b))
      ∧ exec (.mulh o) s = .next (s.wrote o.d (((s.x o.a).signExtend 128 * (s.x o.b).signExtend 128).extractLsb' 64 64))
      ∧ exec (.mulhn o) s = .next (s.wrote o.d (((s.x o.a).setWidth 128 * (s.x o.b).setWidth 128).extractLsb' 64 64))
      ∧ exec (.min o) s = .next (s.wrote o.d (if (s.x o.a).slt (s.x o.b) then s.x o.a else s.x o.b))
      ∧ exec (.max o) s = .next (s.wrote o.d (if (s.x o.a).slt (s.x o.b) then s.x o.b else s.x o.a))
      ∧ exec (.minn o) s = .next (s.wrote o.d (if (s.x o.a).ult (s.x o.b) then s.x o.a else s.x o.b))
      ∧ exec (.maxn o) s = .next (s.wrote o.d (if (s.x o.a).ult (s.x o.b) then s.x o.b else s.x o.a)))
    ∧ (s.readyX n.a → s.readyX n.d →
      exec (.mov n) s = .next (s.wrote n.d (s.x n.a))
      ∧ exec (.neg n) s = .next (s.wrote n.d (-(s.x n.a)))
      ∧ exec (.abs n) s = .next (s.wrote n.d (if (s.x n.a).msb then -(s.x n.a) else s.x n.a)))
    ∧ (s.readyX i.a → s.readyX i.d →
      exec (.addImm i) s = .next (s.wrote i.d (s.x i.a + i.imm))
      ∧ exec (.mulImm i) s = .next (s.wrote i.d (s.x i.a * i.imm)))
    ∧ (s.readyX m.d → exec (.movi m) s = .next (s.wrote m.d m.imm))

/-- With its registers full, each logic, shift and rotate instruction writes the result of R220 into X[d] and goes on, and
changes nothing else; the shift amount is the low six bits of the operand. CLZ, CTZ, POPC and BSWAP write a value
given by its bits: as many leading or trailing zeros as there are and 64 for 0, the number of set bits, the eight
bytes reversed. -/
def Obligations.LogicResults : Prop :=
  ∀ (o : RRR) (n : RR) (i : RI) (s : State),
    (s.readyX o.a → s.readyX o.b → s.readyX o.d →
      ∀ k, k = (s.x o.b).toNat % 64 →
      exec (.and o) s = .next (s.wrote o.d (s.x o.a &&& s.x o.b))
      ∧ exec (.or o) s = .next (s.wrote o.d (s.x o.a ||| s.x o.b))
      ∧ exec (.xor o) s = .next (s.wrote o.d (s.x o.a ^^^ s.x o.b))
      ∧ exec (.andn o) s = .next (s.wrote o.d (s.x o.a &&& ~~~(s.x o.b)))
      ∧ exec (.sll o) s = .next (s.wrote o.d (BitVec.ofNat 64 ((s.x o.a).toNat * 2 ^ k)))
      ∧ exec (.srl o) s = .next (s.wrote o.d (BitVec.ofNat 64 ((s.x o.a).toNat / 2 ^ k)))
      ∧ exec (.sra o) s = .next (s.wrote o.d (BitVec.ofInt 64 ((s.x o.a).toInt / 2 ^ k)))
      ∧ exec (.rol o) s = .next (s.wrote o.d (((s.x o.a) <<< k) ||| ((s.x o.a) >>> (64 - k))))
      ∧ exec (.ror o) s = .next (s.wrote o.d (((s.x o.a) >>> k) ||| ((s.x o.a) <<< (64 - k)))))
    ∧ (s.readyX i.a → s.readyX i.d →
      ∀ k, k = i.imm.toNat % 64 →
      exec (.andImm i) s = .next (s.wrote i.d (s.x i.a &&& i.imm))
      ∧ exec (.orImm i) s = .next (s.wrote i.d (s.x i.a ||| i.imm))
      ∧ exec (.xorImm i) s = .next (s.wrote i.d (s.x i.a ^^^ i.imm))
      ∧ exec (.sllImm i) s = .next (s.wrote i.d (BitVec.ofNat 64 ((s.x i.a).toNat * 2 ^ k)))
      ∧ exec (.srlImm i) s = .next (s.wrote i.d (BitVec.ofNat 64 ((s.x i.a).toNat / 2 ^ k)))
      ∧ exec (.sraImm i) s = .next (s.wrote i.d (BitVec.ofInt 64 ((s.x i.a).toInt / 2 ^ k)))
      ∧ exec (.rolImm i) s = .next (s.wrote i.d (((s.x i.a) <<< k) ||| ((s.x i.a) >>> (64 - k)))))
    ∧ (s.readyX n.a → s.readyX n.d →
      exec (.not n) s = .next (s.wrote n.d (~~~(s.x n.a)))
      ∧ (∃ k : Nat, k ≤ 64 ∧ exec (.clz n) s = .next (s.wrote n.d (BitVec.ofNat 64 k))
          ∧ (∀ j, 64 - k ≤ j → (s.x n.a).getLsbD j = false) ∧ (k < 64 → (s.x n.a).getLsbD (63 - k) = true))
      ∧ (∃ k : Nat, k ≤ 64 ∧ exec (.ctz n) s = .next (s.wrote n.d (BitVec.ofNat 64 k))
          ∧ (∀ j, j < k → (s.x n.a).getLsbD j = false) ∧ (k < 64 → (s.x n.a).getLsbD k = true))
      ∧ exec (.popc n) s = .next (s.wrote n.d (BitVec.ofNat 64 ((List.finRange 64).countP (fun j => (s.x n.a).getLsbD j))))
      ∧ ∃ v : Word, exec (.bswap n) s = .next (s.wrote n.d v)
          ∧ ∀ j, j < 8 → v.extractLsb' (8 * j) 8 = (s.x n.a).extractLsb' (8 * (7 - j)) 8)

/-- With its registers full, each compare writes 1 into X[d] when its relation of R222 holds and 0 otherwise, and each
goes on and changes nothing else. -/
def Obligations.CompareResults : Prop :=
  ∀ (o : RRR) (i : RI) (s : State),
    (s.readyX o.a → s.readyX o.b → s.readyX o.d →
      exec (.cmpeq o) s = .next (s.wrote o.d (truth (s.x o.a = s.x o.b)))
      ∧ exec (.cmpne o) s = .next (s.wrote o.d (truth (s.x o.a ≠ s.x o.b)))
      ∧ exec (.cmplt o) s = .next (s.wrote o.d (truth ((s.x o.a).slt (s.x o.b))))
      ∧ exec (.cmpltn o) s = .next (s.wrote o.d (truth (s.x o.a < s.x o.b)))
      ∧ exec (.cmple o) s = .next (s.wrote o.d (truth ((s.x o.a).sle (s.x o.b))))
      ∧ exec (.cmplen o) s = .next (s.wrote o.d (truth (s.x o.a ≤ s.x o.b))))
    ∧ (s.readyX i.a → s.readyX i.d →
      exec (.cmpeqImm i) s = .next (s.wrote i.d (truth (s.x i.a = i.imm)))
      ∧ exec (.cmpltImm i) s = .next (s.wrote i.d (truth ((s.x i.a).slt i.imm))))

/-- With its registers full, each of BEXT, BINS, LDPC, PTAG, PSPC, POWN, POFF, PADD, PADD_IMM, RDTIME and RDCYC writes its result into X[d]
and goes on, and changes nothing else. The fields are said bit by bit, the pointers by their space, owner and offset; RDTIME gives a time
less than 5 ns after the machine's (how a core's clock stands to the machine's is the model's choice, log entry 3), and is not ready while
an acquiring access of its strand still holds up what comes after it; RDCYC counts 1.6 GHz cycles without the time the bay has been gated
(that one count serves every core is the model's choice, log entry 31). -/
def Obligations.FieldAndPointerResults : Prop :=
  ∀ (b : BFOp) (o : RRR) (n : RR) (i : RI) (m : IM) (d : Reg) (s : State),
    (s.readyX b.a → s.readyX b.d →
      (∃ v : Word, exec (.bext b) s = .next (s.wrote b.d v)
        ∧ ∀ j, j < 64 → v.getLsbD j =
            (if j ≤ b.width1.toNat then (s.x b.a).getLsbD (b.lsb.toNat + j)
             else b.signed && (s.x b.a).getLsbD (b.lsb.toNat + b.width1.toNat)))
      ∧ ∃ v : Word, exec (.bins b) s = .next (s.wrote b.d v)
        ∧ ∀ j, j < 64 → v.getLsbD j =
            (if b.lsb.toNat ≤ j ∧ j ≤ b.lsb.toNat + b.width1.toNat then (s.x b.a).getLsbD (j - b.lsb.toNat) else (s.x b.d).getLsbD j))
    ∧ (s.readyX o.a → s.readyX o.b → s.readyX o.d →
      (∃ v : Word, exec (.padd o) s = .next (s.wrote o.d v) ∧ ptrSpace v = ptrSpace (s.x o.a) ∧ ptrOwner v = ptrOwner (s.x o.a)
        ∧ ptrOff v = (ptrOff (s.x o.a) + (s.x o.b).toNat) % 2 ^ 48)
      ∧ ∃ v : Word, exec (.ptag o) s = .next (s.wrote o.d v) ∧ ptrOff v = ptrOff (s.x o.a)
        ∧ v.toNat / 2 ^ 48 = (s.x o.b).toNat % 2 ^ 16)
    ∧ (s.readyX i.a → s.readyX i.d →
      ∃ v : Word, exec (.paddImm i) s = .next (s.wrote i.d v) ∧ ptrSpace v = ptrSpace (s.x i.a) ∧ ptrOwner v = ptrOwner (s.x i.a)
        ∧ ptrOff v = (ptrOff (s.x i.a) + i.imm.toNat) % 2 ^ 48)
    ∧ (s.readyX n.a → s.readyX n.d →
      exec (.pspc n) s = .next (s.wrote n.d (BitVec.ofNat 64 (ptrSpace (s.x n.a))))
      ∧ exec (.pown n) s = .next (s.wrote n.d (BitVec.ofNat 64 (ptrOwner (s.x n.a))))
      ∧ exec (.poff n) s = .next (s.wrote n.d (BitVec.ofNat 64 (ptrOff (s.x n.a)))))
    ∧ (s.readyX m.d → exec (.ldpc m) s = .next (s.wrote m.d (s.relative m.imm)))
    ∧ (s.readyX d →
      (s.held = false → ∃ t : Nat, s.now ≤ t ∧ t < s.now + 5 ∧ exec (.rdtime d) s = .next (s.wrote d (BitVec.ofNat 64 t)))
      ∧ (s.held = true → exec (.rdtime d) s = .next { s with cur := { s.cur with stalled := true } })
      ∧ exec (.rdcyc d) s = .next (s.wrote d (BitVec.ofNat 64 ((s.now - (s.bay (s.cur.core / 8)).gatedNs) * 8 / 5))))

/-- With its registers full, each of DIV, DIVN, REM and REMN sends the quotient or remainder of R219 on its way, leaves
X[d] empty (x0 stays full) and goes on; a zero divisor gives all ones and the dividend, the least value by −1 gives
itself and 0, and the remainder takes the sign of the dividend. DIVIDE_COMPLETE of a division on its way fills its
register with that value: X[d] is then full and reads it, and the request is gone; nothing else of the strand but a
wait for an empty register changes, no other strand changes, and memory stays. -/
def Obligations.DivisionResults : Prop :=
  (∀ (o : RRR) (s : State), s.readyX o.a → s.readyX o.b → s.readyX o.d →
    (∃ q r, SignedDivision (s.x o.a) (s.x o.b) q r
      ∧ exec (.div o) s = .next (s.divides o.d q) ∧ exec (.rem o) s = .next (s.divides o.d r))
    ∧ ∃ q r, UnsignedDivision (s.x o.a) (s.x o.b) q r
      ∧ exec (.divn o) s = .next (s.divides o.d q) ∧ exec (.remn o) s = .next (s.divides o.d r))
  ∧ ∀ (s : State) (r : Req) (d : Reg) (v : Word) (t : Strand),
    s.req? s.arg.id = some r → r.kind = .divide v d → s.strand? r.sid = some t →
    ∃ s' : State, ∃ t', exec .divideComplete s = .next s' ∧ s'.strand? r.sid = some t'
      ∧ t'.getX d = (if d = 0 then 0 else v) ∧ t'.fullX d = true ∧ (∀ q, q ≠ d → t'.getX q = t.getX q ∧ t'.fullX q = t.fullX q)
      ∧ t' = { t with x := t'.x, xfull := t'.xfull, wait := t'.wait } ∧ (t.wait ≠ some .empty → t'.wait = t.wait)
      ∧ (∀ q, q ≠ r.sid → s'.strand? q = s.strand? q) ∧ s'.mem = s.mem ∧ s'.reqs = s.reqs.filter (fun q => q.id ≠ r.id)
      ∧ s'.req? r.id = none

/-- With its registers full, each relative branch goes to its own address advanced by twice its offset when its condition
of R229, R230 or R232 holds and to the next instruction otherwise; LOOP also writes X[d] − 1, tests that value, and
with x0 always branches; NOP goes on. Nothing but the PC, and for LOOP X[d], changes. -/
def Obligations.BranchResults : Prop :=
  ∀ (z : BZ) (c : BC) (s : State),
    exec .nop s = .next s.wentOn
    ∧ exec (.br z) s = .next (s.branched true z.off)
    ∧ (s.readyX z.d →
      exec (.beqz z) s = .next (s.branched (s.x z.d == 0) z.off)
      ∧ exec (.bnez z) s = .next (s.branched (s.x z.d != 0) z.off)
      ∧ exec (.bltz z) s = .next (s.branched (s.x z.d).msb z.off)
      ∧ exec (.bgez z) s = .next (s.branched (!(s.x z.d).msb) z.off)
      ∧ exec (.loop z) s = .next ({ s with cur := s.cur.putX z.d (s.x z.d - 1) }.branched (s.x z.d != 1) z.off))
    ∧ (s.readyX c.d → s.readyX c.a →
      exec (.beq c) s = .next (s.branched (s.x c.d == s.x c.a) c.off)
      ∧ exec (.bne c) s = .next (s.branched (s.x c.d != s.x c.a) c.off)
      ∧ exec (.blt c) s = .next (s.branched ((s.x c.d).slt (s.x c.a)) c.off)
      ∧ exec (.bge c) s = .next (s.branched ((s.x c.a).sle (s.x c.d)) c.off)
      ∧ exec (.bltn c) s = .next (s.branched ((s.x c.d).ult (s.x c.a)) c.off)
      ∧ exec (.bgen c) s = .next (s.branched ((s.x c.a).ule (s.x c.d)) c.off))

/-- CALL and CALLR write the address after themselves into x1 and go to their target, CALLR reading its target first; RET
goes to x1, JMPR to X[a], SRET to %epc with busy cleared; nothing else changes. A register target with bit 0 set
writes no register: where the strand can take a trap it takes MISALIGN at the jump with the target, access 4 and size
2; at SRET with busy set the job stops, unless it has been stopped and reported already. -/
def Obligations.JumpResults : Prop :=
  ∀ (z : BZ) (r : RR) (s : State),
    (s.readyX 1 →
      exec (.call z) s = .next ({ s with cur := s.cur.putX 1 s.wentOn.cur.pc }.wentTo (s.relative z.off) s.cur.pc)
      ∧ ((s.x 1).getLsbD 0 = false → exec .ret s = .next (s.wentTo (s.x 1) s.cur.pc))
      ∧ ((s.x 1).getLsbD 0 = true → s.canTrap → exec .ret s = .next (s.misplaced 4 (s.x 1) 4 2)))
    ∧ (s.readyX r.a →
      ((s.x r.a).getLsbD 0 = false → exec (.jmpr r) s = .next (s.wentTo (s.x r.a) s.cur.pc))
      ∧ ((s.x r.a).getLsbD 0 = true → s.canTrap → exec (.jmpr r) s = .next (s.misplaced 4 (s.x r.a) 4 2))
      ∧ (s.readyX 1 →
        ((s.x r.a).getLsbD 0 = false →
          exec (.callr r) s = .next ({ s with cur := s.cur.putX 1 s.wentOn.cur.pc }.wentTo (s.x r.a) s.cur.pc))
        ∧ ((s.x r.a).getLsbD 0 = true → s.canTrap → exec (.callr r) s = .next (s.misplaced 4 (s.x r.a) 4 2))))
    ∧ (s.cur.sr.epc.getLsbD 0 = false →
      exec .sret s = .next ({ s with cur := { s.cur with
        sr := { s.cur.sr with cause := s.cur.sr.cause &&& ~~~(0x8000 : Word) } } }.wentTo s.cur.sr.epc s.cur.pc))
    ∧ (s.cur.sr.epc.getLsbD 0 = true → s.canTrap → exec .sret s = .next (s.misplaced 4 s.cur.sr.epc 4 2))
    ∧ (s.cur.sr.epc.getLsbD 0 = true → s.cur.sr.cause.getLsbD 15 = true →
      ∃ t : State, exec .sret s = .next t
        ∧ (s.myJob.stopReported = false → JobStops s t s.myTroupe.job) ∧ (s.myJob.stopReported = true → t = s))

/-- A trap that is fatal, that comes while busy is 1, or, CANCEL apart, that comes in a job with no handler stops the
job: every strand of it stops, its engine commands go, and one fault report with the cause, the resume point and the
information is sent to the host; of a job that is stopped and reported already nothing more is done. A CANCEL in a job
with no handler ends the strand. Any other trap outside a transaction saves the resume point and the information, sets
%cause to busy, the async flag and the code, goes to the handler at %cbase advanced by %tvec, and changes nothing else
but the strand's wait. Inside a transaction the transaction is aborted first with cause 9 and the trap's code, and the
resume point is the handler of the outermost XBEGIN. -/
def Obligations.TrapDelivery : Prop :=
  ∀ (s : State) (async : Bool) (c : Cause) (c0 c1 c2 c3 e : Word),
    (conservators c ∨ s.cur.sr.cause.getLsbD 15 = true ∨ (s.myJob.tvec = 0 ∧ c ≠ .cancel) →
      (s.myJob.stopReported = false →
        JobStops s (s.takeTrap async c c0 c1 c2 c3 e) s.myTroupe.job
        ∧ (s.takeTrap async c c0 c1 c2 c3 e).mgmt.sent = s.mgmt.sent ++
            [.fault s.myTroupe.job s.myTroupe.part s.cur.hw s.cur.core
              ((if s.cur.sr.cause.getLsbD 15 then 1 else 0) + (if s.myJob.tvec = 0 ∧ c ≠ .cancel then 2 else 0))
              s.myTroupe.index s.myTroupe.launch (BitVec.ofNat 64 (2 ^ 15 + (if async then 2 ^ 14 else 0) + c.code))
              (if s.cur.tx.depth = 0 then e else s.cur.tx.handler) c0 c1 c2 c3 s.now])
      ∧ (s.myJob.stopReported = true → s.takeTrap async c c0 c1 c2 c3 e = s))
    ∧ (¬conservators c → s.cur.sr.cause.getLsbD 15 = false → s.myJob.tvec = 0 → c = .cancel →
      s.takeTrap async c c0 c1 c2 c3 e = s.endStrand)
    ∧ (¬conservators c → s.canTrap → s.takeTrap async c c0 c1 c2 c3 e = s.delivered async c.code c0 c1 c2 c3 e)
    ∧ (¬conservators c → s.cur.sr.cause.getLsbD 15 = false → s.myJob.tvec ≠ 0 → s.cur.tx.depth ≠ 0 →
      s.takeTrap async c c0 c1 c2 c3 e =
        (s.abortTx s.cur.sid 9 c.code (if c = .translate ∨ c = .protect ∨ c = .poison then some c0 else none)).delivered
          async c.code c0 c1 c2 c3 s.cur.tx.handler)

/-- In a strand that can take a trap, TRAPZ and an illegal word group take TRAPZ and ILLEGAL at themselves, with the
operation word, and with the words, their number and the sub-code; BRK takes BREAK after itself with its code and 0,
TRAP with its code and 1 when X[d] is not 0. TRAP with X[d] = 0 goes on and has no other effect. -/
def Obligations.SelfTraps : Prop :=
  ∀ (s : State) (m : IM),
    (s.canTrap →
      exec .trapz s = .next (s.delivered false 0x02 ((s.ir.getLastD 0).setWidth 64) 0 0 0 s.cur.pc)
      ∧ exec .illegalEncoding s = .next (s.delivered false 0x01 (wordsInfo s.ir).1 (wordsInfo s.ir).2
          (BitVec.ofNat 64 (illegalSub s.ir)) 0 s.cur.pc)
      ∧ exec .brk s = .next (s.wentOn.delivered false 0x13 ((rawOf s.ir).imm &&& 0x3FF) 0 0 0 s.wentOn.cur.pc)
      ∧ (s.readyX m.d → s.x m.d ≠ 0 →
          exec (.trap m) s = .next (s.wentOn.delivered false 0x13 (m.imm &&& 0x3FF) 1 0 0 s.wentOn.cur.pc)))
    ∧ (s.readyX m.d → s.x m.d = 0 → exec (.trap m) s = .next s.wentOn)

/-- `gate` over any list of operands and results lets an instruction go exactly when every register that it reads and every register that it
writes is full. Otherwise, if each empty one is read by an operand whose trap bit is set, a strand that can take a trap takes EMPTY_REG at
the instruction, naming the first such operand's place (0 d, 1 s, 2 t), its file and its lowest empty register; and if one is read by no
such operand, the strand is not ready: it waits at the instruction and nothing else happens. ADD of scalar registers, ADD_IMM, whose operand
stands in place d under the trap bit of d, BINS, which reads its d, and VADD of groups of vector registers, which reads its d under a
predicate other than p0, do what `gate` says of the operands and results listed here. An instruction that counts events adds each to its
troupe's counter and goes on; if that takes a counter from below its limit to it or beyond, over the exact sum, ARITH is taken after the
instruction, or for ZSCALE and MMA becomes pending at retirement: it names the lowest such counter, all of them, and the element whose event
crossed it. VADD with .sat counts the lanes it clamps and VFADD the events of its lanes, lane by lane. -/
def Obligations.OperandAndCounterTraps : Prop :=
  (∀ (s : State) (reads : List Src) (writes : List Dst),
    let uses := fun (v : Bool) (x : Reg) => (∃ o ∈ reads, o.vec = v ∧ x ∈ o.regs) ∨ ∃ o ∈ writes, o.vec = v ∧ x ∈ o.regs
    let trapping := fun (v : Bool) (x : Reg) => ∃ o ∈ reads, o.trap = true ∧ o.vec = v ∧ x ∈ o.regs
    (gate s reads writes = none ↔
      (∀ q ∈ reads, ∀ r ∈ q.regs, s.cur.full q.vec r = true) ∧ (∀ q ∈ writes, ∀ r ∈ q.regs, s.cur.full q.vec r = true))
    ∧ (∀ l q l' rs r rs', reads = l ++ q :: l' → q.regs = rs ++ r :: rs' → q.trap = true → s.cur.full q.vec r = false →
        (∀ x ∈ rs, s.cur.full q.vec x = true) → (∀ o ∈ l, o.trap = true → ∀ x ∈ o.regs, s.cur.full o.vec x = true) →
        (∀ v x, uses v x → s.cur.full v x = false → trapping v x) → s.canTrap →
      gate s reads writes = some (s.delivered false 0x08
        (BitVec.ofNat 64 (q.op + (if q.vec then 2 ^ 8 else 0) + r.toNat * 2 ^ 16)) 0 0 0 s.cur.pc))
    ∧ ((∃ v x, uses v x ∧ s.cur.full v x = false ∧ ¬trapping v x) →
      gate s reads writes = some (s.waitsFor .empty)))
  ∧ (∀ (o : RRR) (i : RI) (b : BFOp) (v : VOp) (s t : State),
    (gate s [⟨1, false, [o.a], o.ta⟩, ⟨2, false, [o.b], o.tb⟩] [⟨false, [o.d]⟩] = some t → exec (.add o) s = .next t)
    ∧ (gate s [⟨if i.td then 0 else 1, false, [i.a], i.ta || i.td⟩] [⟨false, [i.d]⟩] = some t → exec (.addImm i) s = .next t)
    ∧ (gate s [⟨1, false, [b.a], b.ta⟩, ⟨0, false, [b.d], b.td⟩] [⟨false, [b.d]⟩] = some t → exec (.bins b) s = .next t)
    ∧ (gate s ([⟨1, true, groupRegs v.w v.a, v.ta⟩, ⟨2, true, groupRegs v.w v.b, v.tb⟩]
          ++ if v.pred = 0 then [] else [⟨0, true, groupRegs v.w v.d, v.td⟩]) [⟨true, groupRegs v.w v.d⟩] = some t →
        exec (.vadd v) s = .next t))
  ∧ (∀ (s : State) (evs : List Ev) (fmta fmtb : Nat) (u : Troupe), s.troupe? s.cur.troupe = some u →
    ((∀ c : Fin 5, ¬Crosses u.arith[c] u.alimit[c] (tally evs c)) → s.advanceCounting evs fmta fmtb = (s.counted s.cur.troupe evs).wentOn)
    ∧ ((∃ c : Fin 5, Crosses u.arith[c] u.alimit[c] (tally evs c)) → s.canTrap → ∃ c0 c1 c2 : Word,
      CarriesArith u evs ((opOf s.ir).toNat / 256) ((opOf s.ir).toNat % 64) fmta fmtb c0 c1 c2
      ∧ s.advanceCounting evs fmta fmtb = (s.counted s.cur.troupe evs).wentOn.delivered false 0x0A c0 c1 c2 s.cur.pc s.wentOn.cur.pc))
  ∧ (∀ (o : VOp) (s : State), s.readyV o.w o.a → s.readyV o.w o.b → s.readyV o.w o.d →
    let bits := laneBits o.m.lw
    let sum := fun r l => laneVal o.m (s.laneOf o.a bits r l) + laneVal o.m (s.laneOf o.b bits r l)
    let evs := ((List.range o.w.count).map (fun r => ((List.range (256 / bits)).filter (fun l =>
        s.active o.pred bits r l && o.m.sat && (decide (sum r l < laneMin o.m) || decide (laneMax o.m < sum r l)))).map (fun l =>
          (⟨2, 0, (inGroup o.d r).toNat, 0, l, 0x7F⟩ : Ev)))).flatten
    ∃ w : Vector VReg 32, exec (.vadd o) s = .next ({ s with cur := { s.cur with v := w } }.advanceCounting evs
      (intCode o.m.unsigned o.m.lw) (intCode o.m.unsigned o.m.lw)))
  ∧ (∀ (o : FOp) (s : State), s.readyV o.w o.a → s.readyV o.w o.b → s.readyV o.w o.d →
    let ff := ftyFF o.m.ty
    let res := fun r l => ff.bin .add (s.laneOf o.a ff.width r l) (s.laneOf o.b ff.width r l) (s.mode o.m.rm) o.m.sat
      (drawn (s.mode o.m.rm) (s.lanesBefore o.pred ff.width r l) s.lfsr)
    let evs := ((List.range o.w.count).map (fun r => ((List.range (256 / ff.width)).map (fun l =>
        if s.active o.pred ff.width r l then (res r l).events 0 (inGroup o.d r).toNat 0 l 0x7F else [])).flatten)).flatten
    ∃ (w : Vector VReg 32) (lf : Word), exec (.vfadd o) s = .next ({ s with
      cur := { s.cur with v := w, sr := { s.cur.sr with lfsr := lf } } }.advanceCounting evs (ftyCode o.m.ty) (ftyCode o.m.ty)))
  ∧ ∀ (s : State) (sid uid : Nat) (z : Fin 2) (pc : Word) (r : List ArrayOp) (u : Troupe) (v : Strand), s.troupe? uid = some u →
    s.strand? sid = some v → v.mode ≠ .stopped 5 → v.pend.length < 16 → (s.core s.arg.id).zfreeing[z] = false →
    let z0 := (s.core s.arg.id).z[z]
    let waits := fun (i : Instr) (evs : List Ev) (opcode fmta fmtb : Nat) => (∃ c : Fin 5, Crosses u.arith[c] u.alimit[c] (tally evs c)) →
      ∃ (t : State) (v' : Strand) (c0 c1 c2 : Word), exec i s = .next t ∧ CarriesArith u evs 4 opcode fmta fmtb c0 c1 c2 ∧ t.mem = s.mem
        ∧ t.troupes = (s.counted uid evs).troupes ∧ t.strand? sid = some v'
        ∧ v' = { v with pend := v.pend ++ [⟨.arith, c0, c1, c2, pc, s.now⟩] }
    (∀ (rm : Rm) (sat : Bool) (l : Quad) (cols : List Quad), (s.core s.arg.id).array = .zscale sid uid z.val rm sat l cols true pc :: r →
      waits .zscaleRetire (((List.range 4096).map (fun n => (ffF32.bin .mul (zelem z0 n) ((cols.getD (n % 64) 0).toNat) rm sat
        (drawn rm n l)).events 1 z.val (n / 64) (n % 64) 0x7F)).flatten) 0x09 0 0)
    ∧ (∀ (qa qb : Nat) (a b : Panel) (ka kb zo : Bool), (s.core s.arg.id).array = .mma sid uid z.val qa qb a b ka kb zo true pc :: r →
      waits .mmaRetire (mmaResult z0 a b z.val zo).2 0x04 a.fmt b.fmt)

/-- END of a strand with no move in progress and no refused posted store pending ends it: its pending traps go, its troupe
has one strand less, and a troupe with no strand left has ended; memory does not change. SAFE goes on, and the strand
stands at a safe point with every register live when the instruction names no range, else those of its ranges with x1
and x2. -/
def Obligations.EndAndSafe : Prop :=
  (∀ (s : State) (u : Troupe), s.movesLeft = false → (∀ p ∈ s.cur.pend, p.cause ≠ .postedRefused) → s.troupe? s.cur.troupe = some u →
    ∃ t : State, ∃ u', exec .endStrand s = .next t ∧ t.cur.mode = .ended ∧ t.cur.pend = [] ∧ t.mem = s.mem
      ∧ t.troupe? s.cur.troupe = some u' ∧ u'.strandsLeft = u.strandsLeft - 1 ∧ (u.strandsLeft ≤ 1 → u'.place = .ended))
  ∧ ∀ s : State, ∃ x v : Quad,
    exec .safe s = .next { s.wentOn with cur := { s.wentOn.cur with safe := true, live := (x, v) } }
    ∧ (∀ i, i < 32 → (x.getLsbD i = true ↔ (rawOf s.ir).safeRanges = [] ∨ i = 1 ∨ i = 2
        ∨ ∃ r ∈ (rawOf s.ir).safeRanges, r.vec = false ∧ r.first.toNat ≤ i ∧ i ≤ r.last.toNat))
    ∧ (∀ i, i < 32 → (v.getLsbD i = true ↔ (rawOf s.ir).safeRanges = []
        ∨ ∃ r ∈ (rawOf s.ir).safeRanges, r.vec = true ∧ r.first.toNat ≤ i ∧ i ≤ r.last.toNat))

/-- With X[d] full, GETS writes into X[d] the value of the state register it names, PUTS writes X[d] to it in the form of
its map, and each goes on; the values and forms are listed for every register. %round stores a mode above 4 as 0,
%lfsr stores 0 as 1, %seed also reloads %lfsr, %xage becomes 0, %chan keeps 12 bits, %fewait 32 bits, %cause its
defined bits. -/
def Obligations.StateRegisters : Prop :=
  ∀ (m : IM) (s : State), s.readyX m.d →
    (∀ v : Word,
      (m.imm = 0x00 ∧ v = BitVec.ofNat 64 s.cur.core) ∨ (m.imm = 0x01 ∧ v = BitVec.ofNat 64 s.cur.sr.strand)
      ∨ (m.imm = 0x02 ∧ v = BitVec.ofNat 64 s.myTroupe.index) ∨ (m.imm = 0x03 ∧ v = s.myTroupe.launch)
      ∨ (m.imm = 0x04 ∧ v = BitVec.ofNat 64 s.myTroupe.job) ∨ (m.imm = 0x05 ∧ v = BitVec.ofNat 64 s.myTroupe.part)
      ∨ (m.imm = 0x06 ∧ v = BitVec.ofNat 64 (2 ^ 60 + s.cur.core * 2 ^ 48 + s.myTroupe.lmOff))
      ∨ (m.imm = 0x07 ∧ v = s.cur.sr.chan) ∨ (m.imm = 0x08 ∧ v = s.cur.sr.round) ∨ (m.imm = 0x09 ∧ v = s.cur.sr.seed)
      ∨ (m.imm = 0x0A ∧ v = s.cur.sr.lfsr) ∨ (m.imm = 0x0B ∧ v = s.cur.sr.xage) ∨ (m.imm = 0x0C ∧ v = s.cur.sr.fewait)
      ∨ (m.imm = 0x0D ∧ v = s.myJob.codeBase) ∨ (m.imm = 0x0E ∧ v = s.myJob.codeLimit) ∨ (m.imm = 0x0F ∧ v = s.myJob.tvec)
      ∨ (∃ i : Fin 8, m.imm = BitVec.ofNat 64 (0x10 + i) ∧ v = s.myJob.stale[i])
      ∨ (∃ i : Fin 5, m.imm = BitVec.ofNat 64 (0x18 + i) ∧ v = s.myTroupe.arith[i].setWidth 64)
      ∨ (∃ i : Fin 5, m.imm = BitVec.ofNat 64 (0x20 + i) ∧ v = s.myTroupe.alimit[i].setWidth 64)
      ∨ (m.imm = 0x28 ∧ v = s.myJob.evtab) ∨ (m.imm = 0x29 ∧ v = s.myJob.creg) ∨ (m.imm = 0x2A ∧ v = BitVec.ofNat 64 s.myJob.log2n)
      ∨ (m.imm = 0x30 ∧ v = s.cur.sr.cause) ∨ (m.imm = 0x31 ∧ v = s.cur.sr.epc) ∨ (m.imm = 0x32 ∧ v = s.cur.sr.c0)
      ∨ (m.imm = 0x33 ∧ v = s.cur.sr.c1) ∨ (m.imm = 0x34 ∧ v = s.cur.sr.c2) ∨ (m.imm = 0x35 ∧ v = s.cur.sr.c3)
      → exec (.gets m) s = .next (s.wrote m.d v))
    ∧ (m.imm = 0x08 → exec (.putsRound m) s = .next (s.setRegs (fun r => { r with
        round := if 4 < (s.x m.d).toNat % 8 then 0 else s.x m.d &&& 7 })))
    ∧ (m.imm = 0x09 → exec (.putsSeed m) s = .next (s.setRegs (fun r => { r with
        seed := s.x m.d &&& 0xFFFFFFFF,
        lfsr := ((let v := (s.x m.d).setWidth 32 ^^^ BitVec.ofNat 32 ((s.myTroupe.index * 32 + r.strand) * 0x9E3779B9)
                  if v = 0 then 1 else v : Quad)).setWidth 64 })))
    ∧ (m.imm = 0x0A → exec (.putsLfsr m) s = .next (s.setRegs (fun r => { r with
        lfsr := if s.x m.d &&& 0xFFFFFFFF = 0 then 1 else s.x m.d &&& 0xFFFFFFFF })))
    ∧ (m.imm = 0x0B → exec (.putsXage m) s = .next (s.setRegs (fun r => { r with xage := 0 })))
    ∧ (m.imm = 0x30 → exec (.putsCause m) s = .next (s.setRegs (fun r => { r with cause := s.x m.d &&& 0xC0FF })))
    ∧ (m.imm = 0x07 → exec (.puts m) s = .next (s.setRegs (fun r => { r with chan := s.x m.d &&& 0xFFF })))
    ∧ (m.imm = 0x0C → exec (.puts m) s = .next (s.setRegs (fun r => { r with fewait := s.x m.d &&& 0xFFFFFFFF })))
    ∧ (m.imm = 0x31 → exec (.puts m) s = .next (s.setRegs (fun r => { r with epc := s.x m.d })))
    ∧ (m.imm = 0x32 → exec (.puts m) s = .next (s.setRegs (fun r => { r with c0 := s.x m.d })))
    ∧ (m.imm = 0x33 → exec (.puts m) s = .next (s.setRegs (fun r => { r with c1 := s.x m.d })))
    ∧ (m.imm = 0x34 → exec (.puts m) s = .next (s.setRegs (fun r => { r with c2 := s.x m.d })))
    ∧ (m.imm = 0x35 → exec (.puts m) s = .next (s.setRegs (fun r => { r with c3 := s.x m.d })))
    ∧ (∀ i : Fin 8, m.imm = BitVec.ofNat 64 (0x10 + i) → exec (.puts m) s =
        .next ({ s with jobs := s.jobs.map (fun j : Job => if j.num = s.myTroupe.job then { j with stale := j.stale.set i (s.x m.d) } else j) }.wentOn))
    ∧ (∀ i : Fin 5, m.imm = BitVec.ofNat 64 (0x18 + i) → exec (.puts m) s =
        .next ({ s with troupes := s.troupes.map (fun u : Troupe => if u.uid = s.cur.troupe then
          { u with arith := u.arith.set i ((s.x m.d).setWidth 32) } else u) }.wentOn))
    ∧ (∀ i : Fin 5, m.imm = BitVec.ofNat 64 (0x20 + i) → exec (.puts m) s =
        .next ({ s with troupes := s.troupes.map (fun u : Troupe => if u.uid = s.cur.troupe then
          { u with alimit := u.alimit.set i ((s.x m.d).setWidth 32) } else u) }.wentOn))

/-- PSET, PAND, POR and PNOT write their result into the predicate register and go on; PCNT writes the number of set bits
and PFIRST the lowest set bit or 32 into X[d]; p0 reads all ones, a write to it is ignored, and nothing else changes. -/
def Obligations.PredicateResults : Prop :=
  (∀ (m : IM) (o : RRR) (r : RR) (s : State),
    exec (.pset m) s = .next (s.wroteP (m.d.setWidth 3) (m.imm.setWidth 32))
    ∧ exec (.pand o) s = .next (s.wroteP (o.d.setWidth 3) (s.p (o.a.setWidth 3) &&& s.p (o.b.setWidth 3)))
    ∧ exec (.por o) s = .next (s.wroteP (o.d.setWidth 3) (s.p (o.a.setWidth 3) ||| s.p (o.b.setWidth 3)))
    ∧ exec (.pnot r) s = .next (s.wroteP (r.d.setWidth 3) (~~~(s.p (r.a.setWidth 3))))
    ∧ (s.readyX r.d →
      exec (.pcnt r) s = .next (s.wrote r.d (BitVec.ofNat 64
        ((List.finRange 32).countP (fun j => (s.p (r.a.setWidth 3)).getLsbD j))))
      ∧ ∃ k : Nat, k ≤ 32 ∧ exec (.pfirst r) s = .next (s.wrote r.d (BitVec.ofNat 64 k))
          ∧ (∀ j, j < k → (s.p (r.a.setWidth 3)).getLsbD j = false) ∧ (k < 32 → (s.p (r.a.setWidth 3)).getLsbD k = true)))
  ∧ ∀ (s : State) (d q : BitVec 3) (v : Quad),
    (s.wroteP d v).p q = (if q = 0 then BitVec.allOnes 32 else if q = d then v else s.p q)

/-- With its registers full and no counter limit set, each lane-wise integer instruction gives every active lane its
result and leaves every inactive lane of d as it was; registers outside the group, the LFSR and everything else are as
before, and the strand goes on. VADD, VSUB, VMUL and VABS give the exact result, under .sat clamped to the type, else
wrapped, and the sat counter grows by the number of clamped lanes; the others count nothing. VSEL takes each lane of a
where its selector is set and of b elsewhere; VABS and VBCAST have every lane active. -/
def Obligations.VectorIntegerResults : Prop :=
  (∀ (o : VOp) (s : State), s.readyV o.w o.a → s.readyV o.w o.b → s.readyV o.w o.d → s.noLimits →
    (∀ (i : Instr) (f : Int → Int → Int),
      (i = .vadd o ∧ f = (· + ·)) ∨ (i = .vsub o ∧ f = (· - ·)) ∨ (i = .vmul o ∧ f = (· * ·)) →
      ∃ t : State, exec i s = .next t ∧ t.cur.sr = s.cur.sr
        ∧ VectorOnly s t o.w o.d (fun c => if c = 2 then laneCount o.w (laneBits o.m.lw) (fun r l =>
            let e := f (laneVal o.m (s.laneOf o.a (laneBits o.m.lw) r l)) (laneVal o.m (s.laneOf o.b (laneBits o.m.lw) r l))
            s.active o.pred (laneBits o.m.lw) r l && o.m.sat && (decide (e < laneMin o.m) || decide (laneMax o.m < e))) else 0)
        ∧ ∀ r l, r < o.w.count → l < 256 / laneBits o.m.lw →
          let e := f (laneVal o.m (s.laneOf o.a (laneBits o.m.lw) r l)) (laneVal o.m (s.laneOf o.b (laneBits o.m.lw) r l))
          t.laneOf o.d (laneBits o.m.lw) r l =
            (if s.active o.pred (laneBits o.m.lw) r l then
              ((if o.m.sat then max (laneMin o.m) (min (laneMax o.m) e) else e) % 2 ^ laneBits o.m.lw).toNat
            else s.laneOf o.d (laneBits o.m.lw) r l))
    ∧ (∀ (i : Instr) (f : Nat → Nat → Nat),
      (i = .vmulh o ∧ f = fun a b => (laneVal o.m a * laneVal o.m b / 2 ^ laneBits o.m.lw % 2 ^ laneBits o.m.lw).toNat)
      ∨ (i = .vmin o ∧ f = fun a b => if laneVal o.m a ≤ laneVal o.m b then a else b)
      ∨ (i = .vmax o ∧ f = fun a b => if laneVal o.m a ≤ laneVal o.m b then b else a)
      ∨ (i = .vand o ∧ f = fun a b => a &&& b) ∨ (i = .vor o ∧ f = fun a b => a ||| b) ∨ (i = .vxor o ∧ f = fun a b => a ^^^ b)
      ∨ (i = .vsll o ∧ f = fun a b => a * 2 ^ (b % laneBits o.m.lw) % 2 ^ laneBits o.m.lw)
      ∨ (i = .vsrl o ∧ f = fun a b => a / 2 ^ (b % laneBits o.m.lw))
      ∨ (i = .vsra o ∧ f = fun a b =>
          ((BitVec.ofNat (laneBits o.m.lw) a).toInt / 2 ^ (b % laneBits o.m.lw) % 2 ^ laneBits o.m.lw).toNat) →
      ∃ t : State, exec i s = .next t ∧ t.cur.sr = s.cur.sr ∧ VectorOnly s t o.w o.d (fun _ => 0)
        ∧ ∀ r l, r < o.w.count → l < 256 / laneBits o.m.lw →
          t.laneOf o.d (laneBits o.m.lw) r l =
            (if s.active o.pred (laneBits o.m.lw) r l then f (s.laneOf o.a (laneBits o.m.lw) r l) (s.laneOf o.b (laneBits o.m.lw) r l)
            else s.laneOf o.d (laneBits o.m.lw) r l))
    ∧ ∃ t : State, exec (.vsel o) s = .next t ∧ t.cur.sr = s.cur.sr ∧ VectorOnly s t o.w o.d (fun _ => 0)
        ∧ ∀ r l, r < o.w.count → l < 256 / laneBits o.m.lw →
          t.laneOf o.d (laneBits o.m.lw) r l =
            (if s.active o.pred (laneBits o.m.lw) r l then s.laneOf o.a (laneBits o.m.lw) r l else s.laneOf o.b (laneBits o.m.lw) r l))
  ∧ ∀ (o : VMovOp) (s : State), s.readyV o.w o.d →
    (s.readyV o.w o.a → s.noLimits →
      ∃ t : State, exec (.vabs o) s = .next t ∧ t.cur.sr = s.cur.sr
        ∧ VectorOnly s t o.w o.d (fun c => if c = 2 then laneCount o.w (laneBits o.m.lw) (fun r l =>
            o.m.sat && decide (laneMax o.m < ((laneVal o.m (s.laneOf o.a (laneBits o.m.lw) r l)).natAbs : Int))) else 0)
        ∧ ∀ r l, r < o.w.count → l < 256 / laneBits o.m.lw →
          let e : Int := (laneVal o.m (s.laneOf o.a (laneBits o.m.lw) r l)).natAbs
          t.laneOf o.d (laneBits o.m.lw) r l = ((if o.m.sat then min (laneMax o.m) e else e) % 2 ^ laneBits o.m.lw).toNat)
    ∧ (s.readyX o.a →
      ∃ t : State, exec (.vbcast o) s = .next t ∧ t.cur.sr = s.cur.sr ∧ VectorOnly s t o.w o.d (fun _ => 0)
        ∧ ∀ r l, r < o.w.count → l < 256 / laneBits o.m.lw →
          t.laneOf o.d (laneBits o.m.lw) r l = (s.x o.a).toNat % 2 ^ laneBits o.m.lw)

/-- With its registers full, VCMP writes a predicate whose bit l is set where lane l is active and its condition holds,
every bit beyond the lanes clear; VPERM, VSHUF, VINS write each lane of d as R255 to R257 say; VEXT and the integer
reductions write X[d], extended under the type. VRSUM gives the sum of the active lanes modulo 2^W, VRMAX and VRMIN
the greatest and the least active lane, or the least and the greatest value of the type when none is active. Nothing
else changes. -/
def Obligations.LaneMoves : Prop :=
  (∀ (o : VCmpOp) (s : State), s.readyV .g1 o.a → s.readyV .g1 o.b →
    (∃ p : Quad, exec (.vcmp o) s = .next (s.wroteP (o.d.setWidth 3) p)
      ∧ ∀ l, l < 32 → (p.getLsbD l = true ↔ l < 256 / laneBits o.m.lw ∧ s.active o.pred (laneBits o.m.lw) 0 l = true ∧
          let a := laneVal o.m (s.laneOf o.a (laneBits o.m.lw) 0 l)
          let b := laneVal o.m (s.laneOf o.b (laneBits o.m.lw) 0 l)
          ((o.cond = 0 ∧ a = b) ∨ (o.cond = 1 ∧ a ≠ b) ∨ (o.cond = 2 ∧ a < b) ∨ (o.cond = 3 ∧ a ≤ b) ∨ (o.cond = 4 ∧ a > b)
            ∨ (5 ≤ o.cond.toNat ∧ a ≥ b))))
    ∧ (s.readyV .g1 o.d → o.cond.toNat ≤ 4 →
      ∃ t : State, exec (.vshuf o) s = .next t ∧ t.cur.sr = s.cur.sr ∧ VectorOnly s t .g1 o.d (fun _ => 0)
        ∧ ∀ l, l < 256 / laneBits o.m.lw →
          let n := 256 / laneBits o.m.lw
          let a := s.laneOf o.a (laneBits o.m.lw) 0
          let b := s.laneOf o.b (laneBits o.m.lw) 0
          let ab := fun j => if j < n then a j else b (j - n)
          t.laneOf o.d (laneBits o.m.lw) 0 l =
            (if o.cond = 0 then (if l % 2 = 0 then a (l / 2) else b (l / 2))
             else if o.cond = 1 then (if l % 2 = 0 then a (n / 2 + l / 2) else b (n / 2 + l / 2))
             else if o.cond = 2 then ab (2 * l) else if o.cond = 3 then ab (2 * l + 1) else a (n - 1 - l))))
  ∧ (∀ (o : VOp) (s : State), s.readyV .g1 o.a → s.readyV .g1 o.b → s.readyV .g1 o.d →
    ∃ t : State, exec (.vperm o) s = .next t ∧ t.cur.sr = s.cur.sr ∧ VectorOnly s t .g1 o.d (fun _ => 0)
      ∧ ∀ l, l < 256 / laneBits o.m.lw →
        t.laneOf o.d (laneBits o.m.lw) 0 l = s.laneOf o.a (laneBits o.m.lw) 0 (s.laneOf o.b (laneBits o.m.lw) 0 l % (256 / laneBits o.m.lw)))
  ∧ (∀ (o : VMovOp) (s : State), o.idx.toNat < 256 / laneBits o.m.lw →
    (s.readyV .g1 o.a → s.readyX o.d →
      exec (.vext o) s = .next (s.wrote o.d (BitVec.ofInt 64 (laneVal o.m (s.laneOf o.a (laneBits o.m.lw) 0 o.idx.toNat)))))
    ∧ (s.readyX o.a → s.readyV .g1 o.d →
      ∃ t : State, exec (.vins o) s = .next t ∧ t.cur.sr = s.cur.sr ∧ VectorOnly s t .g1 o.d (fun _ => 0)
        ∧ ∀ l, l < 256 / laneBits o.m.lw → t.laneOf o.d (laneBits o.m.lw) 0 l =
          (if l = o.idx.toNat then (s.x o.a).toNat % 2 ^ laneBits o.m.lw else s.laneOf o.d (laneBits o.m.lw) 0 l)))
  ∧ ∀ (o : VRedOp) (s : State), s.readyV .g1 o.a → s.readyX o.d →
    let act := (List.range (256 / laneBits o.m.lw)).filter (s.active o.pred (laneBits o.m.lw) 0)
    let val := fun l => laneVal o.m (s.laneOf o.a (laneBits o.m.lw) 0 l)
    exec (.vrsumInt o) s = .next (s.wrote o.d (BitVec.ofInt 64
      (laneVal o.m (((act.map (s.laneOf o.a (laneBits o.m.lw) 0)).sum) % 2 ^ laneBits o.m.lw))))
    ∧ (∃ v : Int, exec (.vrmaxInt o) s = .next (s.wrote o.d (BitVec.ofInt 64 v)) ∧ (∀ l ∈ act, val l ≤ v)
        ∧ ((∃ l ∈ act, val l = v) ∨ v = laneMin o.m))
    ∧ ∃ v : Int, exec (.vrminInt o) s = .next (s.wrote o.d (BitVec.ofInt 64 v)) ∧ (∀ l ∈ act, v ≤ val l)
        ∧ ((∃ l ∈ act, val l = v) ∨ v = laneMax o.m)

/-- With its registers full and no counter limit set, each lane-wise floating-point instruction rounds every active lane's
exact result once in the instruction's mode, taking one draw for each active lane in lane order when the mode is sr
(VFMIN and VFMAX take none), and leaves every inactive lane of d as it was. Each of the counters nan, inf and sat
grows by the number of active lanes that raise it. VFCMP writes a predicate by the eight conditions of R253. Registers
outside the group and everything else are as before. What one operation on one lane gives is said by the functions of
Numbers.lean, which stand for the rules of spec/07. -/
def Obligations.VectorFloatResults : Prop :=
  (∀ (o : FOp) (s : State), s.readyV o.w o.a → s.readyV o.w o.b → s.readyV o.w o.d → s.noLimits →
    ∀ (i : Instr) (draws : Bool) (f : FF → Rm → Nat → Nat → Nat → Quad → Rounded),
      (i = .vfadd o ∧ draws = true ∧ f = fun ff rm _ a b q => ff.bin .add a b rm o.m.sat q)
      ∨ (i = .vfsub o ∧ draws = true ∧ f = fun ff rm _ a b q => ff.bin .sub a b rm o.m.sat q)
      ∨ (i = .vfmul o ∧ draws = true ∧ f = fun ff rm _ a b q => ff.bin .mul a b rm o.m.sat q)
      ∨ (i = .vfdiv o ∧ draws = true ∧ f = fun ff rm _ a b q => ff.bin .div a b rm o.m.sat q)
      ∨ (i = .vfma o ∧ draws = true ∧ f = fun ff rm d a b q => ff.fma a b d false false rm o.m.sat q)
      ∨ (i = .vfms o ∧ draws = true ∧ f = fun ff rm d a b q => ff.fma a b d false true rm o.m.sat q)
      ∨ (i = .vfnma o ∧ draws = true ∧ f = fun ff rm d a b q => ff.fma a b d true false rm o.m.sat q)
      ∨ (i = .vfmin o ∧ draws = false ∧ f = fun ff _ _ a b q => ff.pickSat false o.m.sat a b q)
      ∨ (i = .vfmax o ∧ draws = false ∧ f = fun ff _ _ a b q => ff.pickSat true o.m.sat a b q) →
      let ff := ftyFF o.m.ty
      let rm := if draws then s.mode o.m.rm else .rne
      let res := fun r l => f ff (s.mode o.m.rm) (s.laneOf o.d ff.width r l) (s.laneOf o.a ff.width r l) (s.laneOf o.b ff.width r l)
        (drawn rm (s.lanesBefore o.pred ff.width r l) s.lfsr)
      ∃ t : State, exec i s = .next t
        ∧ VectorOnly s t o.w o.d (fun c => laneCount o.w ff.width (fun r l => s.active o.pred ff.width r l &&
            (if c = 0 then (res r l).nan else if c = 1 then (res r l).inf else if c = 2 then (res r l).sat else false)))
        ∧ t.lfsr = drawn rm (s.lanesBefore o.pred ff.width o.w.count 0) s.lfsr
        ∧ ∀ r l, r < o.w.count → l < 256 / ff.width →
          t.laneOf o.d ff.width r l =
            (if s.active o.pred ff.width r l then (res r l).bits % 2 ^ ff.width else s.laneOf o.d ff.width r l))
  ∧ (∀ (o : FUnOp) (s : State), s.readyV o.w o.a → s.readyV o.w o.d → s.noLimits →
      let ff := ftyFF o.m.ty
      let res := fun r l => ff.root (s.laneOf o.a ff.width r l) (s.mode o.m.rm) o.m.sat
        (drawn (s.mode o.m.rm) (r * (256 / ff.width) + l) s.lfsr)
      ∃ t : State, exec (.vfsqrt o) s = .next t
        ∧ VectorOnly s t o.w o.d (fun c => laneCount o.w ff.width (fun r l =>
            if c = 0 then (res r l).nan else if c = 1 then (res r l).inf else if c = 2 then (res r l).sat else false))
        ∧ t.lfsr = drawn (s.mode o.m.rm) (o.w.count * (256 / ff.width)) s.lfsr
        ∧ ∀ r l, r < o.w.count → l < 256 / ff.width → t.laneOf o.d ff.width r l = (res r l).bits % 2 ^ ff.width)
  ∧ ∀ (o : FCmpOp) (s : State), s.readyV .g1 o.a → s.readyV .g1 o.b →
      let ff := ftyFF o.m.ty
      ∃ p : Quad, exec (.vfcmp o) s = .next (s.wroteP (o.d.setWidth 3) p)
        ∧ ∀ l, l < 32 → (p.getLsbD l = true ↔ l < 256 / ff.width ∧ s.active o.pred ff.width 0 l = true ∧
          let a := ff.decode (s.laneOf o.a ff.width 0 l)
          let b := ff.decode (s.laneOf o.b ff.width 0 l)
          let un := a = .nan ∨ b = .nan
          ((o.cond = 0 ∧ Num.eq a b) ∨ (o.cond = 1 ∧ (un ∨ ¬Num.eq a b)) ∨ (o.cond = 2 ∧ Num.lt a b)
            ∨ (o.cond = 3 ∧ ¬un ∧ (Num.lt a b ∨ Num.eq a b)) ∨ (o.cond = 4 ∧ Num.lt b a)
            ∨ (o.cond = 5 ∧ ¬un ∧ (Num.lt b a ∨ Num.eq a b)) ∨ (o.cond = 6 ∧ un) ∨ (o.cond = 7 ∧ ¬un)))

/-- With its registers full and no counter limit set, VRSUM writes the root of the pairwise tree over the lanes, inactive
lanes entering as −0, each node an f32 sum rounded in the mode and the root of narrow lanes rounded once more; VRMAX
and VRMIN write the root of the tree of the maximum or minimum, inactive lanes entering as −∞ or +∞, and draw nothing.
VRSUM in sr draws once for each node, level by level and left to right, and for narrow lanes once more after the last
node; that this last rounding takes 16 random bits is the model's choice (log entry 61). In every mode each of them
writes one value into X[d], may advance the counters nan and inf of the troupe by at most one, and changes nothing
else. -/
def Obligations.FloatReductionResults : Prop :=
  ∀ (o : FRedOp) (s : State), s.readyV .g1 o.a → s.readyX o.d → s.noLimits →
    let ff := ftyFF o.m.ty
    let n := 256 / ff.width
    let x := fun ident l => if s.active o.pred ff.width 0 l then s.laneOf o.a ff.width 0 l else ident
    ∀ i : Instr, i = .vrsumFloat o ∨ i = .vrmaxFloat o ∨ i = .vrminFloat o →
      ∃ (v : Word) (lf : Quad) (c : Fin 5 → Nat),
        exec i s = .next ({ s with
          cur := { s.cur.putX o.d v with sr := { s.cur.sr with lfsr := lf.setWidth 64 } },
          troupes := s.troupes.map (fun u : Troupe => if u.uid = s.cur.troupe then
            { u with arith := Vector.ofFn (fun i => u.arith[i] + BitVec.ofNat 32 (c i)) } else u) }.wentOn)
        ∧ (∀ k, c k ≤ 1) ∧ c 2 = 0 ∧ c 3 = 0 ∧ c 4 = 0
        ∧ (i = .vrsumFloat o → lf = drawn (s.mode o.m.rm) (n - 1 + (if o.m.ty = .f32 then 0 else 1)) s.lfsr)
        ∧ (i = .vrsumFloat o →
            let rm := s.mode o.m.rm
            let root := nodesOf (fun h k a b => (ffF32.bin .add a b rm false (drawn rm (n - n / 2 ^ h + k) s.lfsr)).bits)
              (fun l => ffF32.encode (ff.decode (x (2 ^ (ff.width - 1)) l))) (Nat.log2 n) 0
            let y := ffF32.decode root
            v = BitVec.ofNat 64 (if o.m.ty = .f32 then root
              else (ff.finish y.exact rm false (drawn rm (n - 1) s.lfsr) none y.isNan y.isInf).bits))
        ∧ (i = .vrmaxFloat o → lf = s.lfsr ∧ v = BitVec.ofNat 64 (treeOf (ff.pick true) (x (ff.encode (.inf true))) (Nat.log2 n) 0))
        ∧ (i = .vrminFloat o → lf = s.lfsr ∧ v = BitVec.ofNat 64 (treeOf (ff.pick false) (x (ff.encode (.inf false))) (Nat.log2 n) 0))

/-- With its registers full and no counter limit set, VCVT converts one part of a into one part of d and keeps the other
elements of d, VPACK converts two registers into one, VUNPACK one into two, each element rounded once, with one draw
each when the mode is sr. VQNT quantises a block of 32 elements: its elements go to d (to one half of d for e2m1, the
other half staying) and its scale to X[t]; VDQNT scales and rounds 32 elements back. A block with a NaN or an infinity has scale 0xFF
and zero elements; else its exponent is that of its largest magnitude less the format's maximum, −127 for a block of zeros, cut to −127
to 127, and each element is its quotient by 2 to that power, rounded once and clamped. Back, an element times 2 to that power is rounded
once; scale 0xFF and NaN elements give NaN. Each of the counters nan, inf and
sat grows by the number of elements that raise it, VQNT's sat by its elements out of range and its fourth and fifth
counter by one when the block's scale is cut from above or from below; nothing else changes. That every element takes its draw in sr,
one that needs no rounding too, is the model's choice (log entry 32), and so is how many random bits a conversion to a float (log
entry 59) and to an integer (log entry 60) takes. -/
def Obligations.ConversionResults : Prop :=
  (∀ (o : CvtOp) (s : State), s.noLimits →
    let sb := Machine.fmtBits o.src
    let db := Machine.fmtBits o.dst
    let rm := s.mode o.rm
    let one := fun (k e : Nat) => convert o.src o.dst e rm o.sat (drawn rm k s.lfsr)
    let raised := fun (n : Nat) (e : Nat → Rounded) (c : Fin 5) =>
      (List.range n).countP (fun k => if c = 0 then (e k).nan else if c = 1 then (e k).inf else if c = 2 then (e k).sat else false)
    ((Instr.vcvt o).wf = true → s.readyV .g1 o.a → s.readyV .g1 o.d →
      let n := 256 / max sb db
      let e := fun k => one k (s.laneOf o.a sb 0 (o.ps.toNat * n + k))
      ∃ t : State, exec (.vcvt o) s = .next t ∧ VectorOnly s t .g1 o.d (raised n e)
        ∧ t.cur.sr.lfsr = (drawn rm n s.lfsr).setWidth 64
        ∧ ∀ k, k < 256 / db →
          t.laneOf o.d db 0 k =
            (if o.pd.toNat * n ≤ k ∧ k < o.pd.toNat * n + n then (e (k - o.pd.toNat * n)).bits % 2 ^ db else s.laneOf o.d db 0 k))
    ∧ ((Instr.vpack o).wf = true → s.readyV .g1 o.a → s.readyV .g1 o.b → s.readyV .g1 o.d →
      let e := fun k => one k (if k < 256 / sb then s.laneOf o.a sb 0 k else s.laneOf o.b sb 0 (k - 256 / sb))
      ∃ t : State, exec (.vpack o) s = .next t ∧ VectorOnly s t .g1 o.d (raised (256 / db) e)
        ∧ t.cur.sr.lfsr = (drawn rm (256 / db) s.lfsr).setWidth 64
        ∧ ∀ k, k < 256 / db → t.laneOf o.d db 0 k = (e k).bits % 2 ^ db)
    ∧ ((Instr.vunpack o).wf = true → s.readyV .g1 o.a → s.readyV .g2 o.d →
      let e := fun k => one k (s.laneOf o.a sb 0 k)
      ∃ t : State, exec (.vunpack o) s = .next t ∧ VectorOnly s t .g2 o.d (raised (512 / db) e)
        ∧ t.cur.sr.lfsr = (drawn rm (512 / db) s.lfsr).setWidth 64
        ∧ ∀ k, k < 512 / db → t.laneOf o.d db (k / (256 / db)) (k % (256 / db)) = (e k).bits % 2 ^ db)
    ∧ ((Instr.vqnt o).wf = true → s.readyV (blockGrp o.src) o.a → s.readyV .g1 o.d → s.readyX o.b →
      let q := quantise (elemFF o.dst) o.src
        ((List.range 32).map (fun k => s.laneOf o.a sb (k / (256 / sb)) (k % (256 / sb)))) rm s.lfsr
      let half := if o.dst = .e2m1 then o.pd.toNat * 32 else 0
      ∃ t : State, exec (.vqnt o) s = .next t ∧ t.x o.b = (if o.b = 0 then 0 else BitVec.ofNat 64 q.scale)
        ∧ VectorOnly { s with cur := s.cur.putX o.b (BitVec.ofNat 64 q.scale) } t .g1 o.d (fun c =>
            if c = 2 then q.sats.countP (fun x => x) else if c = 3 then q.above.toNat else if c = 4 then q.below.toNat else 0)
        ∧ t.cur.sr.lfsr = (drawn rm 32 s.lfsr).setWidth 64
        ∧ ∀ k, k < 256 / db → t.laneOf o.d db 0 k =
          (if half ≤ k ∧ k < half + 32 then q.elems.getD (k - half) 0 % 2 ^ db else s.laneOf o.d db 0 k))
    ∧ ((Instr.vdqnt o).wf = true → s.readyV .g1 o.a → s.readyX o.b → s.readyV (blockGrp o.dst) o.d →
      let half := if o.src = .e2m1 then o.ps.toNat * 32 else 0
      let e := fun k => dequantise (elemFF o.src) ((s.x o.b).toNat % 256) (s.laneOf o.a sb 0 (half + k)) o.dst rm o.sat (drawn rm k s.lfsr)
      ∃ t : State, exec (.vdqnt o) s = .next t ∧ VectorOnly s t (blockGrp o.dst) o.d (raised 32 e)
        ∧ t.cur.sr.lfsr = (drawn rm 32 s.lfsr).setWidth 64
        ∧ ∀ k, k < 32 → t.laneOf o.d db (k / (256 / db)) (k % (256 / db)) = (e k).bits % 2 ^ db))
  ∧ ∀ (f : FF) (lm : Nat) (le : Int) (nb : Nat) (emax : Int) (rm : Rm) (l : Quad), (f, lm, le, nb) ∈ formatRows →
    (f, emax) ∈ [(ffE4m3, 8), (ffE5m2, 15), (ffE2m1, 2)] →
    (∀ (src : Fmt) (vals : List Nat), src ∈ [Fmt.f32, .f16, .bf16] → vals.length = 32 →
      Quantises f lm le emax src vals rm l (quantise f src vals rm l))
    ∧ ∀ (scale b : Nat) (dst : Fmt) (g : FF) (gm : Nat) (ge : Int) (gn : Nat) (sat : Bool), scale ≤ 0xFF → fmtFF dst = some g →
      (g, gm, ge, gn) ∈ formatRows → dst ∈ [Fmt.f32, .f16, .bf16] →
      Dequantises f g gm ge gn scale b rm sat l (dequantise f scale b dst rm sat l)

/-- With its registers full and room in the bay's queue, each special-function instruction enters one request for each
destination register, in order (VSINCOS first the sines into d, then the cosines into the registers after d's group),
with the lanes of the source register, the type, the mode and, for a narrow type in sr, the LFSR at its first draw;
those destination registers are left empty, the draws are taken, the strand goes on, and nothing else changes.
SFU_SERVICE serves the oldest waiting request of the bay and changes nothing else; SFU_RESULT of a served request takes
it away and, with no counter limit set, fills its register with the lanes of the result, whose events the troupe
counts; for a strand that has ended or of a stopped job it only takes the request away. Each lane is the f32 result,
for f32 itself and for a narrow type rounded in the mode. The f32 result is what R138 gives for NaN, the infinities and
zeros, negative operands of VLOG2 and VRSQRT and the reciprocal's overflow. Where R138 bounds it, it is the value rounded, or a free
value within the bound that is not zero, does not stand for a value that underflows, and keeps the lane bound in the narrow formats that
hold the input: that free value is the model's choice (log entry 7). So are the random bits of a narrow lane's last rounding in sr (log
entry 61) and the order of the draws of VSINCOS, all sines before all cosines (log entry 65). -/
def Obligations.SpecialFunctions : Prop :=
  (∀ (o : FUnOp) (s : State) (i : Instr) (fns : List Nat),
    (i = .vexp2 o ∧ fns = [0]) ∨ (i = .vlog2 o ∧ fns = [1]) ∨ (i = .vrsqrt o ∧ fns = [2]) ∨ (i = .vrcp o ∧ fns = [3])
      ∨ (i = .vsincos o ∧ fns = [4, 5] ∧ 2 * o.w.count ≤ 16) ∨ (i = .vtanh o ∧ fns = [6]) →
    s.readyV o.w o.a → (∀ k, k < fns.length → s.readyV o.w (inGroup o.d (k * o.w.count))) →
    (s.sfuQueue s.myBay).length + fns.length * o.w.count ≤ 16 →
    let n := fns.length * o.w.count
    let draws := if o.m.ty = .f32 then 0 else 256 / (ftyFF o.m.ty).width
    ∃ t : State, ∃ l, exec i s = .next t ∧ l.length = n
      ∧ t = { s.wentOn with sfu := s.sfu ++ l, nextId := s.nextId + n,
                            cur := { s.wentOn.cur with vfull := t.cur.vfull, sr := { s.cur.sr with lfsr := t.cur.sr.lfsr } } }
      ∧ (∀ k q, l[k]? = some q → q.id = s.nextId + k ∧ q.sid = s.cur.sid ∧ q.bay = s.cur.core / 8 ∧ q.served = false
          ∧ fns[k / o.w.count]? = some q.fn ∧ q.reg = inGroup o.d k ∧ q.input = s.v (inGroup o.a (k % o.w.count))
          ∧ q.ty = o.m.ty ∧ q.rm = s.mode o.m.rm ∧ q.sat = o.m.sat ∧ q.lfsr = drawn (s.mode o.m.rm) (k * draws) s.lfsr)
      ∧ (∀ r : Reg, t.cur.fullV r = true ↔ s.cur.fullV r = true ∧ ∀ k, k < n → r ≠ inGroup o.d k)
      ∧ t.cur.sr.lfsr = (if s.mode o.m.rm = .sr ∧ o.m.ty ≠ .f32 then (lfsrSteps (n * draws) s.lfsr).setWidth 64 else s.cur.sr.lfsr))
  ∧ (∀ (s : State) (q : SfuReq) (r : List SfuReq), s.sfuQueue s.arg.id = q :: r →
    exec .sfuService s = .next { s with sfu := s.sfu.map (fun x => if x.id = q.id then { x with served := true } else x) })
  ∧ (∀ (s : State) (q : SfuReq), s.sfu.find? (fun x => x.id == s.arg.id && x.served) = some q →
    (∀ u, s.strand? q.sid = some u → (s.job (s.troupe u.troupe).job).stopped = false → (∀ k : Fin 5, (s.troupe u.troupe).alimit[k] = 0) →
      ∃ t : State, ∃ u', exec .sfuResult s = .next t ∧ t.sfu = s.sfu.filter (fun x => x.id ≠ q.id)
        ∧ t.strand? q.sid = some u' ∧ u'.fullV q.reg = true
        ∧ u'.getV q.reg = unlanes (ftyFF q.ty).width ((sfuLanes q).1.map (·.bits))
        ∧ (∀ r, r ≠ q.reg → u'.getV r = u.getV r ∧ u'.fullV r = u.fullV r)
        ∧ u' = { u with v := u'.v, vfull := u'.vfull, wait := u'.wait } ∧ (u.wait ≠ some .empty → u'.wait = u.wait)
        ∧ (∀ x, x ≠ q.sid → t.strand? x = s.strand? x)
        ∧ t.troupes = s.troupes.map (fun x : Troupe => if x.uid = u.troupe then { x with arith := Vector.ofFn (fun k => x.arith[k] +
            BitVec.ofNat 32 ((sfuLanes q).1.countP (fun y => if k = 0 then y.nan else if k = 1 then y.inf else if k = 2 then y.sat else false))) }
            else x)
        ∧ t.mem = s.mem ∧ t.reqs = s.reqs)
    ∧ ((s.strand? q.sid = none ∨ ∃ u, s.strand? q.sid = some u ∧ (s.job (s.troupe u.troupe).job).stopped = true) →
      exec .sfuResult s = .next { s with sfu := s.sfu.filter (fun x => x.id != q.id) }))
  ∧ (∀ (q : SfuReq) (i : Nat), i < 256 / (ftyFF q.ty).width →
    let ff := ftyFF q.ty
    let x := ff.decode (q.input.toNat / 2 ^ (ff.width * i) % 2 ^ ff.width)
    ((sfuLanes q).1[i]?).map (·.bits) = some (ff.finish (ffF32.decode (sfuF32 (sfuFnOf q.fn) (ffF32.encode x))).exact
      (if q.ty = .f32 then .rne else q.rm) q.sat (drawn (if q.ty = .f32 then .rne else q.rm) i q.lfsr) none x.isNan x.isInf).bits)
  ∧ ∀ (f : SfuFn) (b : Nat),
    (ffF32.decode b = .nan → sfuF32 f b = 0x7FC00000)
    ∧ (∀ neg, ffF32.decode b = .inf neg → sfuF32 f b = (match f with
        | .exp2 => if neg then 0 else 0x7F800000
        | .log2 => if neg then 0x7FC00000 else 0x7F800000
        | .rsqrt => if neg then 0x7FC00000 else 0
        | .rcp => if neg then 0x80000000 else 0
        | .sin | .cos => 0x7FC00000
        | .tanh => if neg then 0xBF800000 else 0x3F800000))
    ∧ (∀ neg e, ffF32.decode b = .fin neg 0 e → sfuF32 f b = (match f with
        | .exp2 | .cos => 0x3F800000
        | .log2 => 0xFF800000
        | .rsqrt | .rcp => if neg then 0xFF800000 else 0x7F800000
        | .sin | .tanh => if neg then 0x80000000 else 0))
    ∧ (∀ m e, m ≠ 0 → ffF32.decode b = .fin true m e → f = .log2 ∨ f = .rsqrt → sfuF32 f b = 0x7FC00000)
    ∧ (∀ neg m e, m ≠ 0 → ffF32.decode b = .fin neg m e → (Nat.log2 m : Int) + e < -128 →
        sfuF32 .rcp b = (if neg then 0xFF800000 else 0x7F800000))
    ∧ ∀ neg m e, ffF32.decode b = .fin neg m e → sfuExact f (.fin neg m e) = none →
        let v := sfuNear f neg m e
        let r := ffF32.decode (sfuF32 f b)
        sfuF32 f b = v.round ∨ (v.underflows = false ∧ v.within ffF32 f.ulps r = true ∧ r.isZero = false
          ∧ ∀ ff ∈ [ffF16, ffBf16], ff.holds b = true → v.lane ff .rdn r = true ∧ v.lane ff .rup r = true)

/-- With its registers full, no outstanding acquire holding it back and its pointer passing every check, a scalar load from the own local
memory writes the bytes there, little-endian and extended, into X[d] (an acquire also drops the core's leased copies that no longer show
memory, which is the model's choice, log entry 35) and changes nothing else. From the gallery or the depot, outside a transaction, it sends
one request with its physical address and order, or is answered by a lease, and leaves X[d] empty; from another core's local memory it sends
one and the strand goes no further until the answer; from another package it sends one on its open channel and leaves X[d] empty. No byte of
memory changes. -/
def Obligations.ScalarLoads : Prop :=
  (∀ (m : MEM) (s : State) (i : Instr) (n : Nat) (signed : Bool), (i, n, signed) ∈ scalarLoads m →
    s.readyX m.a → s.readyX m.d → s.mayAccess m.o = true → LoadsX s i (padd (s.x m.a) m.imm) n signed m.d m.o)
  ∧ ∀ (o : AT) (s : State), s.readyX o.a → s.readyX o.b → s.readyX o.d → s.mayAccess o.o = true →
    LoadsX s (.ldx o) (padd (s.x o.a) (s.x o.b * 8)) 8 true o.d o.o

/-- With its registers full, no outstanding acquire holding it back, outside a transaction and its pointer passing
every check, a scalar store to the own local memory writes the low bytes of X[d] there, little-endian, and no other
byte of memory changes. To the gallery or the depot it sends one store request with its order and scope; to another
core's local memory it adds one entry to the posted-store journal under the next sequence number, with the core's slot
of the strand; to another package it enters one command on its open channel, when that accepts it, which takes no
credit. No byte of memory changes then, and nothing else of the strand does. -/
def Obligations.ScalarStores : Prop :=
  (∀ (m : MEM) (s : State) (i : Instr) (n : Nat), (i, n) ∈ scalarStores m →
    s.readyX m.a → s.readyX m.d → s.mayAccess .rlx = true → StoresX s i (padd (s.x m.a) m.imm) n (s.x m.d) m.o m.c)
  ∧ ∀ (o : AT) (s : State), s.readyX o.a → s.readyX o.b → s.readyX o.d → s.mayAccess .rlx = true →
    StoresX s (.stx o) (padd (s.x o.a) (s.x o.b * 8)) 8 (s.x o.d) o.o o.c

/-- With its registers full, no acquire holding it back and every pointer passing its checks, VLD and VLDS from the own
local memory write 32 bytes into each register of the group, VGATH writes the active lanes, VST and VSCAT write each
register or active lane to its address, those of a later one prevailing where they overlap, and no byte outside the
stored ones changes. From and to the gallery or the depot, outside a transaction, they send one request for each
register or active lane, in order, and a load leaves its registers empty. PREF of a readable gallery or depot pointer
outside a transaction sends one prefetch request; of any other pointer, and in a transaction, it does nothing but go
on. -/
def Obligations.VectorMemory : Prop :=
  (∀ (s : State) (i : Instr) (w : Grp) (d : Reg) (p step : Word) (o : Order),
    ((∃ m : MEM, i = .vld m ∧ w = m.w ∧ d = m.d ∧ p = padd (s.x m.a) m.imm ∧ step = 32 ∧ o = m.o ∧ s.readyX m.a)
      ∨ (∃ m : VIdxOp, i = .vlds m ∧ w = m.w ∧ d = m.d ∧ p = s.x m.a ∧ step = s.x m.b ∧ o = m.o ∧ s.readyX m.a ∧ s.readyX m.b)) →
    s.readyV w d → s.mayAccess o = true → ∀ t as,
    passes s 32 true false ((List.range w.count).map (fun k => padd p (BitVec.ofNat 64 k * step))) t as →
    (s.own p → (∀ a ∈ as, s.moving a 32 = false ∧ s.anyPoison a 32 = false) →
      ∃ s' : State, exec i s = .next s' ∧ s'.mem = s.mem ∧ s'.reqs = s.reqs ∧ s'.cur.pc = s.wentOn.cur.pc ∧ s'.cur.x = s.cur.x
        ∧ (∀ (k a : Nat), as[k]? = some a → s'.v (inGroup d k) = BitVec.ofNat 256 (Memory.readN s.mem a 32))
        ∧ ∀ q, q ∉ groupRegs w d → s'.v q = s.v q)
    ∧ (leased p → s.cur.tx.depth = 0 →
      ∃ (s' : State) (l : List Req), exec i s = .next s' ∧ s'.reqs = s.reqs ++ l ∧ l.length = w.count ∧ s'.mem = s.mem ∧ s'.cur.pc = s.wentOn.cur.pc
        ∧ (∀ (k : Nat) (r : Req) (a : Nat), l[k]? = some r → as[k]? = some a → r.kind = .vload (inGroup d k) ∧ r.addr = a ∧ r.sid = s.cur.sid ∧ r.order = o)
        ∧ ∀ q : Reg, s'.cur.fullV q = true ↔ s.cur.fullV q = true ∧ q ∉ groupRegs w d))
  ∧ (∀ (s : State) (m : MEM), s.readyX m.a → s.readyV m.w m.d → s.mayAccess .rlx = true → s.cur.tx.depth = 0 → ∀ t as,
    passes s 32 false true ((List.range m.w.count).map (fun k => padd (padd (s.x m.a) m.imm) (BitVec.ofNat 64 k * 32))) t as →
    (s.own (padd (s.x m.a) m.imm) → (∀ a ∈ as, s.moving a 32 = false ∧ s.watchers a 32 = []) → s.mayRelease m.o m.c = true → Safe s →
      ∃ s' : State, exec (.vst m) s = .next s' ∧ s'.cur = s.wentOn.cur ∧ s'.reqs = s.reqs
        ∧ (∀ b, (∀ a ∈ as, b < a ∨ a + 32 ≤ b) → s'.byte b = s.byte b)
        ∧ ∀ (k a : Nat), as[k]? = some a → (∀ (j a' : Nat), as[j]? = some a' → k < j → a + 32 ≤ a' ∨ a' + 32 ≤ a) →
          Memory.readN s'.mem a 32 = (s.v (inGroup m.d k)).toNat)
    ∧ (leased (padd (s.x m.a) m.imm) →
      ∃ (s' : State) (l : List Req), exec (.vst m) s = .next s' ∧ s'.reqs = s.reqs ++ l ∧ l.length = m.w.count ∧ s'.mem = s.mem ∧ s'.cur = s.wentOn.cur
        ∧ ∀ (k : Nat) (r : Req) (a : Nat), l[k]? = some r → as[k]? = some a →
          r.kind = .store 32 (s.v (inGroup m.d k)) ∧ r.addr = a ∧ r.sid = s.cur.sid ∧ r.order = m.o ∧ r.scope = m.c))
  ∧ (∀ (s : State) (o : VIdxOp), s.readyX o.a → s.readyV .g1 o.b → s.readyV .g1 o.d → s.cur.tx.depth = 0 → ∀ t as,
    let w := laneBits o.lw
    let act := (List.range (256 / w)).filter (s.active o.pred w 0)
    let ptrs := act.map (fun l => padd (s.x o.a) ((BitVec.ofNat w (s.laneOf o.b w 0 l)).signExtend 64 * BitVec.ofNat 64 (w / 8)))
    act ≠ [] →
    (s.mayAccess o.o = true → passes s (w / 8) true false ptrs t as → (∀ p ∈ ptrs, s.own p) →
      (∀ a ∈ as, s.moving a (w / 8) = false ∧ s.anyPoison a (w / 8) = false) →
      ∃ s' : State, exec (.vgath o) s = .next s' ∧ s'.mem = s.mem ∧ s'.reqs = s.reqs ∧ s'.cur.x = s.cur.x ∧ s'.cur.pc = s.wentOn.cur.pc
        ∧ (∀ q, q ≠ o.d → s'.v q = s.v q)
        ∧ (∀ l, l < 256 / w → l ∉ act → s'.laneOf o.d w 0 l = s.laneOf o.d w 0 l)
        ∧ ∀ (k l a : Nat), act[k]? = some l → as[k]? = some a → s'.laneOf o.d w 0 l = Memory.readN s.mem a (w / 8))
    ∧ (s.mayAccess o.o = true → passes s (w / 8) true false ptrs t as → (∀ p ∈ ptrs, leased p) →
      ∃ (s' : State) (l : List Req), exec (.vgath o) s = .next s' ∧ s'.reqs = s.reqs ++ l ∧ l.length = act.length ∧ s'.mem = s.mem
        ∧ s'.cur.pc = s.wentOn.cur.pc ∧ s'.cur.fullV o.d = false
        ∧ ∀ (k : Nat) (r : Req) (j a : Nat), l[k]? = some r → act[k]? = some j → as[k]? = some a → r.kind = .vlane o.d j (w / 8) ∧ r.addr = a)
    ∧ (s.mayAccess .rlx = true → passes s (w / 8) false true ptrs t as → (∀ p ∈ ptrs, leased p) →
      ∃ (s' : State) (l : List Req), exec (.vscat o) s = .next s' ∧ s'.reqs = s.reqs ++ l ∧ l.length = act.length ∧ s'.mem = s.mem ∧ s'.cur = s.wentOn.cur
        ∧ ∀ (k : Nat) (r : Req) (j a : Nat), l[k]? = some r → act[k]? = some j → as[k]? = some a →
          r.kind = .store (w / 8) (BitVec.ofNat 256 (s.laneOf o.d w 0 j)) ∧ r.addr = a)
    ∧ (s.mayAccess .rlx = true → passes s (w / 8) false true ptrs t as → (∀ p ∈ ptrs, s.own p) → s.mayRelease o.o o.c = true → Safe s →
      (∀ a ∈ as, s.moving a (w / 8) = false ∧ s.refusesWrite a (w / 8) = false ∧ s.watchers a (w / 8) = []) →
      ∃ s' : State, exec (.vscat o) s = .next s' ∧ s'.cur = s.wentOn.cur ∧ s'.reqs = s.reqs
        ∧ (∀ b, (∀ a ∈ as, b < a ∨ a + w / 8 ≤ b) → s'.byte b = s.byte b)
        ∧ ∀ (k l a : Nat), act[k]? = some l → as[k]? = some a → (∀ (j a' : Nat), as[j]? = some a' → k < j → a' ≠ a) →
          Memory.readN s'.mem a (w / 8) = s.laneOf o.d w 0 l))
  ∧ ∀ (s : State) (m : MEM), s.readyX m.a → s.mayAccess .rlx = true →
    (∀ a e, leased (padd (s.x m.a) m.imm) → s.cur.tx.depth = 0 →
      lookup s s.myBay s.myTroupe.job (padd (s.x m.a) m.imm) 1 true false false = .good a e →
      ∃ s' : State, ∃ r, exec (.pref m) s = .next s' ∧ s'.reqs = s.reqs ++ [r] ∧ r.kind = .pref ∧ r.addr = a ∧ s'.cur = s.wentOn.cur ∧ s'.mem = s.mem)
    ∧ (¬leased (padd (s.x m.a) m.imm) ∨ s.cur.tx.depth ≠ 0 → exec (.pref m) s = .next s.wentOn)
    ∧ (∀ c r l, lookup s s.myBay s.myTroupe.job (padd (s.x m.a) m.imm) 1 true false false = .bad c r l →
      exec (.pref m) s = .next s.wentOn)

/-- In a strand that can take a trap, a scalar load or store with full registers and nothing outstanding that holds it
back takes MISALIGN when its pointer is not aligned to its size; else SPACE when its space is not one of LCL, GAL, DEP
and REM; else TRANSLATE, PROTECT or POISON as the first failing check of R374 gives. The trap carries the pointer, the
kind of access, its size, page and opcode, and, for the last three, reason and level; no register, no byte of memory
and nothing else of the strand changes. A depot access that had to walk the page table has acquired first. -/
def Obligations.MemoryTraps : Prop :=
  ∀ (m : MEM) (s : State) (i : Instr) (n acc : Nat), s.readyX m.a → s.readyX m.d → s.canTrap → s.mayAccess m.o = true →
    s.mayAccess .rlx = true →
    ((∃ signed, (i, n, signed) ∈ scalarLoads m ∧ acc = 0) ∨ ((i, n) ∈ scalarStores m ∧ acc = 1)) →
    let p := padd (s.x m.a) m.imm
    (ptrOff p % n ≠ 0 → exec i s = .next (s.misplaced 4 p acc n))
    ∧ (ptrOff p % n = 0 → ptrSpace p ∉ [1, 2, 3, 4] → exec i s = .next (s.misplaced 5 p acc n))
    ∧ (∀ c reason level, ptrOff p % n = 0 → ptrSpace p ∈ [1, 2, 3] → c ≠ .space →
      lookup s s.myBay s.myTroupe.job p n (acc = 0) (acc = 1) false = .bad c reason level → ¬conservators c → c ≠ .cancel →
      exec i s = .next ((if ptrSpace p = 3 ∧ ptrOwner p = 0 ∧ cachedEntry s s.myBay s.myTroupe.job p = none then s.acquire s.cur.core
        else s).delivered false c.code p (BitVec.ofNat 64 (acc + n * 2 ^ 16)) (opOf s.ir)
        (BitVec.ofNat 64 (reason + level * 4096)) s.cur.pc))

/-- LEASE_RENEWAL and FRESH_READ of a load whose home is on its die, when the line is readable and free, answer it with
the bytes there and the line's wts, the lease now reaching at least 256 beyond its lt (of a line that the slice does not hold, as a gated
slice holds none, both stamps are the slice's floor). LOAD_RETURN takes an answered request away, raises the core's lt to its wts and fills
what was asked for: one x register for a scalar load, an atomic, TOPK, a tagged load or a call of the conservator, extended as that
instruction says; one v register for a register of a vector load; one lane for a lane of VGATH, the register being full with the last
of them; eight x registers for RECV. No other register changes. A poisoned word fills with 0 and makes POISON pending. STORE_APPLY at
a writable and free home line performs the store: exactly its bytes change, and the line is stamped above every lease; STORE_ACK
raises the core's lt, the L1's copy of the line takes the data and the stamp that it brings unless it is younger, and the request is
gone. COHERENCE_RETRY sends a refused request again once its time has come. -/
def Obligations.AccessesServed : Prop :=
  (∀ (s : State) (i : Instr) (r : Req), (i = .leaseRenewal ∧ s.arg.id = r.id)
      ∨ (i = .freshRead ∧ s.reqs.find? (fun q => q.isLeased && q.state = .sent && lineOf q.addr == s.arg.id
          && homeDie q.addr == dieOfCore q.core) = some r) →
    s.req? r.id = some r → r.isLeased = true → r.kind ≠ .pref → homeDie r.addr = dieOfCore r.core → s.mayServe r = true →
    s.coh.rebasing = false → linesOf r.addr (max r.kind.span 1) = [lineOf r.addr] → s.lineFree r (lineOf r.addr) = true →
    s.homeReadable (lineOf r.addr) = true →
    ∃ t : State, ∃ r', exec i s = .next t ∧ t.req? r.id = some r' ∧ r'.kind = r.kind ∧ r'.wts = (s.line (lineOf r.addr)).wts
      ∧ r'.state = .answered (BitVec.ofNat 256 (Memory.readN s.mem r.addr r.kind.span)) (!s.anyPoison r.addr r.kind.span)
      ∧ max (s.line (lineOf r.addr)).rts (r.lt + 256) ≤ (t.line (lineOf r.addr)).rts
      ∧ (let held := s.homeGated (lineOf r.addr) = false
            ∧ ((s.line (lineOf r.addr)).cached = true ∨ (s.line (lineOf r.addr)).rts < r.lt + 256)
        (held → (t.line (lineOf r.addr)).wts = (s.line (lineOf r.addr)).wts
            ∧ (t.line (lineOf r.addr)).rts = max (s.line (lineOf r.addr)).rts (r.lt + 256))
        ∧ (¬held → t.StampsAtFloor (lineOf r.addr)))
      ∧ t.mem = s.mem ∧ t.cur = s.cur ∧ t.rest = s.rest)
  ∧ (∀ (s : State) (r : Req) (v : VReg) (ok : Bool) (u : Strand), s.req? s.arg.id = some r → r.state = .answered v ok →
      s.strand? r.sid = some u →
    (∀ d y, answerX r.kind (if ok then v.toNat else 0) = some (d, y) →
      ∃ t : State, ∃ u', exec .loadReturn s = .next t ∧ ReturnedTo s t r ok u u' ∧ u'.v = u.v ∧ u'.vfull = u.vfull
        ∧ u'.getX d = (if d = 0 then 0 else y) ∧ u'.fullX d = true
        ∧ ∀ q, q ≠ d → u'.getX q = u.getX q ∧ u'.fullX q = u.fullX q)
    ∧ (∀ d, r.kind = .vload d →
      ∃ t : State, ∃ u', exec .loadReturn s = .next t ∧ ReturnedTo s t r ok u u' ∧ u'.x = u.x ∧ u'.xfull = u.xfull
        ∧ u'.getV d = (if ok then v else 0) ∧ u'.fullV d = true
        ∧ ∀ q, q ≠ d → u'.getV q = u.getV q ∧ u'.fullV q = u.fullV q)
    ∧ (∀ d l n, r.kind = .vlane d l n → n ∈ [1, 2, 4, 8] →
      ∃ t : State, ∃ u', exec .loadReturn s = .next t ∧ ReturnedTo s t r ok u u' ∧ u'.x = u.x ∧ u'.xfull = u.xfull
        ∧ (ok = false → u'.getV d = 0)
        ∧ (ok = true → ∀ j, j < 256 / (8 * n) → (u'.getV d).toNat / 2 ^ (8 * n * j) % 2 ^ (8 * n) =
            (if j = l then v.toNat % 2 ^ (8 * n) else (u.getV d).toNat / 2 ^ (8 * n * j) % 2 ^ (8 * n)))
        ∧ (u'.fullV d = true ↔ u.fullV d = true ∨ ∀ q ∈ s.reqs, q.id ≠ r.id → q.sid = r.sid → q.group = r.group →
            ∀ d' l' n', q.kind ≠ .vlane d' l' n')
        ∧ ∀ q, q ≠ d → u'.getV q = u.getV q ∧ u'.fullV q = u.fullV q)
    ∧ ∀ ws d, r.kind = .recv ws d → ok = true →
      ∃ t : State, ∃ u', exec .loadReturn s = .next t ∧ ReturnedTo s t r ok u u' ∧ u'.v = u.v ∧ u'.vfull = u.vfull
        ∧ (∀ k, k < 8 → u'.fullX (inGroup d k) = true
            ∧ u'.getX (inGroup d k) = (if inGroup d k = 0 then 0 else ws.getD k 0))
        ∧ ∀ q, (∀ k, k < 8 → q ≠ inGroup d k) → u'.getX q = u.getX q ∧ u'.fullX q = u.fullX q)
  ∧ (∀ (s : State) (r : Req) (n : Nat) (d : VReg), s.req? s.arg.id = some r → r.kind = .store n d → 0 < n → r.tx = false →
    homeDie r.addr = dieOfCore r.core → s.mayServe r = true → s.coh.rebasing = false →
    linesOf r.addr (max n 1) = [lineOf r.addr] → s.lineFree r (lineOf r.addr) = true → s.homeWritable (lineOf r.addr) = true →
    s.conflicts (tileOf r.addr) true = [] → s.refusesWrite r.addr n = false → Safe s →
    let w := max r.lt ((s.line (lineOf r.addr)).rts + 1)
    ∃ t : State, ∃ r', exec .storeApply s = .next t ∧ SameBytesBut s t r.addr n ∧ Memory.readN t.mem r.addr n = d.toNat % 2 ^ (8 * n)
      ∧ t.req? r.id = some r' ∧ r'.state = .performed ∧ r'.wts = w
      ∧ w ≤ (t.line (lineOf r.addr)).wts ∧ w ≤ (t.line (lineOf r.addr)).rts
      ∧ (s.homeGated (lineOf r.addr) = false → (t.line (lineOf r.addr)).wts = w ∧ (t.line (lineOf r.addr)).rts = w))
  ∧ (∀ (s : State) (r : Req), s.req? s.arg.id = some r → r.state = .performed →
    ∃ t : State, exec .storeAck s = .next t ∧ t.req? r.id = none ∧ (t.core r.core).lt = max (s.core r.core).lt r.wts ∧ t.mem = s.mem
      ∧ t.cur = s.cur ∧ t.rest = s.rest
      ∧ (∀ a, (s.core r.core).acks.find? (fun a => a.1 == r.id) = some a →
          (t.core r.core).l1 = (s.core r.core).l1.map (fun l => if l.line = a.2.line ∧ l.wts < a.2.wts then a.2 else l))
      ∧ ((s.core r.core).acks.find? (fun a => a.1 == r.id) = none → (t.core r.core).l1 = (s.core r.core).l1))
  ∧ ∀ (s : State) (r : Req), s.req? s.arg.id = some r → r.state = .refused → r.retryAt ≤ s.now →
    ∃ t : State, ∃ r', exec .coherenceRetry s = .next t ∧ t.req? r.id = some r' ∧ r' = { r with state := .sent } ∧ t.mem = s.mem

/-- PROXY_READ_MISS of an idle line gives the die an exclusive copy with the home's stamps; PROXY_WRITE of a line no other die holds gives
the die the line modified; a line that its home slice does not hold has the floor for stamps, and what the slice is told of it goes on to
the floor (the model's choice, log entry 77); a gated slice gives the copy up as soon as the request that wanted it is served. STORE_APPLY
at a die that owns the line performs the store there: exactly its bytes change, copy and line are stamped above every lease, and the home
copy stays behind. PROXY_EVICTION of its modified or owned line writes it back and reports its stamps, of a clean copy drops it and tells
the home its lease (the model's choice, log entry 44), of the home's own line drops its stamps, and raises its slice's floor; RECALL makes
an asked die answer with its stamps, or a core whose merges are done, and TRANSITION_ANSWER brings a die's answer home. DEPOSIT_REGISTRATION
registers the unit at the home of each of its lines; DEPOSIT_MERGE applies each accumulator to its element and changes no other byte, and
the unit is gone; RESERVATION_PASS gives a line reserved too long to the next starving requester (which of two of one age is the model's
choice, log entry 62); REBASE sets every stamp, lt and floor to 0 and drops every lease, and REBASE_END ends it. None of the others changes
a byte of memory. -/
def Obligations.DirectorySteps : Prop :=
  (∀ (s : State) (r : Req) (p : Proxy),
    let ln := s.arg.id
    let die := s.arg.sel
    let l := s.line ln
    s.coh.rebasing = false → s.lineFree r ln = true → s.depositCores ln = [] →
    (s.proxyWaiter ln die false = some r → s.proxy ln die = none → l.awaiting = [] → l.share = .i →
      ∃ t : State, exec .proxyReadMiss s = .next t ∧ t.mem = s.mem
        ∧ (s.proxyGated ln die = false → t.proxy ln die = some ⟨ln, die, l.wts, l.rts⟩
            ∧ t.line ln = { l with share := .e, owner := die, proxies := l.proxies ||| (1 <<< die : BitVec 4),
                                   wts := (t.line ln).wts, rts := (t.line ln).rts }
            ∧ t.StampsFrom l)
        ∧ (s.proxyGated ln die = true → t.proxy ln die = none
            ∧ (r.kind ≠ .pref → ∃ r', t.req? r.id = some r'
                ∧ r'.state = .answered (BitVec.ofNat 256 (Memory.readN s.mem r.addr r.kind.span)) (!s.anyPoison r.addr r.kind.span))))
    ∧ (s.proxyWaiter ln die true = some r → s.proxyOwns ln die = false → l.awaiting = [] → (∀ d ∈ l.dies, d = die) →
      s.conflicts (ln / 16) true = [] → s.proxy ln die = some p →
      ∃ t : State, exec .proxyWrite s = .next t
        ∧ (s.proxyGated ln die = false → t.proxy ln die = some { p with rts := max p.rts l.rts } ∧ t.mem = s.mem
            ∧ (t.line ln).share = .m ∧ (t.line ln).owner = die ∧ (t.line ln).proxies = (1 <<< die : BitVec 4) ∧ t.StampsFrom l)
        ∧ (s.proxyGated ln die = true → t.proxy ln die = none)))
  ∧ (∀ (s : State) (r : Req) (p : Proxy) (n : Nat) (d : VReg), s.req? s.arg.id = some r → r.kind = .store n d → 0 < n → r.tx = false →
    let ln := lineOf r.addr
    let die := dieOfCore r.core
    let w := max r.lt (p.rts + 1)
    homeDie r.addr ≠ die → s.mayServe r = true → s.coh.rebasing = false → s.lineFree r ln = true → s.proxyOwns ln die = true →
    s.proxy ln die = some p → s.conflicts (tileOf r.addr) true = [] → s.depositCores ln = [] → s.refusesWrite r.addr n = false → Safe s →
    ∃ t : State, ∃ r', exec .storeApply s = .next t ∧ SameBytesBut s t r.addr n ∧ Memory.readN t.mem r.addr n = d.toNat % 2 ^ (8 * n)
      ∧ t.req? r.id = some r' ∧ r'.state = .performed ∧ r'.wts = w ∧ t.proxy ln die = some { p with wts := w, rts := w }
      ∧ (t.line ln).share = .m ∧ (t.line ln).owner = die
      ∧ (t.line ln).stale = some (((s.line ln).stale).getD (s.lineData ln)))
  ∧ (∀ (s : State) (p : Proxy),
    let ln := s.arg.id
    let die := s.arg.sel
    let l := s.line ln
    s.proxy ln die = some p → l.share = .m ∨ l.share = .o → l.owner = die → l.awaiting = [] →
    ∃ t : State, exec .proxyEviction s = .next t ∧ t.proxy ln die = none ∧ (t.line ln).stale = none
      ∧ (t.line ln).wts = (if l.cached then max l.wts p.wts else max l.rts p.rts) ∧ (t.line ln).rts = max l.rts p.rts
      ∧ (t.line ln).proxies = l.proxies &&& ~~~(1 <<< die : BitVec 4)
      ∧ (t.line ln).share = (if l.proxies &&& ~~~(1 <<< die : BitVec 4) = 0 then .i else .s)
      ∧ t.floorOf (sliceOn s ln die) = max (s.floorOf (sliceOn s ln die)) p.rts ∧ t.mem = s.mem)
  ∧ (∀ s : State,
    let ln := s.arg.id
    let die := s.arg.sel
    let l := s.line ln
    l.awaiting = [] →
    (∀ p, s.proxy ln die = some p → ¬((l.share = .m ∨ l.share = .o) ∧ l.owner = die) →
      ∃ t : State, exec .proxyEviction s = .next t ∧ t.proxy ln die = none ∧ (t.line ln).rts = max l.rts p.rts
        ∧ (t.line ln).proxies = l.proxies &&& ~~~(1 <<< die : BitVec 4)
        ∧ t.floorOf (sliceOn s ln die) = max (s.floorOf (sliceOn s ln die)) p.rts ∧ t.mem = s.mem)
    ∧ (s.proxy ln die = none → die = homeDie (ln * 128) → (∃ x ∈ s.coh.lines, x.line = ln) →
      ∃ t : State, exec .proxyEviction s = .next t ∧ t.floorOf (sliceOf s ln) = max (s.floorOf (sliceOf s ln)) l.rts
        ∧ t.StampsAtFloor ln ∧ (t.line ln).share = l.share
        ∧ t.coh.proxies = s.coh.proxies ∧ t.mem = s.mem))
  ∧ (∀ s : State,
    let ln := s.arg.id
    let g := s.arg.sel
    let l := s.line ln
    g ∈ l.awaiting →
    (g < 4 → ∀ p, s.proxy ln g = some p →
      ∃ t : State, exec .recall s = .next t ∧ max l.rts p.rts ≤ (t.line ln).rts
        ∧ (let held := s.homeGated ln = false ∧ (l.cached = true ∨ l.wts < p.wts ∨ l.rts < p.rts)
          (held → (t.line ln).wts = max l.wts p.wts ∧ (t.line ln).rts = max l.rts p.rts) ∧ (¬held → t.StampsAtFloor ln))
        ∧ (t.line ln).awaiting = l.awaiting.map (fun a => if a = g then g + 4 else a)
        ∧ t.proxy ln g = (if l.proxies.getLsbD g then some p else none) ∧ t.mem = s.mem)
    ∧ (8 ≤ g → (∀ u ∈ (s.core (g - 8)).upd, u.registered = false) →
      ∃ t : State, exec .recall s = .next t ∧ (t.line ln).awaiting = l.awaiting.filter (fun a => a ≠ g) ∧ t.mem = s.mem))
  ∧ (∀ s : State, s.arg.sel < 4 → s.arg.sel + 4 ∈ (s.line s.arg.id).awaiting →
    ∃ t : State, exec .transitionAnswer s = .next t
      ∧ (t.line s.arg.id).awaiting = (s.line s.arg.id).awaiting.filter (fun a => a ≠ s.arg.sel + 4) ∧ t.mem = s.mem)
  ∧ (∀ (s : State) (u : UpdUnit), (s.core s.arg.id).upd[s.arg.sel]? = some u →
    (∃ t : State, exec .depositRegistration s = .next t ∧ (∃ u', (t.core s.arg.id).upd[s.arg.sel]? = some u' ∧ u' = { u with registered := true })
      ∧ (∀ ln ∈ linesOf u.dep.unit u.dep.bytes, s.arg.id ∈ (t.line ln).cores) ∧ t.mem = s.mem)
    ∧ (Safe s → u.registered = true → s.coh.rebasing = false → s.committingOn (tileOf u.dep.unit) = false →
        s.conflicts (tileOf u.dep.unit) true = [] →
        (∀ ln ∈ linesOf u.dep.unit u.dep.bytes, (s.line ln).share = .i ∧ ∀ a ∈ (s.line ln).awaiting, 8 ≤ a) →
        u.dep.deltas.Pairwise (fun x y => x.1 + elemBytes u.dep.elem ≤ y.1 ∨ y.1 + elemBytes u.dep.elem ≤ x.1) →
      ∃ t : State, exec .depositMerge s = .next t
        ∧ (∀ v ∈ (t.core s.arg.id).upd, v.dep.sameUnit u.dep = false)
        ∧ (∀ e ∈ u.dep.deltas, s.isPoison e.1 = false →
          Memory.readN t.mem e.1 (elemBytes u.dep.elem) =
            accMerge u.dep.op u.dep.elem (Memory.readN s.mem e.1 (elemBytes u.dep.elem)) e.2.toNat % 2 ^ (8 * elemBytes u.dep.elem))
        ∧ ∀ b, (∀ e ∈ u.dep.deltas, b < e.1 ∨ e.1 + elemBytes u.dep.elem ≤ b) → t.byte b = s.byte b))
  ∧ (∀ (s : State) (x : Nat),
    let l := s.line s.arg.id
    l.reserved = some x → l.reservedAt + 10240 ≤ s.now →
    ∃ t : State, ∃ wts rts, exec .reservationPass s = .next t
      ∧ t.line s.arg.id = { l with
          starving := l.starving.filter (fun e => e.2 ≠ x), reserved := oldestStarving (l.starving.filter (fun e => e.2 ≠ x)),
          reservedAt := s.now, wts := wts, rts := rts }
      ∧ t.StampsFrom l ∧ t.mem = s.mem)
  ∧ ∀ s : State,
    (s.coh.rebasing = false → rebaseDue s = true → (∀ l ∈ s.coh.lines, l.awaiting = []) →
      ∃ t : State, exec .rebase s = .next t ∧ t.coh.rebasing = true ∧ (∀ c ∈ t.cores, c.lt = 0 ∧ c.l1 = []) ∧ (∀ l ∈ t.coh.lines, l.wts = 0 ∧ l.rts = 0)
        ∧ (∀ p ∈ t.coh.proxies, p.wts = 0 ∧ p.rts = 0) ∧ t.coh.mts = [] ∧ t.mem = s.mem ∧ t.cur = s.cur ∧ t.rest = s.rest)
    ∧ exec .rebaseEnd s = .next { s with coh := { s.coh with rebasing := false } }

/-- With full registers, nothing that holds it back, outside a transaction, on an aligned unpoisoned word of the own
local memory at which nobody waits: LDFE of a full word reads it and leaves it empty, LDFF reads it, STFE of an empty
word and STFF write it and leave it full, FEPOLL reads the tag, FECLR leaves it empty; no other byte and no other tag
changes. LDFE of an empty word and STFE of a full one wait in the word's queue. On another word of local memory or of
the gallery each sends one request: LDFE and STFE wait for it, the others go on (on another core's local memory held
until the answer). TAGGED_WORD_REQUEST of such a waiting LDFE or STFE, at its bank or at a home that can serve it,
acts when the tag allows it, and the strand goes on after its instruction, else it queues. FE_TIMEOUT of a wait that
has reached its limit withdraws it and takes FE_TIMEOUT, with the time at which the limit ran out; a pending trap that can be delivered
and a CANCEL that is due come first. -/
def Obligations.TaggedWords : Prop :=
  (∀ (m : MEM) (s : State),
    let p := padd (s.x m.a) m.imm
    let a := lmAddr (ptrOwner p) (ptrOff p)
    s.readyX m.a → s.readyX m.d → s.cur.tx.depth = 0 →
    (∀ t as, s.own p → passes s 8 true true [p] t as → s.moving a 8 = false → s.isPoison a = false → s.noWaiters a →
        s.watchers a 8 = [] → Safe s →
      (s.mayAccess (tagOrder 0 m.o) = true → s.mayRelease (tagOrder 0 m.o) .pkg = true → s.tagFull a = true →
        ∃ t : State, exec (.ldfe m) s = .next t ∧ t.cur = (s.wrote m.d (s.word a)).cur ∧ t.tagFull a = false ∧ SameTagsBut s t a ∧ t.mem = s.mem)
      ∧ (s.mayAccess (tagOrder 0 m.o) = true → s.mayRelease (tagOrder 0 m.o) .pkg = true → s.tagFull a = false →
        ∃ t : State, ∃ r, exec (.ldfe m) s = .next t ∧ t.cur.wait = some (.tagged s.nextId) ∧ t.cur.pc = s.cur.pc ∧ t.reqs = s.reqs ++ [r]
          ∧ r.state = .queued ∧ s.sends r (.tagged 0 (s.x m.d) m.d) p a ∧ t.mem = s.mem ∧ t.empties = s.empties)
      ∧ (s.mayAccess (tagOrder 1 m.o) = true → s.mayRelease (tagOrder 1 m.o) .pkg = true →
        ∃ t : State, exec (.ldff m) s = .next t ∧ t.cur = (s.wrote m.d (s.word a)).cur ∧ t.empties = s.empties ∧ t.mem = s.mem)
      ∧ (s.mayAccess (tagOrder 2 m.o) = true → s.mayRelease (tagOrder 2 m.o) .pkg = true → s.tagFull a = false →
        ∃ t : State, exec (.stfe m) s = .next t ∧ t.cur = s.wentOn.cur ∧ t.tagFull a = true ∧ SameTagsBut s t a ∧ t.word a = s.x m.d
          ∧ SameBytesBut s t a 8)
      ∧ (s.mayAccess (tagOrder 2 m.o) = true → s.mayRelease (tagOrder 2 m.o) .pkg = true → s.tagFull a = true →
        ∃ t : State, ∃ r, exec (.stfe m) s = .next t ∧ t.cur.wait = some (.tagged s.nextId) ∧ t.cur.pc = s.cur.pc ∧ t.reqs = s.reqs ++ [r]
          ∧ r.state = .queued ∧ s.sends r (.tagged 2 (s.x m.d) m.d) p a ∧ t.mem = s.mem ∧ t.empties = s.empties)
      ∧ (s.mayAccess (tagOrder 3 m.o) = true → s.mayRelease (tagOrder 3 m.o) .pkg = true →
        ∃ t : State, exec (.stff m) s = .next t ∧ t.cur = s.wentOn.cur ∧ t.tagFull a = true ∧ SameTagsBut s t a ∧ t.word a = s.x m.d
          ∧ SameBytesBut s t a 8)
      ∧ (s.mayAccess m.o = true → s.mayRelease m.o .pkg = true →
        (∃ t : State, exec (.fepoll m) s = .next t ∧ t.cur = (s.wrote m.d (if s.tagFull a then 1 else 0)).cur ∧ t.empties = s.empties
          ∧ t.mem = s.mem)
        ∧ ∃ t : State, exec (.feclr m) s = .next t ∧ t.cur = s.wentOn.cur ∧ t.tagFull a = false ∧ SameTagsBut s t a ∧ t.mem = s.mem))
    ∧ ∀ (i : Instr) (op : Nat) (t : State) (b : Nat), ¬s.own p → ptrSpace p = 1 ∨ ptrSpace p = 2 →
      passes s 8 (tagReads op) (tagWrites op) [p] t [b] → s.mayAccess (tagOrder op m.o) = true → s.mayRelease (tagOrder op m.o) .pkg = true →
      (i, op) ∈ [(Instr.ldfe m, 0), (.ldff m, 1), (.stfe m, 2), (.stff m, 3), (.fepoll m, 4), (.feclr m, 5)] →
      ∃ t : State, ∃ r, exec i s = .next t ∧ t.reqs = s.reqs ++ [r] ∧ s.sends r (.tagged op (s.x m.d) m.d) p b ∧ r.state = .sent ∧ t.mem = s.mem
        ∧ t.empties = s.empties
        ∧ (op = 0 ∨ op = 2 → t.cur = (s.waitsFor (.tagged s.nextId)).cur)
        ∧ (op ≠ 0 → op ≠ 2 → t.cur.pc = s.wentOn.cur.pc ∧ t.cur.x = s.cur.x
            ∧ t.cur.blocked = (if ptrSpace p = 1 then some s.nextId else none)))
  ∧ (∀ (s : State) (r : Req) (op : Nat) (d : Word) (reg : Reg) (u : Strand),
    s.req? s.arg.id = some r → r.kind = .tagged op d reg → r.state = .sent →
    (addrSpace r.addr = 1 ∧ s.postedBefore r (addrUnit r.addr) = true) ∨ (addrSpace r.addr = 2 ∧ s.homeServes r true) →
    s.isPoison r.addr = false → s.noWaiters r.addr →
    s.strand? r.sid = some u → u.wait = some (.tagged r.id) →
    (op = 0 → s.tagFull r.addr = true →
      ∃ t : State, ∃ u', exec .taggedWordRequest s = .next t ∧ t.req? r.id = none ∧ t.tagFull r.addr = false ∧ t.mem = s.mem
        ∧ t.strand? r.sid = some u' ∧ u'.getX reg = (if reg = 0 then 0 else s.word r.addr) ∧ u'.wait = none ∧ u'.pc = u.skip)
    ∧ (op = 2 → s.tagFull r.addr = false → s.watchers r.addr 8 = [] → Safe s →
      ∃ t : State, ∃ u', exec .taggedWordRequest s = .next t ∧ t.req? r.id = none ∧ t.tagFull r.addr = true ∧ t.word r.addr = d
        ∧ SameBytesBut s t r.addr 8 ∧ t.strand? r.sid = some u' ∧ u'.x = u.x ∧ u'.wait = none ∧ u'.pc = u.skip)
    ∧ (op = 0 ∧ s.tagFull r.addr = false ∨ op = 2 ∧ s.tagFull r.addr = true →
      ∃ t : State, ∃ r', exec .taggedWordRequest s = .next t ∧ t.req? r.id = some r' ∧ r' = { r with state := .queued, retryAt := s.now, turn := s.ticks }
        ∧ t.mem = s.mem ∧ t.empties = s.empties))
  ∧ ∀ (s : State) (r : Req) (op : Nat) (d : Word) (reg : Reg), s.req? s.arg.id = some r → r.kind = .tagged op d reg → r.state = .queued →
    r.limit ≠ 0 → r.retryAt + r.limit ≤ s.now → s.cur.sid = r.sid → s.cur.exists? = true → s.canTrap →
    let first := s.cur.pend ≠ [] ∨ (s.cur.cancelDue = true ∧ s.cur.cancelTaken = false)
    (first → exec .feTimeout s = .next s)
    ∧ (¬first → ∃ t : State, exec .feTimeout s = .next t ∧ t.req? r.id = none ∧ t.mem = s.mem ∧ t.cur.x = s.cur.x ∧ t.cur.wait = none
      ∧ t.cur.pc = padd s.myJob.codeBase s.myJob.tvec ∧ t.cur.sr.cause = 0x8009 ∧ t.cur.sr.epc = s.cur.pc ∧ t.cur.sr.c0 = r.ptr
      ∧ t.cur.sr.c1 = (if op = 0 then 0 else 1) ∧ t.cur.sr.c2 = BitVec.ofNat 64 r.limit ∧ t.cur.sr.c3 = BitVec.ofNat 64 (r.retryAt + r.limit))

/-- POSTED_STORE_APPLY of a ready journal entry whose target takes it writes exactly its bytes into the target's local
memory and marks it applied; one whose target's bay is fenced, is no longer of the job or shows a lasting error it
marks refused, with reason 1, 3 or 2, and writes nothing. POSTED_STORE_ACK of an applied entry removes it; of a
refused one it also sets bit 2 of the FENCE status and makes POSTED_REFUSED pending at the strand that issued it.
REMOTE_READ of a strand's last remote request fills its register with the bytes, extended, and lets the strand go on;
no byte of memory changes. -/
def Obligations.PostedStoresAndRemoteReads : Prop :=
  (∀ (s : State) (e : JEntry), s.entry? s.arg.id s.arg.sel = some e → e.applied = false → s.entryReady s.arg.id e = true →
    (s.bay (ptrOwner e.dest / 8)).fenced = false → (s.job (s.jobOf e.sid)).hasCore (ptrOwner e.dest) = true →
    s.arg.yes = false → s.refusesWrite (lmAddr (ptrOwner e.dest) (ptrOff e.dest)) e.size = false → Safe s →
    ∃ t : State, ∃ e', exec .postedStoreApply s = .next t ∧ SameBytesBut s t (lmAddr (ptrOwner e.dest) (ptrOff e.dest)) e.size
      ∧ Memory.readN t.mem (lmAddr (ptrOwner e.dest) (ptrOff e.dest)) e.size = e.data.toNat % 2 ^ (8 * e.size)
      ∧ t.entry? s.arg.id s.arg.sel = some e' ∧ e'.applied = true ∧ e'.refused = 0)
  ∧ (∀ (s : State) (e : JEntry) (why : Nat), s.entry? s.arg.id s.arg.sel = some e → e.applied = false → s.entryReady s.arg.id e = true →
    (let fenced := (s.bay (ptrOwner e.dest / 8)).fenced
     let mine := (s.job (s.jobOf e.sid)).hasCore (ptrOwner e.dest)
     (fenced = true ∧ why = 1) ∨ (fenced = false ∧ mine = false ∧ why = 3) ∨ (fenced = false ∧ mine = true ∧ s.arg.yes = true ∧ why = 2)) →
    ∃ t : State, ∃ e', exec .postedStoreApply s = .next t ∧ t.mem = s.mem ∧ t.cur = s.cur ∧ t.rest = s.rest
      ∧ t.entry? s.arg.id s.arg.sel = some e' ∧ e'.applied = true ∧ e'.refused = why)
  ∧ (∀ (s : State) (e : JEntry), s.entry? s.arg.id s.arg.sel = some e → e.applied = true → (s.core s.arg.id).replay = [] →
    (e.refused = 0 → ∃ t : State, exec .postedStoreAck s = .next t
      ∧ (t.core s.arg.id).journal = (s.core s.arg.id).journal.filter (fun x => x.seq ≠ e.seq) ∧ t.mem = s.mem ∧ t.cur = s.cur)
    ∧ (e.refused ≠ 0 → ∀ u, s.strand? e.sid = some u → u.mode ≠ .stopped 5 → u.pend.length < 16 →
      ∃ t : State, ∃ u', exec .postedStoreAck s = .next t ∧ t.entry? s.arg.id s.arg.sel = none ∧ t.mem = s.mem ∧ t.strand? e.sid = some u'
        ∧ u'.sr = { u.sr with fstat := u.sr.fstat ||| 4 }
        ∧ u'.pend = u.pend ++ [⟨.postedRefused, e.dest, BitVec.ofNat 64 (e.seq.toNat + e.size * 2 ^ 32 + e.refused * 2 ^ 40),
            e.data.setWidth 64, 0, s.now⟩]))
  ∧ ∀ (s : State) (r : Req) (n : Nat) (signed : Bool) (d : Reg) (u : Strand), s.req? s.arg.id = some r → r.kind = .remote n signed d →
    n ∈ [1, 2, 4, 8] → r.state = .sent → s.postedBefore r (addrUnit r.addr) = true → s.anyPoison r.addr n = false →
    (∀ q ∈ s.reqs, q.id ≠ r.id → q.sid ≠ r.sid) → s.strand? r.sid = some u →
    ∃ t : State, ∃ u', exec .remoteRead s = .next t ∧ t.req? r.id = none ∧ t.mem = s.mem ∧ t.strand? r.sid = some u' ∧ u'.blocked = none
      ∧ u'.getX d = (if d = 0 then 0 else extended signed n (Memory.readN s.mem r.addr n))
      ∧ (∀ q, q ≠ d → u'.getX q = u.getX q) ∧ u'.pc = u.pc

/-- With full registers, nothing that holds it back and its pointer passing its checks, each of the 23 scalar atomics
without comm, outside a transaction, sends one request with its operation, size and operands and leaves X[d] empty;
with comm it is deposited at its core, whose unit for the line then names the strand, and X[d] is not touched; with
comm in a transaction it joins the transaction's buffered accesses. ATOMIC_AT_HOME of a request that its home can
serve returns the old value and writes what the operation makes of it, or writes nothing where a compare or a bound
fails; no other byte of memory changes. -/
def Obligations.Atomics : Prop :=
  (∀ (o : AT) (s : State) (i : Instr) (op n : Nat) (signed useD : Bool) (t : State) (a : Nat), (i, op, n, signed, useD) ∈ atomics o →
    s.readyX o.a → s.readyX o.b → s.readyX o.d → s.mayAccess o.o = true →
    let p := padd (s.x o.a) o.imm
    leased p →
    (o.o ≠ .comm → passes s n true true [p] t [a] → s.cur.tx.depth = 0 →
      ∃ (s' : State) (r : Req), exec i s = .next s' ∧ s'.reqs = s.reqs ++ [r] ∧ s.sends r (.atomic op n signed (s.x o.b) (s.x o.d) o.d) p a
        ∧ r.order = o.o ∧ r.scope = o.c ∧ s'.cur = ({ s with cur := s.cur.emptyX o.d }.wentOn).cur ∧ s'.rest = s.rest ∧ s'.mem = s.mem)
    ∧ (o.o = .comm → passes s n false true [p] t [a] →
      let dep : Deposit := ⟨a / 128 * 128, 128, op, amoElem op n signed, [(a, BitVec.ofNat 64 ((s.x o.b).toNat % 2 ^ (8 * n)))], s.nextId⟩
      (s.cur.tx.depth = 0 → s.canDeposit dep = true →
        ∃ s' : State, ∃ u, exec i s = .next s' ∧ s'.cur = s.wentOn.cur ∧ s'.mem = s.mem ∧ s'.reqs = s.reqs
          ∧ u ∈ (s'.core s.cur.core).upd ∧ u.dep.sameUnit dep = true ∧ s.cur.sid ∈ u.sids ∧ ∃ v, (a, v) ∈ u.dep.deltas)
      ∧ (s.cur.tx.depth ≠ 0 →
        ∃ s' : State, exec i s = .next s' ∧ s'.cur = { s.wentOn.cur with tx := { s.cur.tx with comm := s.cur.tx.comm ++ [dep] } }
          ∧ s'.mem = s.mem ∧ (s'.core s.cur.core).upd = (s.core s.cur.core).upd)))
  ∧ ∀ (s : State) (r : Req) (op n : Nat) (signed : Bool) (a b : Word) (d : Reg), s.req? s.arg.id = some r →
    r.kind = .atomic op n signed a b d → n = 4 ∨ n = 8 → r.tx = false → s.homeServes r true → s.anyPoison r.addr n = false → Safe s →
    let old := Memory.readN s.mem r.addr n
    let m := 2 ^ (8 * n)
    ∃ t : State, ∃ r', exec .atomicAtHome s = .next t ∧ SameBytesBut s t r.addr n
      ∧ Memory.readN t.mem r.addr n = ((AtomicRule op n old (a.toNat % m) (b.toNat % m)).getD old) % m
      ∧ t.req? r.id = some r' ∧ r'.state = .answered (BitVec.ofNat 256 old) true

/-- With full registers, nothing that holds it back, outside a transaction and both pointers passing their checks,
ROWADD and ROWMAX without comm complete by sending one request with the row's bytes from local memory, LDROW by sending one for the
row (an sc one acquires at that), TOPK by sending one with its score and expert, and leaves X[d] empty. With comm, ROWADD and ROWMAX
complete by depositing each element of the delta at the core, a narrow float as f32. ROW_AT_HOME of a row request that its home can
serve makes each element the sum modulo 2^32, the signed maximum, the float sum rounded once in rne or the maximum with −0 below +0 and
the operand that is no NaN, and changes no other byte; of a row load it answers with the bytes. The stale form it answers at once with
the home's own copy, unless a newer copy at a proxy must not be missed: then that is written back first (which it must not miss is the
model's choice, log entry 76). LOAD_RETURN then writes one 8-byte unit of the row into local memory. TOPK_AT_HOME counts the
insertion; a NaN score or a k outside 1 to 7 leaves the entries; else an expert that is there already keeps its entry unless the new
score ranks above, and leaves its place then; the new entry goes in after those that rank above it (higher score first, −0 below +0,
then the lower expert) if fewer than k do, the last entry of a full record falling out; the position is returned, −1 for none. -/
def Obligations.RowsAndRecords : Prop :=
  (∀ (o : RW) (s t : State) (a : Nat),
    let n := rowBytes o.size
    let lm := lmAddr s.cur.core (ptrOff (s.x o.d))
    s.readyX o.a → s.readyX o.d → s.mayAccess o.o = true → leased (s.x o.a) → s.own (s.x o.d) →
    ptrOff (s.x o.d) % 32 = 0 → ptrOff (s.x o.d) + n ≤ 0x60000 → s.moving lm n = false → s.cur.tx.depth = 0 →
    (∀ (i : Instr) (op : Nat), (i, op) ∈ [(Instr.rowadd o, 0x0B), (.rowmax o, 0x05)] → s.anyPoison lm n = false →
      (o.o ≠ .comm → passes s n true true [s.x o.a] t [a] →
        ∃ s' : State, ∃ r, exec i s = .next s' ∧ s'.reqs = s.reqs ++ [r]
          ∧ s.sends r (.row op (rowElem o.ty) n (Memory.bytes s.mem lm n)) (s.x o.a) a ∧ s'.cur = s.wentOn.cur ∧ s'.mem = s.mem)
      ∧ (o.o = .comm → passes s n false true [s.x o.a] t [a] → (s.core s.cur.core).upd = [] → s.reqs = [] →
        ∃ s' : State, ∃ u, exec i s = .next s' ∧ s'.cur = s.wentOn.cur ∧ s'.mem = s.mem ∧ u ∈ (s'.core s.cur.core).upd ∧ u.dep.unit = a
          ∧ u.dep.bytes = n ∧ s.cur.sid ∈ u.sids
          ∧ ∀ k, k < n / elemBytes (rowElem o.ty) →
              let delta := Memory.readN s.mem (lm + elemBytes (rowElem o.ty) * k) (elemBytes (rowElem o.ty))
              ∃ acc : Nat, (a + elemBytes (rowElem o.ty) * k, BitVec.ofNat 64 acc) ∈ u.dep.deltas
                ∧ (o.ty = .s32 → acc = delta)
                ∧ (o.ty ≠ .s32 → ∀ neg v, Num.Is ((elemFmt (rowElem o.ty)).decode delta) neg v → ffF32.Shows acc neg v)))
    ∧ (passes s n true false [s.x o.a] t [a] →
      ∀ (i : Instr) (stale : Bool), (i, stale) ∈ [(Instr.ldrowFresh o, false), (.ldrowStale o, true)] →
      ∃ s' : State, ∃ r, exec i s = .next s' ∧ s'.reqs = s.reqs ++ [r]
        ∧ s.sends r (.ldrow n stale (ptrOff (s.x o.d)) [] []) (s.x o.a) a ∧ s'.cur = s.wentOn.cur ∧ s'.mem = s.mem
        ∧ (o.o = .sc → ∀ l ∈ (s'.core s.cur.core).l1, s.shows l = true)))
  ∧ (∀ (o : AT) (s t : State) (a : Nat),
    let p := padd (s.x o.a) o.imm
    s.readyX o.a → s.readyX o.b → s.readyX o.d → s.mayAccess o.o = true → leased p → s.cur.tx.depth = 0 → passes s 64 true true [p] t [a] →
    ∃ s' : State, ∃ r, exec (.topk o) s = .next s' ∧ s'.reqs = s.reqs ++ [r]
      ∧ s.sends r (.topk ((s.x o.b).setWidth 32) ((s.x o.b).extractLsb' 32 16) o.d) p a
      ∧ s'.cur = ({ s with cur := s.cur.emptyX o.d }.wentOn).cur ∧ s'.mem = s.mem)
  ∧ (∀ (s : State) (r : Req) (op e n : Nat) (delta : List Byte), Safe s → s.req? s.arg.id = some r → r.kind = .row op e n delta → r.tx = false →
    s.homeServes r true → s.anyPoison r.addr n = false → e ∈ [0, 4, 5, 6] → n % 8 = 0 → 0 < n → delta.length = n →
    ∃ t : State, ∃ r', exec .rowAtHome s = .next t ∧ SameBytesBut s t r.addr n ∧ t.req? r.id = some r' ∧ r'.state = .answered 0 true
      ∧ (op = 0x0B ∨ op = 0x05 → ∀ k, k < n / elemBytes e →
          RowRule op e (Memory.readN s.mem (r.addr + elemBytes e * k) (elemBytes e)) (leNat ((delta.drop (elemBytes e * k)).take (elemBytes e)))
            (Memory.readN t.mem (r.addr + elemBytes e * k) (elemBytes e))))
  ∧ (∀ (s : State) (r : Req) (n lm : Nat) (stale : Bool) (x : List Byte) (y : List Nat), s.req? s.arg.id = some r →
    r.kind = .ldrow n stale lm x y → r.tx = false → s.anyPoison r.addr n = false →
    (stale = false → s.homeServes r false →
      ∃ t : State, ∃ r', exec .rowAtHome s = .next t ∧ t.req? r.id = some r' ∧ r'.state = .answered 0 true
        ∧ r'.kind = .ldrow n stale lm (Memory.bytes s.mem r.addr n) (List.range (n / 8)) ∧ t.mem = s.mem)
    ∧ (stale = true → s.mayServe r = true → (∀ ln ∈ linesOf r.addr n, s.committingOn (ln / 16) = false) →
      ((∀ ln ∈ linesOf r.addr n, s.staleUsable r ln = true) →
        ∃ t : State, ∃ r' bs, exec .rowAtHome s = .next t ∧ t.req? r.id = some r' ∧ r'.state = .answered 0 true
          ∧ r'.kind = .ldrow n stale lm bs (List.range (n / 8)) ∧ bs.length = n ∧ t.mem = s.mem
          ∧ ∀ i, i < n → bs[i]? = some (match (s.line (lineOf (r.addr + i))).stale with
            | some d => d.extractLsb' (8 * ((r.addr + i) % 128)) 8
            | none => s.byte (r.addr + i)))
      ∧ ∀ (ln : Nat) (p : Proxy), linesOf r.addr n = [ln] → s.staleUsable r ln = false → (s.line ln).awaiting = [] →
          (s.line ln).share = .m ∨ (s.line ln).share = .o → s.proxy ln (s.line ln).owner = some p →
        ∃ t : State, exec .rowAtHome s = .next t ∧ (t.line ln).stale = none ∧ t.proxy ln (s.line ln).owner = none ∧ t.req? r.id = some r
          ∧ t.mem = s.mem)
    ∧ (r.state = .answered 0 true → y ≠ [] → (∀ k ∈ y, 8 * k + 8 ≤ x.length) → Safe s →
      ∃ t : State, ∃ k, exec .loadReturn s = .next t ∧ k ∈ y ∧ SameBytesBut s t (lmAddr r.core lm + 8 * k) 8
        ∧ Memory.bytes t.mem (lmAddr r.core lm + 8 * k) 8 = (x.drop (8 * k)).take 8))
  ∧ (∀ (s : State) (r : Req) (score : Quad) (expert : BitVec 16) (d : Reg), s.req? s.arg.id = some r → r.kind = .topk score expert d →
    r.tx = false → s.homeServes r true → s.anyPoison r.addr 64 = false → Safe s →
    ∃ (t : State) (r' : Req) (pos : Int), exec .topkAtHome s = .next t ∧ SameBytesBut s t r.addr 64
      ∧ TopkRule (Memory.bytes s.mem r.addr 64) (Memory.bytes t.mem r.addr 64) score.toNat expert.toNat pos
      ∧ t.req? r.id = some r' ∧ r'.state = .answered (BitVec.ofNat 256 (if pos < 0 then 255 else pos.toNat)) true)

/-- XBEGIN outside a transaction, every register full, goes on at depth 1 with a checkpoint of
x, v, p and their full bits, its handler and a non-zero age; inside it adds 1 to the depth, and at depth 15 aborts
with cause NEST. XEND at depth above 1 takes 1 off; at depth 1 with every access granted and performed and everything
before it released the commit starts. XABORT and a conflict abort with their cause and code; XTEST and XSTAT write the
depth and the status into X[d]. XEND and XABORT outside a transaction take ILLEGAL with sub-code 0x0B. An abort
restores the checkpoint, goes to the handler, drops what the transaction held and writes the status, and changes no
byte of memory. TRANSACTIONAL_REGISTRATION of a load without a rival, every line of the tile clean at its home, enters
the tile in the read set and answers the load with the bytes as the transaction sees them. COMMIT_APPLY makes the
speculative bytes of its slice's tiles committed, but for those of a poisoned word that they do not cover, which makes POISON pending,
and no other byte changes. TRANSACTION_COMMIT deposits the buffered accesses one by one, then XEND retires: depth and age are 0 and
the strand goes on. -/
def Obligations.TransactionResults : Prop :=
  (∀ (z : BZ) (d : Reg) (s : State),
    (s.cur.tx.depth = 0 → s.cur.xfull ||| 1 = BitVec.allOnes 32 → s.cur.vfull = BitVec.allOnes 32 →
      ∃ t : State, exec (.xbegin z) s = .next t ∧ t.cur.tx.depth = 1 ∧ t.cur.tx.handler = s.relative z.off ∧ (s.now < 2 ^ 63 → t.cur.sr.xage ≠ 0)
        ∧ (s.cur.sr.xage ≠ 0 → t.cur.sr.xage = s.cur.sr.xage) ∧ t.cur.tx.ckpt = some ⟨s.cur.x, s.cur.v, s.cur.p, s.cur.xfull, s.cur.vfull⟩
        ∧ t.cur.tx.tiles = [] ∧ t.cur.tx.spec = [] ∧ t.cur.tx.comm = [] ∧ t.cur.x = s.cur.x ∧ t.cur.v = s.cur.v ∧ t.cur.p = s.cur.p
        ∧ t.cur.pc = s.wentOn.cur.pc ∧ t.mem = s.mem ∧ t.rest = s.rest ∧ t.reqs = s.reqs)
    ∧ (0 < s.cur.tx.depth → s.cur.tx.depth < 15 →
      exec (.xbegin z) s = .next ({ s with cur := { s.cur with tx := { s.cur.tx with depth := s.cur.tx.depth + 1 } } }.wentOn))
    ∧ (s.cur.tx.depth = 15 → s.cur.exists? = true → ∃ t : State, exec (.xbegin z) s = .next t ∧ Aborted s t s.cur 8 0)
    ∧ (s.canTrap → exec .xend s = .next (s.delivered false 0x01 (wordsInfo s.ir).1 (wordsInfo s.ir).2 0x0B 0 s.cur.pc)
        ∧ exec .xabort s = .next (s.delivered false 0x01 (wordsInfo s.ir).1 (wordsInfo s.ir).2 0x0B 0 s.cur.pc))
    ∧ (1 < s.cur.tx.depth →
      exec .xend s = .next ({ s with cur := { s.cur with tx := { s.cur.tx with depth := s.cur.tx.depth - 1 } } }.wentOn))
    ∧ (s.cur.tx.depth = 1 → (∀ r ∈ s.reqs, r.sid = s.cur.sid → r.tx = true → r.done = true) → s.cur.tx.doomed = none →
        s.releaseReady s.cur.sid s.cur.core .pkg s.nextId = true →
      ∃ t : State, exec .xend s = .next t ∧ t.cur = { s.cur with
          tx := { s.cur.tx with committing := true }, skip := s.wentOn.cur.pc, stalled := false, safe := false } ∧ t.mem = s.mem)
    ∧ (0 < s.cur.tx.depth → s.cur.tx.depth < 16 → s.cur.exists? = true →
      ∃ t : State, exec .xabort s = .next t ∧ Aborted s t s.cur 3 ((rawOf s.ir).imm.toNat % 256))
    ∧ (s.readyX d → exec (.xtest d) s = .next (s.wrote d (BitVec.ofNat 64 s.cur.tx.depth))
        ∧ exec (.xstat d) s = .next (s.wrote d s.cur.tx.status)))
  ∧ (∀ (s : State) (u : Strand) (p : Word), s.strand? s.arg.id = some u → u.tx.doomed = some p → 0 < u.tx.depth → u.tx.depth < 16 →
    u.tx.committing = false → ∃ t : State, exec .conflictAbort s = .next t ∧ Aborted s t u 1 0)
  ∧ (∀ (s : State) (r : Req) (u : Strand) (n : Nat) (signed : Bool) (d : Reg), s.req? s.arg.id = some r → s.strand? r.sid = some u →
    r.kind = .load n signed d → 0 < n → r.tx = true → s.mayServe r = true → u.tx.doomed = none → u.tx.has (tileOf r.addr) false = false →
    u.tx.exceeds (tileOf r.addr) true false = false → s.coh.rebasing = false →
    (∀ ln ∈ linesOf r.addr n, s.lineFree r ln = true) → (∀ v ∈ s.conflicts (tileOf r.addr) false, v.sid = r.sid) →
    (∀ ln ∈ r.tileLines, s.homeReadable ln = true) → s.txPoison u.tx r.addr n = false →
    ∃ t : State, ∃ r' u', exec .transactionalRegistration s = .next t ∧ t.req? r.id = some r'
      ∧ r'.state = .answered (BitVec.ofNat 256 (leNat (u.tx.bytes s.mem r.addr n))) true
      ∧ t.strand? r.sid = some u' ∧ u'.tx.has (tileOf r.addr) false = true ∧ t.mem = s.mem)
  ∧ (∀ (s : State) (u : Strand), s.strand? s.arg.id = some u → u.tx.committing = true →
    let mine := fun x : TxTile => tileSlice s x.tile == (s.arg.sel / 80, s.arg.sel % 80)
    let here := fun c : Host.Cell => (u.tx.tiles.filter mine).any (fun x => x.tile == tileOf c.1)
    u.tx.spec.Pairwise (fun c d => c.1 ≠ d.1) → Safe s →
    ∃ t : State, ∃ u', exec .commitApply s = .next t ∧ t.strand? s.arg.id = some u' ∧ u'.tx.tiles = u.tx.tiles.filter (fun x => !mine x)
      ∧ (∀ c ∈ u.tx.spec, here c = true → s.isPoison c.1 = false ∨ u.tx.covers (wordOf c.1) = true → t.byte c.1 = c.2)
      ∧ (∀ b, (∀ c ∈ u.tx.spec, here c = true → c.1 ≠ b) → t.byte b = s.byte b)
      ∧ ((∃ c ∈ u.tx.spec, here c = true ∧ s.isPoison c.1 = true ∧ u.tx.covers (wordOf c.1) = false) →
          u.mode ≠ .stopped 5 → u.pend.length < 16 → ∃ tr : Trap, u'.pend = u.pend ++ [tr] ∧ tr.cause = .poison))
  ∧ ∀ (s : State) (u : Strand), s.strand? s.arg.id = some u → u.tx.committing = true → u.tx.tiles = [] →
    (u.tx.comm = [] → (∀ c ∈ s.cmds, c.sid ≠ u.sid) →
      ∃ t : State, ∃ u', exec .transactionCommit s = .next t ∧ t.strand? s.arg.id = some u' ∧ u'.tx.depth = 0 ∧ u'.tx.committing = false
        ∧ u'.sr.xage = 0 ∧ u'.pc = u.skip ∧ u'.x = u.x ∧ u'.v = u.v ∧ u'.tx.status = u.tx.status ∧ t.mem = s.mem)
    ∧ (∀ (dep : Deposit) (l : List Deposit), u.tx.comm = dep :: l → (s.focus u.sid).canDeposit dep = true →
      ∃ t : State, ∃ u' v, exec .transactionCommit s = .next t ∧ t.strand? s.arg.id = some u' ∧ u'.tx.comm = l ∧ u'.tx.depth = u.tx.depth
        ∧ v ∈ (t.core u.core).upd ∧ v.dep.sameUnit dep = true ∧ u.sid ∈ v.sids ∧ t.mem = s.mem)

/-- FENCE whose conditions hold writes the FENCE status latch into X[d] and clears it (inside a transaction it writes 0)
and goes on; otherwise it is held at a request, X[d] empty, until they hold. FENCEI drops the strand's fetched words, and a word fetched
after it has the bytes of a store that the strand issued before it, on its way or performed, and those of a transaction that commits. TBAR,
everything before it released and outside a transaction, waits while another strand of the troupe that has not ended
has not arrived; when the last arrives every strand of the troupe goes on after its TBAR. LBAR does the same for a
cohort's strands, and in a launch that is no cohort takes ILLEGAL with sub-code 0x0B; a strand that has more to release than when it
arrived, as the launch has spread, leaves the barrier and arrives again (the model's choice, log entry 81). No byte of memory changes. -/
def Obligations.FencesAndBarriers : Prop :=
  (∀ (m : MsgOp) (s : State), s.readyX m.d →
    (s.fenceReady s.cur.sid s.cur.core s.nextId m.o m.c = true → s.cur.exists? = true →
      ∃ t : State, exec (.fence m) s = .next t ∧ t.x m.d = (if m.d = 0 ∨ s.cur.tx.depth ≠ 0 then 0 else s.cur.sr.fstat)
        ∧ (∀ q : Reg, q ≠ m.d → t.x q = s.x q) ∧ t.cur.sr.fstat = (if s.cur.tx.depth = 0 then 0 else s.cur.sr.fstat)
        ∧ t.cur.pc = s.wentOn.cur.pc ∧ t.cur.blocked = none ∧ t.cur.v = s.cur.v ∧ t.mem = s.mem ∧ t.reqs = s.reqs)
    ∧ (s.fenceReady s.cur.sid s.cur.core s.nextId m.o m.c = false →
      ∃ t : State, ∃ r : Req, exec (.fence m) s = .next t ∧ t.reqs = s.reqs ++ [r] ∧ r.kind = .fence m.d ∧ r.order = m.o ∧ r.scope = m.c ∧ r.id = s.nextId
        ∧ t.cur.blocked = some s.nextId ∧ t.cur.pc = s.wentOn.cur.pc ∧ t.cur.x = s.cur.x ∧ t.cur.fullX m.d = decide (m.d = 0) ∧ t.mem = s.mem))
  ∧ (∀ s : State, ∃ t : State, exec .fencei s = .next t ∧ t.cur = { s.wentOn.cur with fencei := s.nextId } ∧ t.mem = s.mem ∧ t.reqs = s.reqs
      ∧ ∀ e ∈ (t.core s.cur.core).icache, e ∈ (s.core s.cur.core).icache ∧ e.1 / 2 ^ 64 ≠ s.cur.sid)
  ∧ (∀ (s : State) (a : Nat), icacheWord s a = none →
    let commits := fun u : Strand => u ∈ s.strands ∧ u.exists? = true ∧ u.tx.committing = true ∧ ∃ c ∈ u.tx.spec, c.1 = a ∨ c.1 = a + 1
    ((∀ q ∈ s.reqs, q.sid = s.cur.sid → s.cur.fencei ≤ q.id ∨ q.done = true) →
      ((∀ u, ¬commits u) → codeWord s a = BitVec.ofNat 16 (Memory.readN s.mem a 2))
      ∧ ∀ (u : Strand) (x y : Byte), commits u → (∀ v, commits v → v = u) → u.tx.spec.Pairwise (fun c d => c.1 ≠ d.1) →
          (a, x) ∈ u.tx.spec → (a + 1, y) ∈ u.tx.spec → codeWord s a = BitVec.ofNat 16 (x.toNat + 256 * y.toNat))
    ∧ ∀ (q : Req) (n : Nat) (d : VReg), q ∈ s.reqs → q.sid = s.cur.sid → q.tx = false → q.done = false → q.id < s.cur.fencei →
      q.kind = .store n d → q.addr ≤ a → a + 2 ≤ q.addr + n → (∀ x ∈ s.reqs, x.sid = s.cur.sid → x = q) →
      codeWord s a = BitVec.ofNat 16 (d.toNat / 2 ^ (8 * (a - q.addr))))
  ∧ (∀ s : State, s.mayAccess .rlx = true → s.cur.tx.depth = 0 → s.cur.mode = .running →
    s.releaseReady s.cur.sid s.cur.core (if s.myTroupe.c = 1 then .cor else .bay) s.nextId = true →
    ((∃ u ∈ s.rest, u.inTroupe s.cur.troupe ∧ u.wait ≠ some .tbar) → exec .tbar s = .next (s.waitsFor .tbar))
    ∧ (s.myTroupe.place = .placed → (∀ u ∈ s.rest, u.inTroupe s.cur.troupe → u.mode = .running ∧ u.wait = some .tbar) →
      ∃ t : State, exec .tbar s = .next t ∧ t.cur.pc = s.wentOn.cur.pc ∧ t.cur.wait = none ∧ t.cur.x = s.cur.x ∧ t.mem = s.mem
        ∧ ∀ u ∈ t.rest, u.inTroupe s.cur.troupe → u.wait = none ∧ u.pc = u.skip))
  ∧ ∀ s : State,
    let l := s.myTroupe.launch
    let mine := fun u : Strand => u.exists? = true ∧ ∃ r ∈ s.troupes, r.launch = l ∧ r.uid = u.troupe
    ((∀ x : Launch, s.launch? l = some x → x.cohort = false) → s.canTrap →
      exec .lbar s = .next (s.delivered false 0x01 (wordsInfo s.ir).1 (wordsInfo s.ir).2 0x0B 0 s.cur.pc))
    ∧ (∀ x : Launch, s.launch? l = some x → x.cohort = true → s.mayAccess .rlx = true → s.cur.tx.depth = 0 → mine s.cur → s.cur.mode = .running →
      s.releaseReady s.cur.sid s.cur.core (s.launchScope l) s.nextId = true →
      ((∃ u ∈ s.rest, mine u ∧ u.wait ≠ some .lbar) → exec .lbar s = .next (s.waitsFor .lbar))
      ∧ ((∀ r ∈ s.troupes, r.launch = l → r.place = .placed ∨ r.place = .ended ∨ r.place = .done) →
        (∀ u ∈ s.rest, mine u → u.mode = .running ∧ u.wait = some .lbar) →
        let released := fun u : Strand => s.releaseReady u.sid u.core (s.launchScope l) s.nextId = true
        ((∀ u ∈ s.rest, mine u → released u) →
          ∃ t : State, exec .lbar s = .next t ∧ t.cur.pc = s.wentOn.cur.pc ∧ t.cur.wait = none ∧ t.mem = s.mem
            ∧ ∀ u ∈ t.rest, mine u → u.wait = none ∧ u.pc = u.skip)
        ∧ ((∃ u ∈ s.rest, mine u ∧ ¬released u) →
          ∃ t : State, exec .lbar s = .next t ∧ t.cur.pc = s.cur.pc ∧ t.mem = s.mem
            ∧ ∀ u ∈ s.rest, mine u → ¬released u → { u with wait := none } ∈ t.rest)))

/-- KSET and KADD write the counter and go on, KREAD writes it into X[d], KWAIT takes its count off a counter that has reached it, acquires
and goes on, and otherwise waits. EVSIG makes a request for its amount to be added to the event and goes on; EVWAIT goes on when the event
has reached the target, acquiring, and otherwise waits and enters the wait list; an event number of 65,536 or more takes ILLEGAL with
sub-code 0x0C. What an acquire leaves of the L1 is the model's choice (log entry 35). WAITW of a word of local memory that differs from X[d]
writes it into X[d] and goes on, of an equal one waits at it; of a gallery or depot word it does the same when nothing is outstanding behind
the caches. EVENT_ADD of a strand's request does nothing until everything before its EVSIG is performed; then, when nothing is outstanding
behind the caches, it adds the amount to the event's word modulo 2^32 and the request is gone. OVERFLOW_WAIT_TEST lets a strand go on whose
event has reached its target and drops its entry, but not before a wait on the event that is due and began earlier; of an entry whose target
is not reached, and for which no hardware entry waited, it only clears the mark. -/
def Obligations.CountersAndEvents : Prop :=
  (∀ (m : IM) (r : RR) (s : State),
    exec (.kset m) s = .next ({ s with cur := s.cur.putK (m.d.setWidth 4) (m.imm.setWidth 32) }.wentOn)
    ∧ exec (.kadd m) s = .next ({ s with cur := s.cur.putK (m.d.setWidth 4) (s.k (m.d.setWidth 4) + m.imm.setWidth 32) }.wentOn)
    ∧ (s.readyX r.d → exec (.kread r) s = .next (s.wrote r.d ((s.k (r.a.setWidth 4)).setWidth 64)))
    ∧ (m.imm.setWidth 32 ≤ s.k (m.d.setWidth 4) →
      exec (.kwait m) s = .next ({ s.acquire s.cur.core with
        cur := s.cur.putK (m.d.setWidth 4) (s.k (m.d.setWidth 4) - m.imm.setWidth 32) }.wentOn))
    ∧ (s.k (m.d.setWidth 4) < m.imm.setWidth 32 → s.cur.tx.depth = 0 →
      exec (.kwait m) s = .next (s.waitsFor (.kwait (m.d.toNat % 16) (m.imm.setWidth 32)))))
  ∧ (∀ (r : RR) (s : State), s.readyX r.a → s.readyX r.d →
    (65536 ≤ (s.x r.d).toNat → s.canTrap →
      exec (.evsig r) s = .next (s.delivered false 0x01 (wordsInfo s.ir).1 (wordsInfo s.ir).2 0x0C 0 s.cur.pc)
      ∧ exec (.evwait r) s = .next (s.delivered false 0x01 (wordsInfo s.ir).1 (wordsInfo s.ir).2 0x0C 0 s.cur.pc))
    ∧ ((s.x r.d).toNat < 65536 → s.cur.tx.depth = 0 →
      exec (.evsig r) s = .next ({ s with
        reg := { s.reg with requests := s.reg.requests ++
          [(s.nextId, RegReq.event s.myTroupe.job (s.x r.d).toNat ((s.x r.a).setWidth 32) s.cur.sid s.cur.core none)] },
        nextId := s.nextId + 1 }.wentOn))
    ∧ ((s.x r.d).toNat < 65536 → s.nothingToWiden s.myTroupe.job (s.x r.d).toNat →
        (s.x r.a).toNat % 2 ^ 32 ≤ s.eventCount s.myTroupe.job (s.x r.d).toNat →
      exec (.evwait r) s = .next (s.acquire s.cur.core).wentOn)
    ∧ ((s.x r.d).toNat < 65536 → s.cur.tx.depth = 0 → s.eventCount s.myTroupe.job (s.x r.d).toNat < (s.x r.a).toNat % 2 ^ 32 →
        (s.reg.waits.filter (·.hardware)).length < 4096 →
      exec (.evwait r) s = .next { s.waitsFor (.event s.nextId) with
        nextId := s.nextId + 1,
        reg := { s.reg with waits := s.reg.waits ++
          [⟨s.nextId, s.myTroupe.job, (s.x r.d).toNat, (s.x r.a).setWidth 32, none, s.cur.sid, true, false, 0⟩] } }))
  ∧ (∀ (m : MEM) (s t : State) (a : Nat), s.readyX m.a → s.readyX m.d → s.mayAccess m.o = true →
    s.cur.tx.depth = 0 → s.cur.tx.spec = [] →
    let p := padd (s.x m.a) m.imm
    passes s 8 true false [p] t [a] → s.behindOlder s.cur.sid s.nextId a 8 = false → s.postedDone p = true →
    s.ownDeposits s.cur.core a 8 = false →
    (ptrSpace p = 1 → s.moving a 8 = false → s.isPoison a = false →
      (s.word a ≠ s.x m.d → ∃ s' : State, exec (.waitw m) s = .next s' ∧ s'.cur = (s.wrote m.d (s.word a)).cur ∧ s'.mem = s.mem ∧ s'.rest = s.rest)
      ∧ (s.word a = s.x m.d → ∃ s' : State, exec (.waitw m) s = .next s' ∧ s'.cur = (s.waitsFor (.watch a m.d (s.word a))).cur ∧ s'.mem = s.mem))
    ∧ (leased p → s.Quiet → s.isPoison a = false →
      (s.word a ≠ s.x m.d → ∃ s' : State, exec (.waitw m) s = .next s' ∧ s'.cur = (s.wrote m.d (s.word a)).cur ∧ s'.mem = s.mem)
      ∧ (s.word a = s.x m.d → ∃ s' : State, exec (.waitw m) s = .next s' ∧ s'.cur = (s.waitsFor (.watch a m.d (s.word a))).cur ∧ s'.mem = s.mem)))
  ∧ (∀ (s : State) (job e sid core a : Nat) (amount : Quad) (l : Option Word),
    s.reg.requests.find? (fun r => r.1 == s.arg.id) = some (s.arg.id, .event job e amount sid core l) → eventPhys s job e = some a →
    (l = none → s.releaseReady sid core .pkg s.arg.id = false → exec .eventAdd s = .next s)
    ∧ (s.isPoison a = false → (∀ w ∈ s.reg.waits, ¬(w.job = job ∧ w.event = e)) → Safe s → s.Quiet →
        l ≠ none ∨ s.releaseReady sid core .pkg s.arg.id = true →
      ∃ t : State, exec .eventAdd s = .next t ∧ Memory.readN t.mem a 4 = (Memory.readN s.mem a 4 + amount.toNat) % 2 ^ 32
        ∧ t.reg.requests = s.reg.requests.filter (fun r => r.1 ≠ s.arg.id)))
  ∧ ∀ (s : State) (w : WaitEntry), (s.reg.waits.filter (fun w => w.job == s.arg.id && !w.hardware))[s.arg.sel]? = some w → w.changed = true →
    (w.target.toNat ≤ s.eventCount w.job w.event → s.dueWaits w.job w.event = [w] → w.slot = none → s.nothingToWiden w.job w.event →
      ∀ u, s.strand? w.sid = some u → u.wait = some (.event w.id) →
      ∃ t : State, ∃ u', exec .overflowWaitTest s = .next t ∧ t.reg.waits = s.reg.waits.filter (fun x => x.id ≠ w.id) ∧ t.mem = s.mem
        ∧ t.strand? w.sid = some u' ∧ u'.wait = none ∧ u'.pc = u.skip ∧ u'.x = u.x)
    ∧ (∀ v l, w.target.toNat ≤ s.eventCount w.job w.event → s.dueWaits w.job w.event = v :: l → v.id ≠ w.id → exec .overflowWaitTest s = .next s)
    ∧ (s.eventCount w.job w.event < w.target.toNat → (∀ x ∈ s.dueWaits w.job w.event, x.hardware = false) →
      exec .overflowWaitTest s = .next { s with reg := { s.reg with
        waits := s.reg.waits.map (fun x => if x.id = w.id then { x with changed := false } else x) } })

/-- With full registers, everything before it released, room among the strand's 32 commands and the engine's 256, and
operands that pass their checks, each of CPY, CPY2, CPYC, CPYR, CPYG and CPYS enters one command with its operands,
counter and credit at an engine of the strand's die and goes on: queued outside a transaction, held inside one; no
byte of memory changes. A CPYR outside a transaction also reserves its ring slots when they are free. A CPY of no
bytes credits its counter at once. Each checks its operands in the order given here, a value outside its limits taking ILLEGAL with
sub-code 0x0C, a misaligned one MISALIGN and a space that is not allowed SPACE; what is checked of a channel is not said here. That an
exponent of CPYG or CPYS outside 3 to 10 is such a value is the model's choice (log entry 63). -/
def Obligations.CopyCommands : Prop :=
  (∀ (o : CpyOp) (s : State), s.readyX o.a → s.readyX o.d → s.mayCommand = true →
    let src := s.x o.a
    let dst := s.x o.d
    let ok := ptrOff src % 8 = 0 ∧ ptrOff dst % 8 = 0 ∧ ptrSpace src ∈ [1, 2, 3, 5] ∧ ptrSpace dst ∈ [1, 2, 3, 4, 5]
      ∧ ¬(ptrSpace src = 5 ∧ ptrSpace dst = 5) ∧ (o.mask ≠ 0 → ptrSpace dst = 4)
      ∧ (ptrSpace dst = 4 → ∃ c, s.send? o.chan.toNat = some c ∧ c.job = s.myTroupe.job ∧ c.state = 1)
    let srcOk := decide (ptrSpace src ∈ [1, 2, 3, 5])
    let dstOk := decide (ptrSpace dst ∈ [1, 2, 3, 4, 5] ∧ ¬(ptrSpace src = 5 ∧ ptrSpace dst = 5) ∧ (o.mask = 0 ∨ ptrSpace dst = 4))
    (s.readyX o.b →
      (ok → s.roomForCmd → (s.x o.b).toNat % 8 = 0 → (s.x o.b).toNat ≤ 2 ^ 31 → s.x o.b ≠ 0 →
        Enters s (.cpy o) (.copy src dst (s.x o.b).toNat 1 0 0) o.q (s.x o.b).toNat o.chan.toNat o.mask.toNat)
      ∧ (ok → s.roomForCmd → s.x o.b = 0 → s.cur.tx.depth = 0 → s.cur.exists? = true → s.cur.wait = none →
        ∃ t : State, exec (.cpy o) s = .next t ∧ t.cmds = s.cmds ∧ t.k o.q.k = s.k o.q.k + (if o.q.bytes then 0 else 1)
          ∧ t.cur.pc = s.wentOn.cur.pc ∧ t.cur.x = s.cur.x ∧ t.mem = s.mem)
      ∧ (s.canTrap → FirstFails s (.cpy o)
        [(ptrOff src % 8 == 0, s.misplaced 4 src 5 8), (srcOk, s.misplaced 5 src 5 8),
          (decide ((s.x o.b).toNat ≤ 2 ^ 31), s.refusedAs 0x0C), ((s.x o.b).toNat % 8 == 0, s.misplaced 4 (s.x o.b) 5 8),
          (ptrOff dst % 8 == 0, s.misplaced 4 dst 6 8), (dstOk, s.misplaced 5 dst 6 8)]))
    ∧ (s.readyV .g1 o.b → s.canTrap →
      let g := fun k => s.laneOf o.b 64 0 k
      FirstFails s (.cpy2 o)
        [(ptrOff src % 8 == 0, s.misplaced 4 src 5 8), (srcOk, s.misplaced 5 src 5 8),
          (decide (8 ≤ g 0 ∧ g 0 ≤ 2 ^ 31 ∧ g 0 % 8 = 0 ∧ 1 ≤ g 1 ∧ g 1 ≤ 2 ^ 20 ∧ g 2 % 8 = 0 ∧ g 3 % 8 = 0 ∧ g 0 * g 1 ≤ 2 ^ 31),
            s.refusedAs 0x0C),
          (ptrOff dst % 8 == 0, s.misplaced 4 dst 6 8), (dstOk, s.misplaced 5 dst 6 8)])
    ∧ (s.readyV .g1 o.b → ok → s.roomForCmd →
      let g := fun k => s.laneOf o.b 64 0 k
      8 ≤ g 0 → g 0 ≤ 2 ^ 31 → g 0 % 8 = 0 → 1 ≤ g 1 → g 1 ≤ 2 ^ 20 → g 2 % 8 = 0 → g 3 % 8 = 0 → g 0 * g 1 ≤ 2 ^ 31 →
      Enters s (.cpy2 o) (.copy src dst (g 0) (g 1) (BitVec.ofNat 64 (g 2)) (BitVec.ofNat 64 (g 3))) o.q (g 0 * g 1)
        o.chan.toNat o.mask.toNat))
  ∧ (∀ (o : CpycOp) (s : State), s.readyX o.a → s.readyV .g1 o.d → s.roomForCmd →
    let n := (s.x o.a).toNat
    let g := fun k => BitVec.ofNat 64 (s.laneOf o.d 64 0 k)
    32 ≤ n → n ≤ 2 ^ 28 → n % 32 = 0 → ptrOff (g 0) % 8 = 0 → ptrOff (g 1) % 8 = 0 → ptrSpace (g 0) ∈ [1, 2, 3] → ptrSpace (g 1) ∈ [1, 2, 3] →
    (if isMx o.dst then ptrSpace (g 2) ∈ [1, 2, 3] else g 2 = 0) → (if isMx o.src then ptrSpace (g 3) ∈ [1, 2, 3] else g 3 = 0) →
    o.rm ≠ .sr →
    Enters s (.cpyc o) (.convert (g 0) (g 1) (g 2) (g 3) n o.src o.dst o.rm o.sat (lfsrStep s.lfsr)) o.q
      (n * Machine.fmtBits o.dst / 8) 0 0)
  ∧ (∀ (o : CpycOp) (s : State), s.readyX o.a → s.readyV .g1 o.d → s.roomForCmd →
    let n := (s.x o.a).toNat
    let g := fun k => BitVec.ofNat 64 (s.laneOf o.d 64 0 k)
    32 ≤ n → n ≤ 2 ^ 28 → n % 32 = 0 → ptrOff (g 0) % 8 = 0 → ptrOff (g 1) % 8 = 0 → ptrSpace (g 0) ∈ [1, 2, 3] → ptrSpace (g 1) ∈ [1, 2, 3] →
    (if isMx o.dst then ptrSpace (g 2) ∈ [1, 2, 3] else g 2 = 0) → (if isMx o.src then ptrSpace (g 3) ∈ [1, 2, 3] else g 3 = 0) →
    o.rm = .sr →
    ∃ t : State, ∃ c, exec (.cpyc o) s = .next t ∧ t.cmds = s.cmds ++ [c]
      ∧ s.isCmd c (.convert (g 0) (g 1) (g 2) (g 3) n o.src o.dst o.rm o.sat (lfsrStep s.lfsr)) o.q (n * Machine.fmtBits o.dst / 8) 0 0
      ∧ t.lfsr = lfsrStep s.lfsr ∧ t.cur.pc = s.wentOn.cur.pc ∧ t.mem = s.mem)
  ∧ (∀ (o : CpycOp) (s : State), s.readyX o.a → s.readyV .g1 o.d → s.mayCommand = true → s.canTrap →
    let n := s.x o.a
    let g := fun k => BitVec.ofNat 64 (s.laneOf o.d 64 0 k)
    let plain := fun p : Word => decide (ptrSpace p ∈ [1, 2, 3])
    FirstFails s (.cpyc o)
      [(decide (32 ≤ n.toNat ∧ n.toNat ≤ 2 ^ 28), s.refusedAs 0x0C), (n.toNat % 32 == 0, s.misplaced 4 n 5 8),
        (((g 2 != 0) == isMx o.dst) && ((g 3 != 0) == isMx o.src), s.refusedAs 0x0C),
        (ptrOff (g 0) % 8 == 0, s.misplaced 4 (g 0) 6 8), (plain (g 0), s.misplaced 5 (g 0) 6 8),
        (ptrOff (g 1) % 8 == 0, s.misplaced 4 (g 1) 5 8), (plain (g 1), s.misplaced 5 (g 1) 5 8),
        (!isMx o.dst || plain (g 2), s.misplaced 5 (g 2) 6 1), (!isMx o.src || plain (g 3), s.misplaced 5 (g 3) 5 1)])
  ∧ (∀ (o : CpyrOp) (s : State), s.readyX o.a → s.readyX o.b → s.mayCommand = true → o.ring.toNat < 8 →
    let r := s.ring s.cur.core o.ring.toNat
    let n := o.n.toNat
    (s.roomForCmd → r.count ≠ 0 → r.troupe = s.cur.troupe → 1 ≤ n → n ≤ r.count → leased (s.x o.a) → ptrOff (s.x o.a) % 2048 = 0 →
        (r.fmt ∈ [0x11, 0x12, 0x13] → ptrOff (s.x o.b) % 64 = 0 ∧ ptrSpace (s.x o.b) ∈ [1, 2, 3]) →
      (s.cur.tx.depth ≠ 0 →
        Enters s (.cpyr o) (.ring s.cur.core o.ring.toNat n r.fmt (s.x o.a) (s.x o.b) []) o.q (n * 2048) 0 0)
      ∧ (s.cur.tx.depth = 0 → r.waiting = [] → n ≤ r.count - r.ready - r.pend →
        Enters s (.cpyr o) (.ring s.cur.core o.ring.toNat n r.fmt (s.x o.a) (s.x o.b)
          ((List.range n).map (fun k => (r.head + r.ready + r.pend + k) % r.count))) o.q (n * 2048) 0 0
        ∧ ∀ t, exec (.cpyr o) s = .next t → (t.ring s.cur.core o.ring.toNat).pend = r.pend + n))
    ∧ (s.canTrap → FirstFails s (.cpyr o)
      [(decide (r.count ≠ 0 ∧ r.troupe = s.cur.troupe), s.refusedAs 0x0B), (decide (1 ≤ n ∧ n ≤ r.count), s.refusedAs 0x0C),
        (ptrOff (s.x o.a) % 2048 == 0, s.misplaced 4 (s.x o.a) 5 8), (decide (leased (s.x o.a)), s.misplaced 5 (s.x o.a) 5 8),
        (decide (r.fmt ∉ [0x11, 0x12, 0x13] ∨ ptrOff (s.x o.b) % 64 = 0), s.misplaced 4 (s.x o.b) 5 8),
        (decide (r.fmt ∉ [0x11, 0x12, 0x13] ∨ ptrSpace (s.x o.b) ∈ [1, 2, 3]), s.misplaced 5 (s.x o.b) 5 8)]))
  ∧ ∀ (o : CpyIdxOp) (s : State), s.readyX o.a → s.readyX o.b → s.readyX o.d → s.mayCommand = true →
    let rb := 2 ^ o.e.toNat
    (s.roomForCmd → 3 ≤ o.e.toNat → o.e.toNat ≤ 10 → o.count ≠ 0 → ptrOff (s.x o.a) % rb = 0 → ptrOff (s.x o.d) % rb = 0 →
      s.own (s.x o.b) → ptrOff (s.x o.b) % 4 = 0 →
      (leased (s.x o.a) → ptrSpace (s.x o.d) ∈ [1, 2, 3] →
        Enters s (.cpyg o) (.gather (s.x o.a) (s.x o.d) rb (ptrOff (s.x o.b)) o.count.toNat) o.q (o.count.toNat * rb) 0 0)
      ∧ (ptrSpace (s.x o.a) ∈ [1, 2, 3] → leased (s.x o.d) →
        Enters s (.cpys o) (.scatter (s.x o.a) (s.x o.d) rb (ptrOff (s.x o.b)) o.count.toNat) o.q (o.count.toNat * rb) 0 0))
    ∧ (s.canTrap → ∀ i : Instr, i = .cpyg o ∨ i = .cpys o →
      let srcOk := if i = .cpyg o then decide (leased (s.x o.a)) else decide (ptrSpace (s.x o.a) ∈ [1, 2, 3])
      let dstOk := if i = .cpyg o then decide (ptrSpace (s.x o.d) ∈ [1, 2, 3]) else decide (leased (s.x o.d))
      FirstFails s i
        [(decide (3 ≤ o.e.toNat ∧ o.e.toNat ≤ 10), s.refusedAs 0x0C),
          (ptrOff (s.x o.a) % rb == 0, s.misplaced 4 (s.x o.a) 5 rb), (srcOk, s.misplaced 5 (s.x o.a) 5 rb),
          (ptrOff (s.x o.b) % 4 == 0, s.misplaced 4 (s.x o.b) 5 4), (decide (s.own (s.x o.b)), s.misplaced 5 (s.x o.b) 5 4),
          (ptrOff (s.x o.d) % rb == 0, s.misplaced 4 (s.x o.d) 6 rb), (dstOk, s.misplaced 5 (s.x o.d) 6 rb)])

/-- ENGINE_COMMAND_START makes the first command of an idle engine's queue active. ENGINE_PAGE_BOUNDARY of an active copy, with nothing
outstanding behind the caches, may move any word of the row in hand that is left, in any order: it reads one that it has not read,
taking the word's bytes as they stand, or, of a copy that is not to another package, writes one that it has read, putting those bytes at
the word's place and changing no other byte, the word's page being the one in hand or else translated now. While a shootdown of its job
is pending it comes to no page that is not in hand, pauses when nothing is left in its pages, and does nothing until the shootdown is
over; then it goes on. That each step moves one word, and that the words of
several pages may alternate, is the model's choice (log entry 15). A row that is done gives way to the next, and a command that has
moved everything is marked done. ENGINE_COMMAND_COMPLETE of a done command credits the strand's counter and the command is gone;
CPYR_RESERVE gives the first waiting CPYR of a ring its slots once enough are free. -/
def Obligations.EngineSteps : Prop :=
  (∀ (s : State) (c : Cmd), (∀ x ∈ s.cmds, x.engine = s.arg.id → x.state ≠ .active ∧ x.state ≠ .paused ∧ x.state ≠ .done) →
    s.cmds.find? (fun x => x.engine == s.arg.id && x.state = .queued) = some c →
    exec .engineCommandStart s = .next { s with cmds := s.cmds.map (fun x => if x.id = c.id then
      { x with state := .active, pos := 0, moved := [], loaded := [], sx := [], dx := [] } else x) })
  ∧ (∀ (s : State) (c : Cmd), s.cmd? s.arg.id = some c → c.state = .active ∨ (c.state = .paused ∧ ∀ h ∈ s.reg.shoots, h.job ≠ c.job) →
    (c.units ≤ c.pos → ∃ t : State, ∃ c', exec .enginePageBoundary s = .next t ∧ t.cmd? c.id = some c' ∧ c' = { c with state := .done } ∧ t.mem = s.mem)
    ∧ (c.pos < c.units → c.left s = [] → c.toRem = false →
      ∃ t : State, ∃ c', exec .enginePageBoundary s = .next t ∧ t.cmd? c.id = some c' ∧ t.mem = s.mem
        ∧ c' = { c with pos := min (c.rowEnd c.pos) c.units, moved := [], loaded := [] })
    ∧ (c.pos < c.units → c.left s = [] → c.toRem = true → (∀ h ∈ s.reg.shoots, h.job ≠ c.job) →
      ∃ t : State, ∃ c', exec .enginePageBoundary s = .next t ∧ t.cmd? c.id = some c' ∧ c' = { c with state := .active } ∧ t.mem = s.mem)
    ∧ (c.pos < c.units → c.left s ≠ [] ∨ c.toRem = true → (∃ h ∈ s.reg.shoots, h.job = c.job) → (∀ e ∈ c.ready s, c.inHand e = false) →
      ∃ t : State, ∃ c', exec .enginePageBoundary s = .next t ∧ t.cmd? c.id = some c' ∧ c' = { c with state := .paused, sx := [], dx := [] }
        ∧ t.mem = s.mem)
    ∧ (∀ src dst len rows ss ds u, c.kind = .copy src dst len rows ss ds → c.pos ≤ u → u < min (c.rowEnd c.pos) c.units →
        u ∉ c.moved → s.Quiet → Safe s →
      let p := (c.ptrs s u).1
      let q := (c.ptrs s u).2
      let from' := fun n : Nat => { s with arg := { s.arg with sel := n } }
      let free := ∀ h ∈ s.reg.shoots, h.job ≠ c.job
      (∀ a, c.has u = false → addrSpace a ≠ 5 → s.anyPoison a 8 = false →
          (∃ x, xlatFor c.sx p 8 = some x ∧ a = x.phys' p)
            ∨ (free ∧ xlatFor c.sx p 8 = none ∧ lookup s (80 + c.engine) c.job p 8 true false false = .good a none) →
        ∃ n, ∃ t : State, ∃ c', exec .enginePageBoundary (from' n) = .next t ∧ t.cmd? c.id = some c' ∧ t.mem = s.mem ∧ c'.state = .active
          ∧ c'.pos = c.pos ∧ c'.moved = c.moved ∧ c'.loaded = c.loaded ++ [(u, some (Memory.bytes s.mem a 8))])
      ∧ (∀ a bs, ptrSpace dst ≠ 4 → c.got u = some bs → bs.length = 8 → addrSpace a ∈ [1, 2, 3] →
          (∃ x, xlatFor c.dx q 8 = some x ∧ a = x.phys' q)
            ∨ (free ∧ xlatFor c.dx q 8 = none ∧ lookup s (80 + c.engine) c.job q 8 false true false = .good a none) →
        ∃ n, ∃ t : State, ∃ c', exec .enginePageBoundary (from' n) = .next t ∧ t.cmd? c.id = some c' ∧ c'.state = .active
          ∧ c'.pos = c.pos ∧ c'.moved = insertNat c.moved u ∧ SameBytesBut s t a 8 ∧ Memory.bytes t.mem a 8 = bs)))
  ∧ (∀ (s : State) (c : Cmd), s.cmd? s.arg.id = some c → c.state = .paused → (∃ h ∈ s.reg.shoots, h.job = c.job) →
    exec .enginePageBoundary s = .next s)
  ∧ (∀ (s : State) (c : Cmd) (u : Strand), s.cmd? s.arg.id = some c → c.state = .done → c.bound = none → c.k < 16 →
    s.strand? c.sid = some u → u.wait = none →
    ∃ t : State, ∃ u', exec .engineCommandComplete s = .next t ∧ t.cmd? c.id = none ∧ t.mem = s.mem ∧ t.strand? c.sid = some u'
      ∧ u'.getK (BitVec.ofNat 4 c.k) = u.getK (BitVec.ofNat 4 c.k) + BitVec.ofNat 32 (if c.bytes then c.credit else 1)
      ∧ (∀ j, j ≠ BitVec.ofNat 4 c.k → u'.getK j = u.getK j) ∧ u'.x = u.x ∧ u'.pc = u.pc)
  ∧ ∀ (s : State) (c : Cmd) (core ring n fmt : Nat) (src sc : Word) (sl : List Nat), s.cmd? s.arg.id = some c →
    c.kind = .ring core ring n fmt src sc sl → c.state = .reserving → ring < 8 →
    let r := s.ring core ring
    r.waiting.head? = some c.id → n ≤ r.count - r.ready - r.pend →
    ∃ t : State, ∃ c', exec .cpyrReserve s = .next t ∧ (t.ring core ring).pend = r.pend + n ∧ t.cmd? c.id = some c' ∧ c'.state = .queued
      ∧ c'.kind = .ring core ring n fmt src sc ((List.range n).map (fun k => (r.head + r.ready + r.pend + k) % r.count))
      ∧ c.id ∉ (t.ring core ring).waiting ∧ t.mem = s.mem

/-- RNGDEF outside a transaction, of a ring that is unbound or the strand's own and in no use, binds it with the definition in V[a] (the
base of the scales 0 where it has none), empty, when the definition meets R268, and unbinds it for a count of 0; the other rings stay.
RNGADV of an own ring without reserved slots makes n more panels ready, RNGSTAT writes the ring's state into V[d]. A ring or an accumulator
that is not the strand's own takes ILLEGAL with sub-code 0x0B, and then a definition, a count or a position outside its limits ILLEGAL with
0x0C; ZLD and ZST take MISALIGN, SPACE and the failing check of R374 of their pointer. ZCLAIM of a free accumulator nobody waits for takes
it, of one held already goes on, of another's waits in its queue. ZFREE hands it to the first strand that waits, or marks it while the
strand's array operations on it have not retired. ZCLR makes it 0; ZLD and ZST start a move of 2,048 units of 8 bytes. ZRED writes elements
of one row into the group at d: f32 unchanged, f16 and bf16 each rounded once, in sr with 16 random bits, which is the model's choice (log
entry 61). -/
def Obligations.RingsAndAccumulators : Prop :=
  (∀ (r : RR) (m : IM) (s : State), s.cur.tx.depth = 0 →
    let f := fun off n : Nat => (s.v r.a).toNat / 2 ^ (8 * off) % 2 ^ (8 * n)
    let u := s.myTroupe
    let old := s.ring s.cur.core r.d.toNat
    let good := decide (f 0 4 % 2048 = 0 ∧ f 4 1 ≤ 64 ∧ f 5 1 ∈ [1, 2, 3, 4, 5, 6, 7, 0x11, 0x12, 0x13] ∧ (f 6 1 % 2 = 1 ↔ 0x10 ≤ f 5 1)
      ∧ f 8 4 % 128 = 0 ∧ u.lmOff ≤ f 0 4 ∧ f 0 4 + 2048 * f 4 1 ≤ u.lmOff + u.lm * 1024
      ∧ (0x10 ≤ f 5 1 → u.lmOff ≤ f 8 4 ∧ f 8 4 + 128 * f 4 1 ≤ u.lmOff + u.lm * 1024))
    (s.readyV .g1 r.a → r.d.toNat < 8 → old.count = 0 ∨ old.troupe = s.cur.troupe → old.pend = 0 → old.waiting = [] →
        s.heldFor r.d.toNat = false → (∀ x ∈ (s.core s.cur.core).array, x.reads s.cur.troupe r.d.toNat = false) →
      (f 4 1 ≠ 0 → good = true →
        ∃ t : State, exec (.rngdef r) s = .next t ∧ t.cur = s.wentOn.cur ∧ t.rest = s.rest ∧ t.mem = s.mem
          ∧ t.ring s.cur.core r.d.toNat = { Ring.unbound with
              base := f 0 4, count := f 4 1, fmt := f 5 1, flags := f 6 1 % 2, sbase := if f 6 1 % 2 = 1 then f 8 4 else 0, troupe := s.cur.troupe }
          ∧ ∀ q, q < 8 → q ≠ r.d.toNat → t.ring s.cur.core q = s.ring s.cur.core q)
      ∧ (f 4 1 = 0 → ∃ t : State, exec (.rngdef r) s = .next t ∧ t.cur = s.wentOn.cur ∧ t.ring s.cur.core r.d.toNat = Ring.unbound
          ∧ t.rest = s.rest ∧ t.mem = s.mem ∧ ∀ q, q < 8 → q ≠ r.d.toNat → t.ring s.cur.core q = s.ring s.cur.core q))
    ∧ (s.readyV .g1 r.a → s.canTrap → FirstFails s (.rngdef r)
      [(decide (old.count = 0 ∨ old.troupe = s.cur.troupe), s.refusedAs 0x0B), (f 4 1 == 0 || good, s.refusedAs 0x0C)])
    ∧ (let q := s.ring s.cur.core m.d.toNat
      m.d.toNat < 8 → q.pend = 0 →
      (q.count ≠ 0 → q.troupe = s.cur.troupe → m.imm.toNat ≤ 64 → q.ready + m.imm.toNat ≤ q.count → s.mayAccess .rlx = true →
          s.releaseReady s.cur.sid s.cur.core .cor s.nextId = true →
        ∃ t : State, exec (.rngadv m) s = .next t ∧ t.cur = s.wentOn.cur ∧ t.rest = s.rest ∧ t.mem = s.mem
          ∧ t.ring s.cur.core m.d.toNat = { q with ready := q.ready + m.imm.toNat }
          ∧ ∀ k, k < 8 → k ≠ m.d.toNat → t.ring s.cur.core k = s.ring s.cur.core k)
      ∧ (s.canTrap → FirstFails s (.rngadv m)
        [(decide (q.count ≠ 0 ∧ q.troupe = s.cur.troupe), s.refusedAs 0x0B),
          (decide (m.imm.toNat ≤ 64 ∧ q.ready + m.imm.toNat ≤ q.count), s.refusedAs 0x0C)])))
  ∧ (∀ (r : RR) (s : State), s.readyV .g1 r.d →
    let q := s.ring s.cur.core r.a.toNat
    ∃ v : VReg, exec (.rngstat r) s = .next ({ s with cur := s.cur.putV r.d v }.wentOn) ∧ (q.count = 0 → v = 0)
      ∧ (q.count ≠ 0 → v.toNat = q.base % 2 ^ 32 + q.count % 256 * 2 ^ 32 + q.fmt % 256 * 2 ^ 40 + q.flags % 256 * 2 ^ 48
          + q.sbase % 2 ^ 32 * 2 ^ 64 + q.head % 256 * 2 ^ 96 + q.ready % 256 * 2 ^ 104 + q.pend % 256 * 2 ^ 112))
  ∧ (∀ (d : Reg) (s : State), s.cur.tx.depth = 0 →
    let z := accOfReg d
    let c := s.core s.cur.core
    (s.holdsZ z = true → exec (.zclaim d) s = .next s.wentOn)
    ∧ (c.zholder[z] = none → c.zwait[z] = [] →
      ∃ t : State, exec (.zclaim d) s = .next t ∧ t.cur = s.wentOn.cur ∧ t.core s.cur.core = { c with zholder := c.zholder.set z (some s.cur.sid) }
        ∧ t.rest = s.rest ∧ t.mem = s.mem)
    ∧ (s.holdsZ z = false → ¬(c.zholder[z] = none ∧ c.zwait[z] = []) →
      ∃ t : State, exec (.zclaim d) s = .next t ∧ t.cur = (s.waitsFor (.zclaim z.val)).cur ∧ t.mem = s.mem ∧ t.rest = s.rest
        ∧ t.core s.cur.core = { c with zwait := c.zwait.set z (c.zwait[z] ++ [s.cur.sid]) })
    ∧ (s.holdsZ z = false → exec (.zfree d) s = .next s.wentOn)
    ∧ (s.holdsZ z = true → s.zmoving s.cur.core z.val = false →
      ((∃ x ∈ c.array, x.isOn s.cur.sid z.val = true) →
        ∃ t : State, exec (.zfree d) s = .next t ∧ t.cur = s.wentOn.cur ∧ t.core s.cur.core = { c with zfreeing := c.zfreeing.set z true })
      ∧ ((∀ x ∈ c.array, x.isOn s.cur.sid z.val = false) → (∀ u ∈ s.troupes, u.place ≠ .waiting) → s.cur.sid ∉ c.zwait[z] →
        ∃ t : State, exec (.zfree d) s = .next t ∧ t.cur.pc = s.wentOn.cur.pc ∧ (t.core s.cur.core).zholder[z] = c.zwait[z].head?
          ∧ (t.core s.cur.core).zwait[z] = c.zwait[z].drop 1 ∧ (t.core s.cur.core).zfreeing[z] = false ∧ t.mem = s.mem))
    ∧ (s.holdsZ z = true → s.zquiet z = true →
      ∃ t : State, exec (.zclr d) s = .next t ∧ t.cur = s.wentOn.cur ∧ t.core s.cur.core = { c with z := c.z.set z 0 } ∧ t.rest = s.rest ∧ t.mem = s.mem)
    ∧ (s.holdsZ z = false → s.canTrap →
      exec (.zclr d) s = .next (s.delivered false 0x01 (wordsInfo s.ir).1 (wordsInfo s.ir).2 0x0B 0 s.cur.pc)))
  ∧ (∀ (o : MEM) (s : State) (i : Instr) (store : Bool) (a : Nat) (e : Option TlbEntry),
    (i = .zld o ∧ store = false) ∨ (i = .zst o ∧ store = true) →
    let p := padd (s.x o.a) o.imm
    let acc := if store then 1 else 0
    s.readyX o.a → s.mayAccess .rlx = true →
    (s.holdsZ (accOfReg o.d) = true → s.zquiet (accOfReg o.d) = true → s.cur.tx.depth = 0 →
      ptrOff p % 256 = 0 → s.own p → lookup s s.myBay s.myTroupe.job p 16384 (!store) store false = .good a e → s.moving a 16384 = false →
      ∃ t : State, exec i s = .next t ∧ t.cur = s.wentOn.cur ∧ t.rest = s.rest ∧ t.mem = s.mem ∧ t.cores = s.cores
        ∧ t.moves = s.moves ++
          [⟨s.nextId, s.cur.sid, s.cur.core, ptrOff p, 16384, (accOfReg o.d).val, store, List.range 2048⟩])
    ∧ (s.canTrap → FirstFails s i
      [(s.holdsZ (accOfReg o.d), s.refusedAs 0x0B), (ptrOff p % 256 == 0, s.misplaced 4 p acc 16384),
        (decide (s.own p), s.misplaced 5 p acc 16384)])
    ∧ (∀ (c : Cause) (reason level : Nat), s.canTrap → s.holdsZ (accOfReg o.d) = true → ptrOff p % 256 = 0 → s.own p →
      lookup s s.myBay s.myTroupe.job p 16384 (!store) store false = .bad c reason level →
      c = .translate ∧ exec i s = .next (s.delivered false 6 p (BitVec.ofNat 64 (acc + 16384 * 2 ^ 16)) (opOf s.ir)
        (BitVec.ofNat 64 (reason + level * 4096)) s.cur.pc)))
  ∧ ∀ (o : ZRedOp) (s : State), s.readyX o.t → s.readyV o.w o.d →
    let n := 256 / (ftyFF o.m.ty).width
    let x := (s.x o.t).toNat
    let el := fun k : Nat => zelem ((s.core s.cur.core).z[accOfReg o.z]) (64 * (x % 64) + x / 64 + k)
    let inside := decide (x < 4096 ∧ x / 64 % n = 0 ∧ x / 64 + n * o.w.count ≤ 64)
    (s.canTrap → FirstFails s (.zred o) [(s.holdsZ (accOfReg o.z), s.refusedAs 0x0B), (inside, s.refusedAs 0x0C)])
    ∧ (s.holdsZ (accOfReg o.z) = true → s.zquiet (accOfReg o.z) = true → s.cur.tx.depth = 0 → s.noLimits → inside = true →
      ∃ t : State, ∃ c, exec (.zred o) s = .next t ∧ VectorOnly s t o.w o.d c
        ∧ (o.m.ty = .f32 → ∀ r l, r < o.w.count → l < 8 → t.laneOf o.d 32 r l = el (8 * r + l))
        ∧ (o.m.ty ≠ .f32 → ∀ r l, r < o.w.count → l < 16 →
          let v := ffF32.decode (el (16 * r + l))
          t.laneOf o.d 16 r l = ((ftyFF o.m.ty).finish v.exact (s.mode o.m.rm) o.m.sat (drawn (s.mode o.m.rm) (16 * r + l) s.lfsr) none
            v.isNan v.isInf).bits % 2 ^ 16))

/-- MMA with two bound rings of one format group, a ready panel in each, an accumulator held, no outstanding read that
holds its reads back and an array with room is not ready while a ZLD, ZST or LDROW of the strand still moves bytes of a panel; else it enters
an operation with the panels' bytes as they lie in local memory and claims a panel of each ring that it does not keep;
ZSCALE enters one with the 64 columns of its eight registers. Rings not bound or of different groups take ILLEGAL with
sub-code 0x0B. MMA_START starts the first operation that has not started. MMA_RETIRE of a started MMA at the front
adds, for int8 formats, to each element the sum of 32 products modulo 2^32, for the floating formats makes it the
once-rounded exact sum of the element (0 with the zero form) and the K products, consumes a panel of each ring not
kept, and removes the operation. ZSCALE_RETIRE multiplies each element by its column's factor, rounded once. That in sr
the 4,096 draws are taken at issue and go row by row is the model's choice (log entry 66). ZMOVE_COMPLETE moves one
unit of a ZLD or ZST. -/
def Obligations.MatrixArray : Prop :=
  (∀ (o : MmaOp) (s : State),
    let c := s.core s.cur.core
    let ra := s.ring s.cur.core o.qa.toNat
    let rb := s.ring s.cur.core o.qb.toNat
    (ra.count ≠ 0 → ra.troupe = s.cur.troupe → rb.count ≠ 0 → rb.troupe = s.cur.troupe → ringGroup ra.fmt = ringGroup rb.fmt →
        s.holdsZ (accOfReg o.z) = true → s.cur.tx.depth = 0 → s.mayAccess .rlx = true → (∀ x ∈ c.array, x.started = true) →
        s.zmoving s.cur.core (accOfReg o.z).val = false → ra.claim < ra.ready → rb.claim < rb.ready → o.qa.toNat < 8 → o.qb.toNat < 8 →
      (s.panelMoving ra = true ∨ s.panelMoving rb = true → exec (.mma o) s = .next { s with cur := { s.cur with stalled := true } })
      ∧ (s.panelMoving ra = false → s.panelMoving rb = false →
      ∃ t : State, exec (.mma o) s = .next t ∧ t.cur = s.wentOn.cur ∧ t.rest = s.rest ∧ t.mem = s.mem
        ∧ (t.core s.cur.core).array = c.array ++ [.mma s.cur.sid s.cur.troupe (accOfReg o.z).val o.qa.toNat o.qb.toNat (s.panel ra) (s.panel rb)
            o.keepa o.keepb o.zero false s.cur.pc]
        ∧ ∀ q : Nat, q < 8 → t.ring s.cur.core q = { s.ring s.cur.core q with
            claim := (s.ring s.cur.core q).claim + (if q = o.qa.toNat ∧ o.keepa = false then 1 else 0)
              + (if q = o.qb.toNat ∧ o.keepb = false then 1 else 0) }))
    ∧ (ra.count = 0 ∨ ra.troupe ≠ s.cur.troupe ∨ rb.count = 0 ∨ rb.troupe ≠ s.cur.troupe ∨ ringGroup ra.fmt ≠ ringGroup rb.fmt →
      s.canTrap → exec (.mma o) s = .next (s.delivered false 0x01 (wordsInfo s.ir).1 (wordsInfo s.ir).2 0x0B 0 s.cur.pc))
    ∧ (s.poison = [] → (s.panel ra).fmt = ra.fmt
      ∧ (s.panel ra).rows = (List.range 2048).map (fun k =>
          s.byte (lmAddr s.cur.core (ra.base + 2048 * ((ra.head + ra.claim) % ra.count)) + k))))
  ∧ (∀ (o : ZScaleOp) (s : State), s.readyV .g8 o.a → s.holdsZ (accOfReg o.z) = true → s.cur.tx.depth = 0 →
    (∀ x ∈ (s.core s.cur.core).array, x.started = true) → s.zmoving s.cur.core (accOfReg o.z).val = false →
    ∃ t : State, ∃ cols : List Quad, exec (.zscale o) s = .next t ∧ t.mem = s.mem ∧ t.cur.pc = s.wentOn.cur.pc ∧ t.cur.x = s.cur.x ∧ t.cur.v = s.cur.v
      ∧ t.lfsr = (if s.mode o.rm = .sr then lfsrSteps 4096 s.lfsr else s.lfsr)
      ∧ (t.core s.cur.core).array = (s.core s.cur.core).array ++
          [.zscale s.cur.sid s.cur.troupe (accOfReg o.z).val (s.mode o.rm) o.sat s.lfsr cols false s.cur.pc]
      ∧ ∀ k : Nat, k < 64 → cols[k]? = some (BitVec.ofNat 32 (s.laneOf o.a 32 (k / 8) (k % 8))))
  ∧ (∀ (s : State) (l r : List ArrayOp) (sid uid z qa qb : Nat) (a b : Panel) (ka kb zo : Bool) (pc : Word),
    (s.core s.arg.id).array = l ++ .mma sid uid z qa qb a b ka kb zo false pc :: r → (∀ x ∈ l, x.started = true) →
    ∃ t : State, exec .mmaStart s = .next t ∧ t.core s.arg.id = { s.core s.arg.id with
        array := l ++ .mma sid uid z qa qb a b ka kb zo true pc :: r } ∧ t.cur = s.cur ∧ t.rest = s.rest ∧ t.mem = s.mem)
  ∧ (∀ (s : State) (sid uid qa qb : Nat) (z : Fin 2) (a b : Panel) (ka kb zo : Bool) (pc : Word) (r : List ArrayOp),
    let c := s.core s.arg.id
    let z0 := c.z[z]
    let acc := fun n : Nat => if zo then 0 else zelem z0 n
    c.array = .mma sid uid z.val qa qb a b ka kb zo true pc :: r → c.zfreeing[z] = false → (∀ k : Fin 5, (s.troupe uid).alimit[k] = 0) →
    ∃ t : State, exec .mmaRetire s = .next t ∧ (t.core s.arg.id).array = r ∧ t.cur = s.cur ∧ t.rest = s.rest ∧ t.mem = s.mem
      ∧ (∀ y : Fin 2, y ≠ z → (t.core s.arg.id).z[y] = c.z[y])
      ∧ (ringGroup a.fmt = 7 → ringGroup b.fmt = 7 →
        let el := fun (p : Panel) (i k : Nat) => let v := p.rows.getD (32 * i + k) 0; if p.fmt = 6 then v.toInt else (v.toNat : Int)
        ∀ (i : Nat) (j : Nat), i < 64 → j < 64 →
          BitVec.ofNat 32 (zelem ((t.core s.arg.id).z[z]) (64 * i + j)) = BitVec.ofInt 32 (((List.range 32).map (fun k => el a i k * el b j k)).sum)
            + BitVec.ofNat 32 (acc (64 * i + j)))
      ∧ (ringGroup a.fmt ≠ 7 → ∀ (i : Nat) (j : Nat), i < 64 → j < 64 →
          zelem ((t.core s.arg.id).z[z]) (64 * i + j) = matrixSum (ffF32.decode (acc (64 * i + j)) ::
            (List.range (ringK a.fmt)).map (fun k => Machine.Num.mul (a.value i k) (b.value j k))) % 2 ^ 32)
      ∧ ∀ q : Nat, q < 8 → let x := s.ring s.arg.id q
          x.count ≠ 0 → x.troupe = uid → qa ≠ qb →
          t.ring s.arg.id q = (if q = qa ∧ ka = false ∨ q = qb ∧ kb = false then
            { x with head := (x.head + 1) % x.count, ready := x.ready - 1, claim := x.claim - 1 } else x))
  ∧ (∀ (s : State) (sid uid : Nat) (z : Fin 2) (rm : Rm) (sat : Bool) (l : Quad) (cols : List Quad) (pc : Word) (r : List ArrayOp),
    let c := s.core s.arg.id
    let z0 := c.z[z]
    c.array = .zscale sid uid z.val rm sat l cols true pc :: r → c.zfreeing[z] = false → (∀ k : Fin 5, (s.troupe uid).alimit[k] = 0) →
    ∃ t : State, exec .zscaleRetire s = .next t ∧ (t.core s.arg.id).array = r ∧ t.cur = s.cur ∧ t.rest = s.rest ∧ t.mem = s.mem
      ∧ (∀ y : Fin 2, y ≠ z → (t.core s.arg.id).z[y] = c.z[y])
      ∧ ∀ n : Nat, n < 4096 → zelem ((t.core s.arg.id).z[z]) n =
          (ffF32.bin .mul (zelem z0 n) ((cols.getD (n % 64) 0).toNat) rm sat (drawn rm n l)).bits % 2 ^ 32)
  ∧ ∀ (s : State) (m : Move) (z : Fin 2), s.moves.find? (fun m => m.id == s.arg.id) = some m → m.z = z.val → m.left ≠ [] →
    (∀ u ∈ m.left, u < 2048) → s.poison = [] → Safe s →
    ∃ t : State, ∃ u : Nat, exec .zmoveComplete s = .next t ∧ u ∈ m.left ∧ (∀ x ∈ t.moves, x.id = m.id → x.left ≠ [] ∧ u ∉ x.left)
      ∧ (m.store = false → t.mem = s.mem ∧ ∀ n : Nat, n < 4096 →
          zelem ((t.core m.core).z[z]) n = if n / 2 = u then Memory.readN s.mem (lmAddr m.core m.lm + 4 * n) 4
            else zelem ((s.core m.core).z[z]) n)
      ∧ (m.store = true → SameBytesBut s t (lmAddr m.core m.lm + 8 * u) 8
          ∧ Memory.readN t.mem (lmAddr m.core m.lm + 8 * u) 8 = (s.core m.core).z[z].toNat / 2 ^ (64 * u) % 2 ^ 64)

/-- With full registers, nothing that holds it back, outside a transaction, an aligned REM pointer and a channel that
is bound and open: PUTR, PUTV and FLAGR enter one hub command in the channel's queue, with the bytes or the value,
their counter, credit and mask; AMOR and GETR send one remote request and leave their registers empty; the strand goes
on. A misaligned pointer takes MISALIGN, a pointer of another space SPACE. ACCEPT_CHANNEL_COMMAND of the only queued
command forms a counted WRITE with the channel's next sequence number, or a FLAG with its next flag number that waits
for the writes before it, journals and sends it, so that its receiver rebuilds those bytes. REMOTE_REQUEST_SEND gives
a request a free tag and sends it. -/
def Obligations.SpanCommands : Prop :=
  (∀ (o : PutOp) (s : State) (i : Instr) (n : Nat) (kind : CmdKind) (mask : Nat),
    (i = .putr o ∧ n = 2 ^ o.size.toNat ∧ kind = .put (s.x o.a) (natBytes n (s.x o.d).toNat) ∧ mask = o.mask.toNat ∧ s.readyX o.d)
      ∨ (i = .putv o ∧ n = 32 * o.w.count ∧ mask = o.mask.toNat ∧ s.readyV o.w o.d
          ∧ kind = .put (s.x o.a) (((List.range o.w.count).map (fun k => natBytes 32 (s.v (inGroup o.d k)).toNat)).flatten))
      ∨ (i = .flagr o ∧ n = 8 ∧ kind = .flag (s.x o.a) (s.x o.d) ∧ mask = 0 ∧ s.readyX o.d) →
    s.readyX o.a → s.mayAccess .rlx = true →
    (ptrOff (s.x o.a) % n = 0 → away (s.x o.a) → s.channelOpen → s.cur.tx.depth = 0 → s.outstanding s.cur.sid < 32 →
      ∃ t : State, ∃ c : Cmd, exec i s = .next t ∧ t.cmds = s.cmds ++ [c] ∧ c.id = s.nextId ∧ c.sid = s.cur.sid ∧ c.kind = kind ∧ c.k = o.q.k.toNat
        ∧ c.amount = (if o.q.bytes then n else 1) ∧ c.chan = s.cur.sr.chan.toNat % 4096 ∧ c.mask = mask ∧ c.state = .channel
        ∧ (∀ h : SendChan, s.send? c.chan = some h → ∃ h' : SendChan, t.send? c.chan = some h' ∧ h'.queue = h.queue ++ [c.id] ∧ h'.nextSeq = h.nextSeq)
        ∧ t.cur = s.wentOn.cur ∧ t.rest = s.rest ∧ t.mem = s.mem)
    ∧ (ptrOff (s.x o.a) % n ≠ 0 → s.canTrap → exec i s = .next (s.misplaced 4 (s.x o.a) 1 n))
    ∧ (ptrOff (s.x o.a) % n = 0 → ¬away (s.x o.a) → s.canTrap → exec i s = .next (s.misplaced 5 (s.x o.a) 1 n)))
  ∧ (∀ (o : AmorOp) (s : State), s.readyX o.a → s.readyX o.b → s.readyX o.d → s.mayAccessRem o.o = true → away (s.x o.a) →
    ptrOff (s.x o.a) % (if o.wide then 8 else 4) = 0 → s.channelOpen → s.cur.tx.depth = 0 →
    ∃ t : State, ∃ r : Req, exec (.amor o) s = .next t ∧ t.reqs = s.reqs ++ [r] ∧ r.order = o.o ∧ r.state = .sent
      ∧ s.sends r (.remAmo o.op.toNat (if o.wide then 8 else 4) (decide (o.op.toNat ∉ [6, 7, 10, 11])) (s.x o.b) (s.x o.d) o.d) (s.x o.a) 0
      ∧ t.cur = ({ s with cur := s.cur.emptyX o.d }.wentOn).cur ∧ t.rest = s.rest ∧ t.mem = s.mem)
  ∧ (∀ (o : MEM) (s : State), s.readyX o.a → (∀ q ∈ groupRegs o.w o.d, s.readyX q) → s.mayAccessRem o.o = true →
    let p := padd (s.x o.a) o.imm
    away p → ptrOff p % (8 * o.w.count) = 0 → s.channelOpen → s.cur.tx.depth = 0 →
    ∃ t : State, ∃ r : Req, exec (.getr o) s = .next t ∧ t.reqs = s.reqs ++ [r] ∧ r.state = .sent ∧ s.sends r (.remRead (8 * o.w.count) false o.d false) p 0
      ∧ t.cur.x = s.cur.x ∧ t.cur.v = s.cur.v ∧ t.cur.pc = s.wentOn.cur.pc ∧ t.rest = s.rest ∧ t.mem = s.mem
      ∧ ∀ q : Reg, t.cur.fullX q = true ↔ q = 0 ∨ s.cur.fullX q = true ∧ q ∉ groupRegs o.w o.d)
  ∧ (∀ (s : State) (h : SendChan) (c : Cmd), s.send? s.arg.id = some h → h.state = 1 → h.queue = [c.id] → s.cmd? c.id = some c →
    c.state = .channel → c.chan = h.num → c.bound = none →
    (∀ (dst : Word) (data : List Byte) (place : Nat) (pad : Option Nat), c.kind = .put dst data → data.length ≤ 256 → (h.nextSeq - h.landed).toNat ≤ 2048 →
        h.room (jrecSize data.length) = some (place, pad) →
      ∃ t : State, ∃ (h' : SendChan) (j : JRec), exec .acceptChannelCommand s = .next t ∧ t.send? h.num = some h' ∧ h'.nextSeq = h.nextSeq + 1 ∧ h'.queue = []
        ∧ h'.journal = h.journal ++ [j] ∧ j.seq = h.nextSeq ∧ j.payload = data ∧ j.flag = false ∧ j.offset.toNat = ptrOff dst
        ∧ t.cmd? c.id = none
        ∧ (s.Reaches (BitVec.ofNat 12 (ptrOwner dst)) → ∃ q : Packet, t.hub.outbox = s.hub.outbox ++ [q] ∧ q.ptype = 1 ∧ q.seq = h.nextSeq
            ∧ q.chan = h.peerAcc ∧ q.offset.toNat = ptrOff dst ∧ rebuilt q = data ∧ q.check = packetCheck q))
    ∧ (∀ (dst : Word) (v : Word) (place : Nat) (pad : Option Nat), c.kind = .flag dst v → h.flagsOut < 16 → h.room 32 = some (place, pad) →
      ∃ t : State, ∃ (h' : SendChan) (j : JRec) (c' : Cmd), exec .acceptChannelCommand s = .next t ∧ t.send? h.num = some h' ∧ h'.nextFlag = (if h.nextFlag = BitVec.allOnes 32 then 1 else h.nextFlag + 1)
        ∧ h'.flagsOut = h.flagsOut + 1 ∧ h'.nextSeq = h.nextSeq ∧ h'.queue = [] ∧ h'.journal = h.journal ++ [j] ∧ j.flag = true
        ∧ j.flagno = h.nextFlag ∧ j.value = v ∧ t.cmd? c.id = some c' ∧ c' = { c with state := .sent }
        ∧ (s.Reaches (BitVec.ofNat 12 (ptrOwner dst)) → ∃ q : Packet, t.hub.outbox = s.hub.outbox ++ [q] ∧ q.ptype = 2 ∧ q.seq = h.nextSeq - 1
            ∧ q.flagno = h.nextFlag ∧ q.a = v ∧ q.offset.toNat = ptrOff dst)))
  ∧ ∀ (s : State) (r : Req) (h : SendChan), s.req? s.arg.id = some r → r.state = .sent → r.order.releases = false → s.send? r.chan = some h →
    (∃ k : Nat, k < 8192 ∧ ∀ x ∈ s.hub.tags, x.1 ≠ k) → s.Reaches (BitVec.ofNat 12 (ptrOwner r.ptr)) →
    (∀ (op : Nat) (n : Nat) (sg : Bool) (a : Word) (b : Word) (d : Reg), r.kind = .remAmo op n sg a b d → 0 < n →
      ∃ t : State, ∃ (q : Packet) (tag : Nat), s.TagTaken t r tag ∧ exec .remoteRequestSend s = .next t ∧ t.hub.outbox = s.hub.outbox ++ [q] ∧ q.ptype = 3
        ∧ q.tag = BitVec.ofNat 32 (tag + 8192 * s.generation tag) ∧ q.chan = h.peerAcc ∧ q.offset.toNat = ptrOff r.ptr
        ∧ q.op = BitVec.ofNat 8 op ∧ q.size = BitVec.ofNat 8 n ∧ q.a = a ∧ q.b = b)
    ∧ (∀ (n : Nat) (sg : Bool) (d : Reg) (vec : Bool), r.kind = .remRead n sg d vec → 0 < n →
      ∃ t : State, ∃ (q : Packet) (tag : Nat), s.TagTaken t r tag ∧ exec .remoteRequestSend s = .next t ∧ t.hub.outbox = s.hub.outbox ++ [q] ∧ q.ptype = 4
        ∧ q.tag = BitVec.ofNat 32 (tag + 8192 * s.generation tag) ∧ q.chan = h.peerAcc ∧ q.offset.toNat = ptrOff r.ptr
        ∧ q.length = BitVec.ofNat 16 n)

/-- A WRITE on an open channel from its peer, new and inside the window, whose target translates, is entered with its payload, its units
still to be performed, each a word, or of a packet so marked a vector register (log entry 37); one whose target fails, or a narrow unit of
which meets a poisoned word, enters with none and its status is kept. One already landed or under way, or outside the window, changes no
memory and enters nothing: a number at or below the low-water mark is answered with a LANDED when none was sent in the last 5 µs, one
outside the window is reported with kind 2. WRITE_LANDS performs one of the units, which is then left no more; with the last one the write
lands: its number is set, and the low-water mark passes every number that has landed in a row. A FLAG in turn whose writes have landed
writes its 8 bytes, moves the flag number on and is answered by a LANDED with it; another one is held, in the table while it has room;
FLAG_RELEASE releases a held one of the table whose turn has come. AMO reads and writes its bytes at the home by the operation's rule and is
answered with the old bytes; READ is answered with the bytes. LANDED moves the sender's landed number on, frees the writes it covers, and
with a flag number ends the flag's command; on a broken channel it moves nothing. GAP resends what it lists, and of round 9 breaks the
channel. RESPONSE completes its request: its registers hold the bytes, extended, or 0 with the trap of a failure status; one of an old
generation is dropped and counted. That these steps are taken in free order is the model's choice (log entry 19). -/
def Obligations.SpanArrivals : Prop :=
  (∀ (s : State) (p : Packet) (a : AccChan), s.Asks 1 p a →
    (∀ (s2 : State) (as : List Nat), atOrBelow p.seq a.lwm = false → (p.seq - a.lwm).toNat ≤ 2048 → a.landed p.seq = false →
        (∀ l ∈ s.hub.landings, ¬(l.chan = a.num ∧ l.seq = p.seq)) →
        remoteTarget s a.job p.offset p.payload.length (p.flags.toNat / 16) false true (·.write) = (s2, .ok as) →
      let units := (as.map (fun x => copyUnits x p.payload.length p.vector)).flatten
      ((∀ u ∈ units, s.refusesWrite u.1 u.2.2 = false) →
        ∃ t : State, ∃ l : Landing, exec .write s = .next t ∧ t.hub.landings = s.hub.landings ++ [l] ∧ l.chan = a.num ∧ l.seq = p.seq ∧ l.payload = p.payload
          ∧ l.left = units ∧ t.mem = s.mem ∧ t.acc? a.num = some a)
      ∧ ((∃ u ∈ units, s.refusesWrite u.1 u.2.2 = true) →
        ∃ t : State, ∃ (l : Landing) (a' : AccChan), exec .write s = .next t ∧ t.hub.landings = s.hub.landings ++ [l] ∧ l.chan = a.num ∧ l.seq = p.seq
          ∧ l.left = [] ∧ t.mem = s.mem ∧ t.acc? a.num = some a' ∧ a'.failed = (if a.failed = 0 then 3 else a.failed)))
    ∧ (∀ (s2 : State) (st : Nat), atOrBelow p.seq a.lwm = false → (p.seq - a.lwm).toNat ≤ 2048 → a.landed p.seq = false →
        (∀ l ∈ s.hub.landings, ¬(l.chan = a.num ∧ l.seq = p.seq)) →
        remoteTarget s a.job p.offset p.payload.length (p.flags.toNat / 16) false true (·.write) = (s2, .error st) →
      ∃ t : State, ∃ (l : Landing) (a' : AccChan), exec .write s = .next t ∧ t.hub.landings = s.hub.landings ++ [l] ∧ l.chan = a.num ∧ l.seq = p.seq ∧ l.left = []
        ∧ t.mem = s.mem ∧ t.acc? a.num = some a' ∧ a'.failed = (if a.failed = 0 then st else a.failed))
    ∧ (atOrBelow p.seq a.lwm = true → ∃ t : State, exec .write s = .next t ∧ t.mem = s.mem ∧ t.hub.landings = s.hub.landings
        ∧ ((∃ τ : Nat, a.lastLanded = some τ ∧ s.now < τ + 5000) → t = s)
        ∧ ((∀ τ : Nat, a.lastLanded = some τ → τ + 5000 ≤ s.now) → s.Reaches a.peer → ∃ q : Packet, t.hub.outbox = s.hub.outbox ++ [q]
            ∧ q.ptype = 5 ∧ q.dst = a.peer ∧ q.chan = a.peerSend ∧ q.seq = a.lwm ∧ q.flagno = 0))
    ∧ (atOrBelow p.seq a.lwm = false → (p.seq - a.lwm).toNat ≤ 2048 →
        a.landed p.seq = true ∨ (∃ l ∈ s.hub.landings, l.chan = a.num ∧ l.seq = p.seq) → exec .write s = .next s)
    ∧ (atOrBelow p.seq a.lwm = false → 2048 < (p.seq - a.lwm).toNat → ∃ t : State, exec .write s = .next t ∧ t.mem = s.mem
        ∧ t.hub.landings = s.hub.landings ∧ t.hub.accs = s.hub.accs ∧ t.mgmt.sent = s.mgmt.sent ++
          [.fabric 2 0 a.job a.num a.peer.toNat ((s.eventsOf 2 + 1) % 2 ^ 32) (a.lwm.setWidth 64) s.now]))
  ∧ (∀ (s : State) (a : AccChan) (l : Landing), s.acc? s.arg.id = some a →
    s.hub.landings.find? (fun x => x.chan == s.arg.id && x.seq == BitVec.ofNat 32 s.arg.sel) = some l →
    s.Quiet → s.poison = [] → Safe s →
    (l.left ≠ [] → (∀ u ∈ l.left, addrSpace u.1 ∈ [1, 2, 3] ∧ u.2.1 + u.2.2 ≤ l.payload.length) →
      ∃ t : State, ∃ u : Nat × Nat × Nat, exec .writeLands s = .next t ∧ u ∈ l.left ∧ SameBytesBut s t u.1 u.2.2
        ∧ Memory.bytes t.mem u.1 u.2.2 = (l.payload.drop u.2.1).take u.2.2
        ∧ ((∃ v ∈ l.left, v ≠ u) → t.acc? a.num = some a
          ∧ t.hub.landings.find? (fun x => x.chan == s.arg.id && x.seq == l.seq) = some { l with left := l.left.filter (fun v => v ≠ u) })
        ∧ ((∀ v ∈ l.left, v = u) → 1 ≤ (l.seq - a.lwm).toNat → (l.seq - a.lwm).toNat ≤ 2048 → Lands s t a l.seq))
    ∧ (l.left = [] → ∃ t : State, exec .writeLands s = .next t ∧ t.mem = s.mem
        ∧ (1 ≤ (l.seq - a.lwm).toNat → (l.seq - a.lwm).toNat ≤ 2048 → Lands s t a l.seq)))
  ∧ (∀ (s : State) (p : Packet) (a : AccChan), s.Asks 2 p a →
    (∀ (s2 : State) (x : Nat), p.flagno = a.nextFlag → p.flagno ≠ 0 → atOrBelow p.seq a.lwm = true → (∀ h ∈ s.hub.flags, ¬(h.chan = a.num ∧ h.flagno = p.flagno)) →
        remoteTarget s a.job p.offset 8 0 false true (·.write) = (s2, .ok [x]) → addrSpace x ∈ [1, 2, 3] → (∀ j ∈ s.jobs, j.matchCount = 0) →
        s.Quiet → Safe s →
      ∃ t : State, exec .flag s = .next t ∧ FlagReleased s t a p.flagno x p.a)
    ∧ (precedes p.flagno a.nextFlag = false → p.flagno ≠ a.nextFlag ∨ atOrBelow p.seq a.lwm = false →
        (∀ h ∈ s.hub.flags, ¬(h.chan = a.num ∧ h.flagno = p.flagno)) → (s.hub.flags.filter (·.hardware)).length < 4096 →
      ∃ t : State, ∃ h : HeldFlag, exec .flag s = .next t ∧ t.mem = s.mem ∧ t.hub.flags = s.hub.flags ++ [h] ∧ h.chan = a.num ∧ h.flagno = p.flagno
        ∧ h.hardware = true ∧ h.through = p.seq ∧ h.offset = p.offset ∧ h.value = p.a)
    ∧ (precedes p.flagno a.nextFlag = true → ∃ t : State, exec .flag s = .next t ∧ t.mem = s.mem ∧ t.hub.flags = s.hub.flags))
  ∧ (∀ (s s2 : State) (a : AccChan) (h : HeldFlag) (x : Nat), s.acc? s.arg.id = some a → a.state = 1 → s.releasable a = some h → h.flagno ≠ 0 →
    h.hardware = true → remoteTarget s a.job h.offset 8 0 false true (·.write) = (s2, .ok [x]) → addrSpace x ∈ [1, 2, 3] → (∀ j ∈ s.jobs, j.matchCount = 0) →
    s.Quiet → Safe s → ∃ t : State, exec .flagRelease s = .next t ∧ FlagReleased s t a h.flagno x h.value)
  ∧ (∀ (s s2 : State) (p : Packet) (a : AccChan) (x : Nat), s.Asks 3 p a → p.op.toNat ≤ 0x0B → p.size = 4 ∨ p.size = 8 →
    remoteTarget s a.job p.offset p.size.toNat 0 false false (·.atomic) = (s2, .ok [x]) → addrSpace x ∈ [1, 2, 3] →
    s.anyPoison x p.size.toNat = false → s.Quiet → Safe s → s.Reaches p.src →
    let n := p.size.toNat
    let old := Memory.readN s.mem x n
    ∃ t : State, ∃ q : Packet, exec .amo s = .next t ∧ SameBytesBut s t x n
      ∧ Memory.readN t.mem x n = ((AtomicRule p.op.toNat n old (p.a.toNat % 2 ^ (8 * n)) (p.b.toNat % 2 ^ (8 * n))).getD old) % 2 ^ (8 * n)
      ∧ t.hub.outbox = s.hub.outbox ++ [q] ∧ q.ptype = 7 ∧ q.dst = p.src ∧ q.tag = p.tag ∧ q.op = 0 ∧ rebuilt q = Memory.bytes s.mem x n)
  ∧ (∀ (s s2 : State) (p : Packet) (a : AccChan), s.Asks 4 p a → s.Reaches p.src → p.length.toNat ≤ 256 →
    (∀ x : Nat, remoteTarget s a.job p.offset p.length.toNat 0 true false (·.read) = (s2, .ok [x]) → s.anyPoison x p.length.toNat = false → s.Quiet →
      ∃ t : State, ∃ q : Packet, exec .read s = .next t ∧ t.mem = s.mem ∧ t.hub.outbox = s.hub.outbox ++ [q] ∧ q.ptype = 7 ∧ q.dst = p.src ∧ q.tag = p.tag
        ∧ q.op = 0 ∧ rebuilt q = Memory.bytes s.mem x p.length.toNat)
    ∧ (∀ st : Nat, remoteTarget s a.job p.offset p.length.toNat 0 true false (·.read) = (s2, .error st) →
      ∃ t : State, ∃ q : Packet, exec .read s = .next t ∧ t.mem = s.mem ∧ t.hub.outbox = s.hub.outbox ++ [q] ∧ q.ptype = 7 ∧ q.dst = p.src ∧ q.tag = p.tag
        ∧ q.op = BitVec.ofNat 8 st ∧ q.payload = []))
  ∧ (∀ (s : State) (p : Packet) (h : SendChan), s.Replies 5 p h →
    let landed := if precedes h.landed p.seq then p.seq else h.landed
    (h.state = 3 → ∃ t : State, exec .landed s = .next t ∧ t.hub.sends = s.hub.sends ∧ t.cmds = s.cmds ∧ t.cur = s.cur ∧ t.rest = s.rest ∧ t.mem = s.mem)
    ∧ (h.state ≠ 3 → p.flagno = 0 → ∃ t : State, ∃ h' : SendChan, exec .landed s = .next t ∧ t.send? h.num = some h' ∧ h'.landed = landed ∧ h'.flagsOut = h.flagsOut
        ∧ h'.journal = h.journal.filter (fun j => j.flag || !atOrBelow j.seq landed) ∧ t.cmds = s.cmds ∧ t.mem = s.mem)
    ∧ (∀ (j : JRec) (c : Cmd), h.state ≠ 3 → p.flagno ≠ 0 → h.journal.find? (fun j => j.flag && j.flagno == p.flagno) = some j → s.cmd? j.cmd = some c → c.bound = none →
        p.op = 0 → ∀ u : Strand, s.strand? c.sid = some u → u.wait = none → c.k < 16 →
      ∃ t : State, ∃ (h' : SendChan) (u' : Strand), exec .landed s = .next t ∧ t.send? h.num = some h' ∧ h'.landed = landed ∧ h'.flagsOut = h.flagsOut - 1
        ∧ t.cmd? c.id = none ∧ t.strand? c.sid = some u' ∧ t.mem = s.mem
        ∧ u'.getK (BitVec.ofNat 4 c.k) = u.getK (BitVec.ofNat 4 c.k) + BitVec.ofNat 32 (if c.bytes then c.credit else 1)))
  ∧ (∀ (s : State) (p : Packet) (h : SendChan), s.Replies 6 p h → h.state ≠ 3 →
    (fieldAt p.payload 4 4 = 9 → (∀ c ∈ s.cmds, c.bound = none) → ∃ t : State, ∃ h' : SendChan, exec .gap s = .next t ∧ t.send? h.num = some h' ∧ h'.state = 3 ∧ h'.journal = [] ∧ h'.queue = [] ∧ t.mem = s.mem)
    ∧ (∀ (first : Nat) (n : Nat), fieldAt p.payload 4 4 ≠ 9 → fieldAt p.payload 0 4 = 1 → fieldAt p.payload 8 4 = first → fieldAt p.payload 12 4 = n → n < 2 ^ 31 →
        s.Reaches h.peer → (∀ j ∈ h.journal, j.payload.length ≤ 256) →
      ∃ t : State, ∃ l : List Packet, exec .gap s = .next t ∧ t.hub.outbox = s.hub.outbox ++ l ∧ t.mem = s.mem ∧ (∀ q ∈ l, q.ptype = 1 ∧ q.dst = h.peer ∧ q.chan = h.peerAcc)
        ∧ l.map (fun q => (q.seq, rebuilt q)) =
          (h.journal.filter (fun j => !j.flag && decide ((j.seq - BitVec.ofNat 32 first).toNat < n))).map (fun j => (j.seq, j.payload))))
  ∧ (∀ (s : State) (p : Packet), s.Arrives 7 p → (∀ x ∈ s.hub.tags, ¬(x.1 = p.tag.toNat % 8192 ∧ x.2.1 = p.tag.toNat / 8192)) →
    ∃ t : State, exec .response s = .next t ∧ t.cur = s.cur ∧ t.rest = s.rest ∧ t.mem = s.mem ∧ t.reqs = s.reqs ∧ t.hub.tags = s.hub.tags
      ∧ t.eventsOf 0 = (s.eventsOf 0 + 1) % 2 ^ 32)
  ∧ ∀ (s : State) (p : Packet) (gen : Nat) (r : Req) (n : Nat) (sg : Bool) (d : Reg) (vec : Bool) (u : Strand), s.Arrives 7 p →
    s.hub.tags.find? (fun x => x.1 == p.tag.toNat % 8192 && x.2.1 == p.tag.toNat / 8192) = some (p.tag.toNat % 8192, gen, r.id) →
    s.req? r.id = some r → (r.kind = .remRead n sg d vec ∨ ∃ (op : Nat) (a : Word) (b : Word), r.kind = .remAmo op n sg a b d) →
    n ∈ [1, 2, 4, 8, 16, 32, 64] → s.strand? r.sid = some u →
    (p.op = 0 → ∃ t : State, ∃ u' : Strand, exec .response s = .next t ∧ t.req? r.id = none ∧ (∀ x ∈ t.hub.tags, x.1 ≠ p.tag.toNat % 8192) ∧ t.mem = s.mem
        ∧ t.strand? r.sid = some u' ∧ (∀ e ∈ remX r.kind (leNat p.payload), u'.fullX e.1 = true ∧ u'.getX e.1 = if e.1 = 0 then 0 else e.2)
        ∧ (r.kind = .remRead n sg d true → u'.fullV d = true ∧ u'.getV d = BitVec.ofNat 256 (leNat p.payload))
        ∧ (∀ q : Reg, (∀ e ∈ remX r.kind 0, e.1 ≠ q) → u'.getX q = u.getX q) ∧ (∀ q : Reg, q ≠ d → u'.getV q = u.getV q) ∧ u'.pc = u.pc)
    ∧ (p.op = 1 ∨ p.op = 2 ∨ p.op = 3 → u.mode ≠ .stopped 5 → u.pend.length < 16 →
      ∃ t : State, ∃ (u' : Strand) (x : Trap), exec .response s = .next t ∧ t.req? r.id = none ∧ t.mem = s.mem ∧ t.strand? r.sid = some u'
        ∧ (∀ e ∈ remX r.kind 0, u'.getX e.1 = 0) ∧ (r.kind = .remRead n sg d true → u'.getV d = 0)
        ∧ u'.pend = u.pend ++ [x] ∧ x.cause = (if p.op = 1 then .translate else if p.op = 2 then .protect else .poison) ∧ x.c0 = r.ptr
        ∧ x.c3 = BitVec.ofNat 64 ((if p.op = 3 then 0x20 else 0) + 2 ^ 8))

/-- LANDED_TIMER sends a LANDED with the low-water mark when 512 numbers have passed since the last, or some have and none
was sent in the last 5 µs; out of its time it changes nothing (log entry 19). GAP_TIMEOUT of a channel that has had a
gap for its time sends a GAP of the next round, and after round 8 breaks the channel: its held flags go and a GAP of
round 9 is sent. SENDER_TIMEOUT resends the last journal record and counts a round, and after 8 rounds breaks the
channel. REMOTE_TIMEOUT ends an overdue request: 0 in its register, the tag free with its generation raised,
REMOTE_TIMEOUT pending. CHANNEL_DRAINED closes a draining channel whose work is over. PORT_REMOVAL takes a port, 64
consecutive drops of which lie within 1 ms, out of every route and reports it, and without such drops does nothing.
Each leaves memory as it is, where no command of a continuation object ends with it. HOST_RDMA_WRITE and HOST_RDMA_READ
inside one word of a region with the right, through the job's mapping, write those bytes or answer them as they stand
with everything outstanding merged, and are acknowledged; with nothing outstanding no other byte changes. A key that
names no region, a missing right, a range that leaves the region, a mapping that fails for the first word, or a poisoned
word that a read or a narrower write meets is answered by a NAK and reported with kind 7, and changes no memory. -/
def Obligations.HubTimersAndHostAccesses : Prop :=
  (∀ (s : State) (a : AccChan), s.acc? s.arg.id = some a → a.state = 1 → s.Reaches a.peer →
    (512 ≤ (a.lwm - a.since).toNat ∨ a.lwm ≠ a.since ∧ (∀ τ : Nat, a.lastLanded = some τ → τ + 5000 ≤ s.now) →
      ∃ t : State, ∃ (q : Packet) (a' : AccChan), exec .landedTimer s = .next t ∧ t.hub.outbox = s.hub.outbox ++ [q] ∧ q.ptype = 5 ∧ q.dst = a.peer ∧ q.chan = a.peerSend
        ∧ q.seq = a.lwm ∧ q.flagno = 0 ∧ t.acc? a.num = some a' ∧ a'.since = a.lwm ∧ a'.lwm = a.lwm ∧ a'.lastLanded = some s.now ∧ t.mem = s.mem)
    ∧ ((a.lwm - a.since).toNat < 512 → a.lwm = a.since ∨ (∃ τ : Nat, a.lastLanded = some τ ∧ s.now < τ + 5000) → exec .landedTimer s = .next s)
    ∧ (s.hasGap a = true → a.gapStart + a.gapUs * 1000 ≤ s.now →
      (a.round < 8 → ∃ t : State, ∃ (q : Packet) (a' : AccChan), exec .gapTimeout s = .next t ∧ t.hub.outbox = s.hub.outbox ++ [q] ∧ q.ptype = 6 ∧ q.dst = a.peer
          ∧ q.chan = a.peerSend ∧ q.seq = a.lwm ∧ fieldAt q.payload 4 4 = a.round + 1 ∧ t.acc? a.num = some a' ∧ a'.round = a.round + 1
          ∧ a'.gapStart = s.now ∧ a'.state = 1 ∧ t.mem = s.mem)
      ∧ (a.round = 8 → (∀ h ∈ s.hub.flags, h.hardware = true) → ∃ t : State, ∃ (q : Packet) (a' : AccChan), exec .gapTimeout s = .next t ∧ t.hub.outbox = s.hub.outbox ++ [q] ∧ q.ptype = 6 ∧ fieldAt q.payload 4 4 = 9
          ∧ t.acc? a.num = some a' ∧ a'.state = 2 ∧ (∀ h ∈ t.hub.flags, h.chan ≠ a.num) ∧ t.mem = s.mem)))
  ∧ (∀ (s : State) (h : SendChan) (j : JRec), s.send? s.arg.id = some h → h.state = 1 ∨ h.state = 2 → h.progress + 2 * h.gapUs * 1000 ≤ s.now →
    h.journal.getLast? = some j → j.payload.length ≤ 256 → s.Reaches h.peer →
    (h.rounds < 8 → ∃ t : State, ∃ (q : Packet) (h' : SendChan), exec .senderTimeout s = .next t ∧ t.hub.outbox = s.hub.outbox ++ [q] ∧ q.seq = j.seq ∧ q.flagno = j.flagno
        ∧ rebuilt q = j.payload ∧ q.ptype = (if j.flag then 2 else 1) ∧ t.send? h.num = some h' ∧ h'.rounds = h.rounds + 1
        ∧ h'.progress = s.now ∧ h'.state = h.state ∧ t.mem = s.mem)
    ∧ (8 ≤ h.rounds → ∃ t : State, ∃ h' : SendChan, exec .senderTimeout s = .next t ∧ t.send? h.num = some h' ∧ h'.state = 3 ∧ h'.journal = [] ∧ h'.queue = []
        ∧ ((∀ c ∈ s.cmds, c.bound = none) → t.mem = s.mem)))
  ∧ (∀ (s : State) (tag gen n : Nat) (sg : Bool) (d : Reg) (r : Req) (u : Strand),
    s.hub.tags.find? (fun t => t.1 == s.arg.id) = some (tag, gen, r.id) → s.req? r.id = some r → r.state = .sentRemote tag →
    r.kind = .remRead n sg d false → n ∈ [1, 2, 4, 8] → s.strand? r.sid = some u → u.mode ≠ .stopped 5 → u.pend.length < 16 →
    r.retryAt + 8 * ((s.send? r.chan).map (·.gapUs)).getD 50 * 1000 ≤ s.now →
    ∃ t : State, ∃ u' : Strand, exec .remoteTimeout s = .next t ∧ t.req? r.id = none ∧ (∀ x ∈ t.hub.tags, x.1 ≠ tag)
      ∧ t.generation tag = (s.generation tag + 1) % 2 ^ 19 ∧ t.mem = s.mem ∧ t.strand? r.sid = some u' ∧ u'.getX d = 0 ∧ u'.fullX d = true
      ∧ u'.pend = u.pend ++
        [⟨.remoteTimeout, r.ptr, 0, BitVec.ofNat 64 r.chan, BitVec.ofNat 64 (tag + 8192 * gen), s.now⟩])
  ∧ (∀ (s : State) (h : SendChan), s.send? s.arg.id = some h → h.state = 2 → h.queue = [] → (∀ c ∈ s.cmds, c.chan ≠ h.num) →
    h.nextSeq - 1 = h.landed → h.flagsOut = 0 →
    ∃ t : State, ∃ h' : SendChan, exec .channelDrained s = .next t ∧ t.send? h.num = some h' ∧ h' = { h with state := 0 } ∧ t.mem = s.mem ∧ t.cur = s.cur)
  ∧ (∀ s : State, s.arg.id < 36 → s.hub.removed.getLsbD s.arg.id = false →
    let times := (s.hub.drops.filter (fun d => d.1 == s.arg.id)).map (·.2)
    ((∃ (l m r : List Nat) (x y : Nat), times = l ++ x :: m ++ y :: r ∧ m.length = 62 ∧ y ≤ x + 1000000) →
      ∃ t : State, exec .portRemoval s = .next t ∧ t.hub.removed = s.hub.removed ||| ((1 : BitVec 36) <<< s.arg.id)
        ∧ (∀ dst : BitVec 12, (t.routeOf dst).getLsbD s.arg.id = false) ∧ t.mem = s.mem ∧ t.cur = s.cur
        ∧ t.mgmt.sent = s.mgmt.sent ++ [.fabric 3 0 0xFFFF s.arg.id 0 ((s.eventsOf 3 + 1) % 2 ^ 32) 0 s.now])
    ∧ ((∀ (l m r : List Nat) (x y : Nat), times = l ++ x :: m ++ y :: r → m.length = 62 → x + 1000000 < y) → exec .portRemoval s = .next s))
  ∧ ∀ s : State, s.mgmt.boot = 1 →
    let nak := fun (i : Instr) (job : Nat) (p : Word) => ∃ t : State, exec i s = .next t ∧ t.mem = s.mem ∧ t.strands = s.strands
      ∧ t.mgmt.sent = s.mgmt.sent ++ s.nakSent job p
    (s.region? s.arg.id = none → nak .hostRdmaWrite 0xFFFF 0 ∧ nak .hostRdmaRead 0xFFFF 0)
    ∧ ∀ g : Region, s.region? s.arg.id = some g →
      let p := ptrAt g.ptr s.arg.sel
      let room := 8 - ptrOff p % 8
      (let n := s.arg.bytes.length
       (g.w = false ∨ g.len < s.arg.sel + n → nak .hostRdmaWrite g.job p)
       ∧ (g.w = true → s.arg.sel + n ≤ g.len → 0 < n →
         (∀ (c : Cause) (reason level : Nat), lookup s 104 g.job p (min n room) false true false = .bad c reason level → nak .hostRdmaWrite g.job p)
         ∧ (∀ (a : Nat) (e : Option TlbEntry), n ≤ room → lookup s 104 g.job p n false true false = .good a e →
           (n < 8 → s.isPoison a = true → nak .hostRdmaWrite g.job p)
           ∧ (n = 8 ∨ s.isPoison a = false → Safe s →
             ∃ t : State, exec .hostRdmaWrite s = .next t ∧ Memory.bytes t.mem a n = s.arg.bytes
               ∧ t.mgmt.sent = s.mgmt.sent ++ [.rdmaAck s.arg.id] ∧ (s.Quiet → SameBytesBut s t a n)))))
      ∧ (let n := s.arg.nums.headD 0
         (g.r = false ∨ g.len < s.arg.sel + n → nak .hostRdmaRead g.job p)
         ∧ (g.r = true → s.arg.sel + n ≤ g.len → 0 < n →
           (∀ (c : Cause) (reason level : Nat), lookup s 104 g.job p (min n room) true false false = .bad c reason level → nak .hostRdmaRead g.job p)
           ∧ (∀ (a : Nat) (e : Option TlbEntry), n ≤ room → lookup s 104 g.job p n true false false = .good a e →
             (s.isPoison a = true → nak .hostRdmaRead g.job p)
             ∧ (s.isPoison a = false → ∃ t : State, exec .hostRdmaRead s = .next t ∧ (s.Quiet → t.mem = s.mem)
                 ∧ t.mgmt.sent = s.mgmt.sent ++ [.rdmaData s.arg.id (Memory.bytes t.mem a n)]))))

/-- With full registers, its pointer passing its checks, a destination it may reach, everything before it released and
outside a transaction, SEND gives a message of eight words to the network, the first one the header with the sender's
core and slot, and a START asks the Registrar and counts a child; SPAWN asks the Registrar for a troupe of a template
of the launch and counts a child; LAUNCH appends the record's eight words to its queue, in the slot at the tail, which
moves by one, or keeps them in a free place of the job's overflow area while the queue is full; RECV takes the oldest
POST entry, or waits for one. A destination out of reach takes PROTECT with the value. CANCEL marks an admitted launch of
the job and starts its broadcast. YIELD lets the strand go on after YIELD_END. MAILBOX_ARRIVAL of a message in turn
puts it into its core's mailbox, SPILL_RETURN brings a parked one back, HANDLER_START starts a strand for the oldest
START entry with x2 the end of its 16 KiB window, x3 zero and x4 to x10 the words, and SPAWN_RECORD makes the waiting
troupe under the launch's next index. -/
def Obligations.MessagesAndSpawns : Prop :=
  (∀ (o : MsgOp) (s t : State) (a : Nat), s.readyX o.a → s.readyX o.d → s.own (s.x o.a) → passes s 64 true false [s.x o.a] t [a] →
    let dest := (s.x o.d).toNat
    (∀ start : Bool, s.mayReach dest start = true → s.cur.tx.depth = 0 → s.mayAccess o.o = true → s.moving a 64 = false → s.poison = [] →
        s.releaseReady s.cur.sid s.cur.core (widerScope o.c (partnerScope s.cur.core dest)) s.nextId = true →
      ∃ t : State, ∃ m : Message, exec (if start then .sendStart o else .sendPost o) s = .next t ∧ t.reg.messages = s.reg.messages ++ [m] ∧ m.id = s.nextId
        ∧ m.core = dest ∧ m.start = start ∧ m.sender = s.cur.sid ∧ m.job = s.myTroupe.job ∧ m.words.length = 8
        ∧ m.words[0]? = some (BitVec.ofNat 64 ((if start then 1 else 2) * 2 ^ 62 + s.cur.core * 2 ^ 52 + s.cur.hw % 4 * 2 ^ 50
            + (s.word a).toNat % 2 ^ 32))
        ∧ (∀ k : Nat, 1 ≤ k → k < 8 → m.words[k]? = some (s.word (a + 8 * k)))
        ∧ (start = true → t.reg.requests = s.reg.requests ++ [(s.nextId, .sendStart s.cur.troupe s.nextId s.cur.sid)]
            ∧ (t.troupe s.cur.troupe).children = s.myTroupe.children + (if (s.troupe? s.cur.troupe).isSome then 1 else 0))
        ∧ (start = false → t.reg.requests = s.reg.requests ∧ t.troupes = s.troupes)
        ∧ t.cur = s.wentOn.cur ∧ t.rest = s.rest ∧ t.mem = s.mem)
    ∧ (s.mayReach dest false = false → s.canTrap → s.mayAccess .rlx = true →
      ∃ t : State, exec (.sendPost o) s = .next t ∧ t.cur = (s.delivered false 0x07 (s.x o.d) 0 (opOf s.ir) 0 s.cur.pc).cur ∧ t.mem = s.mem))
  ∧ (∀ (r : RR) (s : State), (∀ q ∈ groupRegs .g8 r.d, s.readyX q) → s.cur.tx.depth = 0 →
    ((s.core s.cur.core).posts = [] → exec (.recv r) s = .next (s.waitsFor (.recv r.d)))
    ∧ (∀ (m : Message) (l : List Message), (s.core s.cur.core).posts = m :: l →
      ∃ t : State, ∃ q : Req, exec (.recv r) s = .next t ∧ (t.core s.cur.core).posts = l ∧ t.reqs = s.reqs ++ [q] ∧ q.kind = .recv m.words r.d
        ∧ q.state = .answered 0 true ∧ q.sid = s.cur.sid ∧ t.cur.pc = s.wentOn.cur.pc ∧ t.cur.x = s.cur.x ∧ t.mem = s.mem
        ∧ ∀ k : Reg, t.cur.fullX k = true ↔ k = 0 ∨ s.cur.fullX k = true ∧ k ∉ groupRegs .g8 r.d))
  ∧ (∀ (o : MsgOp) (s : State), s.readyX o.a → s.readyX o.d →
    (∀ l : Launch, s.launch? s.myTroupe.launch = some l → o.n.toNat < l.templates.length → s.cur.tx.depth = 0 → s.mayAccess o.o = true →
        (o.d ≠ 0 → s.mayReach (s.x o.d).toNat true = true) →
        s.releaseReady s.cur.sid s.cur.core
          (widerScope o.c (if o.d = 0 then .pkg else partnerScope s.cur.core (s.x o.d).toNat)) s.nextId = true →
      ∃ t : State, exec (.spawn o) s = .next t ∧ t.reg.requests = s.reg.requests ++
          [(s.nextId, .spawn s.cur.troupe o.n.toNat (if o.d = 0 then none else some (s.x o.d).toNat) (s.x o.a) s.cur.sid)]
        ∧ (t.troupe s.cur.troupe).children = s.myTroupe.children + (if (s.troupe? s.cur.troupe).isSome then 1 else 0)
        ∧ t.cur = s.wentOn.cur ∧ t.rest = s.rest ∧ t.mem = s.mem)
    ∧ (∀ l : Launch, s.launch? s.myTroupe.launch = some l → l.templates.length ≤ o.n.toNat → s.canTrap →
      exec (.spawn o) s = .next (s.delivered false 0x01 (wordsInfo s.ir).1 (wordsInfo s.ir).2 0x0C 0 s.cur.pc)))
  ∧ (∀ (o : MsgOp) (s t : State) (a : Nat) (q : QueueDesc), s.readyX o.a → s.readyX o.d → s.own (s.x o.a) →
    passes s 64 true false [s.x o.a] t [a] → s.queue? ((s.x o.d).toNat % 256) = some q → q.job = s.myTroupe.job → q.feed = 2 →
    s.cur.tx.depth = 0 → s.mayAccess o.o = true → s.releaseReady s.cur.sid s.cur.core (widerScope o.c .pkg) s.nextId = true →
    s.blockReady a 64 = true → s.ownDeposits s.cur.core a 64 = false → s.poison = [] → addrSpace a = 1 →
    let ws := (List.range 8).map (fun k => s.word (a + 8 * k))
    ∃ u : State, u.mem = s.mem ∧ u.cur = s.cur ∧ u.rest = s.rest ∧ u.reg = s.reg ∧ u.jobs = s.jobs
      ∧ exec (.launch o) s = .next (u.enqueue q ws).advance
      ∧ (s.queueFull q = true → (s.job q.job).stopped = false → (s.job q.job).overflow.length < (s.job q.job).launchOverflow / 64 →
          (s.job? q.job).isSome →
          ∃ place : Nat, (∀ e ∈ (s.job q.job).overflow, e.2.1 ≠ place)
            ∧ ((u.enqueue q ws).job q.job).overflow = (s.job q.job).overflow ++ [(q.queue, place, ws)])
      ∧ (∀ b c : Nat, s.queueFull q = false → (s.job q.job).stopped = false → (∀ e ∈ (s.job q.job).overflow, e.1 ≠ q.queue) →
          s.TailAt q b c → s.Quiet → Safe s → s.watchers b 64 = [] → s.watchers c 8 = [] →
          ∃ v : State, exec (.launch o) s = .next v ∧ Appended s v q ws b c ∧ v.cur = s.wentOn.cur ∧ v.rest = s.rest ∧ v.jobs = s.jobs))
  ∧ (∀ (r : RR) (s : State), s.readyX r.d → s.cur.tx.depth = 0 →
    (((s.x r.d).extractLsb' 48 16).toNat = s.myTroupe.job →
      (s.launch? (s.x r.d) = none → exec (.cancel r) s = .next s.wentOn)
      ∧ (∀ l : Launch, s.launch? (s.x r.d) = some l → l.complete = false → l.cancelBit = false →
        ∃ t : State, exec (.cancel r) s = .next t ∧ t.launch? (s.x r.d) = some { l with cancelBit := true, cancelPending := s.treeAt 7 0 }
          ∧ t.cur = { s.wentOn.cur with
              cancelDue := if s.myTroupe.launch = s.x r.d then !s.cur.cancelTaken else s.cur.cancelDue } ∧ t.rest = s.rest ∧ t.mem = s.mem))
    ∧ (((s.x r.d).extractLsb' 48 16).toNat ≠ s.myTroupe.job → s.canTrap →
      exec (.cancel r) s = .next (s.delivered false 0x07 (s.x r.d) 0 (opOf s.ir) 0 s.cur.pc)))
  ∧ (∀ s : State, s.cur.tx.depth = 0 →
    exec .yield s = .next { s with cur := { s.wentOn.cur with yield := true } })
  ∧ (∀ (s : State) (u : Strand), s.strand? s.arg.id = some u →
    ∃ t : State, exec .yieldEnd s = .next t ∧ t.strand? s.arg.id = some { u with yield := false } ∧ t.mem = s.mem)
  ∧ (∀ (s : State) (m : Message), s.reg.messages.find? (fun m => m.id == s.arg.id) = some m → (m.start = true → m.index ≠ none) →
    (∀ x ∈ s.reg.messages, x.sender = m.sender → x.core = m.core → x.start = m.start → m.id ≤ x.id) → s.consumed m = false →
    s.takesMessages m.job (bayOfCore m.core) = true → s.queuedBefore m = false →
    (s.core m.core).starts.length + (s.core m.core).posts.length < 64 →
    ∃ t : State, exec .mailboxArrival s = .next t ∧ t.reg.messages = s.reg.messages.filter (fun x => x.id != m.id) ∧ t.mem = s.mem
      ∧ (t.core m.core).starts = (s.core m.core).starts ++ (if m.start then [m] else [])
      ∧ (t.core m.core).posts = (s.core m.core).posts ++ (if m.start then [] else [m]))
  ∧ (∀ (s : State) (m : Message) (job : Nat), s.residentJob s.arg.id = some job → m.core = s.arg.id → s.consumed m = false →
    (s.core s.arg.id).starts.length + (s.core s.arg.id).posts.length < 64 →
    (s.core s.arg.id).parked.find? (fun m => m.job == job) = some m →
    ∃ t : State, exec .spillReturn s = .next t ∧ t.mem = s.mem
      ∧ (t.core m.core).parked = (s.core m.core).parked.filter (fun x => x.id != m.id)
      ∧ (t.core m.core).starts = (s.core m.core).starts ++ (if m.start then [m] else [])
      ∧ (t.core m.core).posts = (s.core m.core).posts ++ (if m.start then [] else [m]))
  ∧ (∀ (s : State) (m : Message) (r : List Message) (l : Launch) (off : Nat), (s.core s.arg.id).starts = m :: r → s.consumed m = false →
    s.launch? m.launch = some l → freeOffset (s.windows s.arg.id) 16384 = some off → s.baysOpen l.job l.part (bayOfCore s.arg.id) = true →
    s.slotsUsed s.arg.id < 4 → m.words.length = 8 →
    ∃ t : State, ∃ (u : Strand) (v : Troupe), exec .handlerStart s = .next t ∧ (t.core s.arg.id).starts = r ∧ t.rest = s.rest ++ [u] ∧ t.cur = s.cur ∧ t.mem = s.mem
      ∧ u.mode = .running ∧ u.core = s.arg.id ∧ t.troupes = s.troupes ++ [v] ∧ u.troupe = v.uid ∧ v.place = .placed ∧ v.lmOff = off
      ∧ v.launch = l.ident ∧ u.pc = padd (s.job l.job).codeBase (BitVec.ofNat 64 (2 * ((m.words.headD 0).toNat % 2 ^ 32)))
      ∧ u.getX 2 = BitVec.ofNat 64 (lmAddr s.arg.id (off + 16384)) ∧ u.getX 3 = 0
      ∧ ∀ k : Nat, 1 ≤ k → k < 8 → m.words[k]? = some (u.getX (BitVec.ofNat 5 (3 + k))))
  ∧ ∀ (s : State) (parent tmpl sid core : Nat) (arg : Word) (l : Launch) (p : Template),
    s.reg.requests.find? (fun r => r.1 == s.arg.id) = some (s.arg.id, .spawn parent tmpl (some core) arg sid) →
    s.launch? (s.troupe parent).launch = some l → l.templates[tmpl]? = some p → bayOfCore core ∉ l.cancelReached →
    s.firstRequest s.arg.id (.spawn parent tmpl (some core) arg sid) = true →
    ∃ t : State, ∃ u : Troupe, exec .spawnRecord s = .next t ∧ t.reg.requests = s.reg.requests.filter (fun r => r.1 != s.arg.id) ∧ t.troupes = s.troupes ++ [u]
      ∧ u.index = l.nextIndex ∧ u.parent = parent ∧ u.launch = l.ident ∧ u.c = p.c ∧ u.s = p.s ∧ u.lm = p.lm ∧ u.entry = p.entry
      ∧ u.place = .waiting ∧ u.bay = core / 8 ∧ u.start = .fresh arg [] ∧ t.mem = s.mem
      ∧ ∃ l' : Launch, t.launch? l.ident = some l' ∧ l' = { l with nextIndex := l.nextIndex + 1 }

/-- RECORD_TAKEN moves a queue's head by one and lists a valid record, and drops an invalid one. LAUNCH_ADMISSION of the only record that
may be admitted makes a launch under the job's next identifier with the record's fields, and the record leaves the list. PRIORITY_AGING
takes up the time a record has gathered. LAUNCH_OVERFLOW_APPEND moves the oldest record kept, whose queue has room, into the slot at the
queue's tail, and the tail by one. WAKE_MESSAGE at a bay with a share, which no cancel has reached, makes its troupes, in index order, and
goes on down the tree. TROUPE_PLACEMENT of a waiting troupe with room starts its strands: entry, strand index, x2 the end of the strand's
part of the window, x3 the argument. TROUPE_DONE of an ended troupe without children counts it at its parent or at the launch, and the last
one completes the launch. CANCEL_BROADCAST makes CANCEL due at every strand of the launch in its bay. -/
def Obligations.LaunchLife : Prop :=
  (∀ (s : State) (d : QueueDesc), s.queue? s.arg.id = some d → s.headOf d.queue < s.tailOf d → (s.job d.job).stopped = false →
    d.feed ≠ 3 ∨ s.arg.yes = false →
    let b := (devRead s d.job (slotPtr d (s.headOf d.queue)) 64).2
    ∃ t : State, exec .recordTaken s = .next t ∧ t.headOf d.queue = s.headOf d.queue + 1
      ∧ (validRecord s d.job b = false → t.reg.records = s.reg.records)
      ∧ (validRecord s d.job b = true → ∃ r ∈ t.reg.records, r.queue = d.queue ∧ r.recno = s.headOf d.queue ∧ r.job = d.job
          ∧ r.words = wordsOfBytes b))
  ∧ (∀ (s s1 : State) (r : Record) (ts : List Template), s.admissible = [r] → templatesOf s r.job r.bytes = (s1, some ts) →
    fieldAt r.bytes 21 1 % 2 = 0 → fieldAt r.bytes 16 4 ≠ 0 → (s.job? r.job).isSome →
    (∀ i : Nat, i < 4 → (waitSlot r.bytes i).2 = 0) →
    ∃ t : State, ∃ l : Launch, exec .launchAdmission s = .next t ∧ t.launches = s.launches ++ [l]
      ∧ l.ident = BitVec.ofNat 64 (r.job * 2 ^ 48 + (s.job r.job).admissions + 1) ∧ l.job = r.job ∧ l.part = r.part
      ∧ l.entry = fieldAt r.bytes 0 4 ∧ l.c = fieldAt r.bytes 4 1 ∧ l.s = fieldAt r.bytes 5 1 ∧ l.lm = fieldAt r.bytes 6 2
      ∧ l.arg = BitVec.ofNat 64 (fieldAt r.bytes 8 8) ∧ l.rootCount = fieldAt r.bytes 16 4 ∧ l.templates = ts ∧ l.complete = false
      ∧ (t.job r.job).admissions = (s.job r.job).admissions + 1 ∧ t.reg.lastAdmit = some s.now
      ∧ ∀ x ∈ t.reg.records, ¬(x.queue = r.queue ∧ x.recno = r.recno))
  ∧ (∀ s : State, exec .priorityAging s = .next { s with reg := { s.reg with
      records := s.reg.records.map (fun r => match r.since with
        | some t => if r.queue = s.arg.id ∧ r.recno = s.arg.sel then { r with waited := r.waited + (s.now - t), since := some s.now } else r
        | none => r) } })
  ∧ (∀ (s : State) (j : Job) (e : Nat × Nat × List Word) (l : List (Nat × Nat × List Word)) (d : QueueDesc), s.job? s.arg.id = some j →
    j.stopped = false → j.overflow = e :: l → s.queue? e.1 = some d → s.queueFull d = false →
    ∃ t : State, exec .launchOverflowAppend s = .next t ∧ (t.job s.arg.id).overflow = l
      ∧ ∀ b c : Nat, e.2.2.length = 8 → s.TailAt d b c → s.Quiet → s.poison = [] → Safe s → Appended s t d e.2.2 b c)
  ∧ (∀ (s : State) (l : Launch) (i n : Nat), s.launch? s.arg.word = some l → s.arg.id ∈ l.wakePending →
    l.shares.find? (fun x => x.1 == s.arg.id && x.2.2 != 0) = some (s.arg.id, i, n) → l.cohort = false → s.arg.id ∉ l.cancelReached →
    ∃ (t : State) (us : List Troupe), exec .wakeMessage s = .next t ∧ t.troupes = s.troupes ++ us ∧ us.length = n ∧ t.mem = s.mem
      ∧ (∀ (k : Nat) (u : Troupe), us[k]? = some u → u.index = i + k ∧ u.bay = s.arg.id ∧ u.place = .waiting ∧ u.launch = l.ident
          ∧ u.start = .fresh l.arg [] ∧ u.c = l.c ∧ u.s = l.s ∧ u.lm = l.lm ∧ u.entry = l.entry ∧ u.parent = 0 ∧ u.children = 0)
      ∧ ∃ l' : Launch, t.launch? l.ident = some l' ∧ l'.wakePending = l.wakePending.filter (fun b => b != s.arg.id) ++ s.treeBelow s.arg.id)
  ∧ (∀ (s : State) (u : Troupe) (g off : Nat) (arg : Word) (payload : List Word), s.troupe? s.arg.id = some u →
    s.roomFor u = some (g, off) → u.start = .fresh arg payload → 1 ≤ u.s → (∀ c ∈ s.cores, c.zwait = Vector.replicate 2 []) →
    ∃ (t : State) (l : List Strand), exec .troupePlacement s = .next t ∧ t.rest = s.rest ++ l ∧ l.length = u.c * u.s ∧ t.cur = s.cur
      ∧ t.mem = s.mem ∧ (t.troupe u.uid).place = .placed ∧ (t.troupe u.uid).core0 = g ∧ (t.troupe u.uid).lmOff = off
      ∧ ∀ (k : Nat) (x : Strand), l[k]? = some x → x.mode = .running ∧ x.troupe = u.uid ∧ x.core = g + k / u.s ∧ x.sr.strand = k
          ∧ x.pc = padd (s.job u.job).codeBase (BitVec.ofNat 64 (2 * u.entry)) ∧ x.getX 3 = arg
          ∧ x.getX 2 = BitVec.ofNat 64 (lmAddr (g + k / u.s) (off + (k % u.s + 1) * (u.lm * 1024 / u.s))))
  ∧ (∀ (s : State) (u : Troupe), s.troupe? s.arg.id = some u → u.place = .ended → u.children = 0 → s.troupeQuiet u.uid = true →
    (s.job u.job).stopped = false →
    ∃ t : State, exec .troupeDone s = .next t ∧ (∀ v ∈ t.troupes, v.uid ≠ u.uid)
      ∧ (u.parent ≠ 0 → u.parent ≠ u.uid → (t.troupe u.parent).children = (s.troupe u.parent).children - 1)
      ∧ (u.parent = 0 → ∀ l : Launch, s.launch? u.launch = some l → l.job = u.job →
          ∃ l' : Launch, t.launch? u.launch = some l' ∧ l'.rootCount = l.rootCount - 1 ∧ (l.rootCount = 1 → l'.complete = true)))
  ∧ ∀ (s : State) (l : Launch), s.launch? s.arg.word = some l → s.arg.id ∈ l.cancelPending →
    ∃ t : State, exec .cancelBroadcast s = .next t
      ∧ (∃ l' : Launch, t.launch? l.ident = some l' ∧ l'.cancelReached = l.cancelReached ++ [s.arg.id])
      ∧ ∀ x ∈ s.strands, x.exists? = true → bayOfCore x.core = s.arg.id → (s.troupe x.troupe).launch = l.ident → x.cancelTaken = false →
          ∃ y ∈ t.strands, y.sid = x.sid ∧ y.cancelDue = true

/-- CSIZE writes the largest size of a shape, 0 for no shape. SUSPEND outside a trap, a transaction and a capture,
with an object place it may write and a free serial, stops the strand after the instruction and makes every other
running strand of the troupe due to stop; it answers -1 for a bad place and -2 without a serial, the counter then past
all that it tried. RESUME, CCOPY, CDISCARD and CEXPORT of an aligned pointer into the gallery or the depot each enter
one request and leave X[d] empty; RESUME counts a child and holds its strand at the request. A misaligned object
pointer takes MISALIGN, one of another space SPACE. TROUPE_CAPTURE of a troupe whose strands have stopped first writes
the completion word 0, in a step of its own (the model's choice, log entry 67), and then, everything over and the object
written, puts the troupe into the object and takes its strands off their cores; CAPTURE_WATCHDOG stops the job after 1 ms,
when its stop has not been reported yet. The answer of each request comes to X[d], and a strand that waits for it goes on:
COMPARE_AND_CLEAR of an object that passes its checks answers its serial and makes its troupe wait to be placed with
the object's image; CCOPY_WRITE answers the new serial and makes a troupe record without children for the copy;
CDISCARD_CLEAR answers the serial and ends the troupe; CEXPORT_SERVICE answers the target's new serial and ends the
troupe. A check that fails answers 0 and its trap becomes pending. -/
def Obligations.Continuations : Prop :=
  (∀ (r : RR) (s : State), s.readyX r.a → s.readyX r.d → s.cur.tx.depth = 0 →
    let n := (s.x r.a).toNat
    let c := n % 256
    let k := n / 256 % 256
    let l := n / 65536 % 512
    exec (.csize r) s = .next (s.wrote r.d (BitVec.ofNat 64 (
      if n < 2 ^ 25 ∧ c ∈ [1, 2, 4, 8] ∧ k ∈ [1, 2, 4] ∧ l % 16 = 0 ∧ 16 ≤ l ∧ l ≤ 384 then
        256 + c * k * 2304 + c * (33280 + 1040 * l) + c * k * 128 + c * 2048 else 0))))
  ∧ (∀ (r : RR) (s : State), s.readyX r.a → s.readyX r.d → s.cur.sr.cause.getLsbD 15 = false → s.cur.tx.depth = 0 → s.cur.wait = none →
    s.myTroupe.capture = none → s.cur.stopDue = 0 → s.mayAccess .rlx = true →
    (s.suspendable (s.x r.a) = false → exec (.suspend r) s = .next (s.wrote r.d (BitVec.ofInt 64 (-1))))
    ∧ (s.suspendable (s.x r.a) = true → s.nextSerial s.myTroupe.job = none →
      exec (.suspend r) s = .next ((s.failSerial s.myTroupe.job).wrote r.d (BitVec.ofInt 64 (-2))))
    ∧ (∀ v : Nat, s.suspendable (s.x r.a) = true → s.nextSerial s.myTroupe.job = some v → (s.troupe? s.cur.troupe).isSome →
        (∀ u ∈ s.rest, u.sid ≠ s.cur.sid ∧ u.pend.length < 16) → (s.rest.map (·.sid)).Nodup → s.cur.mode = .running →
      ∃ t : State, ∃ c : Capture, exec (.suspend r) s = .next t ∧ t.cur.mode = .stopped 0 ∧ t.cur.pc = s.wentOn.cur.pc ∧ t.cur.x = s.cur.x
        ∧ (t.troupe s.cur.troupe).capture = some c ∧ c.ptr = s.x r.a ∧ c.kind = 1 ∧ c.serial = v ∧ c.suspSid = s.cur.sid ∧ c.suspReg = r.d
        ∧ ∀ u ∈ s.rest, u.troupe = s.cur.troupe → u.mode = .running →
            ∃ y ∈ t.strands, y.sid = u.sid ∧ (y.stopDue ≠ 0 ∨ y.mode ≠ .running)))
  ∧ (∀ (o : ResumeOp) (s : State) (here : Bool), s.readyX o.a → s.readyX o.b → s.readyX o.d → ptrOff (s.x o.a) % 256 = 0 → leased (s.x o.a) →
    s.cur.tx.depth = 0 → s.mayAccess o.o = true → s.releaseReady s.cur.sid s.cur.core (widerScope o.c .pkg) s.nextId = true →
    ∃ t : State, ∃ r : ContReq, exec (if here then .resumeHere o else .resumeAny o) s = .next t ∧ t.reg.conts = s.reg.conts ++ [r] ∧ s.asksFor r 1 (s.x o.a) o.d
      ∧ r.value = s.x o.b ∧ r.any = !here ∧ r.bay = s.cur.core / 8 ∧ t.mem = s.mem
      ∧ t.cur = { ({ s with cur := s.cur.emptyX o.d }.wentOn).cur with blocked := some r.id }
      ∧ (t.troupe s.cur.troupe).children = s.myTroupe.children + (if (s.troupe? s.cur.troupe).isSome then 1 else 0))
  ∧ (∀ (o : SysOp) (r : RR) (s : State), s.cur.tx.depth = 0 → s.mayAccess .rlx = true →
    (s.readyX o.a → s.readyX o.b → s.readyX o.d → ptrOff (s.x o.a) % 256 = 0 → leased (s.x o.a) →
      (leased (s.x o.b) →
        ∃ t : State, ∃ q : ContReq, exec (.ccopy o) s = .next t ∧ t.reg.conts = s.reg.conts ++ [q] ∧ s.asksFor q 2 (s.x o.a) o.d ∧ q.dest = s.x o.b
          ∧ q.rights = o.rights.toNat ∧ t.cur = ({ s with cur := s.cur.emptyX o.d }.wentOn).cur ∧ t.mem = s.mem ∧ t.troupes = s.troupes)
      ∧ (∀ j : Job, s.job? ((s.x o.b).toNat % 65536) = some j → s.myTroupe.job ∈ j.accepts →
        ∃ t : State, ∃ q : ContReq, exec (.cexport o) s = .next t ∧ t.reg.conts = s.reg.conts ++ [q] ∧ s.asksFor q 4 (s.x o.a) o.d
          ∧ q.target = (s.x o.b).toNat % 65536 ∧ q.rights = o.rights.toNat ∧ t.cur = ({ s with cur := s.cur.emptyX o.d }.wentOn).cur
          ∧ t.mem = s.mem)
      ∧ (s.job? ((s.x o.b).toNat % 65536) = none → s.canTrap →
        exec (.cexport o) s = .next (s.delivered false 0x07 (s.x o.b) 0 (opOf s.ir) 0 s.cur.pc)))
    ∧ (s.readyX r.a → s.readyX r.d → ptrOff (s.x r.a) % 256 = 0 → leased (s.x r.a) →
      ∃ t : State, ∃ q : ContReq, exec (.cdiscard r) s = .next t ∧ t.reg.conts = s.reg.conts ++ [q] ∧ s.asksFor q 3 (s.x r.a) r.d
        ∧ t.cur = ({ s with cur := s.cur.emptyX r.d }.wentOn).cur ∧ t.mem = s.mem))
  ∧ (∀ (o : ResumeOp) (p : SysOp) (r : RR) (i : Instr) (a : Reg) (s : State), s.canTrap → s.mayAccess .rlx = true → s.readyX a →
    (i = .resumeHere o ∨ i = .resumeAny o) ∧ a = o.a ∧ s.readyX o.b ∧ s.readyX o.d
      ∨ (i = .ccopy p ∨ i = .cexport p) ∧ a = p.a ∧ s.readyX p.b ∧ s.readyX p.d ∨ i = .cdiscard r ∧ a = r.a ∧ s.readyX r.d →
    (ptrOff (s.x a) % 256 ≠ 0 → exec i s = .next (s.misplaced 4 (s.x a) 0 8))
    ∧ (ptrOff (s.x a) % 256 = 0 → ¬leased (s.x a) → exec i s = .next (s.misplaced 5 (s.x a) 0 8)))
  ∧ (∀ (s : State) (u : Troupe) (c : Capture), s.troupe? s.arg.id = some u → u.capture = some c → u.place = .placed →
    (s.job u.job).stopped = false → c.allStopped ≠ none → s.Quiet → Safe s →
    (∀ a : Nat, c.zeroed = false → objWord s u.job (c.kind == 2) false true (ptrAt c.ptr 248) = some a →
      ∃ t : State, exec .troupeCapture s = .next t ∧ (t.troupe u.uid).capture = some { c with zeroed := true } ∧ SameBytesBut s t a 8
        ∧ Memory.readN t.mem a 8 = 0)
    ∧ (∀ s2 : State, c.zeroed = true → s.capturable u = true → c.kind = 1 →
        objWrite s u.job false c.ptr (wordsOfBytes ((objectBytes s u c c.serial).take 224
          ++ sealOf s u.job (objectBytes s u c c.serial) ++ (objectBytes s u c c.serial).drop 240)) = (s2, true) →
      ∃ t : State, exec .troupeCapture s = .next t ∧ (t.troupe u.uid).place = .object ∧ (t.troupe u.uid).object = c.ptr
        ∧ (t.troupe u.uid).capture = none ∧ ∀ x ∈ t.strands, x.exists? = true → ∀ y ∈ s.strandsOf u.uid, x.sid ≠ y.sid)
    ∧ (∀ (n : Nat) (x : Strand), (s.job u.job).stopReported = false → c.zeroed = true → c.allStopped = some n → n + 1000000 ≤ s.now → x ∈ s.strands → x.troupe = u.uid →
      ∃ t : State, exec .captureWatchdog s = .next t ∧ t.mem = s.mem ∧ (∀ j ∈ t.jobs, j.num = u.job → j.stopped = true)
        ∧ ∀ y ∈ t.strands, y.exists? = true → (s.troupe y.troupe).job = u.job → y.mode = .stopped 5))
  ∧ ∀ (s s1 : State) (r : ContReq) (w : Strand), s.reg.conts.find? (fun x => x.id == s.arg.id && x.kind == r.kind) = some r →
    s.strand? r.sid = some w → (s.job r.job).stopped = false →
    (∀ (i : Instr) (right : Nat → Bool), (i = .compareAndClear ∧ r.kind = 1 ∧ right = fun n => n / 2 % 2 == 1)
        ∨ (i = .ccopyWrite ∧ r.kind = 2 ∧ right = fun n => n % 2 == 1) ∨ (i = .cdiscardClear ∧ r.kind = 3 ∧ right = fun n => n / 4 % 2 == 1)
        ∨ (i = .cexportService ∧ r.kind = 4 ∧ right = fun n => n % 8 != 0) →
      (∀ f : ContFail, s.checkObject r.job r.obj false (fun k => k == 1 || k == 3) right = (s1, .error f) → w.mode ≠ .stopped 5 → w.pend.length < 16 →
        ∃ t : State, ∃ (w' : Strand) (x : Trap), exec i s = .next t ∧ (∀ y ∈ t.reg.conts, y.id ≠ r.id) ∧ t.strand? r.sid = some w' ∧ w'.fullX r.reg = true
          ∧ w'.getX r.reg = 0 ∧ (w.blocked = some r.id → w'.blocked = none) ∧ w'.pend = w.pend ++ [x] ∧ x.cause = f.cause ∧ x.c0 = r.obj
          ∧ x.c1 = BitVec.ofNat 64 (f.reason * 256 + r.kind))
      ∧ (∀ (o : List Byte) (u : Troupe), s.checkObject r.job r.obj false (fun k => k == 1 || k == 3) right = (s1, .ok o) → s1.checkLive r.job o = none →
          objectBound o = false → s.troupe? (fieldAt o 112 8) = some u → fieldAt o 112 8 ≠ 0 →
          (r.kind = 2 → s1.copyDest r.job r.obj r.dest (fieldAt o 32 8) = true ∧ u.parent < s.nextId) → (r.kind = 3 → u.launch ≠ 0) →
          ∀ v : Nat, (r.kind = 2 → s1.nextSerial r.job = some v) → (r.kind = 4 → s1.nextSerial r.target = some v) →
        ∃ t : State, ∃ w' : Strand, exec i s = .next t ∧ (∀ y ∈ t.reg.conts, y.id ≠ r.id) ∧ t.strand? r.sid = some w' ∧ w'.fullX r.reg = true
          ∧ w'.getX r.reg = (if r.reg = 0 then 0 else BitVec.ofNat 64 (if r.kind = 2 ∨ r.kind = 4 then v else fieldAt o 8 8))
          ∧ (w.blocked = some r.id → w'.blocked = none)
          ∧ (r.kind = 1 → (t.troupe u.uid).place = .waiting ∧ (t.troupe u.uid).start = .object r.obj o (some r.value) none
              ∧ (r.any = false → (t.troupe u.uid).bay = r.bay))
          ∧ (r.kind = 2 → ∃ x ∈ t.troupes, x.place = .object ∧ x.object = r.dest ∧ x.children = 0 ∧ x.parent = u.parent ∧ x.launch = u.launch)
          ∧ (r.kind = 3 ∨ r.kind = 4 → (t.troupe u.uid).place = .ended)))

/-- TLBINV of a depot range in 64 KiB units begins a shootdown at the job's bays, the engines and the hub and leaves X[d]
empty; a length of 0 answers 0 at once. SYSCALL reads its argument block and answers: NOP 0, an unassigned number -1,
MAP 0 with the pages set up, -2 for arguments out of its limits or a range already mapped and -3 without frames or room
for its tables (which frames, and a table area of the job's own, are the model's choice, log entry 9), RIGHTS 0 with the
leaves rewritten, SWITCH 0 or -2, UNMAP by a shootdown that returns the frames; neither spares the leaves of the event
table (log entry 75). MEASURE enters one request. SHOOTDOWN_ANSWER drops the agent's entries in the range; while an access
translated through one of them is not over nothing else happens, then the agent answers; the last answer ends the
shootdown and fills the register. SHOOTDOWN_TIMEOUT checks an agent silent for 100 microseconds; whether the check
succeeds is a free value of the model (log entry 28); one that fails is reported as a lasting error, and it fences the bay or takes the
copy engine out of service with its entries dropped (that an engine is fenced so is the model's choice, log entry 40), which every
shootdown under way then counts.
MEASUREMENT_EXTENSION extends the job's measurement by the region's digest, adds two log entries and answers 0. -/
def Obligations.SystemCalls : Prop :=
  (∀ (o : SysOp) (s : State), s.readyX o.a → s.readyX o.b → s.readyX o.d → s.cur.tx.depth = 0 →
    let p := s.x o.a
    let n := (s.x o.b).toNat
    (ptrSpace p = 3 → ptrOwner p = 0 → ptrOff p % 65536 = 0 → n ≤ 2 ^ 40 → n % 65536 = 0 →
      (n = 0 → exec (.tlbinv o) s = .next (s.wrote o.d 0))
      ∧ (n ≠ 0 → ∃ t : State, ∃ h : Shoot, exec (.tlbinv o) s = .next t ∧ t.reg.shoots = s.reg.shoots ++ [h] ∧ h.job = s.myTroupe.job ∧ h.start = ptrOff p
          ∧ h.len = n ∧ h.sid = s.cur.sid ∧ h.reg = o.d
          ∧ (∀ k : Nat, k ∈ h.waiting ↔ (k < 80 ∧ s.myJob.bays.getLsbD k = true) ∨ (80 ≤ k ∧ k < 105))
          ∧ t.cur = ({ s with cur := s.cur.emptyX o.d }.wentOn).cur ∧ t.mem = s.mem ∧ t.rest = s.rest))
    ∧ (s.canTrap → leased p → (ptrSpace p = 2 → exec (.tlbinv o) s = .next (s.misplaced (if ptrOff p % 65536 = 0 then 5 else 4) p 0 8)))
    ∧ (leased p → ptrOff p % 8 = 0 → 8 ≤ n → n ≤ 2 ^ 30 → n % 8 = 0 → s.mayAccess .rel = true →
        s.releaseReady s.cur.sid s.cur.core .pkg s.nextId = true →
      ∃ t : State, exec (.measure o) s = .next t ∧ t.reg.measures = s.reg.measures ++ [⟨s.nextId, s.myTroupe.job, s.cur.sid, p, n, o.d⟩]
        ∧ t.cur = ({ s with cur := s.cur.emptyX o.d }.wentOn).cur ∧ t.mem = s.mem ∧ t.rest = s.rest))
  ∧ (∀ (o : SyscallOp) (s t : State) (a : Nat), s.readyX o.d → s.own (s.x o.d) → passes s 64 true false [s.x o.d] t [a] →
    s.cur.tx.depth = 0 → s.mayAccess .rel = true → s.releaseReady s.cur.sid s.cur.core .pkg s.nextId = true → s.moving a 64 = false →
    s.poison = [] → s.cur.wait = none →
    let off := (s.word a).toNat
    let len := (s.word (a + 8)).toNat
    let w := (s.word (a + 16)).toNat
    let size := if w % 4 = 0 then 2 ^ 16 else if w % 4 = 1 then 2 ^ 21 else 2 ^ 30
    let ls := t.leavesIn s.myTroupe.job off len
    s.Calls (.syscallNop o) o.d 0 s ∧ s.Calls (.syscallUnassigned o) o.d (-1) s
    ∧ (w % 4 = 3 ∨ off % size ≠ 0 ∨ len % size ≠ 0 ∨ 2 ^ 48 < off + len ∨ ls ≠ [] → s.Calls (.syscallMap o) o.d (-2) s)
    ∧ (w % 4 ≠ 3 → off % size = 0 → len % size = 0 → off + len ≤ 2 ^ 48 → ls = [] →
      (t.mapPages s.myTroupe.job off size (w / 4 % 8) (len / size) = none → s.Calls (.syscallMap o) o.d (-3) s)
      ∧ (∀ u : State, t.mapPages s.myTroupe.job off size (w / 4 % 8) (len / size) = some u → s.Calls (.syscallMap o) o.d 0 u))
    ∧ (off % 65536 = 0 → off + len ≤ 2 ^ 48 → (∀ l ∈ ls, off ≤ l.off ∧ l.off + l.size ≤ off + len) →
      s.Calls (.syscallRights o) o.d 0 (ls.foldl (fun v l => v.writeEntry l.entry (l.phys + w / 4 % 8 * 4 + 2)) t)
      ∧ (len ≠ 0 → len % 65536 = 0 →
        ∃ (u : State) (h : Shoot), exec (.syscallUnmap o) s = .next u ∧ u.reg.shoots = s.reg.shoots ++ [h] ∧ h.start = off ∧ h.len = len ∧ h.call = true
          ∧ h.job = s.myTroupe.job ∧ h.reg = o.d ∧ h.free = (ls.map LeafAt.frames).flatten
          ∧ u.mem = (ls.foldl (fun v l => v.writeEntry l.entry 0) t).mem))
    ∧ (t.requestSwitch s.myTroupe.job (off % 8) s.myTroupe.job (len % 8) w = none → s.Calls (.syscallSwitch o) o.d (-2) s)
    ∧ (∀ u : State, t.requestSwitch s.myTroupe.job (off % 8) s.myTroupe.job (len % 8) w = some u → s.Calls (.syscallSwitch o) o.d 0 u))
  ∧ (∀ (s : State) (h : Shoot), s.reg.shoots.find? (fun x => x.id == s.arg.id) = some h → s.arg.sel ∈ h.waiting →
    ((∀ d ∈ h.drops, d.1 ≠ s.arg.sel) →
      ∃ t : State, exec .shootdownAnswer s = .next t ∧ t.mem = s.mem
        ∧ ∀ e ∈ t.tlb, e.unit = s.arg.sel → e.job = h.job → e.space = 3 → h.start + h.len ≤ e.base ∨ e.base + e.len ≤ h.start)
    ∧ (∀ h' : Shoot, (s.dropEntries h s.arg.sel).shoot? h.id = some h' → (s.dropEntries h s.arg.sel).canAnswer h' s.arg.sel = false →
      exec .shootdownAnswer s = .next (s.dropEntries h s.arg.sel))
    ∧ (∀ h' : Shoot, (s.dropEntries h s.arg.sel).shoot? h.id = some h' → (s.dropEntries h s.arg.sel).canAnswer h' s.arg.sel = true →
      ∃ t : State, exec .shootdownAnswer s = .next t ∧ t.mem = s.mem
        ∧ ((∃ k ∈ h.waiting, k ≠ s.arg.sel) →
            t.reg.shoots.find? (fun x => x.id == h.id) = some { h' with waiting := h.waiting.filter (fun k => k != s.arg.sel) })
        ∧ ((∀ k ∈ h.waiting, k = s.arg.sel) → (∀ x ∈ t.reg.shoots, x.id ≠ h.id)
            ∧ ∀ u : Strand, s.strand? h.sid = some u → ∃ u' : Strand, t.strand? h.sid = some u' ∧ u'.fullX h.reg = true
                ∧ u'.getX h.reg = (if h.reg ≠ 0 ∧ h.fenced = true ∧ h.call = false then 1 else 0)))
    ∧ (s.arg.sel < 104 → h.time + 100000 ≤ s.now →
      ∃ t : State, exec .shootdownTimeout s = .next t ∧ t.mem = s.mem ∧ (if Config.retrySucceeds s.ticks then t.reg.shoots = s.reg.shoots
        else (∃ n k : Nat, Sent.memory 2 10 noJob (if s.arg.sel < 80 then s.arg.sel else 20 * ((s.arg.sel - 80) / 6)) n k 0 s.now ∈ t.mgmt.sent)
          ∧ (s.arg.sel < 80 → (t.bay s.arg.sel).fenced = true ∧ ((s.bay s.arg.sel).fenced = false → ∀ x ∈ t.reg.shoots, x.fenced = true))
          ∧ (80 ≤ s.arg.sel → s.arg.sel - 80 ∈ t.mgmt.fencedEngines ∧ (∀ e ∈ t.tlb, e.unit ≠ s.arg.sel) ∧ (∀ x ∈ t.reg.shoots, x.fenced = true)
              ∧ ∀ x ∈ t.reg.shoots, x.id = h.id → s.arg.sel ∉ x.waiting))))
  ∧ ∀ (s s2 : State) (r : MeasReq) (bs : List Byte) (u : Strand), s.reg.measures.find? (fun x => x.id == s.arg.id) = some r →
    (s.job r.job).stopped = false → (s.job? r.job).isSome → s.mgmt.log.length + 2 ≤ 4096 → s.strand? r.sid = some u →
    readRegion { s with reg := { s.reg with measures := s.reg.measures.filter (fun x => x.id != r.id) } } r.job r.ptr (r.len / 8) = (s2, .ok bs) →
    let j := digestOf (sha256 (digestBytes (s.job r.job).measure ++ sha256 bs))
    ∃ t : State, ∃ u' : Strand, exec .measurementExtension s = .next t ∧ (t.job r.job).measure = j
      ∧ t.mgmt.log = s.mgmt.log ++ [⟨3, r.job, digestOf (sha256 bs)⟩, ⟨3, r.job, j⟩] ∧ t.strand? r.sid = some u' ∧ u'.fullX r.reg = true
      ∧ u'.getX r.reg = 0 ∧ ∀ x ∈ t.reg.measures, x.id ≠ r.id

/-- ASYNC_TRAP_DELIVERY of a running strand that is not in a handler, with nothing issued that has yet to end, takes the
pending trap that comes first off the list and delivers it at the PC: async is 1. A trap of the conservator stops a
job of which no fault has been reported. While busy is 1, or with nothing pending, nothing happens. -/
def Obligations.AsyncDelivery : Prop :=
  ∀ s : State, s.cur.sid = s.arg.id → (∀ u ∈ s.rest, u.sid ≠ s.cur.sid) →
    (s.cur.busy = true ∨ s.cur.pend = [] → exec .asyncTrapDelivery s = .next s)
    ∧ ∀ p : Trap, firstTrap s.cur.pend = some p → s.canTrap → s.cur.mode = .running → s.cur.blocked = none → s.cur.wait = none →
        s.cur.tx.committing = false →
      (p.cause.fatal = false → exec .asyncTrapDelivery s
        = .next (({ s with cur := { s.cur with pend := dropTrap p s.cur.pend } } : State).delivered true p.cause.code p.c0 p.c1 p.c2 p.c3 s.cur.pc))
      ∧ (p.cause.fatal = true → s.myJob.stopReported = false →
          ∃ t : State, exec .asyncTrapDelivery s = .next t ∧ JobStops s t s.myTroupe.job)

/-- SWITCH takes a request whose T is at least 5 microseconds away, whose outgoing partition is resident, whose
incoming one is out and whose bays no other partition holds (one in a switch holds its bays, too, which is the model's
choice, log entry 74): both are then in a switch, and the reply is status 0; a request that breaks one of these changes
nothing and is answered with status 2. SWITCH_TIME at T makes every running
strand of the outgoing partition due to stop or stops it. SWITCH_FORCED_STOP 20 microseconds later makes those that
still run stop by force; with one still in a handler a job of which no fault has been reported stops. SWITCH_COMPLETE,
with the outgoing partition emptied, takes it out, makes the incoming one resident, drops the switch and, between two
jobs, zeroes the local memory of the bays they share; the job of an incoming partition without a bay stops. -/
def Obligations.SwitchesOfPartitions : Prop :=
  (∀ (s : State) (oj op ij ip t : Nat), s.mgmt.boot = 1 → s.arg.code = none → s.arg.nums = [oj, op, ij, ip, t] →
    let taken := s.now + 5000 ≤ t ∧ ((s.job oj).part op).state = .resident ∧ ((s.job ij).part ip).state = .out
      ∧ s.heldElsewhere ((s.job ij).part ip).bays oj op = false
    (taken → ∃ u w, exec .switch s = .next u ∧ ((u.job oj).part op).state = .switching ∧ ((u.job ij).part ip).state = .switching
        ∧ u.reg.switches = s.reg.switches ++ [w] ∧ w.outJob = oj ∧ w.outPart = op ∧ w.inJob = ij ∧ w.inPart = ip ∧ w.t = t ∧ w.phase = 0
        ∧ u.mgmt.sent = s.mgmt.sent ++ [.reply 7 0 0] ∧ u.mem = s.mem ∧ u.strands = s.strands ∧ u.troupes = s.troupes)
    ∧ (¬taken → exec .switch s = .next (s.send (.reply 7 2 0))))
  ∧ ∀ (s : State) (w : Switch), s.reg.switches.find? (fun x => x.id == s.arg.id) = some w →
    (w.phase = 0 → w.t ≤ s.now →
      ∃ t : State, exec .switchTime s = .next t ∧ t.reg.switches.find? (fun x => x.id == s.arg.id) = some { w with phase := 1 }
        ∧ ∀ x ∈ s.strands, x.mode = .running → (s.troupe x.troupe).job = w.outJob → (s.troupe x.troupe).part = w.outPart →
            ∃ y ∈ t.strands, y.sid = x.sid ∧ (y.stopDue ≠ 0 ∨ y.mode ≠ .running))
    ∧ (w.phase = 1 → w.t + 20000 ≤ s.now →
      ((∀ x ∈ s.strands, x.mode = .running → (s.troupe x.troupe).job = w.outJob → (s.troupe x.troupe).part = w.outPart → x.busy = false) →
        ∃ t : State, exec .switchForcedStop s = .next t ∧ t.reg.switches.find? (fun x => x.id == s.arg.id) = some { w with phase := 2 } ∧ t.mem = s.mem
          ∧ ∀ x ∈ s.strands, x.mode = .running → (s.troupe x.troupe).job = w.outJob → (s.troupe x.troupe).part = w.outPart →
              ∃ y ∈ t.strands, y.sid = x.sid ∧ y.stopDue = 2 ∧ y.x = x.x ∧ y.pc = x.pc)
      ∧ (∀ x ∈ s.strands, x.mode = .running → (s.troupe x.troupe).job = w.outJob → (s.troupe x.troupe).part = w.outPart → x.busy = true →
          (s.job w.outJob).stopReported = false →
        ∃ t : State, exec .switchForcedStop s = .next t ∧ JobStops s t w.outJob))
    ∧ (w.phase ≠ 0 → (s.job? w.outJob).isSome → (s.job? w.inJob).isSome → w.outPart < 8 → w.inPart < 8 →
      ¬(w.outJob = w.inJob ∧ w.outPart = w.inPart) → (s.job w.outJob).stopped = false → s.emptied w.outJob w.outPart = true →
      ((s.job w.inJob).part w.inPart).objects = [] → (∀ b, (s.bay b).fenced = false) →
      (((s.job w.inJob).part w.inPart).bays = 0 → ∃ t : State, exec .switchComplete s = .next t ∧ (t.job w.inJob).stopped = true
          ∧ ((t.job w.outJob).part w.outPart).state = .out ∧ ∀ x ∈ t.reg.switches, x.id ≠ w.id)
      ∧ (((s.job w.inJob).part w.inPart).bays ≠ 0 → ∃ t : State, exec .switchComplete s = .next t ∧ ((t.job w.outJob).part w.outPart).state = .out ∧ ((t.job w.inJob).part w.inPart).state = .resident
        ∧ (∀ x ∈ t.reg.switches, x.id ≠ w.id) ∧ t.strands = s.strands ∧ t.troupes = s.troupes
        ∧ (w.inJob = w.outJob → t.mem = s.mem ∧ t.empties = s.empties ∧ t.poison = s.poison)
        ∧ (w.inJob ≠ w.outJob →
          let zeroed := fun a => ∃ c ∈ coresOf (((s.job w.outJob).part w.outPart).bays &&& ((s.job w.inJob).part w.inPart).bays),
            lmAddr c 0 ≤ a ∧ a < lmAddr c 0x60000
          ∀ a, (zeroed a → t.byte a = 0) ∧ (¬zeroed a → t.byte a = s.byte a))))

/-- ERROR_DETECTED retries once. A retry that succeeds (always for an instruction word, else a free value of the model, log entry 28) adds
one to the transient errors of the store and the die and does nothing else to the strands and memory. Else data is lost: a register stops
its job, if no fault of it has been reported, a leased line leaves the core's cache, an update-only line's deposits go and the words that it
covers, 128 bytes or 64 of narrow floats, are poisoned, a speculative tile or one in a vitrine aborts a transaction that does not commit, a
word of local memory, gallery or depot is poisoned, a table entry goes; control state fences the bay, or is a lasting error of the hub.
PATROL_SCRUB of a gallery word with an error does the same as an error detected there; without an error it does nothing. AGENT_DEAD of a die
whose proxy or one of whose cores has left a request unanswered for twice 100 microseconds makes its incarnation one higher, lets no line
wait for it and fences its twenty bays. -/
def Obligations.DetectedErrors : Prop :=
  (∀ (s : State) (e : ErrSite), s.arg.site = some e →
    ∃ t : State, exec .errorDetected s = .next t ∧ ((∀ d l x, e ≠ .l2 d l x) → t.mem = s.mem)
      ∧ (if alwaysClean e = true ∨ Config.retrySucceeds s.ticks = true then
          t.transientCount (siteRow e) (dieOfBay (s.siteBay e)) = (s.transientCount (siteRow e) (dieOfBay (s.siteBay e)) + 1) % 2 ^ 32
            ∧ t.strands = s.strands ∧ t.empties = s.empties ∧ t.poison = s.poison ∧ t.coh = s.coh ∧ t.cores = s.cores
        else
          (∀ u sid, e = .registers sid false → s.strand? sid = some u → (s.job (s.troupe u.troupe).job).stopReported = false →
              JobStops s t (s.troupe u.troupe).job)
          ∧ (∀ c ln, e = .leased c ln false → (∀ l ∈ (t.core c).l1, l.line ≠ ln) ∧ t.strands = s.strands ∧ t.poison = s.poison)
          ∧ (∀ c a, e = .updateOnly c a false →
              let n := if ∃ u ∈ (s.core c).upd, u.dep.unit ≤ a ∧ a < u.dep.unit + u.dep.bytes ∧ (u.dep.elem = 5 ∨ u.dep.elem = 6) then 64 else 128
              let covered := fun b : Nat => a / n * n ≤ b ∧ b < a / n * n + n
              (∀ b, t.isPoison b = true ↔ covered b ∨ s.isPoison b = true)
              ∧ ∀ d ∈ (t.core c).upd, ∀ x ∈ d.dep.deltas, ¬covered x.1)
          ∧ (∀ u sid tile, e = .speculative sid tile false ∨ e = .vitrine sid tile → s.strand? sid = some u → u.tx.depth ≠ 0 →
              u.tx.committing = false → Aborted s t u xFault 0)
          ∧ (∀ a, e = .localMem a false ∨ e = .gallery a ∨ e = .depot a → t.isPoison a = true
              ∧ ∀ b, wordOf b ≠ wordOf a → t.isPoison b = s.isPoison b)
          ∧ (∀ u, e = .table u false → ∀ x ∈ t.tlb, x.unit ≠ u)
          ∧ (siteControl e = true → (∀ u c, e ≠ .table u c) → (t.bay (s.siteBay e)).fenced = true)
          ∧ (∀ u, e = .table u true → if 80 ≤ u then t.mgmt.hubError = true else (t.bay u).fenced = true)))
  ∧ (∀ s : State, (s.arg.yes = false → exec .patrolScrub s = .next s)
      ∧ (s.arg.yes = true → addrSpace s.arg.id = 2 →
        ∃ t : State, exec .patrolScrub s = .next t ∧ t.mem = s.mem
          ∧ (if Config.retrySucceeds s.ticks then
              t.transientCount 8 (homeDie s.arg.id) = (s.transientCount 8 (homeDie s.arg.id) + 1) % 2 ^ 32 ∧ t.poison = s.poison
            else t.isPoison s.arg.id = true)))
  ∧ ∀ s : State,
      let asked := fun (l : Line) => s.arg.id ∈ l.awaiting ∨ ∃ c, dieOfCore c = s.arg.id ∧ c + 8 ∈ l.awaiting
      s.arg.id < 4 → (∃ l ∈ s.coh.lines, asked l ∧ l.askedAt + 200000 ≤ s.now) →
      ∃ t : State, exec .agentDead s = .next t ∧ t.mem = s.mem
        ∧ t.mgmt.incarnation.toList.getD s.arg.id 0 = (s.mgmt.incarnation.toList.getD s.arg.id 0 + 1) % 65536
        ∧ (∀ l ∈ t.coh.lines, ¬asked l) ∧ (∀ p ∈ t.coh.proxies, p.die ≠ s.arg.id)
        ∧ ∀ i, i < 20 → (t.bay (20 * s.arg.id + i)).fenced = true

/-- POWER_ON, RESET_ASSERT and VIN_LOSS leave nothing but the flash: no strand, no job, no memory, the hub and the
Registrar as after reset (that this takes in the depot, and the values of the registers, are the model's choice, log
entries 5 and 6). RESET_RELEASE starts the module in one step (log entry 22): global time is 0 and the boot status is that
of the first check that fails, 0x10 magic, 0x11 ranges, 0x12 signature, 0x13 a section that loads with another digest,
0x20 training, 0x21 zeroing, or 1; the log of a boot that succeeds holds an entry for the image and one for each section.
Out of place each changes nothing (log entry 19). BAY_GATE of a bay
that may be gated empties its cores' L1 caches and its translation cache, changes no memory, and gates the bay; one
that may not be gated stays as it is. BAY_WAKE of a waking bay makes it active, the time spent gated added up. -/
def Obligations.PowerAndReset : Prop :=
  (∀ (s : State) (i : Instr), (i = .powerOn ∧ s.mgmt.powered = false) ∨ (i = .resetAssert ∧ s.mgmt.powered = true) ∨ i = .vinLoss →
      ∃ t : State, exec i s = .next t ∧ t.mgmt.powered = (if i = .vinLoss then false else true) ∧ t.mgmt.inReset = true ∧ t.mgmt.boot = 0
        ∧ t.mgmt.flash = s.mgmt.flash ∧ t.mgmt.log = [] ∧ t.mgmt.identDone = false ∧ t.mem = State.reset.mem ∧ t.empties = [] ∧ t.poison = []
        ∧ t.cur = State.reset.cur ∧ t.rest = [] ∧ t.jobs = [] ∧ t.troupes = [] ∧ t.launches = [] ∧ t.cores = State.reset.cores
        ∧ t.reqs = [] ∧ t.cmds = [] ∧ t.tlb = [] ∧ t.hub = State.reset.hub ∧ t.reg = State.reset.reg ∧ t.coh = State.reset.coh)
  ∧ (∀ s : State, (s.mgmt.powered = true → exec .powerOn s = .next s) ∧ (s.mgmt.powered = false → exec .resetAssert s = .next s)
      ∧ (s.mgmt.powered = false ∨ s.mgmt.inReset = false → exec .resetRelease s = .next s)
      ∧ (s.mgmt.powered = true → s.mgmt.inReset = true →
          let f := s.mgmt.flash
          ∃ t : State, exec .resetRelease s = .next t ∧ t.now = 0 ∧ t.mgmt.inReset = false ∧ t.mgmt.powered = true ∧ t.mgmt.flash = f
            ∧ t.mem = State.reset.mem ∧ t.cur = State.reset.cur ∧ t.jobs = [] ∧ t.hub = State.reset.hub ∧ t.reg = State.reset.reg
            ∧ t.mgmt.refclkA = true ∧ t.mgmt.refclkB = true
            ∧ (t.mgmt.boot = 1 → ∃ e es, t.mgmt.log = e :: es ∧ e.kind = 1 ∧ e.digest = digestOf (sha256 (f.take (fieldAt f 8 4)))
                ∧ es.length = fieldAt f 12 4 ∧ ∀ x ∈ es, x.kind = 2)
            ∧ t.mgmt.boot = (if fieldAt f 0 4 ≠ 0x57465748 then 0x10 else if imageInRange f = false then 0x11
                else if Config.vendorSigned (digestOf (sha256 (f.take (fieldAt f 8 4)))) ((f.drop (fieldAt f 8 4)).take 384) = false then 0x12
                else if s.arg.bytes ≠ [] ∧ ¬(∀ i ∈ List.range (fieldAt f 12 4), sectionDigest f s.arg.bytes i = sectionDigest f f i) then 0x13
                else if s.arg.yes = false then 0x20 else if s.arg.also = false then 0x21 else 1)))
  ∧ ∀ s : State,
      (s.arg.id < 80 → s.mayGate s.arg.id = true →
        ∃ t : State, exec .bayGate s = .next t ∧ (t.bay s.arg.id).power = .gated ∧ (t.bay s.arg.id).gatedAt = s.now ∧ t.mem = s.mem
          ∧ (∀ c ∈ t.cores, bayOfCore c.num = s.arg.id → c.l1 = []) ∧ (∀ e ∈ t.tlb, e.unit ≠ s.arg.id) ∧ t.strands = s.strands
          ∧ ∀ b, b ≠ s.arg.id → t.bay b = s.bay b)
      ∧ (s.mayGate s.arg.id = false → exec .bayGate s = .next s)
      ∧ ((s.bay s.arg.id).power = .waking →
        ∃ t : State, exec .bayWake s = .next t ∧ (t.bay s.arg.id).power = .active
          ∧ (t.bay s.arg.id).gatedNs = (s.bay s.arg.id).gatedNs + (s.now - (s.bay s.arg.id).gatedAt)
          ∧ t.mem = s.mem ∧ t.strands = s.strands ∧ ∀ b, b ≠ s.arg.id → t.bay b = s.bay b)
      ∧ ((s.bay s.arg.id).power ≠ .waking → exec .bayWake s = .next s)

/-- Before the boot has succeeded no request has an effect (log entry 19). One with a code that is none of the eight is
answered with status 1. IDENT sets the identifier and the routes once; ROUTE replaces the routes after it; a port that is
named again serves again, its drops forgotten; ATTEST answers the log, the job's measurement and the signature over nonce, log and measurement;
REG_MR adds a region under a key that no region of its sort has (the lowest free key is the model's choice);
JOB_CREATE of a valid request adds the job; JOB_DESTROY takes a job with its troupes, commands, channels and regions;
CHAN opens and closes channels. Each is answered with its code and status; the reply to ATTEST of a missing job and which
status answers which refusal are the model's choice (log entries 22, 23). -/
def Obligations.ManagementRequests : Prop :=
  (∀ (s : State) (i : Instr), s.mgmt.boot ≠ 1 →
      i ∈ [.ident, .route, .attest, .regMr, .jobCreate, .jobDestroy, .chan, .switch, .hostRdmaWrite, .hostRdmaRead] → exec i s = .next s)
  ∧ (∀ (s : State) (i : Instr) (c : Nat), s.mgmt.boot = 1 → s.arg.code = some c → ¬(1 ≤ c ∧ c ≤ 8) →
      i ∈ [.ident, .route, .attest, .regMr, .jobCreate, .jobDestroy, .chan, .switch] → exec i s = .next (s.send (.reply c 1 0)))
  ∧ ∀ s : State, s.mgmt.boot = 1 → (s.arg.code = none ∨ ∃ c, s.arg.code = some c ∧ 1 ≤ c ∧ c ≤ 8) →
    let removed := s.arg.routes.foldl (fun m r => m &&& ~~~r.2) s.hub.removed
    let drops := s.hub.drops.filter (fun d => !(s.hub.removed.getLsbD d.1 && s.arg.routes.any (fun r => r.2.getLsbD d.1)))
    (s.mgmt.identDone = true → exec .ident s = .next (s.send (.reply 1 4 0)))
    ∧ (s.mgmt.identDone = false → 4096 ≤ s.arg.id → exec .ident s = .next (s.send (.reply 1 2 0)))
    ∧ (s.mgmt.identDone = false → s.arg.id < 4096 →
        exec .ident s = .next { s with
          mgmt := { s.mgmt with identDone := true, sent := s.mgmt.sent ++ [.reply 1 0 0] }
          hub := { s.hub with own := BitVec.ofNat 12 s.arg.id, routes := s.arg.routes, removed := removed, drops := drops } })
    ∧ (s.mgmt.identDone = false → exec .route s = .next (s.send (.reply 8 4 0)))
    ∧ (s.mgmt.identDone = true →
        exec .route s = .next { s with
          mgmt := { s.mgmt with sent := s.mgmt.sent ++ [.reply 8 0 0] }
          hub := { s.hub with routes := s.arg.routes, removed := removed, drops := drops } })
    ∧ (s.arg.yes = true → s.job? s.arg.id = none → exec .attest s = .next (s.send (.attest 2 [] none 0 [])))
    ∧ (s.arg.yes = false ∨ (s.job? s.arg.id).isSome →
        let j := if s.arg.yes then some (s.job s.arg.id).measure else none
        exec .attest s = .next (s.send (.attest 0 s.mgmt.log j
          (Config.deviceSignature (digestOf (sha256 (digestBytes s.arg.nonce ++ sha256 (s.mgmt.log.map LogEntry.bytes).flatten
            ++ (if s.arg.yes then digestBytes (s.job s.arg.id).measure else []))))) Config.deviceCertificate)))
    ∧ (∀ (job : Nat) (ptr : Word) (len : Nat) (r : Bool) (w : Bool), s.arg.mr = some (.job job ptr len r w) →
        ((s.job? job).isSome → leased ptr → ptrOff ptr + len ≤ 2 ^ 48 →
          ∃ k : Nat, (∀ g ∈ s.mgmt.regions, g.host = false → g.key ≠ k) ∧ exec .regMr s = .next { s with mgmt := { s.mgmt with
            regions := s.mgmt.regions ++ [⟨k, false, job, ptr, len, r, w⟩], sent := s.mgmt.sent ++ [.reply 3 0 k] } })
        ∧ (s.job? job = none ∨ 2 ^ 48 < ptrOff ptr + len → exec .regMr s = .next (s.send (.reply 3 2 0))))
    ∧ (∀ (job len : Nat), s.arg.mr = some (.host job len) → (s.job? job).isSome → len ≤ 2 ^ 48 → s.freeKey true < 4096 →
        ∃ k : Nat, (∀ g ∈ s.mgmt.regions, g.host = true → g.key ≠ k) ∧ exec .regMr s = .next { s with mgmt := { s.mgmt with
          regions := s.mgmt.regions ++ [⟨k, true, job, 0, len, true, true⟩], sent := s.mgmt.sent ++ [.reply 3 0 k] } })
    ∧ (∀ r : JobReq, s.arg.job = some r → jobValid r = true → s.hasFor r = true → s.jobs.length < 8 → s.Quiet →
        ∃ t : State, ∃ j : Job, exec .jobCreate s = .next t ∧ t.job? r.job = some j ∧ j.codeBase = r.codeBase ∧ j.codeLimit = r.codeLimit ∧ j.tvec = r.tvec
          ∧ j.ptBase = r.ptBase ∧ j.evtab = r.evtab ∧ j.creg = r.creg ∧ j.serial = 1 ∧ j.admissions = 0 ∧ j.stopped = false ∧ j.measure = 0
          ∧ t.jobs.length = s.jobs.length + 1 ∧ ∃ l : List Sent, t.mgmt.sent = l ++ [.reply 4 0 r.job])
    ∧ (∀ r : JobReq, s.arg.job = some r → jobValid r = false ∨ s.hasFor r = false → exec .jobCreate s = .next (s.send (.reply 4 2 0)))
    ∧ (s.job? s.arg.id = none → exec .jobDestroy s = .next (s.send (.reply 5 2 0)))
    ∧ ((s.job? s.arg.id).isSome →
        ∃ t : State, exec .jobDestroy s = .next t ∧ (∀ j ∈ t.jobs, j.num ≠ s.arg.id) ∧ (∀ j ∈ s.jobs, j.num ≠ s.arg.id → ∃ k ∈ t.jobs, k.num = j.num)
          ∧ (∀ u ∈ t.troupes, u.job ≠ s.arg.id) ∧ (∀ c ∈ t.cmds, c.job ≠ s.arg.id) ∧ (∀ g ∈ t.mgmt.regions, g.job ≠ s.arg.id)
          ∧ (∀ c ∈ t.hub.sends, c.job ≠ s.arg.id) ∧ (∀ a ∈ t.hub.accs, a.job ≠ s.arg.id) ∧ (∀ r ∈ t.reg.records, r.job ≠ s.arg.id)
          ∧ ∃ l : List Sent, t.mgmt.sent = l ++ [.reply 5 0 0])
    ∧ (∀ (chan : Nat) (job : Nat) (peer : BitVec 12) (ps : BitVec 12) (gap : Nat), s.arg.chan = some (.openAcc chan job peer ps gap) → chan < 4096 → (s.job? job).isSome → gap ≤ 10000 →
        (∀ a ∈ s.hub.accs, a.num = chan → a.state = 0) →
        ∃ t : State, ∃ a : AccChan, exec .chan s = .next t ∧ t.hub.accs.find? (fun x => x.num == chan) = some a ∧ a.job = job ∧ a.peer = peer ∧ a.peerSend = ps
          ∧ a.state = 1 ∧ a.lwm = 0 ∧ a.nextFlag = 1 ∧ a.held = 0 ∧ a.since = 0 ∧ a.bits = 0 ∧ a.gapUs = (if gap = 0 then 50 else gap)
          ∧ t.hub.sends = s.hub.sends ∧ t.mgmt.sent = s.mgmt.sent ++ [.reply 6 0 0] ∧ t.mem = s.mem)
    ∧ (∀ (chan : Nat) (job : Nat) (peer : BitVec 12) (pa : BitVec 12) (gap : Nat) (jb : Word) (js : Nat), s.arg.chan = some (.openSend chan job peer pa gap jb js) → chan < 4096 → (s.job? job).isSome → gap ≤ 10000 →
        js ≤ 1024 → ptrSpace jb = 3 → ptrOff jb % 65536 = 0 → (∀ c ∈ s.hub.sends, c.num = chan → c.state = 0) →
        ∃ t : State, ∃ c : SendChan, exec .chan s = .next t ∧ t.hub.sends.find? (fun x => x.num == chan) = some c ∧ c.job = job ∧ c.peer = peer ∧ c.peerAcc = pa
          ∧ c.state = 1 ∧ c.flagsOut = 0 ∧ c.nextSeq = 1 ∧ c.landed = 0 ∧ c.nextFlag = 1 ∧ c.gapUs = (if gap = 0 then 50 else gap)
          ∧ c.jbase = jb ∧ c.jsize = (if js = 0 then 64 else js) ∧ c.jhead = 0 ∧ c.jtail = 0 ∧ c.queue = [] ∧ c.journal = []
          ∧ t.hub.accs = s.hub.accs ∧ t.mgmt.sent = s.mgmt.sent ++ [.reply 6 0 0] ∧ t.mem = s.mem)
    ∧ (∀ (chan : Nat) (c : SendChan), s.arg.chan = some (.closeSend chan) → s.send? chan = some c → c.state = 1 ∨ c.state = 3 →
        ∃ t : State, exec .chan s = .next t ∧ (∃ c' : SendChan, t.send? chan = some c' ∧ c'.state = (if c.state = 1 then 2 else 0))
          ∧ t.mgmt.sent = s.mgmt.sent ++ [.reply 6 0 0])
    ∧ (∀ (chan : Nat) (a : AccChan), s.arg.chan = some (.closeAcc chan) → s.hub.accs.find? (fun x => x.num == chan) = some a →
        a.state = 2 ∨ (a.state = 1 ∧ a.held = 0) →
        ∃ t : State, ∃ a' : AccChan, exec .chan s = .next t ∧ t.hub.accs.find? (fun x => x.num == chan) = some a' ∧ a'.state = 0 ∧ a'.held = 0
          ∧ t.mgmt.sent = s.mgmt.sent ++ [.reply 6 0 0])

/-- The number functions that the arithmetic and the conversions name. Decoding reads sign, exponent and fraction as the formats lay them
out, and encoding gives the pattern back, or the canonical NaN. Rounding an exact number gives the multiple of the grid's spacing
that the mode names, subnormal spacing included and the sign kept; beyond the largest finite magnitude the mode decides between it
and an infinity, which .sat clamps, which e4m3 turns into NaN and e2m1 into ±6; sr draws once. The two-operand operations and the fused ones
round the exact real result once; an exact zero of a sum has the operands' common sign, else + or in rdn −; a NaN operand and an
invalid operation give the canonical NaN, the second as an event; infinite operands give infinities. The square root rounds the real
root once, keeps ±0, and is invalid below −0. A minimum or maximum returns the operand that is no NaN, of two numbers the one that
none passes with −0 below +0, the canonical NaN for two NaN, and .sat clamps an infinity it returns; it draws nothing. Comparisons
are those of the values, −0 equal to +0, and false of a NaN. A conversion to an integer
rounds to a whole number, then wraps or clamps; an infinity gives 0 or the bound, NaN gives 0. How many random bits a conversion takes
in sr is the model's reading (log entries 59 and 60). -/
def Obligations.NumberRules : Prop :=
  (∀ (f : FF) (lm : Nat) (le : Int) (nb : Nat), (f, lm, le, nb) ∈ formatRows →
    (∀ b : Nat, b < 2 ^ f.width →
      let x := b / 2 ^ f.fb % 2 ^ f.eb
      let m := b % 2 ^ f.fb
      let neg := decide (b / 2 ^ (f.eb + f.fb) = 1)
      let special := (f.hasInf = true ∧ x = 2 ^ f.eb - 1) ∨ (f = ffE4m3 ∧ x = 15 ∧ m = 7)
      (special → f.decode b = if f.hasInf = true ∧ m = 0 then .inf neg else .nan)
      ∧ (¬special → Num.Is (f.decode b) neg ((((if x = 0 then m else 2 ^ f.fb + m : Nat)) : ℝ) * 2 ^ ((max x 1 : Nat) - f.bias - f.fb : Int)))
      ∧ f.encode (f.decode b) = if f.decode b = .nan then nb else b)
    ∧ ∀ (rm : Rm) (sat : Bool) (l : Quad) (src : Option Int) (inNan inInf : Bool),
      (∀ (neg : Bool) (m : Nat) (e : Int),
        f.Rounds lm le neg (m * 2 ^ e) rm sat l src (f.finish (Machine.Num.fin neg m e).exact rm sat l src inNan false))
      ∧ f.finish .nan rm sat l src inNan inInf = ⟨nb, drawn rm 1 l, f.hasNan && !inNan, false, false⟩
      ∧ ∀ neg : Bool, let r := f.finish (.inf neg) rm sat l src inNan inInf
          r.lfsr = drawn rm 1 l ∧ f.GivesInf lm le neg sat inInf r)
  ∧ (∀ (ty : FTy) (lm : Nat) (le : Int) (nb : Nat) (rm : Rm) (sat : Bool) (l : Quad), (ftyFF ty, lm, le, nb) ∈ formatRows →
    let f := ftyFF ty
    let sg := fun (n : Bool) (v : ℝ) => if n then -v else v
    let zero := fun n1 n2 : Bool => if n1 = n2 then n1 else decide (rm = .rdn)
    (∀ (op : FBin) (a b : Nat),
      let r := f.bin op a b rm sat l
      (f.decode a = .nan ∨ f.decode b = .nan → r = ⟨nb, drawn rm 1 l, false, false, false⟩)
      ∧ (op.Invalid (f.decode a) (f.decode b) → r = ⟨nb, drawn rm 1 l, true, false, false⟩)
      ∧ (∀ s : Bool, op.Infinite (f.decode a) (f.decode b) s →
          r.lfsr = drawn rm 1 l ∧ f.GivesInf lm le s sat ((f.decode a).isInf || (f.decode b).isInf) r)
      ∧ (∀ (n1 n2 : Bool) (v1 v2 : ℝ), Num.Is (f.decode a) n1 v1 → Num.Is (f.decode b) n2 v2 →
        (op = .add ∨ op = .sub → ∀ (neg : Bool) (n3 : Bool), n3 = (if op = .add then n2 else !n2) →
          let v := sg n1 v1 + sg n3 v2
          (v < 0 → neg = true) → (0 < v → neg = false) → (v = 0 → neg = zero n1 n3) → f.Rounds lm le neg |v| rm sat l none r)
        ∧ (op = .mul → f.Rounds lm le (n1 != n2) (v1 * v2) rm sat l none r)
        ∧ (op = .div → v2 ≠ 0 → f.Rounds lm le (n1 != n2) (v1 / v2) rm sat l none r))
      ∧ (∀ (n1 n2 : Bool) (v1 : ℝ), op = .div → Num.Is (f.decode a) n1 v1 → f.decode b = .inf n2 → f.Rounds lm le (n1 != n2) 0 rm sat l none r))
    ∧ (∀ (a b c : Nat) (negP negC : Bool),
      let r := f.fma a b c negP negC rm sat l
      let x := f.decode a
      let y := f.decode b
      let z := f.decode c
      let sp := (x.sign != y.sign) != negP
      let sc := z.sign != negC
      let endless := (x.isInf = true ∧ y.isZero = false) ∨ (x.isZero = false ∧ y.isInf = true)
      (x = .nan ∨ y = .nan ∨ z = .nan → r = ⟨nb, drawn rm 1 l, false, false, false⟩)
      ∧ (x ≠ .nan → y ≠ .nan → z ≠ .nan →
        (FBin.Invalid .mul x y ∨ (endless ∧ z.isInf = true ∧ sp ≠ sc) → r = ⟨nb, drawn rm 1 l, true, false, false⟩)
        ∧ (¬FBin.Invalid .mul x y → ∀ s : Bool, (endless ∧ s = sp ∧ (z.isInf = true → s = sc)) ∨ (¬endless ∧ z.isInf = true ∧ s = sc) →
            r.lfsr = drawn rm 1 l ∧ f.GivesInf lm le s sat true r)
        ∧ (∀ (n1 n2 n3 neg : Bool) (v1 v2 v3 : ℝ), Num.Is x n1 v1 → Num.Is y n2 v2 → Num.Is z n3 v3 →
          let v := sg sp (v1 * v2) + sg sc v3
          (v < 0 → neg = true) → (0 < v → neg = false) → (v = 0 → neg = zero sp sc) → f.Rounds lm le neg |v| rm sat l none r))))
  ∧ (∀ (ty : FTy) (lm : Nat) (le : Int) (nb : Nat) (sat : Bool) (l : Quad), (ftyFF ty, lm, le, nb) ∈ formatRows →
    let f := ftyFF ty
    (∀ (wantMax : Bool) (a b : Nat),
      let p := f.pick wantMax a b
      let r := f.pickSat wantMax sat a b l
      f.Picks wantMax nb a b p ∧ r.lfsr = l ∧ r.nan = false ∧ r.inf = false
      ∧ (sat = true → ∀ neg : Bool, f.decode p = .inf neg → f.Shows r.bits neg (lm * 2 ^ le) ∧ r.sat = true)
      ∧ (sat = false ∨ (f.decode p).isInf = false → r.bits = p ∧ r.sat = false))
    ∧ ∀ (a : Nat) (rm : Rm),
      let x := f.decode a
      let r := f.root a rm sat l
      (x = .nan → r = ⟨nb, drawn rm 1 l, false, false, false⟩)
      ∧ (x ≠ .nan → x.sign = true → x.isZero = false → r = ⟨nb, drawn rm 1 l, true, false, false⟩)
      ∧ (x = .inf false → r.lfsr = drawn rm 1 l ∧ f.GivesInf lm le false sat true r)
      ∧ ∀ (n : Bool) (v : ℝ), Num.Is x n v → v = 0 ∨ n = false → f.Rounds lm le n (Real.sqrt v) rm sat l none r)
  ∧ (∀ x y : Machine.Num,
    (x = .nan ∨ y = .nan → Num.lt x y = false ∧ Num.eq x y = false)
    ∧ ∀ a b : EReal, Num.At x a → Num.At y b → (Num.lt x y = true ↔ a < b) ∧ (Num.eq x y = true ↔ a = b))
  ∧ ∀ (x : Machine.Num) (lsb : Int) (dst : Fmt) (rm : Rm) (sat : Bool) (l : Quad),
    let r := convertNum x lsb dst rm sat l
    (∀ f : FF, fmtFF dst = some f → r = f.finish x.exact rm sat l (some lsb) x.isNan x.isInf)
    ∧ (fmtFF dst = none →
      let lo := intMin (fmtSigned dst) (Machine.fmtBits dst)
      let hi := intMax (fmtSigned dst) (Machine.fmtBits dst)
      let low := fun v : Int => (v % 2 ^ Machine.fmtBits dst).toNat
      r.lfsr = drawn rm 1 l ∧ r.nan = false ∧ r.inf = false
      ∧ (∀ (neg : Bool) (m : Nat) (e : Int), x = .fin neg m e → ∃ n : Nat,
        RoundsToUnits rm neg (m * 2 ^ e) 1 (min 16 (0 - lsb).toNat) (drawn rm 1 l) n
        ∧ let v : Int := if neg then -(n : Int) else n
          (sat = false ∨ (lo ≤ v ∧ v ≤ hi) → r.bits = low v ∧ r.sat = false)
          ∧ (sat = true → v < lo → r.bits = low lo ∧ r.sat = true) ∧ (sat = true → hi < v → r.bits = low hi ∧ r.sat = true))
      ∧ (∀ neg : Bool, x = .inf neg → r.sat = sat ∧ r.bits = if sat then low (if neg then lo else hi) else 0)
      ∧ (x = .nan → r.bits = 0 ∧ r.sat = false))

/-- The word 0x0400 decodes to NOP, NOP encodes as that word, and NOP leaves everything as it is but that the strand goes
on after it. -/
def Obligations.NopRule : Prop :=
  decodeGroup [0x0400] = .nop ∧ encode .nop = [0x0400] ∧ ∀ s : State, exec .nop s = .next s.wentOn

/-- SEL, page 1, opcode 0x20, shape RRR, reads d as its condition: X[d] becomes a when X[d] is not 0 and b otherwise, and
nothing else but the PC changes. A KREG word names a as its t field does for every RRR instruction, its trap bit for d
is legal; without a KREG, a is d, so that X[d] stays unless it is 0 and then becomes b. -/
def Obligations.SelRule : Prop :=
  (∀ (o : RRR) (s : State), s.readyX o.a → s.readyX o.b → s.readyX o.d →
    exec (.sel o) s = .next (s.wrote o.d (if s.x o.d ≠ 0 then s.x o.a else s.x o.b)))
  ∧ (∀ (o : RRR) (s : State), s.readyX o.a → s.readyX o.b → s.cur.fullX o.d = false → o.td = true → s.canTrap →
    exec (.sel o) s = .next (s.delivered false 0x08 (BitVec.ofNat 64 (o.d.toNat * 2 ^ 16)) 0 0 0 s.cur.pc))
  ∧ (∀ d b : Reg, decodeGroup [0xF040, (0x20 : BitVec 6) ++ d ++ b] = .sel ⟨d, d, b, false, false, false⟩)
  ∧ (∀ (d a b : Reg) (td ta tb : Bool), decodeGroup
      [0xF040, (0x1D : BitVec 5) ++ b ++ (0 : BitVec 2) ++ BitVec.ofBool ta ++ BitVec.ofBool tb ++ BitVec.ofBool td ++ (0 : BitVec 1),
        (0x20 : BitVec 6) ++ d ++ a] = .sel ⟨d, a, b, td, ta, tb⟩)
  ∧ ∀ (d b : Reg) (s : State), s.readyX d → s.readyX b →
    (s.x d ≠ 0 → exec (.sel ⟨d, d, b, false, false, false⟩) s = .next s.wentOn)
    ∧ (s.x d = 0 → exec (.sel ⟨d, d, b, false, false, false⟩) s = .next (s.wrote d (s.x b)))

/-- One to five words of each page, as the spec's worked examples print them, decode to the instruction that the example
names, with each operand. -/
def Obligations.DecodedWords : Prop :=
  decodeGroup [0x10A7] = .add ⟨5, 5, 7, false, false, false⟩ ∧ decodeGroup [0xF1C0, 0x0800] = .sret
  ∧ decodeGroup [0xE617, 0xE5C0, 0x0CE0] = .movi ⟨7, -1000000, false⟩
  ∧ decodeGroup [0xE33C, 0xE26A, 0xE79B, 0xE6F0, 0x14A5] = .addImm ⟨5, 5, 0x6789ABCDEF0, false, false⟩
  ∧ decodeGroup [0xF040, 0xE002, 0xE2C8, 0x58A6] = .bext ⟨5, 6, 8, 11, true, false, false⟩
  ∧ decodeGroup [0xF08B, 0xE820, 0xE040, 0x8086] = .vld ⟨4, 6, 64, .acq, .die, .g4, false, false⟩
  ∧ decodeGroup [0xF0C0, 0xE900, 0x0C41] = .vfmul ⟨2, 1, 4, ⟨.rne, false, .f32⟩, 0, .g1, false, false, false⟩
  ∧ decodeGroup [0xF102, 0xE840, 0x1020] = .mma ⟨1, 0, 1, false, true, false⟩
  ∧ decodeGroup [0xF15C, 0xE9C0, 0xE010, 0x08A6] = .amoaddS64 ⟨5, 6, 7, 16, .ar, .pkg, false, false, false⟩
  ∧ decodeGroup [0xF14C, 0xE022, 0x6926] = .ldrowStale ⟨9, 6, .r256, .bf16, .acq, .pkg, false, false⟩
  ∧ decodeGroup [0xF194, 0xE9C0, 0x50C8] = .resumeHere ⟨6, 8, 7, .rel, .pkg, false, false⟩
  ∧ decodeGroup [0xF180, 0x4CA8] = .suspend ⟨5, 8, false, false⟩
  ∧ decodeGroup [0xF200, 0x0400] = .illegalEncoding ∧ decodeGroup [0xE001, 0xE801, 0x0400] = .illegalEncoding

/-- For every well-formed instruction that has words, of every page, the decoder takes exactly those words from whatever
follows and reads that instruction from them, so no field of any encoding is dropped. Every constructor has words but
the steps of the device and the host and the five rows whose operands stand in the words in hand; of these TRAPZ, BRK
and XABORT come back from every word group that holds them, with their code. -/
def Obligations.DecodeOfEncode : Prop :=
  (∀ (i : Instr) (more : List Half), i.wf = true → encode i ≠ [] →
    decodeGroup (encode i) = i ∧ takeGroup 5 (encode i ++ more) = some (encode i))
  ∧ (∀ i : Instr, i.isEvent = false → i ∉ [.trapz, .brk, .xabort, .safe, .illegalEncoding] → encode i ≠ [])
  ∧ (∀ d a : Reg, decodeGroup (encodeTrapz d a) = .trapz)
  ∧ ∀ code : Word, code.toNat < 1024 →
    decodeGroup (encodeBrk code) = .brk ∧ (rawOf (encodeBrk code)).imm = code
    ∧ decodeGroup (encodeXabort code) = .xabort ∧ (rawOf (encodeXabort code)).imm = code

/-- From any words the decoder takes at most five, and the instruction it reads is well formed; a group that starts with a
KEXT word, holds a page from 8 to 31 or has its prefixes out of order is an illegal encoding. -/
def Obligations.DecodedIsWellFormed : Prop :=
  ∀ ws g : List Half, takeGroup 5 ws = some g →
    (decodeGroup g).wf = true ∧ g.length ≤ 5 ∧ (∃ more, ws = g ++ more)
    ∧ ((∃ w ∈ g, isKext w = true ∨ (isPrefixWord w = true ∧ highPage w = true)) → decodeGroup g = .illegalEncoding)
    ∧ (prefixOrder (g.filter isPrefixWord) = false → decodeGroup g = .illegalEncoding)

/-- After reset no strand runs, no job, troupe or launch exists, every byte reads 0 with its tag full and nothing is
poisoned, no line is held by any cache, time is 0 and the package listens to the host; each agent's incarnation is 1.
That the state starts at the end of bring-up, with an empty flash and log, is the model's choice (log entry 4), as are
the bytes of the depot (entry 5) and the registers of a core without a strand (entry 6). -/
def Obligations.StateAtReset : Prop :=
  State.reset.cur.mode = .vacant ∧ State.reset.rest = [] ∧ State.reset.jobs = [] ∧ State.reset.troupes = [] ∧ State.reset.launches = []
  ∧ (∀ a, State.reset.byte a = 0 ∧ State.reset.tagFull a = true ∧ State.reset.isPoison a = false)
  ∧ State.reset.coh.lines = [] ∧ State.reset.coh.proxies = [] ∧ State.reset.coh.mts = [] ∧ State.reset.now = 0
  ∧ State.reset.mgmt.powered = true ∧ State.reset.mgmt.inReset = false ∧ State.reset.mgmt.boot = 1
  ∧ (∀ i : Fin 5, State.reset.mgmt.incarnation[i] = 1) ∧ (∀ b, (State.reset.bay b).fenced = false ∧ (State.reset.bay b).power = .active)
  ∧ CanStep State.reset

/-- At reset the byte memory, the list of empty words and the list of poisoned words are each in the canonical form that
StepKeepsForm says every step keeps. -/
def Obligations.ResetIsInForm : Prop :=
  Safe State.reset

/-- From every state whose byte memory lists rising addresses and no zero byte, and whose empty and poisoned words are
listed rising, every step, be it an instruction or a step of the device or of the host, leaves a state of the same
form; so two memories that hold the same bytes stay the same data. -/
def Obligations.StepKeepsForm : Prop :=
  ∀ s t : State, Safe s → Machine.step s = .next t → Safe t

/-- A step first settles whose turn it is (turn). Whose turn it is, that the agenda comes first, and the free pick between a step of the
device and an instruction are the model's choices (log entries 2 and 13). With nothing on the agenda, no pending step of the device, and one
strand that is tried, with no pending trap, stop or wait, a step of a machine that has booted fetches the words at its PC and runs what they
decode to, on a state that differs from the one before only in the time, the tick, the core's turn pointer and caches, the strand tried and
the words in hand. A strand that waits with a deliverable trap pending and no CANCEL due leaves its wait before anything else happens and
takes the trap (R413; which of several goes first is the model's choice, log entry 2). While there is none, a step or host request on the
agenda is run first, with what it arrives with. -/
def Obligations.StepRunsDecoded : Prop :=
  (∀ (s0 s1 : State) (ws : List Half),
    let s := s0.turn
    s0.agenda = [] → s0.mgmt.powered = true → s0.mgmt.inReset = false → s0.mgmt.boot = 1 →
    s.leaver = none → pendingEvents s = [] → issuingCores s = [s.cur.core] → nextStrand s.tick s.cur.core = some s.cur → (∀ u ∈ s.rest, u.sid ≠ s.cur.sid) →
    s.cur.wait = none → s.cur.blocked = none → s.cur.pend = [] → s.cur.stopDue = 0 → s.cur.cancelDue = false → s.cur.yield = false →
    fetchGroup 5 { s.tick with tried := some (s.cur.core, s.cur.hw, s.cur.sid) } s.cur.pc [] = (s1, .ok ws) →
    Machine.step s0 = exec (decodeGroup ws) { s1.prefetch with ir := ws } ∧ s1.prefetch.cur = s.cur ∧ s.cur = { s0.cur with stalled := s.cur.stalled }
      ∧ s1.prefetch.rest = s.rest ∧ s1.prefetch.mem = s0.mem ∧ s1.prefetch.jobs = s0.jobs ∧ s1.prefetch.troupes = s0.troupes
      ∧ s1.prefetch.reqs = s0.reqs ∧ s1.prefetch.hub = s0.hub ∧ s1.prefetch.reg = s0.reg ∧ s1.prefetch.mgmt = s0.mgmt
      ∧ s1.prefetch.poison = s0.poison)
  ∧ (∀ (s : State) (h : Happening) (r : List Happening), s.turn.leaver = none → s.agenda = h :: r → h.step.isEvent = true →
    Machine.step s = exec h.step { s.turn.tick.retryAll with agenda := r, arg := h.arg, ir := [] })
  ∧ ∀ (s : State) (t : Strand), s.turn.leaver = some t → t.cancelDue = false → (∀ u ∈ s.turn.strands, u.sid = t.sid → u = t) →
    t.wait.isSome = true ∧ t.pend ≠ [] ∧ t.busy = false
      ∧ Machine.step s = exec .asyncTrapDelivery { s.turn.tick.focus t.sid with arg := { id := t.sid } }

/-- Every instruction and every step of the device answers a next state from every state. A step of the machine answers a
next state exactly when something is on the agenda, or when the package has power, is out of reset and has booted;
without these it stops, and it is never refused. That a step on the agenda is run, powered or not, and that a step of the
device out of its place answers a next state, too, are the model's choices (log entries 13 and 19). -/
def Obligations.EveryStepAnswers : Prop :=
  (∀ (i : Instr) (s : State), ∃ t : State, exec i s = .next t)
  ∧ (∀ s : State, CanStep s ↔ ∃ t : State, Machine.step s = .next t)
  ∧ (∀ (s : State) (r : Refusal), Machine.step s ≠ .refused r)
  ∧ ∀ s : State, s.agenda = [] →
    (s.mgmt.powered = false → Machine.step s = .fault .noPower)
    ∧ (s.mgmt.powered = true → s.mgmt.inReset = true → Machine.step s = .fault .heldInReset)
    ∧ (s.mgmt.powered = true → s.mgmt.inReset = false → s.mgmt.boot ≠ 1 → Machine.step s = .fault .bootFailed)
end

