-- ==== Sys2Proof/Laws/Agents.lean ====
section
/-! SUPPORT. What an access by an agent served in one step does when nothing is outstanding behind the caches: settling
ends a rebase and leaves the rest as it is, and a read answers the bytes of memory (spec/06 R115, R119; log entries 14, 80). -/

namespace Sys2Proof.Machine

theorem State.clearTiles_of_quiet (s : State) (a n : Nat) (w : Bool) (h : s.Quiet) : s.clearTiles a n w = s := by
  obtain ⟨-, -, -, ht⟩ := h
  have h1 : s.strands.filter (fun t => t.tx.committing && t.exists?) = [] := by
    rw [List.filter_eq_nil_iff]
    intro t hm
    simp [(ht t hm).2]
  have h2 : ∀ tile, s.conflicts tile true = [] := by
    intro tile
    unfold State.conflicts
    rw [List.filter_eq_nil_iff]
    intro t hm
    simp [(ht t hm).1]
  unfold State.clearTiles
  generalize tilesOf a n = l
  induction l with
  | nil => rfl
  | cons x r ih =>
    rw [List.foldl_cons]
    have e : (let x1 := (s.strands.filter (fun t => t.tx.committing && t.exists?)).foldl (fun y t => y.applyTiles t.sid (fun e => e.tile == x)) s
      if w then (x1.conflicts x true).foldl (fun y t => y.abortTx t.sid xConflict 0 (t.tilePtr x)) x1 else x1) = s := by
      rw [h1]
      cases w <;> simp [h2]
    rw [e]
    exact ih

theorem State.settle_of_quiet (s : State) (ln : Nat) (w : Bool) (h : s.Quiet) : s.settle ln w = s := by
  obtain ⟨hu, hl, hp, -⟩ := h
  have h1 : s.cores.filter (fun c => c.upd.any (fun u => u.registered && u.dep.overlaps (ln * 128) 128)) = [] := by
    rw [List.filter_eq_nil_iff]
    intro c hm
    simp [hu c hm]
  unfold State.settle
  rw [h1]
  simp [State.line, hl, hp]

/-- A state whose rebase flag may have changed. -/
def State.withRebasing (s : State) (b : Bool) : State := { s with coh := { s.coh with rebasing := b } }

theorem State.withRebasing_self (s : State) : s.withRebasing s.coh.rebasing = s := rfl

theorem State.withRebasing_twice (s : State) (b c : Bool) : (s.withRebasing b).withRebasing c = s.withRebasing c := rfl

theorem State.withRebasing_mem (s : State) (b : Bool) : (s.withRebasing b).mem = s.mem := rfl

theorem State.settleRange_of_quiet (s : State) (a n : Nat) (w : Bool) (h : s.Quiet) :
    ∃ b, s.settleRange a n w = s.withRebasing b := by
  have hq : s.endRebase.Quiet := h
  unfold State.settleRange
  split
  · refine ⟨false, ?_⟩
    rw [s.endRebase.clearTiles_of_quiet a n w hq]
    generalize linesOf a n = l
    induction l with
    | nil => rfl
    | cons x r ih => rw [List.foldl_cons, s.endRebase.settle_of_quiet x w hq]; exact ih
  · exact ⟨_, rfl⟩

theorem State.freshBytes_of_quiet (s : State) (a n : Nat) (h : s.Quiet) :
    ∃ b, s.freshBytes a n = (s.withRebasing b, Memory.bytes s.mem a n) := by
  obtain ⟨b, e⟩ := s.settleRange_of_quiet a n false h
  unfold State.freshBytes
  exact ⟨b, by rw [e]; rfl⟩

theorem Memory.bytes_append (m : Memory) (a k n : Nat) : Memory.bytes m a k ++ Memory.bytes m (a + k) n = Memory.bytes m a (k + n) := by
  induction k generalizing a with
  | zero => simp [Memory.bytes]
  | succ k ih =>
    have e : a + (k + 1) = a + 1 + k := by omega
    rw [Nat.succ_add]
    simp only [Memory.bytes, List.cons_append, e, ih]

/-! ### Pointers further on -/

theorem padd_padd (p a b : Word) : padd (padd p a) b = padd p (a + b) := by
  unfold padd
  rw [BitVec.extractLsb'_append_eq_left, BitVec.extractLsb'_append_eq_right, BitVec.extractLsb'_add (by omega), BitVec.add_assoc]

theorem ptrSpace_ptrAt (p : Word) (n : Nat) : ptrSpace (ptrAt p n) = ptrSpace p := by
  unfold ptrSpace ptrAt padd
  rw [BitVec.extractLsb'_append_eq_of_le (by omega)]
  congr 1
  ext i hi
  simp only [BitVec.getElem_extractLsb', BitVec.getLsbD_extractLsb', show 60 - 48 + i < 16 by omega, decide_true, Bool.true_and]
  congr 1
  omega

theorem ptrAt_zero (p : Word) : ptrAt p 0 = p := by
  have z : ∀ q : BitVec 48, q + (BitVec.ofNat 64 0).extractLsb' 0 48 = q := by
    intro q
    apply BitVec.eq_of_toNat_eq
    simp
  have e : (p.extractLsb' 0 48 + (BitVec.ofNat 64 0).extractLsb' 0 48 : BitVec 48) = p.extractLsb' 0 48 := z _
  unfold ptrAt padd
  rw [e]
  exact BitVec.extractLsb'_append_extractLsb' (w := 16) (len := 48) (x := p)

theorem ptrAt_ptrAt (p : Word) (m n : Nat) : ptrAt (ptrAt p m) n = ptrAt p (m + n) := by
  unfold ptrAt
  rw [padd_padd, BitVec.ofNat_add]

/-- Translation does not look at a rebase. -/
theorem objWord_withRebasing (s : State) (b : Bool) (job : Nat) (area r w : Bool) (p : Word) :
    objWord (s.withRebasing b) job area r w p = objWord s job area r w p := rfl

/-- Words of an object that lie one after another, none poisoned, read as the bytes of memory. -/
theorem objRead_of_quiet (s : State) (job : Nat) (area : Bool) (h : s.Quiet) (hp : s.poison = []) (n : Nat) (p : Word) (a : Nat)
    (hw : ∀ i, i < n → objWord s job area true false (ptrAt p (8 * i)) = some (a + 8 * i)) :
    ∃ b, objRead s job area p n = (s.withRebasing b, some (Memory.bytes s.mem a (8 * n))) := by
  induction n generalizing s p a with
  | zero => exact ⟨_, rfl⟩
  | succ n ih =>
    have h0 := hw 0 (by omega)
    obtain ⟨b, hb⟩ := s.freshBytes_of_quiet a 8 h
    obtain ⟨c, hc⟩ := ih (s.withRebasing b) h hp (ptrAt p 8) (a + 8) (fun i hi => by
      have := hw (i + 1) (by omega)
      rw [ptrAt_ptrAt, show 8 + 8 * i = 8 * (i + 1) by omega, objWord_withRebasing, this]
      congr 1
      omega)
    have e : s.isPoison a = false := by simp [State.isPoison, hp]
    unfold objRead
    rw [Nat.mul_zero, ptrAt_zero, Nat.add_zero] at h0
    refine ⟨c, ?_⟩
    simp only [h0, e, hb, hc, State.withRebasing_twice, State.withRebasing_mem, Memory.bytes_append]
    simp only [Bool.false_eq_true, if_false]
    congr 3
    omega

/-! ### Writes of an agent -/

/-- Nothing is outstanding behind the caches and no strand waits; the home may hold records of lines that no cache holds. -/
def State.Calm (s : State) : Prop :=
  (∀ c ∈ s.cores, c.upd = []) ∧ s.coh.proxies = [] ∧ s.poison = []
  ∧ (∀ u ∈ s.strands, u.tx.depth = 0 ∧ u.tx.committing = false ∧ u.wait = none)
  ∧ ∀ l ∈ s.coh.lines, l.share = .i ∧ l.awaiting = []

theorem State.clearTiles_of_calm (s : State) (a n : Nat) (w : Bool) (h : s.Calm) : s.clearTiles a n w = s := by
  obtain ⟨-, -, -, ht, -⟩ := h
  have h1 : s.strands.filter (fun t => t.tx.committing && t.exists?) = [] := by
    rw [List.filter_eq_nil_iff]
    intro t hm
    simp [(ht t hm).2.1]
  have h2 : ∀ tile, s.conflicts tile true = [] := by
    intro tile
    unfold State.conflicts
    rw [List.filter_eq_nil_iff]
    intro t hm
    simp [(ht t hm).1]
  unfold State.clearTiles
  generalize tilesOf a n = l
  induction l with
  | nil => rfl
  | cons x r ih =>
    rw [List.foldl_cons, h1]
    cases w <;> simp [h2] at ih ⊢ <;> exact ih

theorem State.line_of_calm (s : State) (ln : Nat) (h : s.Calm) : (s.line ln).share = .i ∧ (s.line ln).awaiting = [] := by
  obtain ⟨-, -, -, -, hl⟩ := h
  unfold State.line
  cases hf : s.coh.lines.find? (fun l => l.line == ln) with
  | none => dsimp only [Option.getD]; split <;> exact ⟨rfl, rfl⟩
  | some l =>
    have := hl l (List.mem_of_find?_eq_some hf)
    dsimp only [Option.getD]
    split <;> exact this

theorem State.settle_of_calm (s : State) (ln : Nat) (w : Bool) (h : s.Calm) : s.settle ln w = s := by
  have hl := s.line_of_calm ln h
  obtain ⟨hu, hp, -⟩ := h
  have h1 : s.cores.filter (fun c => c.upd.any (fun u => u.registered && u.dep.overlaps (ln * 128) 128)) = [] := by
    rw [List.filter_eq_nil_iff]
    intro c hm
    simp [hu c hm]
  unfold State.settle
  rw [h1]
  simp [hl, hp]

/-- From s to t only memory and the home's line records have changed, and t is calm. -/
def OnlyWritten (s t : State) : Prop := t.Calm ∧ ∃ m c, t = { s with mem := m, coh := c }

/-- New line records that no cache shares leave the state calm, whatever the floors become. -/
theorem OnlyWritten.ofLines (s : State) (ls : List Line) (ms : List (Nat × Nat × Nat)) (h : s.Calm)
    (hl : ∀ l ∈ ls, l.share = .i ∧ l.awaiting = []) : OnlyWritten s { s with coh := { s.coh with lines := ls, mts := ms } } :=
  ⟨⟨h.1, h.2.1, h.2.2.1, h.2.2.2.1, hl⟩, s.mem, _, rfl⟩

theorem OnlyWritten.trans (s t u : State) (h : OnlyWritten s t) (k : OnlyWritten t u) : OnlyWritten s u := by
  obtain ⟨-, m, c, rfl⟩ := h
  obtain ⟨hc, m', c', rfl⟩ := k
  exact ⟨hc, m', c', rfl⟩

theorem State.settleRange_of_calm (s : State) (a n : Nat) (w : Bool) (h : s.Calm) : OnlyWritten s (s.settleRange a n w) := by
  have hq : s.endRebase.Calm := h
  unfold State.settleRange
  split
  · rw [s.endRebase.clearTiles_of_calm a n w hq]
    have e : ∀ l : List Nat, l.foldl (fun x ln => x.settle ln w) s.endRebase = s.endRebase := by
      intro l
      induction l with
      | nil => rfl
      | cons x r ih => rw [List.foldl_cons, s.endRebase.settle_of_calm x w hq]; exact ih
    rw [e]
    exact ⟨hq, _, _, rfl⟩
  · exact ⟨h, _, _, rfl⟩

theorem State.evictHome_of_calm (s : State) (l : Line) (h : s.Calm) : OnlyWritten s (s.evictHome l) := by
  have hm := h.2.2.2.2
  unfold State.evictHome
  dsimp only
  split
  · exact OnlyWritten.ofLines s _ _ h (fun x hx => hm x (List.mem_of_mem_filter hx))
  · refine OnlyWritten.ofLines s _ _ h (fun x hx => ?_)
    obtain ⟨y, hy, rfl⟩ := List.mem_map.mp hx
    split
    · exact hm y hy
    · exact hm y hy

/-- A slice without proxy copies evicts home lines alone. -/
theorem State.keepSlice_of_calm (s : State) (k : Nat × Nat) (ln : Nat) (h : s.Calm) : OnlyWritten s (s.keepSlice k ln) := by
  have one : ∀ (t : State) (n : Nat), t.Calm → OnlyWritten t (t.evictOne k ln n) := by
    intro t n ht
    unfold State.evictOne State.cachedProxies
    rw [ht.2.1]
    dsimp only [List.filter_nil, List.length_nil]
    split
    · exact t.evictHome_of_calm _ ht
    · exact ⟨ht, _, _, rfl⟩
  unfold State.keepSlice
  split
  · exact ⟨h, _, _, rfl⟩
  · generalize s.sliceUsed k - sliceLines = n
    generalize hp : Config.pick s.ticks = p
    clear hp
    induction n with
    | zero => exact ⟨h, _, _, rfl⟩
    | succ n ih =>
      rw [List.range_succ, List.foldl_append]
      exact ih.trans _ _ _ (one _ _ ih.1)

theorem State.stampLine_of_calm (s : State) (ln : Nat) (h : s.Calm) : OnlyWritten s (s.setLine ln (fun l => l.stampWrite 0)) := by
  have hl := s.line_of_calm ln h
  have hm := h.2.2.2.2
  have h1 : ∀ n : Line, n.share = .i ∧ n.awaiting = [] →
      ∀ l ∈ s.coh.lines.map (fun x => if x.line == ln then n else x), l.share = .i ∧ l.awaiting = [] := by
    intro n hn l hx
    obtain ⟨l', h', rfl⟩ := List.mem_map.mp hx
    split
    · exact hn
    · exact hm l' h'
  have h2 : ∀ n : Line, n.share = .i ∧ n.awaiting = [] → ∀ l ∈ s.coh.lines ++ [n], l.share = .i ∧ l.awaiting = [] := by
    intro n hn l hx
    rcases List.mem_append.mp hx with h' | h'
    · exact hm l h'
    · obtain rfl := List.mem_singleton.mp h'
      exact hn
  have put : OnlyWritten s (s.putLine ln (fun l => l.stampWrite 0)) := by
    unfold State.putLine
    split <;> dsimp only <;> split
    · exact OnlyWritten.ofLines s _ _ h (h1 _ hl)
    · exact OnlyWritten.ofLines s _ s.coh.mts h (h1 _ hl)
    · exact OnlyWritten.ofLines s _ _ h (h2 _ hl)
    · exact OnlyWritten.ofLines s _ s.coh.mts h (h2 _ hl)
  exact put.trans _ _ _ (State.keepSlice_of_calm _ _ _ put.1)

theorem State.storeAt_of_calm (s : State) (a : Nat) (bs : List Byte) (h : s.Calm) : OnlyWritten s (s.storeAt a bs) := by
  obtain ⟨hu, hp, hq, ht, hm⟩ := h
  have hn : ∀ t ∈ s.strands, ∀ m n, t.noteWrite m a n = t := by
    intro t hs m n
    unfold Strand.noteWrite
    rw [(ht t hs).2.2]
  have hw : s.watchers a bs.length = [] := by
    unfold State.watchers
    rw [List.map_eq_nil_iff, List.filter_eq_nil_iff]
    intro t hs
    rw [(ht t hs).2.2]
    simp
  have hcl : s.cleanse a bs.length = s := by
    unfold State.cleanse
    generalize wordsOf a bs.length = l
    induction l with
    | nil => rfl
    | cons x r ih =>
      have e : s.isPoison x = false := by simp [State.isPoison, hq]
      rw [List.foldl_cons, e]
      exact ih
  have hr : s.rest.map (fun t => t.noteWrite (Memory.setBytes s.mem a bs) a bs.length) = s.rest := by
    refine (List.map_congr_left fun t h => hn t (List.mem_cons_of_mem _ h) _ _).trans ?_
    simp
  unfold State.storeAt
  split
  · exact ⟨⟨hu, hp, hq, ht, hm⟩, _, _, rfl⟩
  · rw [hcl]
    have e : s.put a bs = { s with mem := Memory.setBytes s.mem a bs } := by
      unfold State.put State.noteAt State.poke
      have hw' : State.watchers { s with mem := Memory.setBytes s.mem a bs } a bs.length = [] := hw
      simp only [hw', List.foldl_nil, hr, hn s.cur (List.mem_cons_self ..)]
    rw [e]
    exact ⟨⟨hu, hp, hq, ht, hm⟩, _, _, rfl⟩

theorem State.agentWrite_of_calm (s : State) (a : Nat) (bs : List Byte) (h : s.Calm) : OnlyWritten s (s.agentWrite a bs) := by
  have h0 := s.settleRange_of_calm a bs.length true h
  unfold State.agentWrite
  have lines : ∀ (l : List Nat) (t : State), t.Calm → OnlyWritten t (l.foldl (fun x ln => x.setLine ln (fun l => l.stampWrite 0)) t) := by
    intro l
    induction l with
    | nil => exact fun t ht => ⟨ht, _, _, rfl⟩
    | cons x r ih =>
      intro t ht
      have h1 := t.stampLine_of_calm x ht
      exact h1.trans _ _ _ (ih _ h1.1)
  split
  · have h1 := h0.trans _ _ _ (lines (linesOf a bs.length) _ h0.1)
    exact h1.trans _ _ _ (State.storeAt_of_calm _ a bs h1.1)
  · exact h0.trans _ _ _ (State.storeAt_of_calm _ a bs h0.1)

theorem tableEntry_of_onlyWritten (s : State) (m : Memory) (c : Coherence) (unit job : Nat) (p : Word) (hg : ptrSpace p = 2) :
    tableEntry { s with mem := m, coh := c } unit job p = tableEntry s unit job p := by
  have hj : State.job { s with mem := m, coh := c } job = s.job job := rfl
  unfold tableEntry
  rw [if_pos hg, if_pos hg, hj]

theorem lookup_gallery (s : State) (unit job : Nat) (p : Word) (size : Nat) (r w x : Bool) (hg : ptrSpace p = 2) :
    lookup s unit job p size r w x =
      if ptrOwner p ≥ 4 then .bad .translate 0x01 0
      else match cachedEntry s unit job p with
        | some e => e.check (ptrOff p) size r w x none
        | none => match tableEntry s unit job p with
          | .inl f => f
          | .inr e => e.check (ptrOff p) size r w x (some e) := by
  unfold lookup
  rw [hg]
  rfl

/-- A gallery word's translation reads nothing but the jobs, the translation caches and what they keep. -/
theorem objWord_of_onlyWritten (s t : State) (job : Nat) (r w : Bool) (p : Word) (hg : ptrSpace p = 2) (h : OnlyWritten s t) :
    objWord t job false r w p = objWord s job false r w p := by
  obtain ⟨-, m, c, rfl⟩ := h
  have hc : cachedEntry { s with mem := m, coh := c } 104 job p = cachedEntry s 104 job p := rfl
  unfold objWord
  rw [lookup_gallery _ _ _ _ _ _ _ _ hg, lookup_gallery _ _ _ _ _ _ _ _ hg, hc, tableEntry_of_onlyWritten s m c 104 job p hg]
  simp only [Bool.false_eq_true, if_false]

/-- Words written one after another in a gallery all land when the run of them may be written. -/
theorem objWrite_of_calm (job : Nat) (ws : List Word) (s : State) (p : Word) (h : s.Calm) (hg : ptrSpace p = 2)
    (hw : ∀ i, i < ws.length → (objWord s job false false true (ptrAt p (8 * i))).isSome = true) :
    (objWrite s job false p ws).2 = true := by
  induction ws generalizing s p with
  | nil => rfl
  | cons x r ih =>
    have h0 := hw 0 (by simp)
    rw [Nat.mul_zero, ptrAt_zero] at h0
    obtain ⟨a, ha⟩ := Option.isSome_iff_exists.mp h0
    have k := s.agentWrite_of_calm a (natBytes 8 x.toNat) h
    unfold objWrite
    simp only [ha]
    refine ih _ _ k.1 ((ptrSpace_ptrAt p 8).trans hg) (fun i hi => ?_)
    have hi' := hw (i + 1) (by simp; omega)
    rw [ptrAt_ptrAt, objWord_of_onlyWritten s _ job false true _ ((ptrSpace_ptrAt p _).trans hg) k]
    rwa [Nat.mul_add, Nat.mul_one, Nat.add_comm] at hi'

/-- The same, from the check of the run. -/
theorem objWrite_of_run (s : State) (job : Nat) (p : Word) (ws : List Word) (n : Nat) (h : s.Calm) (hg : ptrSpace p = 2)
    (hr : objRun s job false false true p n = true) (hn : ws.length ≤ n / 8) : (objWrite s job false p ws).2 = true := by
  refine objWrite_of_calm job ws s p h hg (fun i hi => ?_)
  unfold objRun at hr
  rw [Bool.and_eq_true, List.all_eq_true] at hr
  exact hr.2 i (List.mem_range.mpr (by omega))

end Sys2Proof.Machine
end

