-- ==== Sys2Proof/Laws/Memory.lean ====
section
/-! SUPPORT. The memory keeps its one form under every operation, and a byte reads as what was last written there (R4, R49). -/

namespace Sys2Proof.Machine

/-! ### The canonical form -/

theorem Memory.wf_tail (c : Host.Cell) (m : Memory) (h : Memory.wf (c :: m) = true) : Memory.wf m = true := by
  cases m with
  | nil => rfl
  | cons d r => simp only [Memory.wf, Bool.and_eq_true] at h; exact h.2

/-- The form, said entry by entry: no entry is 0, and the first address lies below every other. -/
theorem Memory.wf_cons (a : Nat) (b : Byte) (m : Memory) :
    Memory.wf ((a, b) :: m) = true ↔ b ≠ 0 ∧ (∀ c ∈ m, a < c.1) ∧ Memory.wf m = true := by
  induction m generalizing a b with
  | nil => simp [Memory.wf]
  | cons d r ih =>
    obtain ⟨a', b'⟩ := d
    have step : Memory.wf ((a, b) :: (a', b') :: r) = true ↔ b ≠ 0 ∧ a < a' ∧ Memory.wf ((a', b') :: r) = true := by
      simp [Memory.wf, and_assoc]
    rw [step, ih a' b']
    constructor
    · rintro ⟨h0, h1, h2, h3, h4⟩
      refine ⟨h0, ?_, h2, h3, h4⟩
      intro c hc
      rcases List.mem_cons.mp hc with rfl | hc
      · exact h1
      · exact Nat.lt_trans h1 (h3 c hc)
    · rintro ⟨h0, h1, h2, h3, h4⟩
      exact ⟨h0, h1 (a', b') (by simp), h2, h3, h4⟩

theorem Memory.mem_set (m : Memory) (a : Nat) (b : Byte) (c : Host.Cell) (h : c ∈ Memory.set m a b) : c.1 = a ∨ c ∈ m := by
  induction m with
  | nil => unfold Memory.set at h; split at h <;> simp_all
  | cons d r ih =>
    unfold Memory.set at h
    split at h
    · split at h <;> grind
    · split at h
      · split at h <;> grind
      · grind

theorem Memory.wf_set (m : Memory) (a : Nat) (b : Byte) (h : Memory.wf m = true) : Memory.wf (Memory.set m a b) = true := by
  induction m with
  | nil => unfold Memory.set; split <;> simp_all [Memory.wf]
  | cons d r ih =>
    obtain ⟨a', b'⟩ := d
    have hc := (Memory.wf_cons a' b' r).mp h
    unfold Memory.set
    split
    · next hlt =>
      split
      · exact h
      · next hb =>
        refine (Memory.wf_cons _ _ _).mpr ⟨hb, ?_, h⟩
        intro c hm
        rcases List.mem_cons.mp hm with rfl | hm
        · exact hlt
        · exact Nat.lt_trans hlt (hc.2.1 c hm)
    · split
      · next heq =>
        subst heq
        split
        · exact hc.2.2
        · next hb => exact (Memory.wf_cons _ _ _).mpr ⟨hb, hc.2.1, hc.2.2⟩
      · refine (Memory.wf_cons _ _ _).mpr ⟨hc.1, ?_, ih hc.2.2⟩
        intro c hm
        rcases Memory.mem_set r a b c hm with hs | hs
        · omega
        · exact hc.2.1 c hs

theorem Memory.wf_setBytes (l : List Byte) (m : Memory) (a : Nat) (h : Memory.wf m = true) :
    Memory.wf (Memory.setBytes m a l) = true := by
  induction l generalizing m a with
  | nil => exact h
  | cons b bs ih => exact ih _ _ (Memory.wf_set m a b h)

theorem Memory.wf_writeN (m : Memory) (a n v : Nat) (h : Memory.wf m = true) : Memory.wf (Memory.writeN m a n v) = true :=
  Memory.wf_setBytes _ m a h

theorem Memory.wf_filter (m : Memory) (f : Host.Cell → Bool) (h : Memory.wf m = true) : Memory.wf (m.filter f) = true := by
  induction m with
  | nil => rfl
  | cons d r ih =>
    obtain ⟨a, b⟩ := d
    have hc := (Memory.wf_cons a b r).mp h
    rw [List.filter_cons]
    split
    · refine (Memory.wf_cons _ _ _).mpr ⟨hc.1, ?_, ih hc.2.2⟩
      intro c hm
      exact hc.2.1 c (List.mem_filter.mp hm).1
    · exact ih hc.2.2

theorem Memory.wf_clear (m : Memory) (lo hi : Nat) (h : Memory.wf m = true) : Memory.wf (Memory.clear m lo hi) = true :=
  Memory.wf_filter m _ h

/-! ### A read after a write -/

/-- Below every entry a byte reads as an unlisted one. -/
theorem Memory.get_below (m : Memory) (a : Nat) (h : ∀ c ∈ m, a < c.1) : Memory.get m a = 0 := by
  induction m with
  | nil => rfl
  | cons d r ih =>
    have h1 : a < d.1 := h d (by simp)
    show (if a = d.1 then d.2 else Memory.get r a) = 0
    rw [if_neg (by omega)]
    exact ih (fun c hc => h c (by simp [hc]))

theorem Memory.get_set_same (m : Memory) (a : Nat) (b : Byte) (h : Memory.wf m = true) :
    Memory.get (Memory.set m a b) a = b := by
  induction m with
  | nil => unfold Memory.set; split <;> simp_all [Memory.get]
  | cons d r ih =>
    obtain ⟨a', b'⟩ := d
    have hc := (Memory.wf_cons a' b' r).mp h
    unfold Memory.set
    split
    · next hlt =>
      split
      · next hb =>
        rw [hb]
        apply Memory.get_below
        intro c hm
        rcases List.mem_cons.mp hm with rfl | hm
        · exact hlt
        · exact Nat.lt_trans hlt (hc.2.1 c hm)
      · simp [Memory.get]
    · split
      · next heq =>
        subst heq
        split
        · next hb => rw [hb]; exact Memory.get_below _ _ hc.2.1
        · simp [Memory.get]
      · next hne => simp [Memory.get, hne, ih hc.2.2]

theorem Memory.get_set_other (m : Memory) (a x : Nat) (b : Byte) (h : x ≠ a) : Memory.get (Memory.set m a b) x = Memory.get m x := by
  induction m with
  | nil => unfold Memory.set; split <;> simp [Memory.get, h]
  | cons d r ih =>
    obtain ⟨a', b'⟩ := d
    unfold Memory.set
    split
    · split
      · rfl
      · simp [Memory.get, h]
    · split
      · next heq =>
        subst heq
        split <;> simp [Memory.get, h]
      · simp only [Memory.get, ih]

theorem Memory.get_setBytes_other (l : List Byte) (m : Memory) (a x : Nat) (h : x < a ∨ a + l.length ≤ x) :
    Memory.get (Memory.setBytes m a l) x = Memory.get m x := by
  induction l generalizing m a with
  | nil => rfl
  | cons b bs ih =>
    simp only [List.length_cons] at h
    show Memory.get (Memory.setBytes (Memory.set m a b) (a + 1) bs) x = _
    rw [ih _ _ (by omega), Memory.get_set_other _ _ _ _ (by omega)]

theorem Memory.get_setBytes_same (l : List Byte) (m : Memory) (a i : Nat) (h : Memory.wf m = true) (hi : i < l.length) :
    Memory.get (Memory.setBytes m a l) (a + i) = l[i] := by
  induction l generalizing m a i with
  | nil => simp at hi
  | cons b bs ih =>
    show Memory.get (Memory.setBytes (Memory.set m a b) (a + 1) bs) (a + i) = _
    cases i with
    | zero => rw [Memory.get_setBytes_other _ _ _ _ (by omega)]; simpa using Memory.get_set_same m a b h
    | succ j =>
      have e : a + (j + 1) = a + 1 + j := by omega
      rw [e, ih _ _ j (Memory.wf_set m a b h) (by simpa using hi)]
      simp

theorem Memory.get_clear (m : Memory) (lo hi x : Nat) :
    Memory.get (Memory.clear m lo hi) x = if lo ≤ x ∧ x < hi then 0 else Memory.get m x := by
  induction m with
  | nil => simp [Memory.clear, Memory.get]
  | cons d r ih =>
    obtain ⟨a, b⟩ := d
    unfold Memory.clear at ih ⊢
    rw [List.filter_cons]
    by_cases hx : x = a
    · subst hx
      by_cases hr : lo ≤ x ∧ x < hi
      · have hf : (decide (x < lo) || decide (hi ≤ x)) = false := by simp; omega
        simp only [hf, Bool.false_eq_true, if_false, if_pos hr]
        rw [ih, if_pos hr]
      · have hf : (decide (x < lo) || decide (hi ≤ x)) = true := by simp; omega
        simp [hf, hr, Memory.get]
    · split
      · simp only [Memory.get, if_neg hx, ih]
      · rw [ih]; simp only [Memory.get, if_neg hx]

/-! ### Numbers as bytes (R4) -/

theorem natBytes_length (n v : Nat) : (natBytes n v).length = n := by
  induction n generalizing v with
  | zero => rfl
  | succ k ih => simp [natBytes, ih]

theorem leNat_natBytes (n v : Nat) : leNat (natBytes n v) = v % 256 ^ n := by
  induction n generalizing v with
  | zero => simp [natBytes, leNat, Nat.mod_one]
  | succ k ih =>
    have e : (BitVec.ofNat 8 v).toNat = v % 256 := rfl
    show (BitVec.ofNat 8 v).toNat + 256 * leNat (natBytes k (v / 256)) = _
    rw [ih, e, Nat.pow_succ, Nat.mul_comm (256 ^ k) 256, Nat.mod_mul]

theorem Memory.bytes_eq (m : Memory) (l : List Byte) (a : Nat) (h : ∀ i (hi : i < l.length), Memory.get m (a + i) = l[i]) :
    Memory.bytes m a l.length = l := by
  induction l generalizing a with
  | nil => rfl
  | cons b bs ih =>
    show Memory.get m a :: Memory.bytes m (a + 1) bs.length = _
    have h0 : Memory.get m a = b := h 0 (Nat.succ_pos _)
    rw [h0, ih (a + 1)]
    intro i hi
    have e := h (i + 1) (by simpa using hi)
    have e2 : a + (i + 1) = a + 1 + i := by omega
    rw [e2] at e
    simpa using e

/-- A value reads back as it was written, cut to its bytes. -/
theorem Memory.readN_writeN (m : Memory) (a n v : Nat) (h : Memory.wf m = true) :
    Memory.readN (Memory.writeN m a n v) a n = v % 256 ^ n := by
  unfold Memory.readN Memory.writeN
  have hb := Memory.bytes_eq (Memory.setBytes m a (natBytes n v)) (natBytes n v) a
    (fun i hi => Memory.get_setBytes_same _ m a i h hi)
  rw [natBytes_length] at hb
  rw [hb, leNat_natBytes]

/-! ### Sets of words -/

theorem rising_cons (a : Nat) (l : List Nat) : rising (a :: l) = true ↔ (∀ b ∈ l, a < b) ∧ rising l = true := by
  induction l generalizing a with
  | nil => simp [rising]
  | cons b r ih =>
    have step : rising (a :: b :: r) = true ↔ a < b ∧ rising (b :: r) = true := by simp [rising]
    rw [step, ih b]
    constructor
    · rintro ⟨h1, h2, h3⟩
      refine ⟨?_, h2, h3⟩
      intro c hc
      rcases List.mem_cons.mp hc with rfl | hc
      · exact h1
      · exact Nat.lt_trans h1 (h2 c hc)
    · rintro ⟨h1, h2, h3⟩
      exact ⟨h1 b (by simp), h2, h3⟩

theorem mem_insertNat (l : List Nat) (a x : Nat) : x ∈ insertNat l a ↔ x = a ∨ x ∈ l := by
  induction l with
  | nil => simp [insertNat]
  | cons b r ih =>
    unfold insertNat
    split
    · simp
    · split
      · next h => subst h; simp
      · simp [ih]; grind

theorem rising_insertNat (l : List Nat) (a : Nat) (h : rising l = true) : rising (insertNat l a) = true := by
  induction l with
  | nil => rfl
  | cons b r ih =>
    have hc := (rising_cons b r).mp h
    unfold insertNat
    split
    · next hlt =>
      refine (rising_cons _ _).mpr ⟨?_, h⟩
      intro c hm
      rcases List.mem_cons.mp hm with rfl | hm
      · exact hlt
      · exact Nat.lt_trans hlt (hc.1 c hm)
    · split
      · exact h
      · refine (rising_cons _ _).mpr ⟨?_, ih hc.2⟩
        intro c hm
        rcases (mem_insertNat r a c).mp hm with rfl | hm
        · omega
        · exact hc.1 c hm

theorem rising_filter (l : List Nat) (f : Nat → Bool) (h : rising l = true) : rising (l.filter f) = true := by
  induction l with
  | nil => rfl
  | cons b r ih =>
    have hc := (rising_cons b r).mp h
    rw [List.filter_cons]
    split
    · exact (rising_cons _ _).mpr ⟨fun c hm => hc.1 c (List.mem_filter.mp hm).1, ih hc.2⟩
    · exact ih hc.2

theorem rising_eraseNat (l : List Nat) (a : Nat) (h : rising l = true) : rising (eraseNat l a) = true := rising_filter l _ h

theorem rising_eraseRange (l : List Nat) (lo hi : Nat) (h : rising l = true) : rising (eraseRange l lo hi) = true :=
  rising_filter l _ h

/-! ### The form of the state under the operations on bytes, tags and poison -/

/-- The form looks at three fields only. -/
theorem Safe.of_eq (s t : State) (hm : t.mem = s.mem) (he : t.empties = s.empties) (hp : t.poison = s.poison) (h : Safe s) :
    Safe t := by
  unfold Safe
  rw [hm, he, hp]
  exact h

theorem Safe.poke (s : State) (a : Nat) (l : List Byte) (h : Safe s) : Safe (s.poke a l) :=
  ⟨Memory.wf_setBytes l s.mem a h.1, h.2.1, h.2.2⟩

theorem Safe.setTag (s : State) (a : Nat) (b : Bool) (h : Safe s) : Safe (s.setTag a b) := by
  refine ⟨h.1, ?_, h.2.2⟩
  show rising (if b then eraseNat s.empties (wordOf a) else insertNat s.empties (wordOf a)) = true
  split
  · exact rising_eraseNat _ _ h.2.1
  · exact rising_insertNat _ _ h.2.1

theorem Safe.poisonWord (s : State) (a : Nat) (h : Safe s) : Safe (s.poisonWord a) :=
  ⟨h.1, h.2.1, rising_insertNat _ _ h.2.2⟩

theorem Safe.unpoison (s : State) (a : Nat) (h : Safe s) : Safe (s.unpoison a) :=
  ⟨h.1, rising_eraseNat _ _ h.2.1, rising_eraseNat _ _ h.2.2⟩

theorem Safe.zeroRange (s : State) (lo hi : Nat) (h : Safe s) : Safe (s.zeroRange lo hi) :=
  ⟨Memory.wf_clear _ _ _ h.1, rising_eraseRange _ _ _ h.2.1, rising_eraseRange _ _ _ h.2.2⟩

end Sys2Proof.Machine
end

