-- ==== Sys2Proof/Laws/State.lean ====
section
/-! SUPPORT. What each named update of the state leaves alone, field by field, so that no later proof unfolds a record update. -/

namespace Sys2Proof.Machine

@[simp] theorem State.setX_rest (s : State) (r : Reg) (w : Word) : (s.setX r w).rest = s.rest := rfl
@[simp] theorem State.setX_mem (s : State) (r : Reg) (w : Word) : (s.setX r w).mem = s.mem := rfl
@[simp] theorem State.setX_empties (s : State) (r : Reg) (w : Word) : (s.setX r w).empties = s.empties := rfl
@[simp] theorem State.setX_poison (s : State) (r : Reg) (w : Word) : (s.setX r w).poison = s.poison := rfl
@[simp] theorem State.setX_cores (s : State) (r : Reg) (w : Word) : (s.setX r w).cores = s.cores := rfl
@[simp] theorem State.setX_troupes (s : State) (r : Reg) (w : Word) : (s.setX r w).troupes = s.troupes := rfl
@[simp] theorem State.setX_launches (s : State) (r : Reg) (w : Word) : (s.setX r w).launches = s.launches := rfl
@[simp] theorem State.setX_jobs (s : State) (r : Reg) (w : Word) : (s.setX r w).jobs = s.jobs := rfl
@[simp] theorem State.setX_tlb (s : State) (r : Reg) (w : Word) : (s.setX r w).tlb = s.tlb := rfl
@[simp] theorem State.setX_reqs (s : State) (r : Reg) (w : Word) : (s.setX r w).reqs = s.reqs := rfl
@[simp] theorem State.setX_sfu (s : State) (r : Reg) (w : Word) : (s.setX r w).sfu = s.sfu := rfl
@[simp] theorem State.setX_moves (s : State) (r : Reg) (w : Word) : (s.setX r w).moves = s.moves := rfl
@[simp] theorem State.setX_cmds (s : State) (r : Reg) (w : Word) : (s.setX r w).cmds = s.cmds := rfl
@[simp] theorem State.setX_reg (s : State) (r : Reg) (w : Word) : (s.setX r w).reg = s.reg := rfl
@[simp] theorem State.setX_hub (s : State) (r : Reg) (w : Word) : (s.setX r w).hub = s.hub := rfl
@[simp] theorem State.setX_coh (s : State) (r : Reg) (w : Word) : (s.setX r w).coh = s.coh := rfl
@[simp] theorem State.setX_mgmt (s : State) (r : Reg) (w : Word) : (s.setX r w).mgmt = s.mgmt := rfl
@[simp] theorem State.setX_now (s : State) (r : Reg) (w : Word) : (s.setX r w).now = s.now := rfl
@[simp] theorem State.setX_ir (s : State) (r : Reg) (w : Word) : (s.setX r w).ir = s.ir := rfl
@[simp] theorem State.setX_arg (s : State) (r : Reg) (w : Word) : (s.setX r w).arg = s.arg := rfl
@[simp] theorem State.setX_agenda (s : State) (r : Reg) (w : Word) : (s.setX r w).agenda = s.agenda := rfl
@[simp] theorem State.setX_ticks (s : State) (r : Reg) (w : Word) : (s.setX r w).ticks = s.ticks := rfl
@[simp] theorem State.setX_nextId (s : State) (r : Reg) (w : Word) : (s.setX r w).nextId = s.nextId := rfl
@[simp] theorem State.setX_tried (s : State) (r : Reg) (w : Word) : (s.setX r w).tried = s.tried := rfl

@[simp] theorem State.setV_rest (s : State) (r : Reg) (w : VReg) : (s.setV r w).rest = s.rest := rfl
@[simp] theorem State.setV_mem (s : State) (r : Reg) (w : VReg) : (s.setV r w).mem = s.mem := rfl
@[simp] theorem State.setV_empties (s : State) (r : Reg) (w : VReg) : (s.setV r w).empties = s.empties := rfl
@[simp] theorem State.setV_poison (s : State) (r : Reg) (w : VReg) : (s.setV r w).poison = s.poison := rfl
@[simp] theorem State.setV_cores (s : State) (r : Reg) (w : VReg) : (s.setV r w).cores = s.cores := rfl
@[simp] theorem State.setV_troupes (s : State) (r : Reg) (w : VReg) : (s.setV r w).troupes = s.troupes := rfl
@[simp] theorem State.setV_launches (s : State) (r : Reg) (w : VReg) : (s.setV r w).launches = s.launches := rfl
@[simp] theorem State.setV_jobs (s : State) (r : Reg) (w : VReg) : (s.setV r w).jobs = s.jobs := rfl
@[simp] theorem State.setV_tlb (s : State) (r : Reg) (w : VReg) : (s.setV r w).tlb = s.tlb := rfl
@[simp] theorem State.setV_reqs (s : State) (r : Reg) (w : VReg) : (s.setV r w).reqs = s.reqs := rfl
@[simp] theorem State.setV_sfu (s : State) (r : Reg) (w : VReg) : (s.setV r w).sfu = s.sfu := rfl
@[simp] theorem State.setV_moves (s : State) (r : Reg) (w : VReg) : (s.setV r w).moves = s.moves := rfl
@[simp] theorem State.setV_cmds (s : State) (r : Reg) (w : VReg) : (s.setV r w).cmds = s.cmds := rfl
@[simp] theorem State.setV_reg (s : State) (r : Reg) (w : VReg) : (s.setV r w).reg = s.reg := rfl
@[simp] theorem State.setV_hub (s : State) (r : Reg) (w : VReg) : (s.setV r w).hub = s.hub := rfl
@[simp] theorem State.setV_coh (s : State) (r : Reg) (w : VReg) : (s.setV r w).coh = s.coh := rfl
@[simp] theorem State.setV_mgmt (s : State) (r : Reg) (w : VReg) : (s.setV r w).mgmt = s.mgmt := rfl
@[simp] theorem State.setV_now (s : State) (r : Reg) (w : VReg) : (s.setV r w).now = s.now := rfl
@[simp] theorem State.setV_ir (s : State) (r : Reg) (w : VReg) : (s.setV r w).ir = s.ir := rfl
@[simp] theorem State.setV_arg (s : State) (r : Reg) (w : VReg) : (s.setV r w).arg = s.arg := rfl
@[simp] theorem State.setV_agenda (s : State) (r : Reg) (w : VReg) : (s.setV r w).agenda = s.agenda := rfl
@[simp] theorem State.setV_ticks (s : State) (r : Reg) (w : VReg) : (s.setV r w).ticks = s.ticks := rfl
@[simp] theorem State.setV_nextId (s : State) (r : Reg) (w : VReg) : (s.setV r w).nextId = s.nextId := rfl
@[simp] theorem State.setV_tried (s : State) (r : Reg) (w : VReg) : (s.setV r w).tried = s.tried := rfl

@[simp] theorem State.setP_rest (s : State) (r : BitVec 3) (w : Quad) : (s.setP r w).rest = s.rest := rfl
@[simp] theorem State.setP_mem (s : State) (r : BitVec 3) (w : Quad) : (s.setP r w).mem = s.mem := rfl
@[simp] theorem State.setP_empties (s : State) (r : BitVec 3) (w : Quad) : (s.setP r w).empties = s.empties := rfl
@[simp] theorem State.setP_poison (s : State) (r : BitVec 3) (w : Quad) : (s.setP r w).poison = s.poison := rfl
@[simp] theorem State.setP_cores (s : State) (r : BitVec 3) (w : Quad) : (s.setP r w).cores = s.cores := rfl
@[simp] theorem State.setP_troupes (s : State) (r : BitVec 3) (w : Quad) : (s.setP r w).troupes = s.troupes := rfl
@[simp] theorem State.setP_launches (s : State) (r : BitVec 3) (w : Quad) : (s.setP r w).launches = s.launches := rfl
@[simp] theorem State.setP_jobs (s : State) (r : BitVec 3) (w : Quad) : (s.setP r w).jobs = s.jobs := rfl
@[simp] theorem State.setP_tlb (s : State) (r : BitVec 3) (w : Quad) : (s.setP r w).tlb = s.tlb := rfl
@[simp] theorem State.setP_reqs (s : State) (r : BitVec 3) (w : Quad) : (s.setP r w).reqs = s.reqs := rfl
@[simp] theorem State.setP_sfu (s : State) (r : BitVec 3) (w : Quad) : (s.setP r w).sfu = s.sfu := rfl
@[simp] theorem State.setP_moves (s : State) (r : BitVec 3) (w : Quad) : (s.setP r w).moves = s.moves := rfl
@[simp] theorem State.setP_cmds (s : State) (r : BitVec 3) (w : Quad) : (s.setP r w).cmds = s.cmds := rfl
@[simp] theorem State.setP_reg (s : State) (r : BitVec 3) (w : Quad) : (s.setP r w).reg = s.reg := rfl
@[simp] theorem State.setP_hub (s : State) (r : BitVec 3) (w : Quad) : (s.setP r w).hub = s.hub := rfl
@[simp] theorem State.setP_coh (s : State) (r : BitVec 3) (w : Quad) : (s.setP r w).coh = s.coh := rfl
@[simp] theorem State.setP_mgmt (s : State) (r : BitVec 3) (w : Quad) : (s.setP r w).mgmt = s.mgmt := rfl
@[simp] theorem State.setP_now (s : State) (r : BitVec 3) (w : Quad) : (s.setP r w).now = s.now := rfl
@[simp] theorem State.setP_ir (s : State) (r : BitVec 3) (w : Quad) : (s.setP r w).ir = s.ir := rfl
@[simp] theorem State.setP_arg (s : State) (r : BitVec 3) (w : Quad) : (s.setP r w).arg = s.arg := rfl
@[simp] theorem State.setP_agenda (s : State) (r : BitVec 3) (w : Quad) : (s.setP r w).agenda = s.agenda := rfl
@[simp] theorem State.setP_ticks (s : State) (r : BitVec 3) (w : Quad) : (s.setP r w).ticks = s.ticks := rfl
@[simp] theorem State.setP_nextId (s : State) (r : BitVec 3) (w : Quad) : (s.setP r w).nextId = s.nextId := rfl
@[simp] theorem State.setP_tried (s : State) (r : BitVec 3) (w : Quad) : (s.setP r w).tried = s.tried := rfl

@[simp] theorem State.setK_rest (s : State) (r : BitVec 4) (w : Quad) : (s.setK r w).rest = s.rest := rfl
@[simp] theorem State.setK_mem (s : State) (r : BitVec 4) (w : Quad) : (s.setK r w).mem = s.mem := rfl
@[simp] theorem State.setK_empties (s : State) (r : BitVec 4) (w : Quad) : (s.setK r w).empties = s.empties := rfl
@[simp] theorem State.setK_poison (s : State) (r : BitVec 4) (w : Quad) : (s.setK r w).poison = s.poison := rfl
@[simp] theorem State.setK_cores (s : State) (r : BitVec 4) (w : Quad) : (s.setK r w).cores = s.cores := rfl
@[simp] theorem State.setK_troupes (s : State) (r : BitVec 4) (w : Quad) : (s.setK r w).troupes = s.troupes := rfl
@[simp] theorem State.setK_launches (s : State) (r : BitVec 4) (w : Quad) : (s.setK r w).launches = s.launches := rfl
@[simp] theorem State.setK_jobs (s : State) (r : BitVec 4) (w : Quad) : (s.setK r w).jobs = s.jobs := rfl
@[simp] theorem State.setK_tlb (s : State) (r : BitVec 4) (w : Quad) : (s.setK r w).tlb = s.tlb := rfl
@[simp] theorem State.setK_reqs (s : State) (r : BitVec 4) (w : Quad) : (s.setK r w).reqs = s.reqs := rfl
@[simp] theorem State.setK_sfu (s : State) (r : BitVec 4) (w : Quad) : (s.setK r w).sfu = s.sfu := rfl
@[simp] theorem State.setK_moves (s : State) (r : BitVec 4) (w : Quad) : (s.setK r w).moves = s.moves := rfl
@[simp] theorem State.setK_cmds (s : State) (r : BitVec 4) (w : Quad) : (s.setK r w).cmds = s.cmds := rfl
@[simp] theorem State.setK_reg (s : State) (r : BitVec 4) (w : Quad) : (s.setK r w).reg = s.reg := rfl
@[simp] theorem State.setK_hub (s : State) (r : BitVec 4) (w : Quad) : (s.setK r w).hub = s.hub := rfl
@[simp] theorem State.setK_coh (s : State) (r : BitVec 4) (w : Quad) : (s.setK r w).coh = s.coh := rfl
@[simp] theorem State.setK_mgmt (s : State) (r : BitVec 4) (w : Quad) : (s.setK r w).mgmt = s.mgmt := rfl
@[simp] theorem State.setK_now (s : State) (r : BitVec 4) (w : Quad) : (s.setK r w).now = s.now := rfl
@[simp] theorem State.setK_ir (s : State) (r : BitVec 4) (w : Quad) : (s.setK r w).ir = s.ir := rfl
@[simp] theorem State.setK_arg (s : State) (r : BitVec 4) (w : Quad) : (s.setK r w).arg = s.arg := rfl
@[simp] theorem State.setK_agenda (s : State) (r : BitVec 4) (w : Quad) : (s.setK r w).agenda = s.agenda := rfl
@[simp] theorem State.setK_ticks (s : State) (r : BitVec 4) (w : Quad) : (s.setK r w).ticks = s.ticks := rfl
@[simp] theorem State.setK_nextId (s : State) (r : BitVec 4) (w : Quad) : (s.setK r w).nextId = s.nextId := rfl
@[simp] theorem State.setK_tried (s : State) (r : BitVec 4) (w : Quad) : (s.setK r w).tried = s.tried := rfl

@[simp] theorem State.emptyX_rest (s : State) (r : Reg) : (s.emptyX r).rest = s.rest := rfl
@[simp] theorem State.emptyX_mem (s : State) (r : Reg) : (s.emptyX r).mem = s.mem := rfl
@[simp] theorem State.emptyX_empties (s : State) (r : Reg) : (s.emptyX r).empties = s.empties := rfl
@[simp] theorem State.emptyX_poison (s : State) (r : Reg) : (s.emptyX r).poison = s.poison := rfl
@[simp] theorem State.emptyX_cores (s : State) (r : Reg) : (s.emptyX r).cores = s.cores := rfl
@[simp] theorem State.emptyX_troupes (s : State) (r : Reg) : (s.emptyX r).troupes = s.troupes := rfl
@[simp] theorem State.emptyX_launches (s : State) (r : Reg) : (s.emptyX r).launches = s.launches := rfl
@[simp] theorem State.emptyX_jobs (s : State) (r : Reg) : (s.emptyX r).jobs = s.jobs := rfl
@[simp] theorem State.emptyX_tlb (s : State) (r : Reg) : (s.emptyX r).tlb = s.tlb := rfl
@[simp] theorem State.emptyX_reqs (s : State) (r : Reg) : (s.emptyX r).reqs = s.reqs := rfl
@[simp] theorem State.emptyX_sfu (s : State) (r : Reg) : (s.emptyX r).sfu = s.sfu := rfl
@[simp] theorem State.emptyX_moves (s : State) (r : Reg) : (s.emptyX r).moves = s.moves := rfl
@[simp] theorem State.emptyX_cmds (s : State) (r : Reg) : (s.emptyX r).cmds = s.cmds := rfl
@[simp] theorem State.emptyX_reg (s : State) (r : Reg) : (s.emptyX r).reg = s.reg := rfl
@[simp] theorem State.emptyX_hub (s : State) (r : Reg) : (s.emptyX r).hub = s.hub := rfl
@[simp] theorem State.emptyX_coh (s : State) (r : Reg) : (s.emptyX r).coh = s.coh := rfl
@[simp] theorem State.emptyX_mgmt (s : State) (r : Reg) : (s.emptyX r).mgmt = s.mgmt := rfl
@[simp] theorem State.emptyX_now (s : State) (r : Reg) : (s.emptyX r).now = s.now := rfl
@[simp] theorem State.emptyX_ir (s : State) (r : Reg) : (s.emptyX r).ir = s.ir := rfl
@[simp] theorem State.emptyX_arg (s : State) (r : Reg) : (s.emptyX r).arg = s.arg := rfl
@[simp] theorem State.emptyX_agenda (s : State) (r : Reg) : (s.emptyX r).agenda = s.agenda := rfl
@[simp] theorem State.emptyX_ticks (s : State) (r : Reg) : (s.emptyX r).ticks = s.ticks := rfl
@[simp] theorem State.emptyX_nextId (s : State) (r : Reg) : (s.emptyX r).nextId = s.nextId := rfl
@[simp] theorem State.emptyX_tried (s : State) (r : Reg) : (s.emptyX r).tried = s.tried := rfl

@[simp] theorem State.emptyV_rest (s : State) (r : Reg) : (s.emptyV r).rest = s.rest := rfl
@[simp] theorem State.emptyV_mem (s : State) (r : Reg) : (s.emptyV r).mem = s.mem := rfl
@[simp] theorem State.emptyV_empties (s : State) (r : Reg) : (s.emptyV r).empties = s.empties := rfl
@[simp] theorem State.emptyV_poison (s : State) (r : Reg) : (s.emptyV r).poison = s.poison := rfl
@[simp] theorem State.emptyV_cores (s : State) (r : Reg) : (s.emptyV r).cores = s.cores := rfl
@[simp] theorem State.emptyV_troupes (s : State) (r : Reg) : (s.emptyV r).troupes = s.troupes := rfl
@[simp] theorem State.emptyV_launches (s : State) (r : Reg) : (s.emptyV r).launches = s.launches := rfl
@[simp] theorem State.emptyV_jobs (s : State) (r : Reg) : (s.emptyV r).jobs = s.jobs := rfl
@[simp] theorem State.emptyV_tlb (s : State) (r : Reg) : (s.emptyV r).tlb = s.tlb := rfl
@[simp] theorem State.emptyV_reqs (s : State) (r : Reg) : (s.emptyV r).reqs = s.reqs := rfl
@[simp] theorem State.emptyV_sfu (s : State) (r : Reg) : (s.emptyV r).sfu = s.sfu := rfl
@[simp] theorem State.emptyV_moves (s : State) (r : Reg) : (s.emptyV r).moves = s.moves := rfl
@[simp] theorem State.emptyV_cmds (s : State) (r : Reg) : (s.emptyV r).cmds = s.cmds := rfl
@[simp] theorem State.emptyV_reg (s : State) (r : Reg) : (s.emptyV r).reg = s.reg := rfl
@[simp] theorem State.emptyV_hub (s : State) (r : Reg) : (s.emptyV r).hub = s.hub := rfl
@[simp] theorem State.emptyV_coh (s : State) (r : Reg) : (s.emptyV r).coh = s.coh := rfl
@[simp] theorem State.emptyV_mgmt (s : State) (r : Reg) : (s.emptyV r).mgmt = s.mgmt := rfl
@[simp] theorem State.emptyV_now (s : State) (r : Reg) : (s.emptyV r).now = s.now := rfl
@[simp] theorem State.emptyV_ir (s : State) (r : Reg) : (s.emptyV r).ir = s.ir := rfl
@[simp] theorem State.emptyV_arg (s : State) (r : Reg) : (s.emptyV r).arg = s.arg := rfl
@[simp] theorem State.emptyV_agenda (s : State) (r : Reg) : (s.emptyV r).agenda = s.agenda := rfl
@[simp] theorem State.emptyV_ticks (s : State) (r : Reg) : (s.emptyV r).ticks = s.ticks := rfl
@[simp] theorem State.emptyV_nextId (s : State) (r : Reg) : (s.emptyV r).nextId = s.nextId := rfl
@[simp] theorem State.emptyV_tried (s : State) (r : Reg) : (s.emptyV r).tried = s.tried := rfl

@[simp] theorem State.advance_rest (s : State) : s.advance.rest = s.rest := rfl
@[simp] theorem State.advance_mem (s : State) : s.advance.mem = s.mem := rfl
@[simp] theorem State.advance_empties (s : State) : s.advance.empties = s.empties := rfl
@[simp] theorem State.advance_poison (s : State) : s.advance.poison = s.poison := rfl
@[simp] theorem State.advance_cores (s : State) : s.advance.cores = s.cores := rfl
@[simp] theorem State.advance_troupes (s : State) : s.advance.troupes = s.troupes := rfl
@[simp] theorem State.advance_launches (s : State) : s.advance.launches = s.launches := rfl
@[simp] theorem State.advance_jobs (s : State) : s.advance.jobs = s.jobs := rfl
@[simp] theorem State.advance_tlb (s : State) : s.advance.tlb = s.tlb := rfl
@[simp] theorem State.advance_reqs (s : State) : s.advance.reqs = s.reqs := rfl
@[simp] theorem State.advance_sfu (s : State) : s.advance.sfu = s.sfu := rfl
@[simp] theorem State.advance_moves (s : State) : s.advance.moves = s.moves := rfl
@[simp] theorem State.advance_cmds (s : State) : s.advance.cmds = s.cmds := rfl
@[simp] theorem State.advance_reg (s : State) : s.advance.reg = s.reg := rfl
@[simp] theorem State.advance_hub (s : State) : s.advance.hub = s.hub := rfl
@[simp] theorem State.advance_coh (s : State) : s.advance.coh = s.coh := rfl
@[simp] theorem State.advance_mgmt (s : State) : s.advance.mgmt = s.mgmt := rfl
@[simp] theorem State.advance_now (s : State) : s.advance.now = s.now := rfl
@[simp] theorem State.advance_ir (s : State) : s.advance.ir = s.ir := rfl
@[simp] theorem State.advance_arg (s : State) : s.advance.arg = s.arg := rfl
@[simp] theorem State.advance_agenda (s : State) : s.advance.agenda = s.agenda := rfl
@[simp] theorem State.advance_ticks (s : State) : s.advance.ticks = s.ticks := rfl
@[simp] theorem State.advance_nextId (s : State) : s.advance.nextId = s.nextId := rfl
@[simp] theorem State.advance_tried (s : State) : s.advance.tried = s.tried := rfl

@[simp] theorem State.jump_rest (s : State) (p : Word) : (s.jump p).rest = s.rest := rfl
@[simp] theorem State.jump_mem (s : State) (p : Word) : (s.jump p).mem = s.mem := rfl
@[simp] theorem State.jump_empties (s : State) (p : Word) : (s.jump p).empties = s.empties := rfl
@[simp] theorem State.jump_poison (s : State) (p : Word) : (s.jump p).poison = s.poison := rfl
@[simp] theorem State.jump_cores (s : State) (p : Word) : (s.jump p).cores = s.cores := rfl
@[simp] theorem State.jump_troupes (s : State) (p : Word) : (s.jump p).troupes = s.troupes := rfl
@[simp] theorem State.jump_launches (s : State) (p : Word) : (s.jump p).launches = s.launches := rfl
@[simp] theorem State.jump_jobs (s : State) (p : Word) : (s.jump p).jobs = s.jobs := rfl
@[simp] theorem State.jump_tlb (s : State) (p : Word) : (s.jump p).tlb = s.tlb := rfl
@[simp] theorem State.jump_reqs (s : State) (p : Word) : (s.jump p).reqs = s.reqs := rfl
@[simp] theorem State.jump_sfu (s : State) (p : Word) : (s.jump p).sfu = s.sfu := rfl
@[simp] theorem State.jump_moves (s : State) (p : Word) : (s.jump p).moves = s.moves := rfl
@[simp] theorem State.jump_cmds (s : State) (p : Word) : (s.jump p).cmds = s.cmds := rfl
@[simp] theorem State.jump_reg (s : State) (p : Word) : (s.jump p).reg = s.reg := rfl
@[simp] theorem State.jump_hub (s : State) (p : Word) : (s.jump p).hub = s.hub := rfl
@[simp] theorem State.jump_coh (s : State) (p : Word) : (s.jump p).coh = s.coh := rfl
@[simp] theorem State.jump_mgmt (s : State) (p : Word) : (s.jump p).mgmt = s.mgmt := rfl
@[simp] theorem State.jump_now (s : State) (p : Word) : (s.jump p).now = s.now := rfl
@[simp] theorem State.jump_ir (s : State) (p : Word) : (s.jump p).ir = s.ir := rfl
@[simp] theorem State.jump_arg (s : State) (p : Word) : (s.jump p).arg = s.arg := rfl
@[simp] theorem State.jump_agenda (s : State) (p : Word) : (s.jump p).agenda = s.agenda := rfl
@[simp] theorem State.jump_ticks (s : State) (p : Word) : (s.jump p).ticks = s.ticks := rfl
@[simp] theorem State.jump_nextId (s : State) (p : Word) : (s.jump p).nextId = s.nextId := rfl
@[simp] theorem State.jump_tried (s : State) (p : Word) : (s.jump p).tried = s.tried := rfl

@[simp] theorem State.waitFor_rest (s : State) (w : Wait) : (s.waitFor w).rest = s.rest := rfl
@[simp] theorem State.waitFor_mem (s : State) (w : Wait) : (s.waitFor w).mem = s.mem := rfl
@[simp] theorem State.waitFor_empties (s : State) (w : Wait) : (s.waitFor w).empties = s.empties := rfl
@[simp] theorem State.waitFor_poison (s : State) (w : Wait) : (s.waitFor w).poison = s.poison := rfl
@[simp] theorem State.waitFor_cores (s : State) (w : Wait) : (s.waitFor w).cores = s.cores := rfl
@[simp] theorem State.waitFor_troupes (s : State) (w : Wait) : (s.waitFor w).troupes = s.troupes := rfl
@[simp] theorem State.waitFor_launches (s : State) (w : Wait) : (s.waitFor w).launches = s.launches := rfl
@[simp] theorem State.waitFor_jobs (s : State) (w : Wait) : (s.waitFor w).jobs = s.jobs := rfl
@[simp] theorem State.waitFor_tlb (s : State) (w : Wait) : (s.waitFor w).tlb = s.tlb := rfl
@[simp] theorem State.waitFor_reqs (s : State) (w : Wait) : (s.waitFor w).reqs = s.reqs := rfl
@[simp] theorem State.waitFor_sfu (s : State) (w : Wait) : (s.waitFor w).sfu = s.sfu := rfl
@[simp] theorem State.waitFor_moves (s : State) (w : Wait) : (s.waitFor w).moves = s.moves := rfl
@[simp] theorem State.waitFor_cmds (s : State) (w : Wait) : (s.waitFor w).cmds = s.cmds := rfl
@[simp] theorem State.waitFor_reg (s : State) (w : Wait) : (s.waitFor w).reg = s.reg := rfl
@[simp] theorem State.waitFor_hub (s : State) (w : Wait) : (s.waitFor w).hub = s.hub := rfl
@[simp] theorem State.waitFor_coh (s : State) (w : Wait) : (s.waitFor w).coh = s.coh := rfl
@[simp] theorem State.waitFor_mgmt (s : State) (w : Wait) : (s.waitFor w).mgmt = s.mgmt := rfl
@[simp] theorem State.waitFor_now (s : State) (w : Wait) : (s.waitFor w).now = s.now := rfl
@[simp] theorem State.waitFor_ir (s : State) (w : Wait) : (s.waitFor w).ir = s.ir := rfl
@[simp] theorem State.waitFor_arg (s : State) (w : Wait) : (s.waitFor w).arg = s.arg := rfl
@[simp] theorem State.waitFor_agenda (s : State) (w : Wait) : (s.waitFor w).agenda = s.agenda := rfl
@[simp] theorem State.waitFor_ticks (s : State) (w : Wait) : (s.waitFor w).ticks = s.ticks := rfl
@[simp] theorem State.waitFor_nextId (s : State) (w : Wait) : (s.waitFor w).nextId = s.nextId := rfl
@[simp] theorem State.waitFor_tried (s : State) (w : Wait) : (s.waitFor w).tried = s.tried := rfl

@[simp] theorem State.notReady_rest (s : State) : s.notReady.rest = s.rest := rfl
@[simp] theorem State.notReady_mem (s : State) : s.notReady.mem = s.mem := rfl
@[simp] theorem State.notReady_empties (s : State) : s.notReady.empties = s.empties := rfl
@[simp] theorem State.notReady_poison (s : State) : s.notReady.poison = s.poison := rfl
@[simp] theorem State.notReady_cores (s : State) : s.notReady.cores = s.cores := rfl
@[simp] theorem State.notReady_troupes (s : State) : s.notReady.troupes = s.troupes := rfl
@[simp] theorem State.notReady_launches (s : State) : s.notReady.launches = s.launches := rfl
@[simp] theorem State.notReady_jobs (s : State) : s.notReady.jobs = s.jobs := rfl
@[simp] theorem State.notReady_tlb (s : State) : s.notReady.tlb = s.tlb := rfl
@[simp] theorem State.notReady_reqs (s : State) : s.notReady.reqs = s.reqs := rfl
@[simp] theorem State.notReady_sfu (s : State) : s.notReady.sfu = s.sfu := rfl
@[simp] theorem State.notReady_moves (s : State) : s.notReady.moves = s.moves := rfl
@[simp] theorem State.notReady_cmds (s : State) : s.notReady.cmds = s.cmds := rfl
@[simp] theorem State.notReady_reg (s : State) : s.notReady.reg = s.reg := rfl
@[simp] theorem State.notReady_hub (s : State) : s.notReady.hub = s.hub := rfl
@[simp] theorem State.notReady_coh (s : State) : s.notReady.coh = s.coh := rfl
@[simp] theorem State.notReady_mgmt (s : State) : s.notReady.mgmt = s.mgmt := rfl
@[simp] theorem State.notReady_now (s : State) : s.notReady.now = s.now := rfl
@[simp] theorem State.notReady_ir (s : State) : s.notReady.ir = s.ir := rfl
@[simp] theorem State.notReady_arg (s : State) : s.notReady.arg = s.arg := rfl
@[simp] theorem State.notReady_agenda (s : State) : s.notReady.agenda = s.agenda := rfl
@[simp] theorem State.notReady_ticks (s : State) : s.notReady.ticks = s.ticks := rfl
@[simp] theorem State.notReady_nextId (s : State) : s.notReady.nextId = s.nextId := rfl
@[simp] theorem State.notReady_tried (s : State) : s.notReady.tried = s.tried := rfl

@[simp] theorem State.setTroupe_cur (s : State) (u : Nat) (f : Troupe → Troupe) : (s.setTroupe u f).cur = s.cur := rfl
@[simp] theorem State.setTroupe_rest (s : State) (u : Nat) (f : Troupe → Troupe) : (s.setTroupe u f).rest = s.rest := rfl
@[simp] theorem State.setTroupe_mem (s : State) (u : Nat) (f : Troupe → Troupe) : (s.setTroupe u f).mem = s.mem := rfl
@[simp] theorem State.setTroupe_empties (s : State) (u : Nat) (f : Troupe → Troupe) : (s.setTroupe u f).empties = s.empties := rfl
@[simp] theorem State.setTroupe_poison (s : State) (u : Nat) (f : Troupe → Troupe) : (s.setTroupe u f).poison = s.poison := rfl
@[simp] theorem State.setTroupe_cores (s : State) (u : Nat) (f : Troupe → Troupe) : (s.setTroupe u f).cores = s.cores := rfl
@[simp] theorem State.setTroupe_launches (s : State) (u : Nat) (f : Troupe → Troupe) : (s.setTroupe u f).launches = s.launches := rfl
@[simp] theorem State.setTroupe_jobs (s : State) (u : Nat) (f : Troupe → Troupe) : (s.setTroupe u f).jobs = s.jobs := rfl
@[simp] theorem State.setTroupe_tlb (s : State) (u : Nat) (f : Troupe → Troupe) : (s.setTroupe u f).tlb = s.tlb := rfl
@[simp] theorem State.setTroupe_reqs (s : State) (u : Nat) (f : Troupe → Troupe) : (s.setTroupe u f).reqs = s.reqs := rfl
@[simp] theorem State.setTroupe_sfu (s : State) (u : Nat) (f : Troupe → Troupe) : (s.setTroupe u f).sfu = s.sfu := rfl
@[simp] theorem State.setTroupe_moves (s : State) (u : Nat) (f : Troupe → Troupe) : (s.setTroupe u f).moves = s.moves := rfl
@[simp] theorem State.setTroupe_cmds (s : State) (u : Nat) (f : Troupe → Troupe) : (s.setTroupe u f).cmds = s.cmds := rfl
@[simp] theorem State.setTroupe_reg (s : State) (u : Nat) (f : Troupe → Troupe) : (s.setTroupe u f).reg = s.reg := rfl
@[simp] theorem State.setTroupe_hub (s : State) (u : Nat) (f : Troupe → Troupe) : (s.setTroupe u f).hub = s.hub := rfl
@[simp] theorem State.setTroupe_coh (s : State) (u : Nat) (f : Troupe → Troupe) : (s.setTroupe u f).coh = s.coh := rfl
@[simp] theorem State.setTroupe_mgmt (s : State) (u : Nat) (f : Troupe → Troupe) : (s.setTroupe u f).mgmt = s.mgmt := rfl
@[simp] theorem State.setTroupe_now (s : State) (u : Nat) (f : Troupe → Troupe) : (s.setTroupe u f).now = s.now := rfl
@[simp] theorem State.setTroupe_ir (s : State) (u : Nat) (f : Troupe → Troupe) : (s.setTroupe u f).ir = s.ir := rfl
@[simp] theorem State.setTroupe_arg (s : State) (u : Nat) (f : Troupe → Troupe) : (s.setTroupe u f).arg = s.arg := rfl
@[simp] theorem State.setTroupe_agenda (s : State) (u : Nat) (f : Troupe → Troupe) : (s.setTroupe u f).agenda = s.agenda := rfl
@[simp] theorem State.setTroupe_ticks (s : State) (u : Nat) (f : Troupe → Troupe) : (s.setTroupe u f).ticks = s.ticks := rfl
@[simp] theorem State.setTroupe_nextId (s : State) (u : Nat) (f : Troupe → Troupe) : (s.setTroupe u f).nextId = s.nextId := rfl
@[simp] theorem State.setTroupe_tried (s : State) (u : Nat) (f : Troupe → Troupe) : (s.setTroupe u f).tried = s.tried := rfl

@[simp] theorem State.setJob_cur (s : State) (n : Nat) (f : Job → Job) : (s.setJob n f).cur = s.cur := rfl
@[simp] theorem State.setJob_rest (s : State) (n : Nat) (f : Job → Job) : (s.setJob n f).rest = s.rest := rfl
@[simp] theorem State.setJob_mem (s : State) (n : Nat) (f : Job → Job) : (s.setJob n f).mem = s.mem := rfl
@[simp] theorem State.setJob_empties (s : State) (n : Nat) (f : Job → Job) : (s.setJob n f).empties = s.empties := rfl
@[simp] theorem State.setJob_poison (s : State) (n : Nat) (f : Job → Job) : (s.setJob n f).poison = s.poison := rfl
@[simp] theorem State.setJob_cores (s : State) (n : Nat) (f : Job → Job) : (s.setJob n f).cores = s.cores := rfl
@[simp] theorem State.setJob_troupes (s : State) (n : Nat) (f : Job → Job) : (s.setJob n f).troupes = s.troupes := rfl
@[simp] theorem State.setJob_launches (s : State) (n : Nat) (f : Job → Job) : (s.setJob n f).launches = s.launches := rfl
@[simp] theorem State.setJob_tlb (s : State) (n : Nat) (f : Job → Job) : (s.setJob n f).tlb = s.tlb := rfl
@[simp] theorem State.setJob_reqs (s : State) (n : Nat) (f : Job → Job) : (s.setJob n f).reqs = s.reqs := rfl
@[simp] theorem State.setJob_sfu (s : State) (n : Nat) (f : Job → Job) : (s.setJob n f).sfu = s.sfu := rfl
@[simp] theorem State.setJob_moves (s : State) (n : Nat) (f : Job → Job) : (s.setJob n f).moves = s.moves := rfl
@[simp] theorem State.setJob_cmds (s : State) (n : Nat) (f : Job → Job) : (s.setJob n f).cmds = s.cmds := rfl
@[simp] theorem State.setJob_reg (s : State) (n : Nat) (f : Job → Job) : (s.setJob n f).reg = s.reg := rfl
@[simp] theorem State.setJob_hub (s : State) (n : Nat) (f : Job → Job) : (s.setJob n f).hub = s.hub := rfl
@[simp] theorem State.setJob_coh (s : State) (n : Nat) (f : Job → Job) : (s.setJob n f).coh = s.coh := rfl
@[simp] theorem State.setJob_mgmt (s : State) (n : Nat) (f : Job → Job) : (s.setJob n f).mgmt = s.mgmt := rfl
@[simp] theorem State.setJob_now (s : State) (n : Nat) (f : Job → Job) : (s.setJob n f).now = s.now := rfl
@[simp] theorem State.setJob_ir (s : State) (n : Nat) (f : Job → Job) : (s.setJob n f).ir = s.ir := rfl
@[simp] theorem State.setJob_arg (s : State) (n : Nat) (f : Job → Job) : (s.setJob n f).arg = s.arg := rfl
@[simp] theorem State.setJob_agenda (s : State) (n : Nat) (f : Job → Job) : (s.setJob n f).agenda = s.agenda := rfl
@[simp] theorem State.setJob_ticks (s : State) (n : Nat) (f : Job → Job) : (s.setJob n f).ticks = s.ticks := rfl
@[simp] theorem State.setJob_nextId (s : State) (n : Nat) (f : Job → Job) : (s.setJob n f).nextId = s.nextId := rfl
@[simp] theorem State.setJob_tried (s : State) (n : Nat) (f : Job → Job) : (s.setJob n f).tried = s.tried := rfl

@[simp] theorem State.setLaunch_cur (s : State) (l : Word) (f : Launch → Launch) : (s.setLaunch l f).cur = s.cur := rfl
@[simp] theorem State.setLaunch_rest (s : State) (l : Word) (f : Launch → Launch) : (s.setLaunch l f).rest = s.rest := rfl
@[simp] theorem State.setLaunch_mem (s : State) (l : Word) (f : Launch → Launch) : (s.setLaunch l f).mem = s.mem := rfl
@[simp] theorem State.setLaunch_empties (s : State) (l : Word) (f : Launch → Launch) : (s.setLaunch l f).empties = s.empties := rfl
@[simp] theorem State.setLaunch_poison (s : State) (l : Word) (f : Launch → Launch) : (s.setLaunch l f).poison = s.poison := rfl
@[simp] theorem State.setLaunch_cores (s : State) (l : Word) (f : Launch → Launch) : (s.setLaunch l f).cores = s.cores := rfl
@[simp] theorem State.setLaunch_troupes (s : State) (l : Word) (f : Launch → Launch) : (s.setLaunch l f).troupes = s.troupes := rfl
@[simp] theorem State.setLaunch_jobs (s : State) (l : Word) (f : Launch → Launch) : (s.setLaunch l f).jobs = s.jobs := rfl
@[simp] theorem State.setLaunch_tlb (s : State) (l : Word) (f : Launch → Launch) : (s.setLaunch l f).tlb = s.tlb := rfl
@[simp] theorem State.setLaunch_reqs (s : State) (l : Word) (f : Launch → Launch) : (s.setLaunch l f).reqs = s.reqs := rfl
@[simp] theorem State.setLaunch_sfu (s : State) (l : Word) (f : Launch → Launch) : (s.setLaunch l f).sfu = s.sfu := rfl
@[simp] theorem State.setLaunch_moves (s : State) (l : Word) (f : Launch → Launch) : (s.setLaunch l f).moves = s.moves := rfl
@[simp] theorem State.setLaunch_cmds (s : State) (l : Word) (f : Launch → Launch) : (s.setLaunch l f).cmds = s.cmds := rfl
@[simp] theorem State.setLaunch_reg (s : State) (l : Word) (f : Launch → Launch) : (s.setLaunch l f).reg = s.reg := rfl
@[simp] theorem State.setLaunch_hub (s : State) (l : Word) (f : Launch → Launch) : (s.setLaunch l f).hub = s.hub := rfl
@[simp] theorem State.setLaunch_coh (s : State) (l : Word) (f : Launch → Launch) : (s.setLaunch l f).coh = s.coh := rfl
@[simp] theorem State.setLaunch_mgmt (s : State) (l : Word) (f : Launch → Launch) : (s.setLaunch l f).mgmt = s.mgmt := rfl
@[simp] theorem State.setLaunch_now (s : State) (l : Word) (f : Launch → Launch) : (s.setLaunch l f).now = s.now := rfl
@[simp] theorem State.setLaunch_ir (s : State) (l : Word) (f : Launch → Launch) : (s.setLaunch l f).ir = s.ir := rfl
@[simp] theorem State.setLaunch_arg (s : State) (l : Word) (f : Launch → Launch) : (s.setLaunch l f).arg = s.arg := rfl
@[simp] theorem State.setLaunch_agenda (s : State) (l : Word) (f : Launch → Launch) : (s.setLaunch l f).agenda = s.agenda := rfl
@[simp] theorem State.setLaunch_ticks (s : State) (l : Word) (f : Launch → Launch) : (s.setLaunch l f).ticks = s.ticks := rfl
@[simp] theorem State.setLaunch_nextId (s : State) (l : Word) (f : Launch → Launch) : (s.setLaunch l f).nextId = s.nextId := rfl
@[simp] theorem State.setLaunch_tried (s : State) (l : Word) (f : Launch → Launch) : (s.setLaunch l f).tried = s.tried := rfl

@[simp] theorem State.setReq_cur (s : State) (n : Nat) (f : Req → Req) : (s.setReq n f).cur = s.cur := rfl
@[simp] theorem State.setReq_rest (s : State) (n : Nat) (f : Req → Req) : (s.setReq n f).rest = s.rest := rfl
@[simp] theorem State.setReq_mem (s : State) (n : Nat) (f : Req → Req) : (s.setReq n f).mem = s.mem := rfl
@[simp] theorem State.setReq_empties (s : State) (n : Nat) (f : Req → Req) : (s.setReq n f).empties = s.empties := rfl
@[simp] theorem State.setReq_poison (s : State) (n : Nat) (f : Req → Req) : (s.setReq n f).poison = s.poison := rfl
@[simp] theorem State.setReq_cores (s : State) (n : Nat) (f : Req → Req) : (s.setReq n f).cores = s.cores := rfl
@[simp] theorem State.setReq_troupes (s : State) (n : Nat) (f : Req → Req) : (s.setReq n f).troupes = s.troupes := rfl
@[simp] theorem State.setReq_launches (s : State) (n : Nat) (f : Req → Req) : (s.setReq n f).launches = s.launches := rfl
@[simp] theorem State.setReq_jobs (s : State) (n : Nat) (f : Req → Req) : (s.setReq n f).jobs = s.jobs := rfl
@[simp] theorem State.setReq_tlb (s : State) (n : Nat) (f : Req → Req) : (s.setReq n f).tlb = s.tlb := rfl
@[simp] theorem State.setReq_sfu (s : State) (n : Nat) (f : Req → Req) : (s.setReq n f).sfu = s.sfu := rfl
@[simp] theorem State.setReq_moves (s : State) (n : Nat) (f : Req → Req) : (s.setReq n f).moves = s.moves := rfl
@[simp] theorem State.setReq_cmds (s : State) (n : Nat) (f : Req → Req) : (s.setReq n f).cmds = s.cmds := rfl
@[simp] theorem State.setReq_reg (s : State) (n : Nat) (f : Req → Req) : (s.setReq n f).reg = s.reg := rfl
@[simp] theorem State.setReq_hub (s : State) (n : Nat) (f : Req → Req) : (s.setReq n f).hub = s.hub := rfl
@[simp] theorem State.setReq_coh (s : State) (n : Nat) (f : Req → Req) : (s.setReq n f).coh = s.coh := rfl
@[simp] theorem State.setReq_mgmt (s : State) (n : Nat) (f : Req → Req) : (s.setReq n f).mgmt = s.mgmt := rfl
@[simp] theorem State.setReq_now (s : State) (n : Nat) (f : Req → Req) : (s.setReq n f).now = s.now := rfl
@[simp] theorem State.setReq_ir (s : State) (n : Nat) (f : Req → Req) : (s.setReq n f).ir = s.ir := rfl
@[simp] theorem State.setReq_arg (s : State) (n : Nat) (f : Req → Req) : (s.setReq n f).arg = s.arg := rfl
@[simp] theorem State.setReq_agenda (s : State) (n : Nat) (f : Req → Req) : (s.setReq n f).agenda = s.agenda := rfl
@[simp] theorem State.setReq_ticks (s : State) (n : Nat) (f : Req → Req) : (s.setReq n f).ticks = s.ticks := rfl
@[simp] theorem State.setReq_nextId (s : State) (n : Nat) (f : Req → Req) : (s.setReq n f).nextId = s.nextId := rfl
@[simp] theorem State.setReq_tried (s : State) (n : Nat) (f : Req → Req) : (s.setReq n f).tried = s.tried := rfl

@[simp] theorem State.dropReq_cur (s : State) (n : Nat) : (s.dropReq n).cur = s.cur := rfl
@[simp] theorem State.dropReq_rest (s : State) (n : Nat) : (s.dropReq n).rest = s.rest := rfl
@[simp] theorem State.dropReq_mem (s : State) (n : Nat) : (s.dropReq n).mem = s.mem := rfl
@[simp] theorem State.dropReq_empties (s : State) (n : Nat) : (s.dropReq n).empties = s.empties := rfl
@[simp] theorem State.dropReq_poison (s : State) (n : Nat) : (s.dropReq n).poison = s.poison := rfl
@[simp] theorem State.dropReq_cores (s : State) (n : Nat) : (s.dropReq n).cores = s.cores := rfl
@[simp] theorem State.dropReq_troupes (s : State) (n : Nat) : (s.dropReq n).troupes = s.troupes := rfl
@[simp] theorem State.dropReq_launches (s : State) (n : Nat) : (s.dropReq n).launches = s.launches := rfl
@[simp] theorem State.dropReq_jobs (s : State) (n : Nat) : (s.dropReq n).jobs = s.jobs := rfl
@[simp] theorem State.dropReq_tlb (s : State) (n : Nat) : (s.dropReq n).tlb = s.tlb := rfl
@[simp] theorem State.dropReq_sfu (s : State) (n : Nat) : (s.dropReq n).sfu = s.sfu := rfl
@[simp] theorem State.dropReq_moves (s : State) (n : Nat) : (s.dropReq n).moves = s.moves := rfl
@[simp] theorem State.dropReq_cmds (s : State) (n : Nat) : (s.dropReq n).cmds = s.cmds := rfl
@[simp] theorem State.dropReq_reg (s : State) (n : Nat) : (s.dropReq n).reg = s.reg := rfl
@[simp] theorem State.dropReq_hub (s : State) (n : Nat) : (s.dropReq n).hub = s.hub := rfl
@[simp] theorem State.dropReq_coh (s : State) (n : Nat) : (s.dropReq n).coh = s.coh := rfl
@[simp] theorem State.dropReq_mgmt (s : State) (n : Nat) : (s.dropReq n).mgmt = s.mgmt := rfl
@[simp] theorem State.dropReq_now (s : State) (n : Nat) : (s.dropReq n).now = s.now := rfl
@[simp] theorem State.dropReq_ir (s : State) (n : Nat) : (s.dropReq n).ir = s.ir := rfl
@[simp] theorem State.dropReq_arg (s : State) (n : Nat) : (s.dropReq n).arg = s.arg := rfl
@[simp] theorem State.dropReq_agenda (s : State) (n : Nat) : (s.dropReq n).agenda = s.agenda := rfl
@[simp] theorem State.dropReq_ticks (s : State) (n : Nat) : (s.dropReq n).ticks = s.ticks := rfl
@[simp] theorem State.dropReq_nextId (s : State) (n : Nat) : (s.dropReq n).nextId = s.nextId := rfl
@[simp] theorem State.dropReq_tried (s : State) (n : Nat) : (s.dropReq n).tried = s.tried := rfl

@[simp] theorem State.setCmd_cur (s : State) (n : Nat) (f : Cmd → Cmd) : (s.setCmd n f).cur = s.cur := rfl
@[simp] theorem State.setCmd_rest (s : State) (n : Nat) (f : Cmd → Cmd) : (s.setCmd n f).rest = s.rest := rfl
@[simp] theorem State.setCmd_mem (s : State) (n : Nat) (f : Cmd → Cmd) : (s.setCmd n f).mem = s.mem := rfl
@[simp] theorem State.setCmd_empties (s : State) (n : Nat) (f : Cmd → Cmd) : (s.setCmd n f).empties = s.empties := rfl
@[simp] theorem State.setCmd_poison (s : State) (n : Nat) (f : Cmd → Cmd) : (s.setCmd n f).poison = s.poison := rfl
@[simp] theorem State.setCmd_cores (s : State) (n : Nat) (f : Cmd → Cmd) : (s.setCmd n f).cores = s.cores := rfl
@[simp] theorem State.setCmd_troupes (s : State) (n : Nat) (f : Cmd → Cmd) : (s.setCmd n f).troupes = s.troupes := rfl
@[simp] theorem State.setCmd_launches (s : State) (n : Nat) (f : Cmd → Cmd) : (s.setCmd n f).launches = s.launches := rfl
@[simp] theorem State.setCmd_jobs (s : State) (n : Nat) (f : Cmd → Cmd) : (s.setCmd n f).jobs = s.jobs := rfl
@[simp] theorem State.setCmd_tlb (s : State) (n : Nat) (f : Cmd → Cmd) : (s.setCmd n f).tlb = s.tlb := rfl
@[simp] theorem State.setCmd_reqs (s : State) (n : Nat) (f : Cmd → Cmd) : (s.setCmd n f).reqs = s.reqs := rfl
@[simp] theorem State.setCmd_sfu (s : State) (n : Nat) (f : Cmd → Cmd) : (s.setCmd n f).sfu = s.sfu := rfl
@[simp] theorem State.setCmd_moves (s : State) (n : Nat) (f : Cmd → Cmd) : (s.setCmd n f).moves = s.moves := rfl
@[simp] theorem State.setCmd_reg (s : State) (n : Nat) (f : Cmd → Cmd) : (s.setCmd n f).reg = s.reg := rfl
@[simp] theorem State.setCmd_hub (s : State) (n : Nat) (f : Cmd → Cmd) : (s.setCmd n f).hub = s.hub := rfl
@[simp] theorem State.setCmd_coh (s : State) (n : Nat) (f : Cmd → Cmd) : (s.setCmd n f).coh = s.coh := rfl
@[simp] theorem State.setCmd_mgmt (s : State) (n : Nat) (f : Cmd → Cmd) : (s.setCmd n f).mgmt = s.mgmt := rfl
@[simp] theorem State.setCmd_now (s : State) (n : Nat) (f : Cmd → Cmd) : (s.setCmd n f).now = s.now := rfl
@[simp] theorem State.setCmd_ir (s : State) (n : Nat) (f : Cmd → Cmd) : (s.setCmd n f).ir = s.ir := rfl
@[simp] theorem State.setCmd_arg (s : State) (n : Nat) (f : Cmd → Cmd) : (s.setCmd n f).arg = s.arg := rfl
@[simp] theorem State.setCmd_agenda (s : State) (n : Nat) (f : Cmd → Cmd) : (s.setCmd n f).agenda = s.agenda := rfl
@[simp] theorem State.setCmd_ticks (s : State) (n : Nat) (f : Cmd → Cmd) : (s.setCmd n f).ticks = s.ticks := rfl
@[simp] theorem State.setCmd_nextId (s : State) (n : Nat) (f : Cmd → Cmd) : (s.setCmd n f).nextId = s.nextId := rfl
@[simp] theorem State.setCmd_tried (s : State) (n : Nat) (f : Cmd → Cmd) : (s.setCmd n f).tried = s.tried := rfl

@[simp] theorem State.dropCmd_cur (s : State) (n : Nat) : (s.dropCmd n).cur = s.cur := rfl
@[simp] theorem State.dropCmd_rest (s : State) (n : Nat) : (s.dropCmd n).rest = s.rest := rfl
@[simp] theorem State.dropCmd_mem (s : State) (n : Nat) : (s.dropCmd n).mem = s.mem := rfl
@[simp] theorem State.dropCmd_empties (s : State) (n : Nat) : (s.dropCmd n).empties = s.empties := rfl
@[simp] theorem State.dropCmd_poison (s : State) (n : Nat) : (s.dropCmd n).poison = s.poison := rfl
@[simp] theorem State.dropCmd_cores (s : State) (n : Nat) : (s.dropCmd n).cores = s.cores := rfl
@[simp] theorem State.dropCmd_troupes (s : State) (n : Nat) : (s.dropCmd n).troupes = s.troupes := rfl
@[simp] theorem State.dropCmd_launches (s : State) (n : Nat) : (s.dropCmd n).launches = s.launches := rfl
@[simp] theorem State.dropCmd_jobs (s : State) (n : Nat) : (s.dropCmd n).jobs = s.jobs := rfl
@[simp] theorem State.dropCmd_tlb (s : State) (n : Nat) : (s.dropCmd n).tlb = s.tlb := rfl
@[simp] theorem State.dropCmd_reqs (s : State) (n : Nat) : (s.dropCmd n).reqs = s.reqs := rfl
@[simp] theorem State.dropCmd_sfu (s : State) (n : Nat) : (s.dropCmd n).sfu = s.sfu := rfl
@[simp] theorem State.dropCmd_moves (s : State) (n : Nat) : (s.dropCmd n).moves = s.moves := rfl
@[simp] theorem State.dropCmd_reg (s : State) (n : Nat) : (s.dropCmd n).reg = s.reg := rfl
@[simp] theorem State.dropCmd_hub (s : State) (n : Nat) : (s.dropCmd n).hub = s.hub := rfl
@[simp] theorem State.dropCmd_coh (s : State) (n : Nat) : (s.dropCmd n).coh = s.coh := rfl
@[simp] theorem State.dropCmd_mgmt (s : State) (n : Nat) : (s.dropCmd n).mgmt = s.mgmt := rfl
@[simp] theorem State.dropCmd_now (s : State) (n : Nat) : (s.dropCmd n).now = s.now := rfl
@[simp] theorem State.dropCmd_ir (s : State) (n : Nat) : (s.dropCmd n).ir = s.ir := rfl
@[simp] theorem State.dropCmd_arg (s : State) (n : Nat) : (s.dropCmd n).arg = s.arg := rfl
@[simp] theorem State.dropCmd_agenda (s : State) (n : Nat) : (s.dropCmd n).agenda = s.agenda := rfl
@[simp] theorem State.dropCmd_ticks (s : State) (n : Nat) : (s.dropCmd n).ticks = s.ticks := rfl
@[simp] theorem State.dropCmd_nextId (s : State) (n : Nat) : (s.dropCmd n).nextId = s.nextId := rfl
@[simp] theorem State.dropCmd_tried (s : State) (n : Nat) : (s.dropCmd n).tried = s.tried := rfl

@[simp] theorem State.send_cur (s : State) (m : Sent) : (s.send m).cur = s.cur := rfl
@[simp] theorem State.send_rest (s : State) (m : Sent) : (s.send m).rest = s.rest := rfl
@[simp] theorem State.send_mem (s : State) (m : Sent) : (s.send m).mem = s.mem := rfl
@[simp] theorem State.send_empties (s : State) (m : Sent) : (s.send m).empties = s.empties := rfl
@[simp] theorem State.send_poison (s : State) (m : Sent) : (s.send m).poison = s.poison := rfl
@[simp] theorem State.send_cores (s : State) (m : Sent) : (s.send m).cores = s.cores := rfl
@[simp] theorem State.send_troupes (s : State) (m : Sent) : (s.send m).troupes = s.troupes := rfl
@[simp] theorem State.send_launches (s : State) (m : Sent) : (s.send m).launches = s.launches := rfl
@[simp] theorem State.send_jobs (s : State) (m : Sent) : (s.send m).jobs = s.jobs := rfl
@[simp] theorem State.send_tlb (s : State) (m : Sent) : (s.send m).tlb = s.tlb := rfl
@[simp] theorem State.send_reqs (s : State) (m : Sent) : (s.send m).reqs = s.reqs := rfl
@[simp] theorem State.send_sfu (s : State) (m : Sent) : (s.send m).sfu = s.sfu := rfl
@[simp] theorem State.send_moves (s : State) (m : Sent) : (s.send m).moves = s.moves := rfl
@[simp] theorem State.send_cmds (s : State) (m : Sent) : (s.send m).cmds = s.cmds := rfl
@[simp] theorem State.send_reg (s : State) (m : Sent) : (s.send m).reg = s.reg := rfl
@[simp] theorem State.send_hub (s : State) (m : Sent) : (s.send m).hub = s.hub := rfl
@[simp] theorem State.send_coh (s : State) (m : Sent) : (s.send m).coh = s.coh := rfl
@[simp] theorem State.send_now (s : State) (m : Sent) : (s.send m).now = s.now := rfl
@[simp] theorem State.send_ir (s : State) (m : Sent) : (s.send m).ir = s.ir := rfl
@[simp] theorem State.send_arg (s : State) (m : Sent) : (s.send m).arg = s.arg := rfl
@[simp] theorem State.send_agenda (s : State) (m : Sent) : (s.send m).agenda = s.agenda := rfl
@[simp] theorem State.send_ticks (s : State) (m : Sent) : (s.send m).ticks = s.ticks := rfl
@[simp] theorem State.send_nextId (s : State) (m : Sent) : (s.send m).nextId = s.nextId := rfl
@[simp] theorem State.send_tried (s : State) (m : Sent) : (s.send m).tried = s.tried := rfl

@[simp] theorem State.setTag_cur (s : State) (a : Nat) (b : Bool) : (s.setTag a b).cur = s.cur := rfl
@[simp] theorem State.setTag_rest (s : State) (a : Nat) (b : Bool) : (s.setTag a b).rest = s.rest := rfl
@[simp] theorem State.setTag_mem (s : State) (a : Nat) (b : Bool) : (s.setTag a b).mem = s.mem := rfl
@[simp] theorem State.setTag_poison (s : State) (a : Nat) (b : Bool) : (s.setTag a b).poison = s.poison := rfl
@[simp] theorem State.setTag_cores (s : State) (a : Nat) (b : Bool) : (s.setTag a b).cores = s.cores := rfl
@[simp] theorem State.setTag_troupes (s : State) (a : Nat) (b : Bool) : (s.setTag a b).troupes = s.troupes := rfl
@[simp] theorem State.setTag_launches (s : State) (a : Nat) (b : Bool) : (s.setTag a b).launches = s.launches := rfl
@[simp] theorem State.setTag_jobs (s : State) (a : Nat) (b : Bool) : (s.setTag a b).jobs = s.jobs := rfl
@[simp] theorem State.setTag_tlb (s : State) (a : Nat) (b : Bool) : (s.setTag a b).tlb = s.tlb := rfl
@[simp] theorem State.setTag_reqs (s : State) (a : Nat) (b : Bool) : (s.setTag a b).reqs = s.reqs := rfl
@[simp] theorem State.setTag_sfu (s : State) (a : Nat) (b : Bool) : (s.setTag a b).sfu = s.sfu := rfl
@[simp] theorem State.setTag_moves (s : State) (a : Nat) (b : Bool) : (s.setTag a b).moves = s.moves := rfl
@[simp] theorem State.setTag_cmds (s : State) (a : Nat) (b : Bool) : (s.setTag a b).cmds = s.cmds := rfl
@[simp] theorem State.setTag_reg (s : State) (a : Nat) (b : Bool) : (s.setTag a b).reg = s.reg := rfl
@[simp] theorem State.setTag_hub (s : State) (a : Nat) (b : Bool) : (s.setTag a b).hub = s.hub := rfl
@[simp] theorem State.setTag_coh (s : State) (a : Nat) (b : Bool) : (s.setTag a b).coh = s.coh := rfl
@[simp] theorem State.setTag_mgmt (s : State) (a : Nat) (b : Bool) : (s.setTag a b).mgmt = s.mgmt := rfl
@[simp] theorem State.setTag_now (s : State) (a : Nat) (b : Bool) : (s.setTag a b).now = s.now := rfl
@[simp] theorem State.setTag_ir (s : State) (a : Nat) (b : Bool) : (s.setTag a b).ir = s.ir := rfl
@[simp] theorem State.setTag_arg (s : State) (a : Nat) (b : Bool) : (s.setTag a b).arg = s.arg := rfl
@[simp] theorem State.setTag_agenda (s : State) (a : Nat) (b : Bool) : (s.setTag a b).agenda = s.agenda := rfl
@[simp] theorem State.setTag_ticks (s : State) (a : Nat) (b : Bool) : (s.setTag a b).ticks = s.ticks := rfl
@[simp] theorem State.setTag_nextId (s : State) (a : Nat) (b : Bool) : (s.setTag a b).nextId = s.nextId := rfl
@[simp] theorem State.setTag_tried (s : State) (a : Nat) (b : Bool) : (s.setTag a b).tried = s.tried := rfl

@[simp] theorem State.poke_cur (s : State) (a : Nat) (l : List Byte) : (s.poke a l).cur = s.cur := rfl
@[simp] theorem State.poke_rest (s : State) (a : Nat) (l : List Byte) : (s.poke a l).rest = s.rest := rfl
@[simp] theorem State.poke_empties (s : State) (a : Nat) (l : List Byte) : (s.poke a l).empties = s.empties := rfl
@[simp] theorem State.poke_poison (s : State) (a : Nat) (l : List Byte) : (s.poke a l).poison = s.poison := rfl
@[simp] theorem State.poke_cores (s : State) (a : Nat) (l : List Byte) : (s.poke a l).cores = s.cores := rfl
@[simp] theorem State.poke_troupes (s : State) (a : Nat) (l : List Byte) : (s.poke a l).troupes = s.troupes := rfl
@[simp] theorem State.poke_launches (s : State) (a : Nat) (l : List Byte) : (s.poke a l).launches = s.launches := rfl
@[simp] theorem State.poke_jobs (s : State) (a : Nat) (l : List Byte) : (s.poke a l).jobs = s.jobs := rfl
@[simp] theorem State.poke_tlb (s : State) (a : Nat) (l : List Byte) : (s.poke a l).tlb = s.tlb := rfl
@[simp] theorem State.poke_reqs (s : State) (a : Nat) (l : List Byte) : (s.poke a l).reqs = s.reqs := rfl
@[simp] theorem State.poke_sfu (s : State) (a : Nat) (l : List Byte) : (s.poke a l).sfu = s.sfu := rfl
@[simp] theorem State.poke_moves (s : State) (a : Nat) (l : List Byte) : (s.poke a l).moves = s.moves := rfl
@[simp] theorem State.poke_cmds (s : State) (a : Nat) (l : List Byte) : (s.poke a l).cmds = s.cmds := rfl
@[simp] theorem State.poke_reg (s : State) (a : Nat) (l : List Byte) : (s.poke a l).reg = s.reg := rfl
@[simp] theorem State.poke_hub (s : State) (a : Nat) (l : List Byte) : (s.poke a l).hub = s.hub := rfl
@[simp] theorem State.poke_coh (s : State) (a : Nat) (l : List Byte) : (s.poke a l).coh = s.coh := rfl
@[simp] theorem State.poke_mgmt (s : State) (a : Nat) (l : List Byte) : (s.poke a l).mgmt = s.mgmt := rfl
@[simp] theorem State.poke_now (s : State) (a : Nat) (l : List Byte) : (s.poke a l).now = s.now := rfl
@[simp] theorem State.poke_ir (s : State) (a : Nat) (l : List Byte) : (s.poke a l).ir = s.ir := rfl
@[simp] theorem State.poke_arg (s : State) (a : Nat) (l : List Byte) : (s.poke a l).arg = s.arg := rfl
@[simp] theorem State.poke_agenda (s : State) (a : Nat) (l : List Byte) : (s.poke a l).agenda = s.agenda := rfl
@[simp] theorem State.poke_ticks (s : State) (a : Nat) (l : List Byte) : (s.poke a l).ticks = s.ticks := rfl
@[simp] theorem State.poke_nextId (s : State) (a : Nat) (l : List Byte) : (s.poke a l).nextId = s.nextId := rfl
@[simp] theorem State.poke_tried (s : State) (a : Nat) (l : List Byte) : (s.poke a l).tried = s.tried := rfl

@[simp] theorem State.poisonWord_cur (s : State) (a : Nat) : (s.poisonWord a).cur = s.cur := rfl
@[simp] theorem State.poisonWord_rest (s : State) (a : Nat) : (s.poisonWord a).rest = s.rest := rfl
@[simp] theorem State.poisonWord_mem (s : State) (a : Nat) : (s.poisonWord a).mem = s.mem := rfl
@[simp] theorem State.poisonWord_empties (s : State) (a : Nat) : (s.poisonWord a).empties = s.empties := rfl
@[simp] theorem State.poisonWord_cores (s : State) (a : Nat) : (s.poisonWord a).cores = s.cores := rfl
@[simp] theorem State.poisonWord_troupes (s : State) (a : Nat) : (s.poisonWord a).troupes = s.troupes := rfl
@[simp] theorem State.poisonWord_launches (s : State) (a : Nat) : (s.poisonWord a).launches = s.launches := rfl
@[simp] theorem State.poisonWord_jobs (s : State) (a : Nat) : (s.poisonWord a).jobs = s.jobs := rfl
@[simp] theorem State.poisonWord_tlb (s : State) (a : Nat) : (s.poisonWord a).tlb = s.tlb := rfl
@[simp] theorem State.poisonWord_reqs (s : State) (a : Nat) : (s.poisonWord a).reqs = s.reqs := rfl
@[simp] theorem State.poisonWord_sfu (s : State) (a : Nat) : (s.poisonWord a).sfu = s.sfu := rfl
@[simp] theorem State.poisonWord_moves (s : State) (a : Nat) : (s.poisonWord a).moves = s.moves := rfl
@[simp] theorem State.poisonWord_cmds (s : State) (a : Nat) : (s.poisonWord a).cmds = s.cmds := rfl
@[simp] theorem State.poisonWord_reg (s : State) (a : Nat) : (s.poisonWord a).reg = s.reg := rfl
@[simp] theorem State.poisonWord_hub (s : State) (a : Nat) : (s.poisonWord a).hub = s.hub := rfl
@[simp] theorem State.poisonWord_coh (s : State) (a : Nat) : (s.poisonWord a).coh = s.coh := rfl
@[simp] theorem State.poisonWord_mgmt (s : State) (a : Nat) : (s.poisonWord a).mgmt = s.mgmt := rfl
@[simp] theorem State.poisonWord_now (s : State) (a : Nat) : (s.poisonWord a).now = s.now := rfl
@[simp] theorem State.poisonWord_ir (s : State) (a : Nat) : (s.poisonWord a).ir = s.ir := rfl
@[simp] theorem State.poisonWord_arg (s : State) (a : Nat) : (s.poisonWord a).arg = s.arg := rfl
@[simp] theorem State.poisonWord_agenda (s : State) (a : Nat) : (s.poisonWord a).agenda = s.agenda := rfl
@[simp] theorem State.poisonWord_ticks (s : State) (a : Nat) : (s.poisonWord a).ticks = s.ticks := rfl
@[simp] theorem State.poisonWord_nextId (s : State) (a : Nat) : (s.poisonWord a).nextId = s.nextId := rfl
@[simp] theorem State.poisonWord_tried (s : State) (a : Nat) : (s.poisonWord a).tried = s.tried := rfl

@[simp] theorem State.unpoison_cur (s : State) (a : Nat) : (s.unpoison a).cur = s.cur := rfl
@[simp] theorem State.unpoison_rest (s : State) (a : Nat) : (s.unpoison a).rest = s.rest := rfl
@[simp] theorem State.unpoison_mem (s : State) (a : Nat) : (s.unpoison a).mem = s.mem := rfl
@[simp] theorem State.unpoison_cores (s : State) (a : Nat) : (s.unpoison a).cores = s.cores := rfl
@[simp] theorem State.unpoison_troupes (s : State) (a : Nat) : (s.unpoison a).troupes = s.troupes := rfl
@[simp] theorem State.unpoison_launches (s : State) (a : Nat) : (s.unpoison a).launches = s.launches := rfl
@[simp] theorem State.unpoison_jobs (s : State) (a : Nat) : (s.unpoison a).jobs = s.jobs := rfl
@[simp] theorem State.unpoison_tlb (s : State) (a : Nat) : (s.unpoison a).tlb = s.tlb := rfl
@[simp] theorem State.unpoison_reqs (s : State) (a : Nat) : (s.unpoison a).reqs = s.reqs := rfl
@[simp] theorem State.unpoison_sfu (s : State) (a : Nat) : (s.unpoison a).sfu = s.sfu := rfl
@[simp] theorem State.unpoison_moves (s : State) (a : Nat) : (s.unpoison a).moves = s.moves := rfl
@[simp] theorem State.unpoison_cmds (s : State) (a : Nat) : (s.unpoison a).cmds = s.cmds := rfl
@[simp] theorem State.unpoison_reg (s : State) (a : Nat) : (s.unpoison a).reg = s.reg := rfl
@[simp] theorem State.unpoison_hub (s : State) (a : Nat) : (s.unpoison a).hub = s.hub := rfl
@[simp] theorem State.unpoison_coh (s : State) (a : Nat) : (s.unpoison a).coh = s.coh := rfl
@[simp] theorem State.unpoison_mgmt (s : State) (a : Nat) : (s.unpoison a).mgmt = s.mgmt := rfl
@[simp] theorem State.unpoison_now (s : State) (a : Nat) : (s.unpoison a).now = s.now := rfl
@[simp] theorem State.unpoison_ir (s : State) (a : Nat) : (s.unpoison a).ir = s.ir := rfl
@[simp] theorem State.unpoison_arg (s : State) (a : Nat) : (s.unpoison a).arg = s.arg := rfl
@[simp] theorem State.unpoison_agenda (s : State) (a : Nat) : (s.unpoison a).agenda = s.agenda := rfl
@[simp] theorem State.unpoison_ticks (s : State) (a : Nat) : (s.unpoison a).ticks = s.ticks := rfl
@[simp] theorem State.unpoison_nextId (s : State) (a : Nat) : (s.unpoison a).nextId = s.nextId := rfl
@[simp] theorem State.unpoison_tried (s : State) (a : Nat) : (s.unpoison a).tried = s.tried := rfl

@[simp] theorem State.zeroRange_cur (s : State) (a b : Nat) : (s.zeroRange a b).cur = s.cur := rfl
@[simp] theorem State.zeroRange_rest (s : State) (a b : Nat) : (s.zeroRange a b).rest = s.rest := rfl
@[simp] theorem State.zeroRange_cores (s : State) (a b : Nat) : (s.zeroRange a b).cores = s.cores := rfl
@[simp] theorem State.zeroRange_troupes (s : State) (a b : Nat) : (s.zeroRange a b).troupes = s.troupes := rfl
@[simp] theorem State.zeroRange_launches (s : State) (a b : Nat) : (s.zeroRange a b).launches = s.launches := rfl
@[simp] theorem State.zeroRange_jobs (s : State) (a b : Nat) : (s.zeroRange a b).jobs = s.jobs := rfl
@[simp] theorem State.zeroRange_tlb (s : State) (a b : Nat) : (s.zeroRange a b).tlb = s.tlb := rfl
@[simp] theorem State.zeroRange_reqs (s : State) (a b : Nat) : (s.zeroRange a b).reqs = s.reqs := rfl
@[simp] theorem State.zeroRange_sfu (s : State) (a b : Nat) : (s.zeroRange a b).sfu = s.sfu := rfl
@[simp] theorem State.zeroRange_moves (s : State) (a b : Nat) : (s.zeroRange a b).moves = s.moves := rfl
@[simp] theorem State.zeroRange_cmds (s : State) (a b : Nat) : (s.zeroRange a b).cmds = s.cmds := rfl
@[simp] theorem State.zeroRange_reg (s : State) (a b : Nat) : (s.zeroRange a b).reg = s.reg := rfl
@[simp] theorem State.zeroRange_hub (s : State) (a b : Nat) : (s.zeroRange a b).hub = s.hub := rfl
@[simp] theorem State.zeroRange_coh (s : State) (a b : Nat) : (s.zeroRange a b).coh = s.coh := rfl
@[simp] theorem State.zeroRange_mgmt (s : State) (a b : Nat) : (s.zeroRange a b).mgmt = s.mgmt := rfl
@[simp] theorem State.zeroRange_now (s : State) (a b : Nat) : (s.zeroRange a b).now = s.now := rfl
@[simp] theorem State.zeroRange_ir (s : State) (a b : Nat) : (s.zeroRange a b).ir = s.ir := rfl
@[simp] theorem State.zeroRange_arg (s : State) (a b : Nat) : (s.zeroRange a b).arg = s.arg := rfl
@[simp] theorem State.zeroRange_agenda (s : State) (a b : Nat) : (s.zeroRange a b).agenda = s.agenda := rfl
@[simp] theorem State.zeroRange_ticks (s : State) (a b : Nat) : (s.zeroRange a b).ticks = s.ticks := rfl
@[simp] theorem State.zeroRange_nextId (s : State) (a b : Nat) : (s.zeroRange a b).nextId = s.nextId := rfl
@[simp] theorem State.zeroRange_tried (s : State) (a b : Nat) : (s.zeroRange a b).tried = s.tried := rfl

@[simp] theorem State.setStrand_mem (s : State) (n : Nat) (f : Strand → Strand) : (s.setStrand n f).mem = s.mem := rfl
@[simp] theorem State.setStrand_empties (s : State) (n : Nat) (f : Strand → Strand) : (s.setStrand n f).empties = s.empties := rfl
@[simp] theorem State.setStrand_poison (s : State) (n : Nat) (f : Strand → Strand) : (s.setStrand n f).poison = s.poison := rfl
@[simp] theorem State.setStrand_cores (s : State) (n : Nat) (f : Strand → Strand) : (s.setStrand n f).cores = s.cores := rfl
@[simp] theorem State.setStrand_troupes (s : State) (n : Nat) (f : Strand → Strand) : (s.setStrand n f).troupes = s.troupes := rfl
@[simp] theorem State.setStrand_launches (s : State) (n : Nat) (f : Strand → Strand) : (s.setStrand n f).launches = s.launches := rfl
@[simp] theorem State.setStrand_jobs (s : State) (n : Nat) (f : Strand → Strand) : (s.setStrand n f).jobs = s.jobs := rfl
@[simp] theorem State.setStrand_tlb (s : State) (n : Nat) (f : Strand → Strand) : (s.setStrand n f).tlb = s.tlb := rfl
@[simp] theorem State.setStrand_reqs (s : State) (n : Nat) (f : Strand → Strand) : (s.setStrand n f).reqs = s.reqs := rfl
@[simp] theorem State.setStrand_sfu (s : State) (n : Nat) (f : Strand → Strand) : (s.setStrand n f).sfu = s.sfu := rfl
@[simp] theorem State.setStrand_moves (s : State) (n : Nat) (f : Strand → Strand) : (s.setStrand n f).moves = s.moves := rfl
@[simp] theorem State.setStrand_cmds (s : State) (n : Nat) (f : Strand → Strand) : (s.setStrand n f).cmds = s.cmds := rfl
@[simp] theorem State.setStrand_reg (s : State) (n : Nat) (f : Strand → Strand) : (s.setStrand n f).reg = s.reg := rfl
@[simp] theorem State.setStrand_hub (s : State) (n : Nat) (f : Strand → Strand) : (s.setStrand n f).hub = s.hub := rfl
@[simp] theorem State.setStrand_coh (s : State) (n : Nat) (f : Strand → Strand) : (s.setStrand n f).coh = s.coh := rfl
@[simp] theorem State.setStrand_mgmt (s : State) (n : Nat) (f : Strand → Strand) : (s.setStrand n f).mgmt = s.mgmt := rfl
@[simp] theorem State.setStrand_now (s : State) (n : Nat) (f : Strand → Strand) : (s.setStrand n f).now = s.now := rfl
@[simp] theorem State.setStrand_ir (s : State) (n : Nat) (f : Strand → Strand) : (s.setStrand n f).ir = s.ir := rfl
@[simp] theorem State.setStrand_arg (s : State) (n : Nat) (f : Strand → Strand) : (s.setStrand n f).arg = s.arg := rfl
@[simp] theorem State.setStrand_agenda (s : State) (n : Nat) (f : Strand → Strand) : (s.setStrand n f).agenda = s.agenda := rfl
@[simp] theorem State.setStrand_ticks (s : State) (n : Nat) (f : Strand → Strand) : (s.setStrand n f).ticks = s.ticks := rfl
@[simp] theorem State.setStrand_nextId (s : State) (n : Nat) (f : Strand → Strand) : (s.setStrand n f).nextId = s.nextId := rfl
@[simp] theorem State.setStrand_tried (s : State) (n : Nat) (f : Strand → Strand) : (s.setStrand n f).tried = s.tried := rfl

@[simp] theorem State.setCore_cur (s : State) (n : Nat) (f : Core → Core) : (s.setCore n f).cur = s.cur := by
  unfold State.setCore; split <;> rfl
@[simp] theorem State.setCore_rest (s : State) (n : Nat) (f : Core → Core) : (s.setCore n f).rest = s.rest := by
  unfold State.setCore; split <;> rfl
@[simp] theorem State.setCore_mem (s : State) (n : Nat) (f : Core → Core) : (s.setCore n f).mem = s.mem := by
  unfold State.setCore; split <;> rfl
@[simp] theorem State.setCore_empties (s : State) (n : Nat) (f : Core → Core) : (s.setCore n f).empties = s.empties := by
  unfold State.setCore; split <;> rfl
@[simp] theorem State.setCore_poison (s : State) (n : Nat) (f : Core → Core) : (s.setCore n f).poison = s.poison := by
  unfold State.setCore; split <;> rfl
@[simp] theorem State.setCore_troupes (s : State) (n : Nat) (f : Core → Core) : (s.setCore n f).troupes = s.troupes := by
  unfold State.setCore; split <;> rfl
@[simp] theorem State.setCore_launches (s : State) (n : Nat) (f : Core → Core) : (s.setCore n f).launches = s.launches := by
  unfold State.setCore; split <;> rfl
@[simp] theorem State.setCore_jobs (s : State) (n : Nat) (f : Core → Core) : (s.setCore n f).jobs = s.jobs := by
  unfold State.setCore; split <;> rfl
@[simp] theorem State.setCore_tlb (s : State) (n : Nat) (f : Core → Core) : (s.setCore n f).tlb = s.tlb := by
  unfold State.setCore; split <;> rfl
@[simp] theorem State.setCore_reqs (s : State) (n : Nat) (f : Core → Core) : (s.setCore n f).reqs = s.reqs := by
  unfold State.setCore; split <;> rfl
@[simp] theorem State.setCore_sfu (s : State) (n : Nat) (f : Core → Core) : (s.setCore n f).sfu = s.sfu := by
  unfold State.setCore; split <;> rfl
@[simp] theorem State.setCore_moves (s : State) (n : Nat) (f : Core → Core) : (s.setCore n f).moves = s.moves := by
  unfold State.setCore; split <;> rfl
@[simp] theorem State.setCore_cmds (s : State) (n : Nat) (f : Core → Core) : (s.setCore n f).cmds = s.cmds := by
  unfold State.setCore; split <;> rfl
@[simp] theorem State.setCore_reg (s : State) (n : Nat) (f : Core → Core) : (s.setCore n f).reg = s.reg := by
  unfold State.setCore; split <;> rfl
@[simp] theorem State.setCore_hub (s : State) (n : Nat) (f : Core → Core) : (s.setCore n f).hub = s.hub := by
  unfold State.setCore; split <;> rfl
@[simp] theorem State.setCore_coh (s : State) (n : Nat) (f : Core → Core) : (s.setCore n f).coh = s.coh := by
  unfold State.setCore; split <;> rfl
@[simp] theorem State.setCore_mgmt (s : State) (n : Nat) (f : Core → Core) : (s.setCore n f).mgmt = s.mgmt := by
  unfold State.setCore; split <;> rfl
@[simp] theorem State.setCore_now (s : State) (n : Nat) (f : Core → Core) : (s.setCore n f).now = s.now := by
  unfold State.setCore; split <;> rfl
@[simp] theorem State.setCore_ir (s : State) (n : Nat) (f : Core → Core) : (s.setCore n f).ir = s.ir := by
  unfold State.setCore; split <;> rfl
@[simp] theorem State.setCore_arg (s : State) (n : Nat) (f : Core → Core) : (s.setCore n f).arg = s.arg := by
  unfold State.setCore; split <;> rfl
@[simp] theorem State.setCore_agenda (s : State) (n : Nat) (f : Core → Core) : (s.setCore n f).agenda = s.agenda := by
  unfold State.setCore; split <;> rfl
@[simp] theorem State.setCore_ticks (s : State) (n : Nat) (f : Core → Core) : (s.setCore n f).ticks = s.ticks := by
  unfold State.setCore; split <;> rfl
@[simp] theorem State.setCore_nextId (s : State) (n : Nat) (f : Core → Core) : (s.setCore n f).nextId = s.nextId := by
  unfold State.setCore; split <;> rfl

@[simp] theorem State.setBay_cur (s : State) (n : Nat) (f : Bay → Bay) : (s.setBay n f).cur = s.cur := by
  unfold State.setBay; split <;> rfl
@[simp] theorem State.setBay_rest (s : State) (n : Nat) (f : Bay → Bay) : (s.setBay n f).rest = s.rest := by
  unfold State.setBay; split <;> rfl
@[simp] theorem State.setBay_mem (s : State) (n : Nat) (f : Bay → Bay) : (s.setBay n f).mem = s.mem := by
  unfold State.setBay; split <;> rfl
@[simp] theorem State.setBay_empties (s : State) (n : Nat) (f : Bay → Bay) : (s.setBay n f).empties = s.empties := by
  unfold State.setBay; split <;> rfl
@[simp] theorem State.setBay_poison (s : State) (n : Nat) (f : Bay → Bay) : (s.setBay n f).poison = s.poison := by
  unfold State.setBay; split <;> rfl
@[simp] theorem State.setBay_cores (s : State) (n : Nat) (f : Bay → Bay) : (s.setBay n f).cores = s.cores := by
  unfold State.setBay; split <;> rfl
@[simp] theorem State.setBay_troupes (s : State) (n : Nat) (f : Bay → Bay) : (s.setBay n f).troupes = s.troupes := by
  unfold State.setBay; split <;> rfl
@[simp] theorem State.setBay_launches (s : State) (n : Nat) (f : Bay → Bay) : (s.setBay n f).launches = s.launches := by
  unfold State.setBay; split <;> rfl
@[simp] theorem State.setBay_jobs (s : State) (n : Nat) (f : Bay → Bay) : (s.setBay n f).jobs = s.jobs := by
  unfold State.setBay; split <;> rfl
@[simp] theorem State.setBay_tlb (s : State) (n : Nat) (f : Bay → Bay) : (s.setBay n f).tlb = s.tlb := by
  unfold State.setBay; split <;> rfl
@[simp] theorem State.setBay_reqs (s : State) (n : Nat) (f : Bay → Bay) : (s.setBay n f).reqs = s.reqs := by
  unfold State.setBay; split <;> rfl
@[simp] theorem State.setBay_sfu (s : State) (n : Nat) (f : Bay → Bay) : (s.setBay n f).sfu = s.sfu := by
  unfold State.setBay; split <;> rfl
@[simp] theorem State.setBay_moves (s : State) (n : Nat) (f : Bay → Bay) : (s.setBay n f).moves = s.moves := by
  unfold State.setBay; split <;> rfl
@[simp] theorem State.setBay_cmds (s : State) (n : Nat) (f : Bay → Bay) : (s.setBay n f).cmds = s.cmds := by
  unfold State.setBay; split <;> rfl
@[simp] theorem State.setBay_reg (s : State) (n : Nat) (f : Bay → Bay) : (s.setBay n f).reg = s.reg := by
  unfold State.setBay; split <;> rfl
@[simp] theorem State.setBay_hub (s : State) (n : Nat) (f : Bay → Bay) : (s.setBay n f).hub = s.hub := by
  unfold State.setBay; split <;> rfl
@[simp] theorem State.setBay_coh (s : State) (n : Nat) (f : Bay → Bay) : (s.setBay n f).coh = s.coh := by
  unfold State.setBay; split <;> rfl
@[simp] theorem State.setBay_now (s : State) (n : Nat) (f : Bay → Bay) : (s.setBay n f).now = s.now := by
  unfold State.setBay; split <;> rfl
@[simp] theorem State.setBay_ir (s : State) (n : Nat) (f : Bay → Bay) : (s.setBay n f).ir = s.ir := by
  unfold State.setBay; split <;> rfl
@[simp] theorem State.setBay_arg (s : State) (n : Nat) (f : Bay → Bay) : (s.setBay n f).arg = s.arg := by
  unfold State.setBay; split <;> rfl
@[simp] theorem State.setBay_agenda (s : State) (n : Nat) (f : Bay → Bay) : (s.setBay n f).agenda = s.agenda := by
  unfold State.setBay; split <;> rfl
@[simp] theorem State.setBay_ticks (s : State) (n : Nat) (f : Bay → Bay) : (s.setBay n f).ticks = s.ticks := by
  unfold State.setBay; split <;> rfl
@[simp] theorem State.setBay_nextId (s : State) (n : Nat) (f : Bay → Bay) : (s.setBay n f).nextId = s.nextId := by
  unfold State.setBay; split <;> rfl

/-! ### The strand in hand -/

@[simp] theorem Strand.putX_sid (t : Strand) (r : Reg) (w : Word) : (t.putX r w).sid = t.sid := by
  unfold Strand.putX; split <;> rfl
@[simp] theorem Strand.putX_mode (t : Strand) (r : Reg) (w : Word) : (t.putX r w).mode = t.mode := by
  unfold Strand.putX; split <;> rfl
@[simp] theorem Strand.putX_core (t : Strand) (r : Reg) (w : Word) : (t.putX r w).core = t.core := by
  unfold Strand.putX; split <;> rfl
@[simp] theorem Strand.putX_slot (t : Strand) (r : Reg) (w : Word) : (t.putX r w).slot = t.slot := by
  unfold Strand.putX; split <;> rfl
@[simp] theorem Strand.putX_hw (t : Strand) (r : Reg) (w : Word) : (t.putX r w).hw = t.hw := by
  unfold Strand.putX; split <;> rfl
@[simp] theorem Strand.putX_troupe (t : Strand) (r : Reg) (w : Word) : (t.putX r w).troupe = t.troupe := by
  unfold Strand.putX; split <;> rfl
@[simp] theorem Strand.putX_pc (t : Strand) (r : Reg) (w : Word) : (t.putX r w).pc = t.pc := by
  unfold Strand.putX; split <;> rfl
@[simp] theorem Strand.putX_v (t : Strand) (r : Reg) (w : Word) : (t.putX r w).v = t.v := by
  unfold Strand.putX; split <;> rfl
@[simp] theorem Strand.putX_p (t : Strand) (r : Reg) (w : Word) : (t.putX r w).p = t.p := by
  unfold Strand.putX; split <;> rfl
@[simp] theorem Strand.putX_k (t : Strand) (r : Reg) (w : Word) : (t.putX r w).k = t.k := by
  unfold Strand.putX; split <;> rfl
@[simp] theorem Strand.putX_xfull (t : Strand) (r : Reg) (w : Word) : (t.putX r w).xfull = t.xfull := by
  unfold Strand.putX; split <;> rfl
@[simp] theorem Strand.putX_vfull (t : Strand) (r : Reg) (w : Word) : (t.putX r w).vfull = t.vfull := by
  unfold Strand.putX; split <;> rfl
@[simp] theorem Strand.putX_sr (t : Strand) (r : Reg) (w : Word) : (t.putX r w).sr = t.sr := by
  unfold Strand.putX; split <;> rfl
@[simp] theorem Strand.putX_tx (t : Strand) (r : Reg) (w : Word) : (t.putX r w).tx = t.tx := by
  unfold Strand.putX; split <;> rfl
@[simp] theorem Strand.putX_wait (t : Strand) (r : Reg) (w : Word) : (t.putX r w).wait = t.wait := by
  unfold Strand.putX; split <;> rfl
@[simp] theorem Strand.putX_skip (t : Strand) (r : Reg) (w : Word) : (t.putX r w).skip = t.skip := by
  unfold Strand.putX; split <;> rfl
@[simp] theorem Strand.putX_blocked (t : Strand) (r : Reg) (w : Word) : (t.putX r w).blocked = t.blocked := by
  unfold Strand.putX; split <;> rfl
@[simp] theorem Strand.putX_stalled (t : Strand) (r : Reg) (w : Word) : (t.putX r w).stalled = t.stalled := by
  unfold Strand.putX; split <;> rfl
@[simp] theorem Strand.putX_yield (t : Strand) (r : Reg) (w : Word) : (t.putX r w).yield = t.yield := by
  unfold Strand.putX; split <;> rfl
@[simp] theorem Strand.putX_pend (t : Strand) (r : Reg) (w : Word) : (t.putX r w).pend = t.pend := by
  unfold Strand.putX; split <;> rfl
@[simp] theorem Strand.putX_cancelDue (t : Strand) (r : Reg) (w : Word) : (t.putX r w).cancelDue = t.cancelDue := by
  unfold Strand.putX; split <;> rfl
@[simp] theorem Strand.putX_cancelTaken (t : Strand) (r : Reg) (w : Word) : (t.putX r w).cancelTaken = t.cancelTaken := by
  unfold Strand.putX; split <;> rfl
@[simp] theorem Strand.putX_stopDue (t : Strand) (r : Reg) (w : Word) : (t.putX r w).stopDue = t.stopDue := by
  unfold Strand.putX; split <;> rfl
@[simp] theorem Strand.putX_live (t : Strand) (r : Reg) (w : Word) : (t.putX r w).live = t.live := by
  unfold Strand.putX; split <;> rfl
@[simp] theorem Strand.putX_safe (t : Strand) (r : Reg) (w : Word) : (t.putX r w).safe = t.safe := by
  unfold Strand.putX; split <;> rfl
@[simp] theorem Strand.putX_came (t : Strand) (r : Reg) (w : Word) : (t.putX r w).came = t.came := by
  unfold Strand.putX; split <;> rfl

@[simp] theorem Strand.putV_sid (t : Strand) (r : Reg) (w : VReg) : (t.putV r w).sid = t.sid := rfl
@[simp] theorem Strand.putV_mode (t : Strand) (r : Reg) (w : VReg) : (t.putV r w).mode = t.mode := rfl
@[simp] theorem Strand.putV_core (t : Strand) (r : Reg) (w : VReg) : (t.putV r w).core = t.core := rfl
@[simp] theorem Strand.putV_slot (t : Strand) (r : Reg) (w : VReg) : (t.putV r w).slot = t.slot := rfl
@[simp] theorem Strand.putV_hw (t : Strand) (r : Reg) (w : VReg) : (t.putV r w).hw = t.hw := rfl
@[simp] theorem Strand.putV_troupe (t : Strand) (r : Reg) (w : VReg) : (t.putV r w).troupe = t.troupe := rfl
@[simp] theorem Strand.putV_pc (t : Strand) (r : Reg) (w : VReg) : (t.putV r w).pc = t.pc := rfl
@[simp] theorem Strand.putV_x (t : Strand) (r : Reg) (w : VReg) : (t.putV r w).x = t.x := rfl
@[simp] theorem Strand.putV_p (t : Strand) (r : Reg) (w : VReg) : (t.putV r w).p = t.p := rfl
@[simp] theorem Strand.putV_k (t : Strand) (r : Reg) (w : VReg) : (t.putV r w).k = t.k := rfl
@[simp] theorem Strand.putV_xfull (t : Strand) (r : Reg) (w : VReg) : (t.putV r w).xfull = t.xfull := rfl
@[simp] theorem Strand.putV_vfull (t : Strand) (r : Reg) (w : VReg) : (t.putV r w).vfull = t.vfull := rfl
@[simp] theorem Strand.putV_sr (t : Strand) (r : Reg) (w : VReg) : (t.putV r w).sr = t.sr := rfl
@[simp] theorem Strand.putV_tx (t : Strand) (r : Reg) (w : VReg) : (t.putV r w).tx = t.tx := rfl
@[simp] theorem Strand.putV_wait (t : Strand) (r : Reg) (w : VReg) : (t.putV r w).wait = t.wait := rfl
@[simp] theorem Strand.putV_skip (t : Strand) (r : Reg) (w : VReg) : (t.putV r w).skip = t.skip := rfl
@[simp] theorem Strand.putV_blocked (t : Strand) (r : Reg) (w : VReg) : (t.putV r w).blocked = t.blocked := rfl
@[simp] theorem Strand.putV_stalled (t : Strand) (r : Reg) (w : VReg) : (t.putV r w).stalled = t.stalled := rfl
@[simp] theorem Strand.putV_yield (t : Strand) (r : Reg) (w : VReg) : (t.putV r w).yield = t.yield := rfl
@[simp] theorem Strand.putV_pend (t : Strand) (r : Reg) (w : VReg) : (t.putV r w).pend = t.pend := rfl
@[simp] theorem Strand.putV_cancelDue (t : Strand) (r : Reg) (w : VReg) : (t.putV r w).cancelDue = t.cancelDue := rfl
@[simp] theorem Strand.putV_cancelTaken (t : Strand) (r : Reg) (w : VReg) : (t.putV r w).cancelTaken = t.cancelTaken := rfl
@[simp] theorem Strand.putV_stopDue (t : Strand) (r : Reg) (w : VReg) : (t.putV r w).stopDue = t.stopDue := rfl
@[simp] theorem Strand.putV_live (t : Strand) (r : Reg) (w : VReg) : (t.putV r w).live = t.live := rfl
@[simp] theorem Strand.putV_safe (t : Strand) (r : Reg) (w : VReg) : (t.putV r w).safe = t.safe := rfl
@[simp] theorem Strand.putV_came (t : Strand) (r : Reg) (w : VReg) : (t.putV r w).came = t.came := rfl

@[simp] theorem Strand.putP_sid (t : Strand) (r : BitVec 3) (w : Quad) : (t.putP r w).sid = t.sid := by
  unfold Strand.putP; split <;> rfl
@[simp] theorem Strand.putP_mode (t : Strand) (r : BitVec 3) (w : Quad) : (t.putP r w).mode = t.mode := by
  unfold Strand.putP; split <;> rfl
@[simp] theorem Strand.putP_core (t : Strand) (r : BitVec 3) (w : Quad) : (t.putP r w).core = t.core := by
  unfold Strand.putP; split <;> rfl
@[simp] theorem Strand.putP_slot (t : Strand) (r : BitVec 3) (w : Quad) : (t.putP r w).slot = t.slot := by
  unfold Strand.putP; split <;> rfl
@[simp] theorem Strand.putP_hw (t : Strand) (r : BitVec 3) (w : Quad) : (t.putP r w).hw = t.hw := by
  unfold Strand.putP; split <;> rfl
@[simp] theorem Strand.putP_troupe (t : Strand) (r : BitVec 3) (w : Quad) : (t.putP r w).troupe = t.troupe := by
  unfold Strand.putP; split <;> rfl
@[simp] theorem Strand.putP_pc (t : Strand) (r : BitVec 3) (w : Quad) : (t.putP r w).pc = t.pc := by
  unfold Strand.putP; split <;> rfl
@[simp] theorem Strand.putP_x (t : Strand) (r : BitVec 3) (w : Quad) : (t.putP r w).x = t.x := by
  unfold Strand.putP; split <;> rfl
@[simp] theorem Strand.putP_v (t : Strand) (r : BitVec 3) (w : Quad) : (t.putP r w).v = t.v := by
  unfold Strand.putP; split <;> rfl
@[simp] theorem Strand.putP_k (t : Strand) (r : BitVec 3) (w : Quad) : (t.putP r w).k = t.k := by
  unfold Strand.putP; split <;> rfl
@[simp] theorem Strand.putP_xfull (t : Strand) (r : BitVec 3) (w : Quad) : (t.putP r w).xfull = t.xfull := by
  unfold Strand.putP; split <;> rfl
@[simp] theorem Strand.putP_vfull (t : Strand) (r : BitVec 3) (w : Quad) : (t.putP r w).vfull = t.vfull := by
  unfold Strand.putP; split <;> rfl
@[simp] theorem Strand.putP_sr (t : Strand) (r : BitVec 3) (w : Quad) : (t.putP r w).sr = t.sr := by
  unfold Strand.putP; split <;> rfl
@[simp] theorem Strand.putP_tx (t : Strand) (r : BitVec 3) (w : Quad) : (t.putP r w).tx = t.tx := by
  unfold Strand.putP; split <;> rfl
@[simp] theorem Strand.putP_wait (t : Strand) (r : BitVec 3) (w : Quad) : (t.putP r w).wait = t.wait := by
  unfold Strand.putP; split <;> rfl
@[simp] theorem Strand.putP_skip (t : Strand) (r : BitVec 3) (w : Quad) : (t.putP r w).skip = t.skip := by
  unfold Strand.putP; split <;> rfl
@[simp] theorem Strand.putP_blocked (t : Strand) (r : BitVec 3) (w : Quad) : (t.putP r w).blocked = t.blocked := by
  unfold Strand.putP; split <;> rfl
@[simp] theorem Strand.putP_stalled (t : Strand) (r : BitVec 3) (w : Quad) : (t.putP r w).stalled = t.stalled := by
  unfold Strand.putP; split <;> rfl
@[simp] theorem Strand.putP_yield (t : Strand) (r : BitVec 3) (w : Quad) : (t.putP r w).yield = t.yield := by
  unfold Strand.putP; split <;> rfl
@[simp] theorem Strand.putP_pend (t : Strand) (r : BitVec 3) (w : Quad) : (t.putP r w).pend = t.pend := by
  unfold Strand.putP; split <;> rfl
@[simp] theorem Strand.putP_cancelDue (t : Strand) (r : BitVec 3) (w : Quad) : (t.putP r w).cancelDue = t.cancelDue := by
  unfold Strand.putP; split <;> rfl
@[simp] theorem Strand.putP_cancelTaken (t : Strand) (r : BitVec 3) (w : Quad) : (t.putP r w).cancelTaken = t.cancelTaken := by
  unfold Strand.putP; split <;> rfl
@[simp] theorem Strand.putP_stopDue (t : Strand) (r : BitVec 3) (w : Quad) : (t.putP r w).stopDue = t.stopDue := by
  unfold Strand.putP; split <;> rfl
@[simp] theorem Strand.putP_live (t : Strand) (r : BitVec 3) (w : Quad) : (t.putP r w).live = t.live := by
  unfold Strand.putP; split <;> rfl
@[simp] theorem Strand.putP_safe (t : Strand) (r : BitVec 3) (w : Quad) : (t.putP r w).safe = t.safe := by
  unfold Strand.putP; split <;> rfl
@[simp] theorem Strand.putP_came (t : Strand) (r : BitVec 3) (w : Quad) : (t.putP r w).came = t.came := by
  unfold Strand.putP; split <;> rfl

@[simp] theorem Strand.putK_sid (t : Strand) (r : BitVec 4) (w : Quad) : (t.putK r w).sid = t.sid := rfl
@[simp] theorem Strand.putK_mode (t : Strand) (r : BitVec 4) (w : Quad) : (t.putK r w).mode = t.mode := rfl
@[simp] theorem Strand.putK_core (t : Strand) (r : BitVec 4) (w : Quad) : (t.putK r w).core = t.core := rfl
@[simp] theorem Strand.putK_slot (t : Strand) (r : BitVec 4) (w : Quad) : (t.putK r w).slot = t.slot := rfl
@[simp] theorem Strand.putK_hw (t : Strand) (r : BitVec 4) (w : Quad) : (t.putK r w).hw = t.hw := rfl
@[simp] theorem Strand.putK_troupe (t : Strand) (r : BitVec 4) (w : Quad) : (t.putK r w).troupe = t.troupe := rfl
@[simp] theorem Strand.putK_pc (t : Strand) (r : BitVec 4) (w : Quad) : (t.putK r w).pc = t.pc := rfl
@[simp] theorem Strand.putK_x (t : Strand) (r : BitVec 4) (w : Quad) : (t.putK r w).x = t.x := rfl
@[simp] theorem Strand.putK_v (t : Strand) (r : BitVec 4) (w : Quad) : (t.putK r w).v = t.v := rfl
@[simp] theorem Strand.putK_p (t : Strand) (r : BitVec 4) (w : Quad) : (t.putK r w).p = t.p := rfl
@[simp] theorem Strand.putK_xfull (t : Strand) (r : BitVec 4) (w : Quad) : (t.putK r w).xfull = t.xfull := rfl
@[simp] theorem Strand.putK_vfull (t : Strand) (r : BitVec 4) (w : Quad) : (t.putK r w).vfull = t.vfull := rfl
@[simp] theorem Strand.putK_sr (t : Strand) (r : BitVec 4) (w : Quad) : (t.putK r w).sr = t.sr := rfl
@[simp] theorem Strand.putK_tx (t : Strand) (r : BitVec 4) (w : Quad) : (t.putK r w).tx = t.tx := rfl
@[simp] theorem Strand.putK_wait (t : Strand) (r : BitVec 4) (w : Quad) : (t.putK r w).wait = t.wait := rfl
@[simp] theorem Strand.putK_skip (t : Strand) (r : BitVec 4) (w : Quad) : (t.putK r w).skip = t.skip := rfl
@[simp] theorem Strand.putK_blocked (t : Strand) (r : BitVec 4) (w : Quad) : (t.putK r w).blocked = t.blocked := rfl
@[simp] theorem Strand.putK_stalled (t : Strand) (r : BitVec 4) (w : Quad) : (t.putK r w).stalled = t.stalled := rfl
@[simp] theorem Strand.putK_yield (t : Strand) (r : BitVec 4) (w : Quad) : (t.putK r w).yield = t.yield := rfl
@[simp] theorem Strand.putK_pend (t : Strand) (r : BitVec 4) (w : Quad) : (t.putK r w).pend = t.pend := rfl
@[simp] theorem Strand.putK_cancelDue (t : Strand) (r : BitVec 4) (w : Quad) : (t.putK r w).cancelDue = t.cancelDue := rfl
@[simp] theorem Strand.putK_cancelTaken (t : Strand) (r : BitVec 4) (w : Quad) : (t.putK r w).cancelTaken = t.cancelTaken := rfl
@[simp] theorem Strand.putK_stopDue (t : Strand) (r : BitVec 4) (w : Quad) : (t.putK r w).stopDue = t.stopDue := rfl
@[simp] theorem Strand.putK_live (t : Strand) (r : BitVec 4) (w : Quad) : (t.putK r w).live = t.live := rfl
@[simp] theorem Strand.putK_safe (t : Strand) (r : BitVec 4) (w : Quad) : (t.putK r w).safe = t.safe := rfl
@[simp] theorem Strand.putK_came (t : Strand) (r : BitVec 4) (w : Quad) : (t.putK r w).came = t.came := rfl

@[simp] theorem Strand.emptyX_sid (t : Strand) (r : Reg) : (t.emptyX r).sid = t.sid := by
  unfold Strand.emptyX; split <;> rfl
@[simp] theorem Strand.emptyX_mode (t : Strand) (r : Reg) : (t.emptyX r).mode = t.mode := by
  unfold Strand.emptyX; split <;> rfl
@[simp] theorem Strand.emptyX_core (t : Strand) (r : Reg) : (t.emptyX r).core = t.core := by
  unfold Strand.emptyX; split <;> rfl
@[simp] theorem Strand.emptyX_slot (t : Strand) (r : Reg) : (t.emptyX r).slot = t.slot := by
  unfold Strand.emptyX; split <;> rfl
@[simp] theorem Strand.emptyX_hw (t : Strand) (r : Reg) : (t.emptyX r).hw = t.hw := by
  unfold Strand.emptyX; split <;> rfl
@[simp] theorem Strand.emptyX_troupe (t : Strand) (r : Reg) : (t.emptyX r).troupe = t.troupe := by
  unfold Strand.emptyX; split <;> rfl
@[simp] theorem Strand.emptyX_pc (t : Strand) (r : Reg) : (t.emptyX r).pc = t.pc := by
  unfold Strand.emptyX; split <;> rfl
@[simp] theorem Strand.emptyX_x (t : Strand) (r : Reg) : (t.emptyX r).x = t.x := by
  unfold Strand.emptyX; split <;> rfl
@[simp] theorem Strand.emptyX_v (t : Strand) (r : Reg) : (t.emptyX r).v = t.v := by
  unfold Strand.emptyX; split <;> rfl
@[simp] theorem Strand.emptyX_p (t : Strand) (r : Reg) : (t.emptyX r).p = t.p := by
  unfold Strand.emptyX; split <;> rfl
@[simp] theorem Strand.emptyX_k (t : Strand) (r : Reg) : (t.emptyX r).k = t.k := by
  unfold Strand.emptyX; split <;> rfl
@[simp] theorem Strand.emptyX_vfull (t : Strand) (r : Reg) : (t.emptyX r).vfull = t.vfull := by
  unfold Strand.emptyX; split <;> rfl
@[simp] theorem Strand.emptyX_sr (t : Strand) (r : Reg) : (t.emptyX r).sr = t.sr := by
  unfold Strand.emptyX; split <;> rfl
@[simp] theorem Strand.emptyX_tx (t : Strand) (r : Reg) : (t.emptyX r).tx = t.tx := by
  unfold Strand.emptyX; split <;> rfl
@[simp] theorem Strand.emptyX_wait (t : Strand) (r : Reg) : (t.emptyX r).wait = t.wait := by
  unfold Strand.emptyX; split <;> rfl
@[simp] theorem Strand.emptyX_skip (t : Strand) (r : Reg) : (t.emptyX r).skip = t.skip := by
  unfold Strand.emptyX; split <;> rfl
@[simp] theorem Strand.emptyX_blocked (t : Strand) (r : Reg) : (t.emptyX r).blocked = t.blocked := by
  unfold Strand.emptyX; split <;> rfl
@[simp] theorem Strand.emptyX_stalled (t : Strand) (r : Reg) : (t.emptyX r).stalled = t.stalled := by
  unfold Strand.emptyX; split <;> rfl
@[simp] theorem Strand.emptyX_yield (t : Strand) (r : Reg) : (t.emptyX r).yield = t.yield := by
  unfold Strand.emptyX; split <;> rfl
@[simp] theorem Strand.emptyX_pend (t : Strand) (r : Reg) : (t.emptyX r).pend = t.pend := by
  unfold Strand.emptyX; split <;> rfl
@[simp] theorem Strand.emptyX_cancelDue (t : Strand) (r : Reg) : (t.emptyX r).cancelDue = t.cancelDue := by
  unfold Strand.emptyX; split <;> rfl
@[simp] theorem Strand.emptyX_cancelTaken (t : Strand) (r : Reg) : (t.emptyX r).cancelTaken = t.cancelTaken := by
  unfold Strand.emptyX; split <;> rfl
@[simp] theorem Strand.emptyX_stopDue (t : Strand) (r : Reg) : (t.emptyX r).stopDue = t.stopDue := by
  unfold Strand.emptyX; split <;> rfl
@[simp] theorem Strand.emptyX_live (t : Strand) (r : Reg) : (t.emptyX r).live = t.live := by
  unfold Strand.emptyX; split <;> rfl
@[simp] theorem Strand.emptyX_safe (t : Strand) (r : Reg) : (t.emptyX r).safe = t.safe := by
  unfold Strand.emptyX; split <;> rfl
@[simp] theorem Strand.emptyX_came (t : Strand) (r : Reg) : (t.emptyX r).came = t.came := by
  unfold Strand.emptyX; split <;> rfl

@[simp] theorem Strand.emptyV_sid (t : Strand) (r : Reg) : (t.emptyV r).sid = t.sid := rfl
@[simp] theorem Strand.emptyV_mode (t : Strand) (r : Reg) : (t.emptyV r).mode = t.mode := rfl
@[simp] theorem Strand.emptyV_core (t : Strand) (r : Reg) : (t.emptyV r).core = t.core := rfl
@[simp] theorem Strand.emptyV_slot (t : Strand) (r : Reg) : (t.emptyV r).slot = t.slot := rfl
@[simp] theorem Strand.emptyV_hw (t : Strand) (r : Reg) : (t.emptyV r).hw = t.hw := rfl
@[simp] theorem Strand.emptyV_troupe (t : Strand) (r : Reg) : (t.emptyV r).troupe = t.troupe := rfl
@[simp] theorem Strand.emptyV_pc (t : Strand) (r : Reg) : (t.emptyV r).pc = t.pc := rfl
@[simp] theorem Strand.emptyV_x (t : Strand) (r : Reg) : (t.emptyV r).x = t.x := rfl
@[simp] theorem Strand.emptyV_v (t : Strand) (r : Reg) : (t.emptyV r).v = t.v := rfl
@[simp] theorem Strand.emptyV_p (t : Strand) (r : Reg) : (t.emptyV r).p = t.p := rfl
@[simp] theorem Strand.emptyV_k (t : Strand) (r : Reg) : (t.emptyV r).k = t.k := rfl
@[simp] theorem Strand.emptyV_xfull (t : Strand) (r : Reg) : (t.emptyV r).xfull = t.xfull := rfl
@[simp] theorem Strand.emptyV_sr (t : Strand) (r : Reg) : (t.emptyV r).sr = t.sr := rfl
@[simp] theorem Strand.emptyV_tx (t : Strand) (r : Reg) : (t.emptyV r).tx = t.tx := rfl
@[simp] theorem Strand.emptyV_wait (t : Strand) (r : Reg) : (t.emptyV r).wait = t.wait := rfl
@[simp] theorem Strand.emptyV_skip (t : Strand) (r : Reg) : (t.emptyV r).skip = t.skip := rfl
@[simp] theorem Strand.emptyV_blocked (t : Strand) (r : Reg) : (t.emptyV r).blocked = t.blocked := rfl
@[simp] theorem Strand.emptyV_stalled (t : Strand) (r : Reg) : (t.emptyV r).stalled = t.stalled := rfl
@[simp] theorem Strand.emptyV_yield (t : Strand) (r : Reg) : (t.emptyV r).yield = t.yield := rfl
@[simp] theorem Strand.emptyV_pend (t : Strand) (r : Reg) : (t.emptyV r).pend = t.pend := rfl
@[simp] theorem Strand.emptyV_cancelDue (t : Strand) (r : Reg) : (t.emptyV r).cancelDue = t.cancelDue := rfl
@[simp] theorem Strand.emptyV_cancelTaken (t : Strand) (r : Reg) : (t.emptyV r).cancelTaken = t.cancelTaken := rfl
@[simp] theorem Strand.emptyV_stopDue (t : Strand) (r : Reg) : (t.emptyV r).stopDue = t.stopDue := rfl
@[simp] theorem Strand.emptyV_live (t : Strand) (r : Reg) : (t.emptyV r).live = t.live := rfl
@[simp] theorem Strand.emptyV_safe (t : Strand) (r : Reg) : (t.emptyV r).safe = t.safe := rfl
@[simp] theorem Strand.emptyV_came (t : Strand) (r : Reg) : (t.emptyV r).came = t.came := rfl

@[simp] theorem Strand.wake_sid (t : Strand) : t.wake.sid = t.sid := by
  unfold Strand.wake; split <;> rfl
@[simp] theorem Strand.wake_mode (t : Strand) : t.wake.mode = t.mode := by
  unfold Strand.wake; split <;> rfl
@[simp] theorem Strand.wake_core (t : Strand) : t.wake.core = t.core := by
  unfold Strand.wake; split <;> rfl
@[simp] theorem Strand.wake_slot (t : Strand) : t.wake.slot = t.slot := by
  unfold Strand.wake; split <;> rfl
@[simp] theorem Strand.wake_hw (t : Strand) : t.wake.hw = t.hw := by
  unfold Strand.wake; split <;> rfl
@[simp] theorem Strand.wake_troupe (t : Strand) : t.wake.troupe = t.troupe := by
  unfold Strand.wake; split <;> rfl
@[simp] theorem Strand.wake_pc (t : Strand) : t.wake.pc = t.pc := by
  unfold Strand.wake; split <;> rfl
@[simp] theorem Strand.wake_x (t : Strand) : t.wake.x = t.x := by
  unfold Strand.wake; split <;> rfl
@[simp] theorem Strand.wake_v (t : Strand) : t.wake.v = t.v := by
  unfold Strand.wake; split <;> rfl
@[simp] theorem Strand.wake_p (t : Strand) : t.wake.p = t.p := by
  unfold Strand.wake; split <;> rfl
@[simp] theorem Strand.wake_k (t : Strand) : t.wake.k = t.k := by
  unfold Strand.wake; split <;> rfl
@[simp] theorem Strand.wake_xfull (t : Strand) : t.wake.xfull = t.xfull := by
  unfold Strand.wake; split <;> rfl
@[simp] theorem Strand.wake_vfull (t : Strand) : t.wake.vfull = t.vfull := by
  unfold Strand.wake; split <;> rfl
@[simp] theorem Strand.wake_sr (t : Strand) : t.wake.sr = t.sr := by
  unfold Strand.wake; split <;> rfl
@[simp] theorem Strand.wake_tx (t : Strand) : t.wake.tx = t.tx := by
  unfold Strand.wake; split <;> rfl
@[simp] theorem Strand.wake_skip (t : Strand) : t.wake.skip = t.skip := by
  unfold Strand.wake; split <;> rfl
@[simp] theorem Strand.wake_blocked (t : Strand) : t.wake.blocked = t.blocked := by
  unfold Strand.wake; split <;> rfl
@[simp] theorem Strand.wake_stalled (t : Strand) : t.wake.stalled = t.stalled := by
  unfold Strand.wake; split <;> rfl
@[simp] theorem Strand.wake_yield (t : Strand) : t.wake.yield = t.yield := by
  unfold Strand.wake; split <;> rfl
@[simp] theorem Strand.wake_pend (t : Strand) : t.wake.pend = t.pend := by
  unfold Strand.wake; split <;> rfl
@[simp] theorem Strand.wake_cancelDue (t : Strand) : t.wake.cancelDue = t.cancelDue := by
  unfold Strand.wake; split <;> rfl
@[simp] theorem Strand.wake_cancelTaken (t : Strand) : t.wake.cancelTaken = t.cancelTaken := by
  unfold Strand.wake; split <;> rfl
@[simp] theorem Strand.wake_stopDue (t : Strand) : t.wake.stopDue = t.stopDue := by
  unfold Strand.wake; split <;> rfl
@[simp] theorem Strand.wake_live (t : Strand) : t.wake.live = t.live := by
  unfold Strand.wake; split <;> rfl
@[simp] theorem Strand.wake_safe (t : Strand) : t.wake.safe = t.safe := by
  unfold Strand.wake; split <;> rfl
@[simp] theorem Strand.wake_came (t : Strand) : t.wake.came = t.came := by
  unfold Strand.wake; split <;> rfl

@[simp] theorem State.setX_cur (s : State) (r : Reg) (w : Word) : (s.setX r w).cur = s.cur.putX r w := rfl
@[simp] theorem State.setV_cur (s : State) (r : Reg) (w : VReg) : (s.setV r w).cur = s.cur.putV r w := rfl
@[simp] theorem State.setP_cur (s : State) (r : BitVec 3) (w : Quad) : (s.setP r w).cur = s.cur.putP r w := rfl
@[simp] theorem State.setK_cur (s : State) (r : BitVec 4) (w : Quad) : (s.setK r w).cur = s.cur.putK r w := rfl
@[simp] theorem State.emptyX_cur (s : State) (r : Reg) : (s.emptyX r).cur = s.cur.emptyX r := rfl
@[simp] theorem State.emptyV_cur (s : State) (r : Reg) : (s.emptyV r).cur = s.cur.emptyV r := rfl
@[simp] theorem State.advance_cur_sid (s : State) : s.advance.cur.sid = s.cur.sid := rfl
@[simp] theorem State.advance_cur_mode (s : State) : s.advance.cur.mode = s.cur.mode := rfl
@[simp] theorem State.advance_cur_core (s : State) : s.advance.cur.core = s.cur.core := rfl
@[simp] theorem State.advance_cur_slot (s : State) : s.advance.cur.slot = s.cur.slot := rfl
@[simp] theorem State.advance_cur_hw (s : State) : s.advance.cur.hw = s.cur.hw := rfl
@[simp] theorem State.advance_cur_troupe (s : State) : s.advance.cur.troupe = s.cur.troupe := rfl
@[simp] theorem State.advance_cur_x (s : State) : s.advance.cur.x = s.cur.x := rfl
@[simp] theorem State.advance_cur_v (s : State) : s.advance.cur.v = s.cur.v := rfl
@[simp] theorem State.advance_cur_p (s : State) : s.advance.cur.p = s.cur.p := rfl
@[simp] theorem State.advance_cur_k (s : State) : s.advance.cur.k = s.cur.k := rfl
@[simp] theorem State.advance_cur_xfull (s : State) : s.advance.cur.xfull = s.cur.xfull := rfl
@[simp] theorem State.advance_cur_vfull (s : State) : s.advance.cur.vfull = s.cur.vfull := rfl
@[simp] theorem State.advance_cur_sr (s : State) : s.advance.cur.sr = s.cur.sr := rfl
@[simp] theorem State.advance_cur_tx (s : State) : s.advance.cur.tx = s.cur.tx := rfl
@[simp] theorem State.advance_cur_skip (s : State) : s.advance.cur.skip = s.cur.skip := rfl
@[simp] theorem State.advance_cur_yield (s : State) : s.advance.cur.yield = s.cur.yield := rfl
@[simp] theorem State.advance_cur_pend (s : State) : s.advance.cur.pend = s.cur.pend := rfl
@[simp] theorem State.advance_cur_cancelDue (s : State) : s.advance.cur.cancelDue = s.cur.cancelDue := rfl
@[simp] theorem State.advance_cur_cancelTaken (s : State) : s.advance.cur.cancelTaken = s.cur.cancelTaken := rfl
@[simp] theorem State.advance_cur_stopDue (s : State) : s.advance.cur.stopDue = s.cur.stopDue := rfl
@[simp] theorem State.advance_cur_live (s : State) : s.advance.cur.live = s.cur.live := rfl
@[simp] theorem State.jump_cur_sid (s : State) (p : Word) : (s.jump p).cur.sid = s.cur.sid := rfl
@[simp] theorem State.jump_cur_mode (s : State) (p : Word) : (s.jump p).cur.mode = s.cur.mode := rfl
@[simp] theorem State.jump_cur_core (s : State) (p : Word) : (s.jump p).cur.core = s.cur.core := rfl
@[simp] theorem State.jump_cur_slot (s : State) (p : Word) : (s.jump p).cur.slot = s.cur.slot := rfl
@[simp] theorem State.jump_cur_hw (s : State) (p : Word) : (s.jump p).cur.hw = s.cur.hw := rfl
@[simp] theorem State.jump_cur_troupe (s : State) (p : Word) : (s.jump p).cur.troupe = s.cur.troupe := rfl
@[simp] theorem State.jump_cur_x (s : State) (p : Word) : (s.jump p).cur.x = s.cur.x := rfl
@[simp] theorem State.jump_cur_v (s : State) (p : Word) : (s.jump p).cur.v = s.cur.v := rfl
@[simp] theorem State.jump_cur_p (s : State) (p : Word) : (s.jump p).cur.p = s.cur.p := rfl
@[simp] theorem State.jump_cur_k (s : State) (p : Word) : (s.jump p).cur.k = s.cur.k := rfl
@[simp] theorem State.jump_cur_xfull (s : State) (p : Word) : (s.jump p).cur.xfull = s.cur.xfull := rfl
@[simp] theorem State.jump_cur_vfull (s : State) (p : Word) : (s.jump p).cur.vfull = s.cur.vfull := rfl
@[simp] theorem State.jump_cur_sr (s : State) (p : Word) : (s.jump p).cur.sr = s.cur.sr := rfl
@[simp] theorem State.jump_cur_tx (s : State) (p : Word) : (s.jump p).cur.tx = s.cur.tx := rfl
@[simp] theorem State.jump_cur_skip (s : State) (p : Word) : (s.jump p).cur.skip = s.cur.skip := rfl
@[simp] theorem State.jump_cur_yield (s : State) (p : Word) : (s.jump p).cur.yield = s.cur.yield := rfl
@[simp] theorem State.jump_cur_pend (s : State) (p : Word) : (s.jump p).cur.pend = s.cur.pend := rfl
@[simp] theorem State.jump_cur_cancelDue (s : State) (p : Word) : (s.jump p).cur.cancelDue = s.cur.cancelDue := rfl
@[simp] theorem State.jump_cur_cancelTaken (s : State) (p : Word) : (s.jump p).cur.cancelTaken = s.cur.cancelTaken := rfl
@[simp] theorem State.jump_cur_stopDue (s : State) (p : Word) : (s.jump p).cur.stopDue = s.cur.stopDue := rfl
@[simp] theorem State.jump_cur_live (s : State) (p : Word) : (s.jump p).cur.live = s.cur.live := rfl
@[simp] theorem State.waitFor_cur_sid (s : State) (w : Wait) : (s.waitFor w).cur.sid = s.cur.sid := rfl
@[simp] theorem State.waitFor_cur_mode (s : State) (w : Wait) : (s.waitFor w).cur.mode = s.cur.mode := rfl
@[simp] theorem State.waitFor_cur_core (s : State) (w : Wait) : (s.waitFor w).cur.core = s.cur.core := rfl
@[simp] theorem State.waitFor_cur_slot (s : State) (w : Wait) : (s.waitFor w).cur.slot = s.cur.slot := rfl
@[simp] theorem State.waitFor_cur_hw (s : State) (w : Wait) : (s.waitFor w).cur.hw = s.cur.hw := rfl
@[simp] theorem State.waitFor_cur_troupe (s : State) (w : Wait) : (s.waitFor w).cur.troupe = s.cur.troupe := rfl
@[simp] theorem State.waitFor_cur_pc (s : State) (w : Wait) : (s.waitFor w).cur.pc = s.cur.pc := rfl
@[simp] theorem State.waitFor_cur_x (s : State) (w : Wait) : (s.waitFor w).cur.x = s.cur.x := rfl
@[simp] theorem State.waitFor_cur_v (s : State) (w : Wait) : (s.waitFor w).cur.v = s.cur.v := rfl
@[simp] theorem State.waitFor_cur_p (s : State) (w : Wait) : (s.waitFor w).cur.p = s.cur.p := rfl
@[simp] theorem State.waitFor_cur_k (s : State) (w : Wait) : (s.waitFor w).cur.k = s.cur.k := rfl
@[simp] theorem State.waitFor_cur_xfull (s : State) (w : Wait) : (s.waitFor w).cur.xfull = s.cur.xfull := rfl
@[simp] theorem State.waitFor_cur_vfull (s : State) (w : Wait) : (s.waitFor w).cur.vfull = s.cur.vfull := rfl
@[simp] theorem State.waitFor_cur_sr (s : State) (w : Wait) : (s.waitFor w).cur.sr = s.cur.sr := rfl
@[simp] theorem State.waitFor_cur_tx (s : State) (w : Wait) : (s.waitFor w).cur.tx = s.cur.tx := rfl
@[simp] theorem State.waitFor_cur_blocked (s : State) (w : Wait) : (s.waitFor w).cur.blocked = s.cur.blocked := rfl
@[simp] theorem State.waitFor_cur_yield (s : State) (w : Wait) : (s.waitFor w).cur.yield = s.cur.yield := rfl
@[simp] theorem State.waitFor_cur_pend (s : State) (w : Wait) : (s.waitFor w).cur.pend = s.cur.pend := rfl
@[simp] theorem State.waitFor_cur_cancelDue (s : State) (w : Wait) : (s.waitFor w).cur.cancelDue = s.cur.cancelDue := rfl
@[simp] theorem State.waitFor_cur_cancelTaken (s : State) (w : Wait) : (s.waitFor w).cur.cancelTaken = s.cur.cancelTaken := rfl
@[simp] theorem State.waitFor_cur_stopDue (s : State) (w : Wait) : (s.waitFor w).cur.stopDue = s.cur.stopDue := rfl
@[simp] theorem State.waitFor_cur_live (s : State) (w : Wait) : (s.waitFor w).cur.live = s.cur.live := rfl
@[simp] theorem State.waitFor_cur_safe (s : State) (w : Wait) : (s.waitFor w).cur.safe = false := rfl
@[simp] theorem State.waitFor_cur_came (s : State) (w : Wait) : (s.waitFor w).cur.came = s.cur.came := rfl
@[simp] theorem State.notReady_cur_sid (s : State) : s.notReady.cur.sid = s.cur.sid := rfl
@[simp] theorem State.notReady_cur_mode (s : State) : s.notReady.cur.mode = s.cur.mode := rfl
@[simp] theorem State.notReady_cur_core (s : State) : s.notReady.cur.core = s.cur.core := rfl
@[simp] theorem State.notReady_cur_slot (s : State) : s.notReady.cur.slot = s.cur.slot := rfl
@[simp] theorem State.notReady_cur_hw (s : State) : s.notReady.cur.hw = s.cur.hw := rfl
@[simp] theorem State.notReady_cur_troupe (s : State) : s.notReady.cur.troupe = s.cur.troupe := rfl
@[simp] theorem State.notReady_cur_pc (s : State) : s.notReady.cur.pc = s.cur.pc := rfl
@[simp] theorem State.notReady_cur_x (s : State) : s.notReady.cur.x = s.cur.x := rfl
@[simp] theorem State.notReady_cur_v (s : State) : s.notReady.cur.v = s.cur.v := rfl
@[simp] theorem State.notReady_cur_p (s : State) : s.notReady.cur.p = s.cur.p := rfl
@[simp] theorem State.notReady_cur_k (s : State) : s.notReady.cur.k = s.cur.k := rfl
@[simp] theorem State.notReady_cur_xfull (s : State) : s.notReady.cur.xfull = s.cur.xfull := rfl
@[simp] theorem State.notReady_cur_vfull (s : State) : s.notReady.cur.vfull = s.cur.vfull := rfl
@[simp] theorem State.notReady_cur_sr (s : State) : s.notReady.cur.sr = s.cur.sr := rfl
@[simp] theorem State.notReady_cur_tx (s : State) : s.notReady.cur.tx = s.cur.tx := rfl
@[simp] theorem State.notReady_cur_wait (s : State) : s.notReady.cur.wait = s.cur.wait := rfl
@[simp] theorem State.notReady_cur_skip (s : State) : s.notReady.cur.skip = s.cur.skip := rfl
@[simp] theorem State.notReady_cur_blocked (s : State) : s.notReady.cur.blocked = s.cur.blocked := rfl
@[simp] theorem State.notReady_cur_yield (s : State) : s.notReady.cur.yield = s.cur.yield := rfl
@[simp] theorem State.notReady_cur_pend (s : State) : s.notReady.cur.pend = s.cur.pend := rfl
@[simp] theorem State.notReady_cur_cancelDue (s : State) : s.notReady.cur.cancelDue = s.cur.cancelDue := rfl
@[simp] theorem State.notReady_cur_cancelTaken (s : State) : s.notReady.cur.cancelTaken = s.cur.cancelTaken := rfl
@[simp] theorem State.notReady_cur_stopDue (s : State) : s.notReady.cur.stopDue = s.cur.stopDue := rfl
@[simp] theorem State.notReady_cur_live (s : State) : s.notReady.cur.live = s.cur.live := rfl
@[simp] theorem State.notReady_cur_safe (s : State) : s.notReady.cur.safe = s.cur.safe := rfl
@[simp] theorem State.notReady_cur_came (s : State) : s.notReady.cur.came = s.cur.came := rfl
@[simp] theorem State.advance_cur_pc (s : State) : s.advance.cur.pc = s.nextPc := rfl
@[simp] theorem State.jump_cur_pc (s : State) (p : Word) : (s.jump p).cur.pc = p := rfl

/-! ### Registers: a read after a write -/

/-- x0 reads 0 and ignores a write (R208). -/
theorem Strand.getX_zero (t : Strand) : t.getX 0 = 0 := rfl
theorem Strand.putX_zero (t : Strand) (w : Word) : t.putX 0 w = t := rfl

theorem Strand.getX_putX_same (t : Strand) (r : Reg) (w : Word) (h : r ≠ 0) : (t.putX r w).getX r = w := by
  unfold Strand.getX Strand.putX
  rw [if_neg h, if_neg h]
  exact Vector.getElem_set_self _

theorem Strand.getX_putX_other (t : Strand) (r q : Reg) (w : Word) (h : q ≠ r) : (t.putX r w).getX q = t.getX q := by
  have hn : r.toNat ≠ q.toNat := fun e => h (BitVec.eq_of_toNat_eq e.symm)
  unfold Strand.getX Strand.putX
  by_cases hq : q = 0
  · rw [if_pos hq, if_pos hq]
  · rw [if_neg hq, if_neg hq]
    by_cases hr : r = 0
    · rw [if_pos hr]
    · rw [if_neg hr]
      exact Vector.getElem_set_ne r.isLt q.isLt hn

theorem Strand.getV_putV_same (t : Strand) (r : Reg) (w : VReg) : (t.putV r w).getV r = w := by
  simp [Strand.getV, Strand.putV]

theorem Strand.getV_putV_other (t : Strand) (r q : Reg) (w : VReg) (h : q ≠ r) : (t.putV r w).getV q = t.getV q := by
  have hn : r.toNat ≠ q.toNat := fun e => h (BitVec.eq_of_toNat_eq e.symm)
  simp [Strand.getV, Strand.putV, hn]

theorem Strand.getP_putP_same (t : Strand) (r : BitVec 3) (w : Quad) (h : r ≠ 0) : (t.putP r w).getP r = w := by
  unfold Strand.getP Strand.putP
  rw [if_neg h, if_neg h]
  exact Vector.getElem_set_self _

theorem Strand.getP_putP_other (t : Strand) (r q : BitVec 3) (w : Quad) (h : q ≠ r) : (t.putP r w).getP q = t.getP q := by
  have hn : r.toNat ≠ q.toNat := fun e => h (BitVec.eq_of_toNat_eq e.symm)
  unfold Strand.getP Strand.putP
  by_cases hq : q = 0
  · rw [if_pos hq, if_pos hq]
  · rw [if_neg hq, if_neg hq]
    by_cases hr : r = 0
    · rw [if_pos hr]
    · rw [if_neg hr]
      exact Vector.getElem_set_ne r.isLt q.isLt hn

theorem Strand.getK_putK_same (t : Strand) (r : BitVec 4) (w : Quad) : (t.putK r w).getK r = w := by
  simp [Strand.getK, Strand.putK]

theorem Strand.getK_putK_other (t : Strand) (r q : BitVec 4) (w : Quad) (h : q ≠ r) : (t.putK r w).getK q = t.getK q := by
  have hn : r.toNat ≠ q.toNat := fun e => h (BitVec.eq_of_toNat_eq e.symm)
  simp [Strand.getK, Strand.putK, hn]

end Sys2Proof.Machine
end

