-- ==== Sys2Proof/Laws/Ops.lean ====
section
/-! SUPPORT. What each shared operation can do, said once, so that later proofs cite it and do not unfold it. -/

namespace Sys2Proof.Machine

/-! ### The program counter -/

theorem State.advance_eq (s : State) : s.advance = s.wentOn := rfl

theorem State.jump_eq (s : State) (p : Word) : s.jump p = s.wentTo p s.cur.pc := rfl

theorem State.setX_advance (s : State) (d : Reg) (v : Word) : (s.setX d v).advance = s.wrote d v := rfl

theorem State.setP_advance (s : State) (d : BitVec 3) (v : Quad) : (s.setP d v).advance = s.wroteP d v := rfl

theorem State.target_eq (s : State) (off : Word) : s.target off = s.relative off := by
  unfold State.target State.relative
  congr 1
  bv_omega

/-! ### The check of the registers before an instruction issues (R42, R216) -/

/-- An operand all of whose registers are full has no empty one. -/
theorem Strand.emptyOf_full (t : Strand) (q : Src) (h : ∀ r ∈ q.regs, t.full q.vec r = true) : t.emptyOf q = none := by
  unfold Strand.emptyOf
  rw [List.find?_eq_none]
  intro r hr
  simp [h r hr]

/-- Whether every register read and every register written is full. -/
def Strand.ready (t : Strand) (reads : List Src) (writes : List Dst) : Prop :=
  (∀ q ∈ reads, ∀ r ∈ q.regs, t.full q.vec r = true) ∧ ∀ q ∈ writes, ∀ r ∈ q.regs, t.full q.vec r = true

/-- A strand all of whose registers are full is not held back. -/
theorem Strand.lacks_full {t : Strand} {reads : List Src} {writes : List Dst} (h : t.ready reads writes) :
    t.lacks reads writes = false := by
  unfold Strand.lacks
  rw [Bool.or_eq_false_iff, List.any_eq_false, List.any_eq_false]
  constructor
  · intro q hq
    rw [List.any_eq_true]
    rintro ⟨r, hr, h'⟩
    simp [h.1 q hq r hr] at h'
  · intro q hq
    rw [List.any_eq_true]
    rintro ⟨r, hr, h'⟩
    simp [h.2 q hq r hr] at h'

/-- With every register full the check lets the instruction issue. -/
theorem gate_ready (s : State) (reads : List Src) (writes : List Dst)
    (hr : ∀ q ∈ reads, ∀ r ∈ q.regs, s.cur.full q.vec r = true)
    (hw : ∀ q ∈ writes, ∀ r ∈ q.regs, s.cur.full q.vec r = true) : gate s reads writes = none := by
  have hf : reads.find? (fun q => q.trap && (s.cur.emptyOf q).isSome) = none := by
    rw [List.find?_eq_none]
    intro q hq
    simp [Strand.emptyOf_full s.cur q (hr q hq)]
  unfold gate
  rw [Strand.lacks_full ⟨hr, hw⟩, hf]
  rfl

/-- What the check can do: make a strand that is not ready wait, raise EMPTY_REG for the first operand with its trap bit that has
an empty register, or let the instruction issue. -/
theorem gate_cases (s : State) (reads : List Src) (writes : List Dst) :
    (s.cur.lacks reads writes = true ∧ gate s reads writes = some (s.waitFor .empty))
    ∨ (s.cur.lacks reads writes = false ∧ ∃ q ∈ reads, q.trap = true ∧ (s.cur.emptyOf q).isSome = true
      ∧ gate s reads writes = some (s.trap .emptyReg
        (BitVec.ofNat 64 (q.op + q.vec.toNat * 2 ^ 8 + ((s.cur.emptyOf q).getD 0).toNat * 2 ^ 16)) 0 0 0))
    ∨ (s.cur.lacks reads writes = false ∧ gate s reads writes = none) := by
  unfold gate
  cases hb : s.cur.lacks reads writes with
  | true => exact .inl ⟨rfl, rfl⟩
  | false =>
    cases hf : reads.find? (fun q => q.trap && (s.cur.emptyOf q).isSome) with
    | some q =>
      have hq := List.find?_some hf
      rw [Bool.and_eq_true] at hq
      exact .inr (.inl ⟨rfl, q, List.mem_of_find?_eq_some hf, hq.1, hq.2, rfl⟩)
    | none => exact .inr (.inr ⟨rfl, rfl⟩)

theorem withRegs_ready (s : State) (reads : List Src) (writes : List Dst) (k : State → State)
    (hr : ∀ q ∈ reads, ∀ r ∈ q.regs, s.cur.full q.vec r = true)
    (hw : ∀ q ∈ writes, ∀ r ∈ q.regs, s.cur.full q.vec r = true) : withRegs s reads writes k = .next (k s) := by
  unfold withRegs
  rw [gate_ready s reads writes hr hw]
  rfl

/-- An instruction never ends the run at the check. -/
theorem withRegs_next (s : State) (reads : List Src) (writes : List Dst) (k : State → State) :
    ∃ t, withRegs s reads writes k = .next t := ⟨_, rfl⟩

/-! ### Shapes of scalar instructions -/

theorem rrr_ready (o : RRR) (f : Word → Word → Word) (s : State) (ha : s.readyX o.a) (hb : s.readyX o.b) (hd : s.readyX o.d) :
    rrr o f s = .next (s.wrote o.d (f (s.x o.a) (s.x o.b))) := by
  unfold rrr
  rw [withRegs_ready]
  · rfl
  · simp [rx, Strand.full]; exact ⟨ha, hb⟩
  · simp [wx, Strand.full]; exact hd

theorem rr_ready (o : RR) (f : Word → Word) (s : State) (ha : s.readyX o.a) (hd : s.readyX o.d) :
    rr o f s = .next (s.wrote o.d (f (s.x o.a))) := by
  unfold rr
  rw [withRegs_ready]
  · rfl
  · simp [rx, Strand.full]; exact ha
  · simp [wx, Strand.full]; exact hd

theorem ri_ready (o : RI) (f : Word → Word → Word) (s : State) (ha : s.readyX o.a) (hd : s.readyX o.d) :
    ri o f s = .next (s.wrote o.d (f (s.x o.a) o.imm)) := by
  unfold ri
  rw [withRegs_ready]
  · rfl
  · simp [rx, Strand.full]; exact ha
  · simp [wx, Strand.full]; exact hd

/-! ### Counting (R370) -/

/-- An instruction without an event only moves on. -/
theorem State.advanceCounting_nil (s : State) (fa fb : Nat) : s.advanceCounting [] fa fb = s.wentOn := rfl

/-- Without a limit no counter is crossed. -/
theorem crossed_noLimits (u : Troupe) (evs : List Ev) (h : ∀ i : Fin 5, u.alimit[i] = 0) : crossed u evs = [] := by
  unfold crossed
  rw [List.filter_eq_nil_iff]
  intro i _
  have e := h i
  simp only [Fin.getElem_fin] at e
  simp [crosses, e]

/-! ### Traps (R358, R359, R382) -/

/-- Whether a trap taken by a strand stops its job (R359): its cause is fatal, the strand is in a handler, or there is none. -/
abbrev State.stopsJob (s : State) (c : Cause) : Prop :=
  c.fatal = true ∨ s.cur.busy = true ∨ (s.myJob.tvec = 0 ∧ c ≠ .cancel)

/-- Outside a transaction a trap that does not stop the job is delivered to the handler. -/
theorem State.takeTrap_delivers (s : State) (async : Bool) (c : Cause) (c0 c1 c2 c3 epc : Word) (hf : c.fatal = false)
    (hb : s.cur.busy = false) (hv : s.myJob.tvec ≠ 0) (hx : s.cur.tx.depth = 0) :
    s.takeTrap async c c0 c1 c2 c3 epc = s.deliver async c c0 c1 c2 c3 epc := by
  have hv2 : (s.myJob.tvec == 0) = false := beq_false_of_ne hv
  unfold State.takeTrap
  simp only [hf, hb, hv2, hx, Bool.false_and, Bool.or_false, Bool.false_eq_true, if_false, if_true, if_neg hv]

/-- A trap that stops the job leaves a fault report. -/
theorem State.takeTrap_stops (s : State) (async : Bool) (c : Cause) (c0 c1 c2 c3 epc : Word) (h : s.stopsJob c) :
    ∃ flags at', s.takeTrap async c c0 c1 c2 c3 epc = s.stopFor s.cur flags async c c0 c1 c2 c3 at' := by
  have hc : (c.fatal || s.cur.busy || (s.myJob.tvec == 0 && c != .cancel)) = true := by
    rcases h with h | h | ⟨h, h'⟩ <;> simp [*]
  unfold State.takeTrap
  simp only [hc, if_true]
  exact ⟨_, _, rfl⟩

/-- A return goes to %epc, or raises MISALIGN when bit 0 of %epc is set (R361). -/
theorem State.returnTrap_cases (s : State) :
    (targetOk s.cur.sr.epc = true ∧ s.returnTrap.cur.pc = s.cur.sr.epc ∧ s.returnTrap.rest = s.rest ∧ s.returnTrap.mem = s.mem)
    ∨ (targetOk s.cur.sr.epc = false ∧ s.returnTrap = s.spaceTrap .misalign s.cur.sr.epc accJump 2) := by
  unfold State.returnTrap
  cases h : targetOk s.cur.sr.epc with
  | true => simp only [h, if_true]; exact .inl ⟨trivial, rfl, rfl, rfl⟩
  | false => simp only [h, Bool.false_eq_true, if_false]; exact .inr ⟨trivial, trivial⟩

/-! ### Pointers (R233, R374) -/

theorem passes_one (s : State) (n : Nat) (r w : Bool) (p : Word) (a : Nat) (e : Option TlbEntry) (h0 : ptrOff p % n = 0)
    (h1 : lookup s s.myBay s.myTroupe.job p n r w false = .good a e) : passes s n r w [p] (s.cacheEntry e) [a] :=
  ⟨a, e, [], h0, h1, rfl, rfl, rfl⟩

/-- An access that passes its checks goes on at its physical address. -/
theorem State.checked_passes (s t : State) (p : Word) (n acc a : Nat) (r w reach : Bool) (k : State → Nat → State)
    (hr : reach = true) (h4 : ptrSpace p ≠ 4) (h : passes s n r w [p] t [a]) : s.checked p n n acc r w reach k = k t a := by
  obtain ⟨a', e, as', h0, h1, h2, h3, h5⟩ := h
  obtain ⟨rfl, rfl⟩ := List.cons.inj h2
  subst hr h3
  unfold State.checked
  simp only [h0, h1, h4, ne_eq, not_true_eq_false, if_false, Bool.not_true, Bool.false_eq_true]

/-- A misaligned pointer is the first check to fail (R366, R374). -/
theorem State.checked_misaligned (s : State) (p : Word) (al n acc : Nat) (r w reach : Bool) (k : State → Nat → State)
    (h : ptrOff p % al ≠ 0) : s.checked p al n acc r w reach k = s.spaceTrap .misalign p acc n := by
  unfold State.checked
  rw [if_pos h]

/-! ### A step -/

/-- What a step can do: run an instruction or a step of the device, only move the model on, or stop. -/
theorem step_cases (s : State) :
    (∃ i t, planNext s = .run i t ∧ step s = exec i t) ∨ (∃ t, planNext s = .done t ∧ step s = .next t)
    ∨ (∃ f, planNext s = .stop f ∧ step s = .fault f) := by
  unfold step
  cases planNext s with
  | run i t => exact .inl ⟨i, t, rfl, rfl⟩
  | done t => exact .inr (.inl ⟨t, rfl, rfl⟩)
  | stop f => exact .inr (.inr ⟨f, rfl, rfl⟩)

end Sys2Proof.Machine
end

