-- ==== Sys2Proof/Laws/PerInstr.lean ====
section
/-! SUPPORT. What holds of every instruction as syntax: the last word of its encoding is an operation word (R199, R200). -/

namespace Sys2Proof.Laws

/-- Every word builder puts its operation number in place. -/
@[simp] theorem rRIg_op (fits5 : Bool) (page op : Nat) (o : RI) : (rRIg fits5 page op o).op = op := by
  unfold rRIg; split <;> rfl

@[simp] theorem rAT_op (page op : Nat) (o : AT) : (rAT page op o).op = op := by
  rfl

@[simp] theorem rAmor_op (page op : Nat) (o : AmorOp) : (rAmor page op o).op = op := by
  rfl

@[simp] theorem rBC_op (page op : Nat) (o : BC) : (rBC page op o).op = op := by
  rfl

@[simp] theorem rBF_op (page op : Nat) (o : BFOp) : (rBF page op o).op = op := by
  rfl

@[simp] theorem rBZ_op (page op : Nat) (o : BZ) : (rBZ page op o).op = op := by
  rfl

@[simp] theorem rCpy_op (page op : Nat) (o : CpyOp) : (rCpy page op o).op = op := by
  rfl

@[simp] theorem rCpyc_op (page op : Nat) (o : CpycOp) : (rCpyc page op o).op = op := by
  rfl

@[simp] theorem rCpyr_op (page op : Nat) (o : CpyrOp) : (rCpyr page op o).op = op := by
  rfl

@[simp] theorem rCpyx_op (page op : Nat) (o : CpyIdxOp) : (rCpyx page op o).op = op := by
  rfl

@[simp] theorem rCvt_op (kreg : Bool) (page op : Nat) (o : CvtOp) : (rCvt kreg page op o).op = op := by
  rfl

@[simp] theorem rD_op (page op : Nat) (d : Reg) : (rD page op d).op = op := by
  rfl

@[simp] theorem rF_op (page op : Nat) (o : FOp) : (rF page op o).op = op := by
  unfold rF; split <;> rfl

@[simp] theorem rFcmp_op (page op : Nat) (o : FCmpOp) : (rFcmp page op o).op = op := by
  rfl

@[simp] theorem rFred_op (page op : Nat) (o : FRedOp) : (rFred page op o).op = op := by
  rfl

@[simp] theorem rFun_op (page op : Nat) (o : FUnOp) : (rFun page op o).op = op := by
  rfl

@[simp] theorem rIM_op (page op : Nat) (o : IM) : (rIM page op o).op = op := by
  rfl

@[simp] theorem rIMu_op (page op : Nat) (o : IM) : (rIMu page op o).op = op := by
  unfold rIMu; split <;> rfl

@[simp] theorem rMEM_op (page op : Nat) (o : MEM) : (rMEM page op o).op = op := by
  rfl

@[simp] theorem rMma_op (page op : Nat) (o : MmaOp) : (rMma page op o).op = op := by
  rfl

@[simp] theorem rMsg_op (chunk : Bool) (page op : Nat) (o : MsgOp) : (rMsg chunk page op o).op = op := by
  rfl

@[simp] theorem rN_op (page op : Nat) : (rN page op).op = op := by
  rfl

@[simp] theorem rPutr_op (page op : Nat) (o : PutOp) : (rPutr page op o).op = op := by
  rfl

@[simp] theorem rPutv_op (page op : Nat) (o : PutOp) : (rPutv page op o).op = op := by
  rfl

@[simp] theorem rRI_op (page op : Nat) (o : RI) : (rRI page op o).op = op := by
  simp [rRI]

@[simp] theorem rRIu_op (page op : Nat) (o : RI) : (rRIu page op o).op = op := by
  simp [rRIu]

@[simp] theorem rRR_op (page op : Nat) (o : RR) : (rRR page op o).op = op := by
  rfl

@[simp] theorem rRRR_op (page op : Nat) (o : RRR) : (rRRR page op o).op = op := by
  unfold rRRR; split <;> rfl

@[simp] theorem rRW_op (stale : Bool) (page op : Nat) (o : RW) : (rRW stale page op o).op = op := by
  rfl

@[simp] theorem rResume_op (page op : Nat) (o : ResumeOp) : (rResume page op o).op = op := by
  rfl

@[simp] theorem rSys_op (page op : Nat) (o : SysOp) : (rSys page op o).op = op := by
  rfl

@[simp] theorem rSyscall_op (page op : Nat) (o : SyscallOp) : (rSyscall page op o).op = op := by
  unfold rSyscall; split <;> rfl

@[simp] theorem rV_op (page op : Nat) (o : VOp) : (rV page op o).op = op := by
  unfold rV; split <;> rfl

@[simp] theorem rVcmp_op (page op : Nat) (o : VCmpOp) : (rVcmp page op o).op = op := by
  rfl

@[simp] theorem rVidx_op (ctl : Bool) (page op : Nat) (o : VIdxOp) : (rVidx ctl page op o).op = op := by
  rfl

@[simp] theorem rVmov_op (idx : Bool) (page op : Nat) (o : VMovOp) : (rVmov idx page op o).op = op := by
  rfl

@[simp] theorem rVpack_op (page op : Nat) (o : CvtOp) : (rVpack page op o).op = op := by
  unfold rVpack; split <;> rfl

@[simp] theorem rVred_op (page op : Nat) (o : VRedOp) : (rVred page op o).op = op := by
  rfl

@[simp] theorem rVshuf_op (page op : Nat) (o : VCmpOp) : (rVshuf page op o).op = op := by
  rfl

@[simp] theorem rZred_op (page op : Nat) (o : ZRedOp) : (rZred page op o).op = op := by
  rfl

@[simp] theorem rZscale_op (page op : Nat) (o : ZScaleOp) : (rZscale page op o).op = op := by
  rfl

/-- The last word of a group is its operation word, and an operation number below 56 is no prefix. -/
theorem last_word (r : Raw) (h : r.op < 56) (w : Half) (hw : r.words.getLast? = some w) : isPrefixWord w = false := by
  have e : w = (BitVec.ofNat 6 r.op ++ r.d ++ r.s : BitVec 16) := by
    simpa [Raw.words] using hw.symm
  subst e
  have key : ∀ o : Fin 56, (BitVec.ofNat 6 o.val).extractLsb' 3 3 ≠ 7#3 := by decide
  have k := key ⟨r.op, h⟩
  have e2 : (BitVec.ofNat 6 r.op ++ r.d ++ r.s : BitVec 16).extractLsb' 13 3 = (BitVec.ofNat 6 r.op).extractLsb' 3 3 := by
    apply BitVec.eq_of_getElem_eq
    intro i hi
    simp only [BitVec.getElem_extractLsb', BitVec.getLsbD_append]
    have a : ¬ 13 + i < 5 := by omega
    have b : ¬ 13 + i - 5 < 5 := by omega
    have c : 13 + i - 5 - 5 = 3 + i := by omega
    simp [a, b, c]
  unfold isPrefixWord
  rw [e2]
  exact beq_false_of_ne k

/-- An encoding, where there is one, ends in an operation word. -/
def Encodes.Statement (i : Instr) : Prop := ∀ w : Half, (encode i).getLast? = some w → isPrefixWord w = false

theorem encodes_of_raw (i : Instr) (r : Raw) (hr : i.raw = some r) (h : r.op < 56) : Encodes.Statement i := by
  intro w hw
  unfold encode at hw
  rw [hr] at hw
  exact last_word r h w hw

theorem encodes_of_none (i : Instr) (hr : i.raw = none) : Encodes.Statement i := by
  intro w hw
  unfold encode at hw
  rw [hr] at hw
  exact absurd hw (by simp)

theorem Encodes.mov (o : RR) : Encodes.Statement (.mov o) :=
  encodes_of_raw _ _ rfl (by simp)
theorem Encodes.movi (o : IM) : Encodes.Statement (.movi o) :=
  encodes_of_raw _ _ rfl (by simp)
theorem Encodes.add (o : RRR) : Encodes.Statement (.add o) :=
  encodes_of_raw _ _ rfl (by simp)
theorem Encodes.addImm (o : RI) : Encodes.Statement (.addImm o) :=
  encodes_of_raw _ _ rfl (by simp)
theorem Encodes.sub (o : RRR) : Encodes.Statement (.sub o) :=
  encodes_of_raw _ _ rfl (by simp)
theorem Encodes.neg (o : RR) : Encodes.Statement (.neg o) :=
  encodes_of_raw _ _ rfl (by simp)
theorem Encodes.mul (o : RRR) : Encodes.Statement (.mul o) :=
  encodes_of_raw _ _ rfl (by simp)
theorem Encodes.mulImm (o : RI) : Encodes.Statement (.mulImm o) :=
  encodes_of_raw _ _ rfl (by simp)
theorem Encodes.mulh (o : RRR) : Encodes.Statement (.mulh o) :=
  encodes_of_raw _ _ rfl (by simp)
theorem Encodes.mulhn (o : RRR) : Encodes.Statement (.mulhn o) :=
  encodes_of_raw _ _ rfl (by simp)
theorem Encodes.div (o : RRR) : Encodes.Statement (.div o) :=
  encodes_of_raw _ _ rfl (by simp)
theorem Encodes.divn (o : RRR) : Encodes.Statement (.divn o) :=
  encodes_of_raw _ _ rfl (by simp)
theorem Encodes.rem (o : RRR) : Encodes.Statement (.rem o) :=
  encodes_of_raw _ _ rfl (by simp)
theorem Encodes.remn (o : RRR) : Encodes.Statement (.remn o) :=
  encodes_of_raw _ _ rfl (by simp)
theorem Encodes.abs (o : RR) : Encodes.Statement (.abs o) :=
  encodes_of_raw _ _ rfl (by simp)
theorem Encodes.min (o : RRR) : Encodes.Statement (.min o) :=
  encodes_of_raw _ _ rfl (by simp)
theorem Encodes.max (o : RRR) : Encodes.Statement (.max o) :=
  encodes_of_raw _ _ rfl (by simp)
theorem Encodes.minn (o : RRR) : Encodes.Statement (.minn o) :=
  encodes_of_raw _ _ rfl (by simp)
theorem Encodes.maxn (o : RRR) : Encodes.Statement (.maxn o) :=
  encodes_of_raw _ _ rfl (by simp)
theorem Encodes.br (o : BZ) : Encodes.Statement (.br o) :=
  encodes_of_raw _ _ rfl (by simp)
theorem Encodes.beqz (o : BZ) : Encodes.Statement (.beqz o) :=
  encodes_of_raw _ _ rfl (by simp)
theorem Encodes.bnez (o : BZ) : Encodes.Statement (.bnez o) :=
  encodes_of_raw _ _ rfl (by simp)
theorem Encodes.bltz (o : BZ) : Encodes.Statement (.bltz o) :=
  encodes_of_raw _ _ rfl (by simp)
theorem Encodes.bgez (o : BZ) : Encodes.Statement (.bgez o) :=
  encodes_of_raw _ _ rfl (by simp)
theorem Encodes.beq (o : BC) : Encodes.Statement (.beq o) :=
  encodes_of_raw _ _ rfl (by simp)
theorem Encodes.bne (o : BC) : Encodes.Statement (.bne o) :=
  encodes_of_raw _ _ rfl (by simp)
theorem Encodes.blt (o : BC) : Encodes.Statement (.blt o) :=
  encodes_of_raw _ _ rfl (by simp)
theorem Encodes.bge (o : BC) : Encodes.Statement (.bge o) :=
  encodes_of_raw _ _ rfl (by simp)
theorem Encodes.bltn (o : BC) : Encodes.Statement (.bltn o) :=
  encodes_of_raw _ _ rfl (by simp)
theorem Encodes.bgen (o : BC) : Encodes.Statement (.bgen o) :=
  encodes_of_raw _ _ rfl (by simp)
theorem Encodes.call (o : BZ) : Encodes.Statement (.call o) :=
  encodes_of_raw _ _ rfl (by simp)
theorem Encodes.callr (o : RR) : Encodes.Statement (.callr o) :=
  encodes_of_raw _ _ rfl (by simp)
theorem Encodes.jmpr (o : RR) : Encodes.Statement (.jmpr o) :=
  encodes_of_raw _ _ rfl (by simp)
theorem Encodes.loop (o : BZ) : Encodes.Statement (.loop o) :=
  encodes_of_raw _ _ rfl (by simp)
theorem Encodes.ldS8 (o : MEM) : Encodes.Statement (.ldS8 o) :=
  encodes_of_raw _ _ rfl (by simp)
theorem Encodes.ldS16 (o : MEM) : Encodes.Statement (.ldS16 o) :=
  encodes_of_raw _ _ rfl (by simp)
theorem Encodes.ldS32 (o : MEM) : Encodes.Statement (.ldS32 o) :=
  encodes_of_raw _ _ rfl (by simp)
theorem Encodes.ldS64 (o : MEM) : Encodes.Statement (.ldS64 o) :=
  encodes_of_raw _ _ rfl (by simp)
theorem Encodes.ldzN8 (o : MEM) : Encodes.Statement (.ldzN8 o) :=
  encodes_of_raw _ _ rfl (by simp)
theorem Encodes.ldzN16 (o : MEM) : Encodes.Statement (.ldzN16 o) :=
  encodes_of_raw _ _ rfl (by simp)
theorem Encodes.ldzN32 (o : MEM) : Encodes.Statement (.ldzN32 o) :=
  encodes_of_raw _ _ rfl (by simp)
theorem Encodes.stS8 (o : MEM) : Encodes.Statement (.stS8 o) :=
  encodes_of_raw _ _ rfl (by simp)
theorem Encodes.stS16 (o : MEM) : Encodes.Statement (.stS16 o) :=
  encodes_of_raw _ _ rfl (by simp)
theorem Encodes.stS32 (o : MEM) : Encodes.Statement (.stS32 o) :=
  encodes_of_raw _ _ rfl (by simp)
theorem Encodes.stS64 (o : MEM) : Encodes.Statement (.stS64 o) :=
  encodes_of_raw _ _ rfl (by simp)
theorem Encodes.ldx (o : AT) : Encodes.Statement (.ldx o) :=
  encodes_of_raw _ _ rfl (by simp)
theorem Encodes.stx (o : AT) : Encodes.Statement (.stx o) :=
  encodes_of_raw _ _ rfl (by simp)
theorem Encodes.pref (o : MEM) : Encodes.Statement (.pref o) :=
  encodes_of_raw _ _ rfl (by simp)
theorem Encodes.trap (o : IM) : Encodes.Statement (.trap o) :=
  encodes_of_raw _ _ rfl (by simp)
theorem Encodes.and (o : RRR) : Encodes.Statement (.and o) :=
  encodes_of_raw _ _ rfl (by simp)
theorem Encodes.andImm (o : RI) : Encodes.Statement (.andImm o) :=
  encodes_of_raw _ _ rfl (by simp)
theorem Encodes.or (o : RRR) : Encodes.Statement (.or o) :=
  encodes_of_raw _ _ rfl (by simp)
theorem Encodes.orImm (o : RI) : Encodes.Statement (.orImm o) :=
  encodes_of_raw _ _ rfl (by simp)
theorem Encodes.xor (o : RRR) : Encodes.Statement (.xor o) :=
  encodes_of_raw _ _ rfl (by simp)
theorem Encodes.xorImm (o : RI) : Encodes.Statement (.xorImm o) :=
  encodes_of_raw _ _ rfl (by simp)
theorem Encodes.andn (o : RRR) : Encodes.Statement (.andn o) :=
  encodes_of_raw _ _ rfl (by simp)
theorem Encodes.not (o : RR) : Encodes.Statement (.not o) :=
  encodes_of_raw _ _ rfl (by simp)
theorem Encodes.sll (o : RRR) : Encodes.Statement (.sll o) :=
  encodes_of_raw _ _ rfl (by simp)
theorem Encodes.sllImm (o : RI) : Encodes.Statement (.sllImm o) :=
  encodes_of_raw _ _ rfl (by simp)
theorem Encodes.srl (o : RRR) : Encodes.Statement (.srl o) :=
  encodes_of_raw _ _ rfl (by simp)
theorem Encodes.srlImm (o : RI) : Encodes.Statement (.srlImm o) :=
  encodes_of_raw _ _ rfl (by simp)
theorem Encodes.sra (o : RRR) : Encodes.Statement (.sra o) :=
  encodes_of_raw _ _ rfl (by simp)
theorem Encodes.sraImm (o : RI) : Encodes.Statement (.sraImm o) :=
  encodes_of_raw _ _ rfl (by simp)
theorem Encodes.rol (o : RRR) : Encodes.Statement (.rol o) :=
  encodes_of_raw _ _ rfl (by simp)
theorem Encodes.rolImm (o : RI) : Encodes.Statement (.rolImm o) :=
  encodes_of_raw _ _ rfl (by simp)
theorem Encodes.ror (o : RRR) : Encodes.Statement (.ror o) :=
  encodes_of_raw _ _ rfl (by simp)
theorem Encodes.clz (o : RR) : Encodes.Statement (.clz o) :=
  encodes_of_raw _ _ rfl (by simp)
theorem Encodes.ctz (o : RR) : Encodes.Statement (.ctz o) :=
  encodes_of_raw _ _ rfl (by simp)
theorem Encodes.popc (o : RR) : Encodes.Statement (.popc o) :=
  encodes_of_raw _ _ rfl (by simp)
theorem Encodes.bswap (o : RR) : Encodes.Statement (.bswap o) :=
  encodes_of_raw _ _ rfl (by simp)
theorem Encodes.bext (o : BFOp) : Encodes.Statement (.bext o) :=
  encodes_of_raw _ _ rfl (by simp)
theorem Encodes.bins (o : BFOp) : Encodes.Statement (.bins o) :=
  encodes_of_raw _ _ rfl (by simp)
theorem Encodes.cmpeq (o : RRR) : Encodes.Statement (.cmpeq o) :=
  encodes_of_raw _ _ rfl (by simp)
theorem Encodes.cmpeqImm (o : RI) : Encodes.Statement (.cmpeqImm o) :=
  encodes_of_raw _ _ rfl (by simp)
theorem Encodes.cmpne (o : RRR) : Encodes.Statement (.cmpne o) :=
  encodes_of_raw _ _ rfl (by simp)
theorem Encodes.cmplt (o : RRR) : Encodes.Statement (.cmplt o) :=
  encodes_of_raw _ _ rfl (by simp)
theorem Encodes.cmpltImm (o : RI) : Encodes.Statement (.cmpltImm o) :=
  encodes_of_raw _ _ rfl (by simp)
theorem Encodes.cmpltn (o : RRR) : Encodes.Statement (.cmpltn o) :=
  encodes_of_raw _ _ rfl (by simp)
theorem Encodes.cmple (o : RRR) : Encodes.Statement (.cmple o) :=
  encodes_of_raw _ _ rfl (by simp)
theorem Encodes.cmplen (o : RRR) : Encodes.Statement (.cmplen o) :=
  encodes_of_raw _ _ rfl (by simp)
theorem Encodes.sel (o : RRR) : Encodes.Statement (.sel o) :=
  encodes_of_raw _ _ rfl (by simp)
theorem Encodes.ldpc (o : IM) : Encodes.Statement (.ldpc o) :=
  encodes_of_raw _ _ rfl (by simp)
theorem Encodes.gets (o : IM) : Encodes.Statement (.gets o) :=
  encodes_of_raw _ _ rfl (by simp)
theorem Encodes.puts (o : IM) : Encodes.Statement (.puts o) :=
  encodes_of_raw _ _ rfl (by simp)
theorem Encodes.putsSeed (o : IM) : Encodes.Statement (.putsSeed o) :=
  encodes_of_raw _ _ rfl (by simp)
theorem Encodes.putsLfsr (o : IM) : Encodes.Statement (.putsLfsr o) :=
  encodes_of_raw _ _ rfl (by simp)
theorem Encodes.putsXage (o : IM) : Encodes.Statement (.putsXage o) :=
  encodes_of_raw _ _ rfl (by simp)
theorem Encodes.putsRound (o : IM) : Encodes.Statement (.putsRound o) :=
  encodes_of_raw _ _ rfl (by simp)
theorem Encodes.putsCause (o : IM) : Encodes.Statement (.putsCause o) :=
  encodes_of_raw _ _ rfl (by simp)
theorem Encodes.ptag (o : RRR) : Encodes.Statement (.ptag o) :=
  encodes_of_raw _ _ rfl (by simp)
theorem Encodes.pspc (o : RR) : Encodes.Statement (.pspc o) :=
  encodes_of_raw _ _ rfl (by simp)
theorem Encodes.pown (o : RR) : Encodes.Statement (.pown o) :=
  encodes_of_raw _ _ rfl (by simp)
theorem Encodes.poff (o : RR) : Encodes.Statement (.poff o) :=
  encodes_of_raw _ _ rfl (by simp)
theorem Encodes.padd (o : RRR) : Encodes.Statement (.padd o) :=
  encodes_of_raw _ _ rfl (by simp)
theorem Encodes.paddImm (o : RI) : Encodes.Statement (.paddImm o) :=
  encodes_of_raw _ _ rfl (by simp)
theorem Encodes.rdtime (o : Reg) : Encodes.Statement (.rdtime o) :=
  encodes_of_raw _ _ rfl (by simp)
theorem Encodes.rdcyc (o : Reg) : Encodes.Statement (.rdcyc o) :=
  encodes_of_raw _ _ rfl (by simp)
theorem Encodes.vadd (o : VOp) : Encodes.Statement (.vadd o) :=
  encodes_of_raw _ _ rfl (by simp)
theorem Encodes.vsub (o : VOp) : Encodes.Statement (.vsub o) :=
  encodes_of_raw _ _ rfl (by simp)
theorem Encodes.vmul (o : VOp) : Encodes.Statement (.vmul o) :=
  encodes_of_raw _ _ rfl (by simp)
theorem Encodes.vmulh (o : VOp) : Encodes.Statement (.vmulh o) :=
  encodes_of_raw _ _ rfl (by simp)
theorem Encodes.vmin (o : VOp) : Encodes.Statement (.vmin o) :=
  encodes_of_raw _ _ rfl (by simp)
theorem Encodes.vmax (o : VOp) : Encodes.Statement (.vmax o) :=
  encodes_of_raw _ _ rfl (by simp)
theorem Encodes.vabs (o : VMovOp) : Encodes.Statement (.vabs o) :=
  encodes_of_raw _ _ rfl (by simp)
theorem Encodes.vand (o : VOp) : Encodes.Statement (.vand o) :=
  encodes_of_raw _ _ rfl (by simp)
theorem Encodes.vor (o : VOp) : Encodes.Statement (.vor o) :=
  encodes_of_raw _ _ rfl (by simp)
theorem Encodes.vxor (o : VOp) : Encodes.Statement (.vxor o) :=
  encodes_of_raw _ _ rfl (by simp)
theorem Encodes.vsll (o : VOp) : Encodes.Statement (.vsll o) :=
  encodes_of_raw _ _ rfl (by simp)
theorem Encodes.vsrl (o : VOp) : Encodes.Statement (.vsrl o) :=
  encodes_of_raw _ _ rfl (by simp)
theorem Encodes.vsra (o : VOp) : Encodes.Statement (.vsra o) :=
  encodes_of_raw _ _ rfl (by simp)
theorem Encodes.vcmp (o : VCmpOp) : Encodes.Statement (.vcmp o) :=
  encodes_of_raw _ _ rfl (by simp)
theorem Encodes.vsel (o : VOp) : Encodes.Statement (.vsel o) :=
  encodes_of_raw _ _ rfl (by simp)
theorem Encodes.vrsumInt (o : VRedOp) : Encodes.Statement (.vrsumInt o) :=
  encodes_of_raw _ _ rfl (by simp)
theorem Encodes.vrmaxInt (o : VRedOp) : Encodes.Statement (.vrmaxInt o) :=
  encodes_of_raw _ _ rfl (by simp)
theorem Encodes.vrminInt (o : VRedOp) : Encodes.Statement (.vrminInt o) :=
  encodes_of_raw _ _ rfl (by simp)
theorem Encodes.vperm (o : VOp) : Encodes.Statement (.vperm o) :=
  encodes_of_raw _ _ rfl (by simp)
theorem Encodes.vshuf (o : VCmpOp) : Encodes.Statement (.vshuf o) :=
  encodes_of_raw _ _ rfl (by simp)
theorem Encodes.vbcast (o : VMovOp) : Encodes.Statement (.vbcast o) :=
  encodes_of_raw _ _ rfl (by simp)
theorem Encodes.vext (o : VMovOp) : Encodes.Statement (.vext o) :=
  encodes_of_raw _ _ rfl (by simp)
theorem Encodes.vins (o : VMovOp) : Encodes.Statement (.vins o) :=
  encodes_of_raw _ _ rfl (by simp)
theorem Encodes.pset (o : IM) : Encodes.Statement (.pset o) :=
  encodes_of_raw _ _ rfl (by simp)
theorem Encodes.pand (o : RRR) : Encodes.Statement (.pand o) :=
  encodes_of_raw _ _ rfl (by simp)
theorem Encodes.por (o : RRR) : Encodes.Statement (.por o) :=
  encodes_of_raw _ _ rfl (by simp)
theorem Encodes.pnot (o : RR) : Encodes.Statement (.pnot o) :=
  encodes_of_raw _ _ rfl (by simp)
theorem Encodes.pcnt (o : RR) : Encodes.Statement (.pcnt o) :=
  encodes_of_raw _ _ rfl (by simp)
theorem Encodes.pfirst (o : RR) : Encodes.Statement (.pfirst o) :=
  encodes_of_raw _ _ rfl (by simp)
theorem Encodes.vld (o : MEM) : Encodes.Statement (.vld o) :=
  encodes_of_raw _ _ rfl (by simp)
theorem Encodes.vst (o : MEM) : Encodes.Statement (.vst o) :=
  encodes_of_raw _ _ rfl (by simp)
theorem Encodes.vlds (o : VIdxOp) : Encodes.Statement (.vlds o) :=
  encodes_of_raw _ _ rfl (by simp)
theorem Encodes.vgath (o : VIdxOp) : Encodes.Statement (.vgath o) :=
  encodes_of_raw _ _ rfl (by simp)
theorem Encodes.vscat (o : VIdxOp) : Encodes.Statement (.vscat o) :=
  encodes_of_raw _ _ rfl (by simp)
theorem Encodes.vfadd (o : FOp) : Encodes.Statement (.vfadd o) :=
  encodes_of_raw _ _ rfl (by simp)
theorem Encodes.vfsub (o : FOp) : Encodes.Statement (.vfsub o) :=
  encodes_of_raw _ _ rfl (by simp)
theorem Encodes.vfmul (o : FOp) : Encodes.Statement (.vfmul o) :=
  encodes_of_raw _ _ rfl (by simp)
theorem Encodes.vfma (o : FOp) : Encodes.Statement (.vfma o) :=
  encodes_of_raw _ _ rfl (by simp)
theorem Encodes.vfms (o : FOp) : Encodes.Statement (.vfms o) :=
  encodes_of_raw _ _ rfl (by simp)
theorem Encodes.vfnma (o : FOp) : Encodes.Statement (.vfnma o) :=
  encodes_of_raw _ _ rfl (by simp)
theorem Encodes.vfmin (o : FOp) : Encodes.Statement (.vfmin o) :=
  encodes_of_raw _ _ rfl (by simp)
theorem Encodes.vfmax (o : FOp) : Encodes.Statement (.vfmax o) :=
  encodes_of_raw _ _ rfl (by simp)
theorem Encodes.vfcmp (o : FCmpOp) : Encodes.Statement (.vfcmp o) :=
  encodes_of_raw _ _ rfl (by simp)
theorem Encodes.vfdiv (o : FOp) : Encodes.Statement (.vfdiv o) :=
  encodes_of_raw _ _ rfl (by simp)
theorem Encodes.vfsqrt (o : FUnOp) : Encodes.Statement (.vfsqrt o) :=
  encodes_of_raw _ _ rfl (by simp)
theorem Encodes.vrsumFloat (o : FRedOp) : Encodes.Statement (.vrsumFloat o) :=
  encodes_of_raw _ _ rfl (by simp)
theorem Encodes.vrmaxFloat (o : FRedOp) : Encodes.Statement (.vrmaxFloat o) :=
  encodes_of_raw _ _ rfl (by simp)
theorem Encodes.vrminFloat (o : FRedOp) : Encodes.Statement (.vrminFloat o) :=
  encodes_of_raw _ _ rfl (by simp)
theorem Encodes.vcvt (o : CvtOp) : Encodes.Statement (.vcvt o) :=
  encodes_of_raw _ _ rfl (by simp)
theorem Encodes.vpack (o : CvtOp) : Encodes.Statement (.vpack o) :=
  encodes_of_raw _ _ rfl (by simp)
theorem Encodes.vunpack (o : CvtOp) : Encodes.Statement (.vunpack o) :=
  encodes_of_raw _ _ rfl (by simp)
theorem Encodes.vqnt (o : CvtOp) : Encodes.Statement (.vqnt o) :=
  encodes_of_raw _ _ rfl (by simp)
theorem Encodes.vdqnt (o : CvtOp) : Encodes.Statement (.vdqnt o) :=
  encodes_of_raw _ _ rfl (by simp)
theorem Encodes.vexp2 (o : FUnOp) : Encodes.Statement (.vexp2 o) :=
  encodes_of_raw _ _ rfl (by simp)
theorem Encodes.vlog2 (o : FUnOp) : Encodes.Statement (.vlog2 o) :=
  encodes_of_raw _ _ rfl (by simp)
theorem Encodes.vrsqrt (o : FUnOp) : Encodes.Statement (.vrsqrt o) :=
  encodes_of_raw _ _ rfl (by simp)
theorem Encodes.vrcp (o : FUnOp) : Encodes.Statement (.vrcp o) :=
  encodes_of_raw _ _ rfl (by simp)
theorem Encodes.vsincos (o : FUnOp) : Encodes.Statement (.vsincos o) :=
  encodes_of_raw _ _ rfl (by simp)
theorem Encodes.vtanh (o : FUnOp) : Encodes.Statement (.vtanh o) :=
  encodes_of_raw _ _ rfl (by simp)
theorem Encodes.rngdef (o : RR) : Encodes.Statement (.rngdef o) :=
  encodes_of_raw _ _ rfl (by simp)
theorem Encodes.rngadv (o : IM) : Encodes.Statement (.rngadv o) :=
  encodes_of_raw _ _ rfl (by simp)
theorem Encodes.rngstat (o : RR) : Encodes.Statement (.rngstat o) :=
  encodes_of_raw _ _ rfl (by simp)
theorem Encodes.mma (o : MmaOp) : Encodes.Statement (.mma o) :=
  encodes_of_raw _ _ rfl (by simp)
theorem Encodes.zclr (o : Reg) : Encodes.Statement (.zclr o) :=
  encodes_of_raw _ _ rfl (by simp)
theorem Encodes.zld (o : MEM) : Encodes.Statement (.zld o) :=
  encodes_of_raw _ _ rfl (by simp)
theorem Encodes.zst (o : MEM) : Encodes.Statement (.zst o) :=
  encodes_of_raw _ _ rfl (by simp)
theorem Encodes.zred (o : ZRedOp) : Encodes.Statement (.zred o) :=
  encodes_of_raw _ _ rfl (by simp)
theorem Encodes.zscale (o : ZScaleOp) : Encodes.Statement (.zscale o) :=
  encodes_of_raw _ _ rfl (by simp)
theorem Encodes.zclaim (o : Reg) : Encodes.Statement (.zclaim o) :=
  encodes_of_raw _ _ rfl (by simp)
theorem Encodes.zfree (o : Reg) : Encodes.Statement (.zfree o) :=
  encodes_of_raw _ _ rfl (by simp)
theorem Encodes.amoaddS32 (o : AT) : Encodes.Statement (.amoaddS32 o) :=
  encodes_of_raw _ _ rfl (by simp)
theorem Encodes.amoaddS64 (o : AT) : Encodes.Statement (.amoaddS64 o) :=
  encodes_of_raw _ _ rfl (by simp)
theorem Encodes.amoandS32 (o : AT) : Encodes.Statement (.amoandS32 o) :=
  encodes_of_raw _ _ rfl (by simp)
theorem Encodes.amoandS64 (o : AT) : Encodes.Statement (.amoandS64 o) :=
  encodes_of_raw _ _ rfl (by simp)
theorem Encodes.amoorS32 (o : AT) : Encodes.Statement (.amoorS32 o) :=
  encodes_of_raw _ _ rfl (by simp)
theorem Encodes.amoorS64 (o : AT) : Encodes.Statement (.amoorS64 o) :=
  encodes_of_raw _ _ rfl (by simp)
theorem Encodes.amoxorS32 (o : AT) : Encodes.Statement (.amoxorS32 o) :=
  encodes_of_raw _ _ rfl (by simp)
theorem Encodes.amoxorS64 (o : AT) : Encodes.Statement (.amoxorS64 o) :=
  encodes_of_raw _ _ rfl (by simp)
theorem Encodes.amominS32 (o : AT) : Encodes.Statement (.amominS32 o) :=
  encodes_of_raw _ _ rfl (by simp)
theorem Encodes.amominS64 (o : AT) : Encodes.Statement (.amominS64 o) :=
  encodes_of_raw _ _ rfl (by simp)
theorem Encodes.amominN32 (o : AT) : Encodes.Statement (.amominN32 o) :=
  encodes_of_raw _ _ rfl (by simp)
theorem Encodes.amominN64 (o : AT) : Encodes.Statement (.amominN64 o) :=
  encodes_of_raw _ _ rfl (by simp)
theorem Encodes.amomaxS32 (o : AT) : Encodes.Statement (.amomaxS32 o) :=
  encodes_of_raw _ _ rfl (by simp)
theorem Encodes.amomaxS64 (o : AT) : Encodes.Statement (.amomaxS64 o) :=
  encodes_of_raw _ _ rfl (by simp)
theorem Encodes.amomaxN32 (o : AT) : Encodes.Statement (.amomaxN32 o) :=
  encodes_of_raw _ _ rfl (by simp)
theorem Encodes.amomaxN64 (o : AT) : Encodes.Statement (.amomaxN64 o) :=
  encodes_of_raw _ _ rfl (by simp)
theorem Encodes.amoswpS32 (o : AT) : Encodes.Statement (.amoswpS32 o) :=
  encodes_of_raw _ _ rfl (by simp)
theorem Encodes.amoswpS64 (o : AT) : Encodes.Statement (.amoswpS64 o) :=
  encodes_of_raw _ _ rfl (by simp)
theorem Encodes.amocasS32 (o : AT) : Encodes.Statement (.amocasS32 o) :=
  encodes_of_raw _ _ rfl (by simp)
theorem Encodes.amocasS64 (o : AT) : Encodes.Statement (.amocasS64 o) :=
  encodes_of_raw _ _ rfl (by simp)
theorem Encodes.amobaddN32 (o : AT) : Encodes.Statement (.amobaddN32 o) :=
  encodes_of_raw _ _ rfl (by simp)
theorem Encodes.amobaddN64 (o : AT) : Encodes.Statement (.amobaddN64 o) :=
  encodes_of_raw _ _ rfl (by simp)
theorem Encodes.amofaddF32 (o : AT) : Encodes.Statement (.amofaddF32 o) :=
  encodes_of_raw _ _ rfl (by simp)
theorem Encodes.rowadd (o : RW) : Encodes.Statement (.rowadd o) :=
  encodes_of_raw _ _ rfl (by simp)
theorem Encodes.rowmax (o : RW) : Encodes.Statement (.rowmax o) :=
  encodes_of_raw _ _ rfl (by simp)
theorem Encodes.ldrowFresh (o : RW) : Encodes.Statement (.ldrowFresh o) :=
  encodes_of_raw _ _ rfl (by simp)
theorem Encodes.ldrowStale (o : RW) : Encodes.Statement (.ldrowStale o) :=
  encodes_of_raw _ _ rfl (by simp)
theorem Encodes.topk (o : AT) : Encodes.Statement (.topk o) :=
  encodes_of_raw _ _ rfl (by simp)
theorem Encodes.ldfe (o : MEM) : Encodes.Statement (.ldfe o) :=
  encodes_of_raw _ _ rfl (by simp)
theorem Encodes.ldff (o : MEM) : Encodes.Statement (.ldff o) :=
  encodes_of_raw _ _ rfl (by simp)
theorem Encodes.stfe (o : MEM) : Encodes.Statement (.stfe o) :=
  encodes_of_raw _ _ rfl (by simp)
theorem Encodes.stff (o : MEM) : Encodes.Statement (.stff o) :=
  encodes_of_raw _ _ rfl (by simp)
theorem Encodes.fepoll (o : MEM) : Encodes.Statement (.fepoll o) :=
  encodes_of_raw _ _ rfl (by simp)
theorem Encodes.feclr (o : MEM) : Encodes.Statement (.feclr o) :=
  encodes_of_raw _ _ rfl (by simp)
theorem Encodes.fence (o : MsgOp) : Encodes.Statement (.fence o) :=
  encodes_of_raw _ _ rfl (by simp)
theorem Encodes.xbegin (o : BZ) : Encodes.Statement (.xbegin o) :=
  encodes_of_raw _ _ rfl (by simp)
theorem Encodes.xtest (o : Reg) : Encodes.Statement (.xtest o) :=
  encodes_of_raw _ _ rfl (by simp)
theorem Encodes.xstat (o : Reg) : Encodes.Statement (.xstat o) :=
  encodes_of_raw _ _ rfl (by simp)
theorem Encodes.kset (o : IM) : Encodes.Statement (.kset o) :=
  encodes_of_raw _ _ rfl (by simp)
theorem Encodes.kadd (o : IM) : Encodes.Statement (.kadd o) :=
  encodes_of_raw _ _ rfl (by simp)
theorem Encodes.kwait (o : IM) : Encodes.Statement (.kwait o) :=
  encodes_of_raw _ _ rfl (by simp)
theorem Encodes.kread (o : RR) : Encodes.Statement (.kread o) :=
  encodes_of_raw _ _ rfl (by simp)
theorem Encodes.evsig (o : RR) : Encodes.Statement (.evsig o) :=
  encodes_of_raw _ _ rfl (by simp)
theorem Encodes.evwait (o : RR) : Encodes.Statement (.evwait o) :=
  encodes_of_raw _ _ rfl (by simp)
theorem Encodes.waitw (o : MEM) : Encodes.Statement (.waitw o) :=
  encodes_of_raw _ _ rfl (by simp)
theorem Encodes.cpy (o : CpyOp) : Encodes.Statement (.cpy o) :=
  encodes_of_raw _ _ rfl (by simp)
theorem Encodes.cpy2 (o : CpyOp) : Encodes.Statement (.cpy2 o) :=
  encodes_of_raw _ _ rfl (by simp)
theorem Encodes.cpyc (o : CpycOp) : Encodes.Statement (.cpyc o) :=
  encodes_of_raw _ _ rfl (by simp)
theorem Encodes.cpyr (o : CpyrOp) : Encodes.Statement (.cpyr o) :=
  encodes_of_raw _ _ rfl (by simp)
theorem Encodes.cpyg (o : CpyIdxOp) : Encodes.Statement (.cpyg o) :=
  encodes_of_raw _ _ rfl (by simp)
theorem Encodes.cpys (o : CpyIdxOp) : Encodes.Statement (.cpys o) :=
  encodes_of_raw _ _ rfl (by simp)
theorem Encodes.putr (o : PutOp) : Encodes.Statement (.putr o) :=
  encodes_of_raw _ _ rfl (by simp)
theorem Encodes.putv (o : PutOp) : Encodes.Statement (.putv o) :=
  encodes_of_raw _ _ rfl (by simp)
theorem Encodes.flagr (o : PutOp) : Encodes.Statement (.flagr o) :=
  encodes_of_raw _ _ rfl (by simp)
theorem Encodes.amor (o : AmorOp) : Encodes.Statement (.amor o) :=
  encodes_of_raw _ _ rfl (by simp)
theorem Encodes.getr (o : MEM) : Encodes.Statement (.getr o) :=
  encodes_of_raw _ _ rfl (by simp)
theorem Encodes.sendStart (o : MsgOp) : Encodes.Statement (.sendStart o) :=
  encodes_of_raw _ _ rfl (by simp)
theorem Encodes.sendPost (o : MsgOp) : Encodes.Statement (.sendPost o) :=
  encodes_of_raw _ _ rfl (by simp)
theorem Encodes.recv (o : RR) : Encodes.Statement (.recv o) :=
  encodes_of_raw _ _ rfl (by simp)
theorem Encodes.spawn (o : MsgOp) : Encodes.Statement (.spawn o) :=
  encodes_of_raw _ _ rfl (by simp)
theorem Encodes.launch (o : MsgOp) : Encodes.Statement (.launch o) :=
  encodes_of_raw _ _ rfl (by simp)
theorem Encodes.cancel (o : RR) : Encodes.Statement (.cancel o) :=
  encodes_of_raw _ _ rfl (by simp)
theorem Encodes.suspend (o : RR) : Encodes.Statement (.suspend o) :=
  encodes_of_raw _ _ rfl (by simp)
theorem Encodes.resumeHere (o : ResumeOp) : Encodes.Statement (.resumeHere o) :=
  encodes_of_raw _ _ rfl (by simp)
theorem Encodes.resumeAny (o : ResumeOp) : Encodes.Statement (.resumeAny o) :=
  encodes_of_raw _ _ rfl (by simp)
theorem Encodes.ccopy (o : SysOp) : Encodes.Statement (.ccopy o) :=
  encodes_of_raw _ _ rfl (by simp)
theorem Encodes.cdiscard (o : RR) : Encodes.Statement (.cdiscard o) :=
  encodes_of_raw _ _ rfl (by simp)
theorem Encodes.csize (o : RR) : Encodes.Statement (.csize o) :=
  encodes_of_raw _ _ rfl (by simp)
theorem Encodes.tlbinv (o : SysOp) : Encodes.Statement (.tlbinv o) :=
  encodes_of_raw _ _ rfl (by simp)
theorem Encodes.syscallNop (o : SyscallOp) : Encodes.Statement (.syscallNop o) :=
  encodes_of_raw _ _ rfl (by simp)
theorem Encodes.syscallMap (o : SyscallOp) : Encodes.Statement (.syscallMap o) :=
  encodes_of_raw _ _ rfl (by simp)
theorem Encodes.syscallUnmap (o : SyscallOp) : Encodes.Statement (.syscallUnmap o) :=
  encodes_of_raw _ _ rfl (by simp)
theorem Encodes.syscallSwitch (o : SyscallOp) : Encodes.Statement (.syscallSwitch o) :=
  encodes_of_raw _ _ rfl (by simp)
theorem Encodes.syscallRights (o : SyscallOp) : Encodes.Statement (.syscallRights o) :=
  encodes_of_raw _ _ rfl (by simp)
theorem Encodes.syscallUnassigned (o : SyscallOp) : Encodes.Statement (.syscallUnassigned o) :=
  encodes_of_raw _ _ rfl (by simp)
theorem Encodes.cexport (o : SysOp) : Encodes.Statement (.cexport o) :=
  encodes_of_raw _ _ rfl (by simp)
theorem Encodes.measure (o : SysOp) : Encodes.Statement (.measure o) :=
  encodes_of_raw _ _ rfl (by simp)
theorem Encodes.trapz : Encodes.Statement .trapz :=
  encodes_of_none _ rfl
theorem Encodes.nop : Encodes.Statement (.nop) :=
  encodes_of_raw _ _ rfl (by simp)
theorem Encodes.ret : Encodes.Statement (.ret) :=
  encodes_of_raw _ _ rfl (by simp)
theorem Encodes.endStrand : Encodes.Statement (.endStrand) :=
  encodes_of_raw _ _ rfl (by simp)
theorem Encodes.safe : Encodes.Statement .safe :=
  encodes_of_none _ rfl
theorem Encodes.brk : Encodes.Statement .brk :=
  encodes_of_none _ rfl
theorem Encodes.fencei : Encodes.Statement (.fencei) :=
  encodes_of_raw _ _ rfl (by simp)
theorem Encodes.tbar : Encodes.Statement (.tbar) :=
  encodes_of_raw _ _ rfl (by simp)
theorem Encodes.lbar : Encodes.Statement (.lbar) :=
  encodes_of_raw _ _ rfl (by simp)
theorem Encodes.xend : Encodes.Statement (.xend) :=
  encodes_of_raw _ _ rfl (by simp)
theorem Encodes.xabort : Encodes.Statement .xabort :=
  encodes_of_none _ rfl
theorem Encodes.yield : Encodes.Statement (.yield) :=
  encodes_of_raw _ _ rfl (by simp)
theorem Encodes.sret : Encodes.Statement (.sret) :=
  encodes_of_raw _ _ rfl (by simp)
theorem Encodes.powerOn : Encodes.Statement .powerOn :=
  encodes_of_none _ rfl
theorem Encodes.resetAssert : Encodes.Statement .resetAssert :=
  encodes_of_none _ rfl
theorem Encodes.resetRelease : Encodes.Statement .resetRelease :=
  encodes_of_none _ rfl
theorem Encodes.ident : Encodes.Statement .ident :=
  encodes_of_none _ rfl
theorem Encodes.attest : Encodes.Statement .attest :=
  encodes_of_none _ rfl
theorem Encodes.regMr : Encodes.Statement .regMr :=
  encodes_of_none _ rfl
theorem Encodes.jobCreate : Encodes.Statement .jobCreate :=
  encodes_of_none _ rfl
theorem Encodes.jobDestroy : Encodes.Statement .jobDestroy :=
  encodes_of_none _ rfl
theorem Encodes.chan : Encodes.Statement .chan :=
  encodes_of_none _ rfl
theorem Encodes.switch : Encodes.Statement .switch :=
  encodes_of_none _ rfl
theorem Encodes.route : Encodes.Statement .route :=
  encodes_of_none _ rfl
theorem Encodes.hostRdmaWrite : Encodes.Statement .hostRdmaWrite :=
  encodes_of_none _ rfl
theorem Encodes.hostRdmaRead : Encodes.Statement .hostRdmaRead :=
  encodes_of_none _ rfl
theorem Encodes.recordTaken : Encodes.Statement .recordTaken :=
  encodes_of_none _ rfl
theorem Encodes.launchAdmission : Encodes.Statement .launchAdmission :=
  encodes_of_none _ rfl
theorem Encodes.priorityAging : Encodes.Statement .priorityAging :=
  encodes_of_none _ rfl
theorem Encodes.wakeMessage : Encodes.Statement .wakeMessage :=
  encodes_of_none _ rfl
theorem Encodes.troupePlacement : Encodes.Statement .troupePlacement :=
  encodes_of_none _ rfl
theorem Encodes.bayWake : Encodes.Statement .bayWake :=
  encodes_of_none _ rfl
theorem Encodes.bayGate : Encodes.Statement .bayGate :=
  encodes_of_none _ rfl
theorem Encodes.spawnRecord : Encodes.Statement .spawnRecord :=
  encodes_of_none _ rfl
theorem Encodes.troupeDone : Encodes.Statement .troupeDone :=
  encodes_of_none _ rfl
theorem Encodes.eventAdd : Encodes.Statement .eventAdd :=
  encodes_of_none _ rfl
theorem Encodes.overflowWaitTest : Encodes.Statement .overflowWaitTest :=
  encodes_of_none _ rfl
theorem Encodes.cancelBroadcast : Encodes.Statement .cancelBroadcast :=
  encodes_of_none _ rfl
theorem Encodes.launchOverflowAppend : Encodes.Statement .launchOverflowAppend :=
  encodes_of_none _ rfl
theorem Encodes.switchTime : Encodes.Statement .switchTime :=
  encodes_of_none _ rfl
theorem Encodes.switchForcedStop : Encodes.Statement .switchForcedStop :=
  encodes_of_none _ rfl
theorem Encodes.troupeCapture : Encodes.Statement .troupeCapture :=
  encodes_of_none _ rfl
theorem Encodes.captureWatchdog : Encodes.Statement .captureWatchdog :=
  encodes_of_none _ rfl
theorem Encodes.switchComplete : Encodes.Statement .switchComplete :=
  encodes_of_none _ rfl
theorem Encodes.mailboxArrival : Encodes.Statement .mailboxArrival :=
  encodes_of_none _ rfl
theorem Encodes.handlerStart : Encodes.Statement .handlerStart :=
  encodes_of_none _ rfl
theorem Encodes.spillReturn : Encodes.Statement .spillReturn :=
  encodes_of_none _ rfl
theorem Encodes.acceptChannelCommand : Encodes.Statement .acceptChannelCommand :=
  encodes_of_none _ rfl
theorem Encodes.remoteRequestSend : Encodes.Statement .remoteRequestSend :=
  encodes_of_none _ rfl
theorem Encodes.write : Encodes.Statement .write :=
  encodes_of_none _ rfl
theorem Encodes.writeLands : Encodes.Statement .writeLands :=
  encodes_of_none _ rfl
theorem Encodes.flag : Encodes.Statement .flag :=
  encodes_of_none _ rfl
theorem Encodes.flagRelease : Encodes.Statement .flagRelease :=
  encodes_of_none _ rfl
theorem Encodes.amo : Encodes.Statement .amo :=
  encodes_of_none _ rfl
theorem Encodes.read : Encodes.Statement .read :=
  encodes_of_none _ rfl
theorem Encodes.landed : Encodes.Statement .landed :=
  encodes_of_none _ rfl
theorem Encodes.gap : Encodes.Statement .gap :=
  encodes_of_none _ rfl
theorem Encodes.response : Encodes.Statement .response :=
  encodes_of_none _ rfl
theorem Encodes.landedTimer : Encodes.Statement .landedTimer :=
  encodes_of_none _ rfl
theorem Encodes.gapTimeout : Encodes.Statement .gapTimeout :=
  encodes_of_none _ rfl
theorem Encodes.senderTimeout : Encodes.Statement .senderTimeout :=
  encodes_of_none _ rfl
theorem Encodes.remoteTimeout : Encodes.Statement .remoteTimeout :=
  encodes_of_none _ rfl
theorem Encodes.portRemoval : Encodes.Statement .portRemoval :=
  encodes_of_none _ rfl
theorem Encodes.channelDrained : Encodes.Statement .channelDrained :=
  encodes_of_none _ rfl
theorem Encodes.leaseRenewal : Encodes.Statement .leaseRenewal :=
  encodes_of_none _ rfl
theorem Encodes.loadReturn : Encodes.Statement .loadReturn :=
  encodes_of_none _ rfl
theorem Encodes.storeApply : Encodes.Statement .storeApply :=
  encodes_of_none _ rfl
theorem Encodes.storeAck : Encodes.Statement .storeAck :=
  encodes_of_none _ rfl
theorem Encodes.proxyReadMiss : Encodes.Statement .proxyReadMiss :=
  encodes_of_none _ rfl
theorem Encodes.proxyWrite : Encodes.Statement .proxyWrite :=
  encodes_of_none _ rfl
theorem Encodes.proxyEviction : Encodes.Statement .proxyEviction :=
  encodes_of_none _ rfl
theorem Encodes.freshRead : Encodes.Statement .freshRead :=
  encodes_of_none _ rfl
theorem Encodes.recall : Encodes.Statement .recall :=
  encodes_of_none _ rfl
theorem Encodes.transitionAnswer : Encodes.Statement .transitionAnswer :=
  encodes_of_none _ rfl
theorem Encodes.depositRegistration : Encodes.Statement .depositRegistration :=
  encodes_of_none _ rfl
theorem Encodes.depositMerge : Encodes.Statement .depositMerge :=
  encodes_of_none _ rfl
theorem Encodes.coherenceRetry : Encodes.Statement .coherenceRetry :=
  encodes_of_none _ rfl
theorem Encodes.reservationPass : Encodes.Statement .reservationPass :=
  encodes_of_none _ rfl
theorem Encodes.rebase : Encodes.Statement .rebase :=
  encodes_of_none _ rfl
theorem Encodes.rebaseEnd : Encodes.Statement .rebaseEnd :=
  encodes_of_none _ rfl
theorem Encodes.postedStoreApply : Encodes.Statement .postedStoreApply :=
  encodes_of_none _ rfl
theorem Encodes.postedStoreAck : Encodes.Statement .postedStoreAck :=
  encodes_of_none _ rfl
theorem Encodes.remoteRead : Encodes.Statement .remoteRead :=
  encodes_of_none _ rfl
theorem Encodes.taggedWordRequest : Encodes.Statement .taggedWordRequest :=
  encodes_of_none _ rfl
theorem Encodes.feTimeout : Encodes.Statement .feTimeout :=
  encodes_of_none _ rfl
theorem Encodes.atomicAtHome : Encodes.Statement .atomicAtHome :=
  encodes_of_none _ rfl
theorem Encodes.rowAtHome : Encodes.Statement .rowAtHome :=
  encodes_of_none _ rfl
theorem Encodes.topkAtHome : Encodes.Statement .topkAtHome :=
  encodes_of_none _ rfl
theorem Encodes.transactionalRegistration : Encodes.Statement .transactionalRegistration :=
  encodes_of_none _ rfl
theorem Encodes.conflictAbort : Encodes.Statement .conflictAbort :=
  encodes_of_none _ rfl
theorem Encodes.transactionCommit : Encodes.Statement .transactionCommit :=
  encodes_of_none _ rfl
theorem Encodes.commitApply : Encodes.Statement .commitApply :=
  encodes_of_none _ rfl
theorem Encodes.divideComplete : Encodes.Statement .divideComplete :=
  encodes_of_none _ rfl
theorem Encodes.sfuService : Encodes.Statement .sfuService :=
  encodes_of_none _ rfl
theorem Encodes.sfuResult : Encodes.Statement .sfuResult :=
  encodes_of_none _ rfl
theorem Encodes.mmaStart : Encodes.Statement .mmaStart :=
  encodes_of_none _ rfl
theorem Encodes.mmaRetire : Encodes.Statement .mmaRetire :=
  encodes_of_none _ rfl
theorem Encodes.zscaleRetire : Encodes.Statement .zscaleRetire :=
  encodes_of_none _ rfl
theorem Encodes.zmoveComplete : Encodes.Statement .zmoveComplete :=
  encodes_of_none _ rfl
theorem Encodes.yieldEnd : Encodes.Statement .yieldEnd :=
  encodes_of_none _ rfl
theorem Encodes.asyncTrapDelivery : Encodes.Statement .asyncTrapDelivery :=
  encodes_of_none _ rfl
theorem Encodes.engineCommandStart : Encodes.Statement .engineCommandStart :=
  encodes_of_none _ rfl
theorem Encodes.enginePageBoundary : Encodes.Statement .enginePageBoundary :=
  encodes_of_none _ rfl
theorem Encodes.engineCommandComplete : Encodes.Statement .engineCommandComplete :=
  encodes_of_none _ rfl
theorem Encodes.cpyrReserve : Encodes.Statement .cpyrReserve :=
  encodes_of_none _ rfl
theorem Encodes.shootdownAnswer : Encodes.Statement .shootdownAnswer :=
  encodes_of_none _ rfl
theorem Encodes.shootdownTimeout : Encodes.Statement .shootdownTimeout :=
  encodes_of_none _ rfl
theorem Encodes.compareAndClear : Encodes.Statement .compareAndClear :=
  encodes_of_none _ rfl
theorem Encodes.ccopyWrite : Encodes.Statement .ccopyWrite :=
  encodes_of_none _ rfl
theorem Encodes.cdiscardClear : Encodes.Statement .cdiscardClear :=
  encodes_of_none _ rfl
theorem Encodes.cexportService : Encodes.Statement .cexportService :=
  encodes_of_none _ rfl
theorem Encodes.measurementExtension : Encodes.Statement .measurementExtension :=
  encodes_of_none _ rfl
theorem Encodes.errorDetected : Encodes.Statement .errorDetected :=
  encodes_of_none _ rfl
theorem Encodes.patrolScrub : Encodes.Statement .patrolScrub :=
  encodes_of_none _ rfl
theorem Encodes.agentDead : Encodes.Statement .agentDead :=
  encodes_of_none _ rfl
theorem Encodes.illegalEncoding : Encodes.Statement .illegalEncoding :=
  encodes_of_none _ rfl
theorem Encodes.vinLoss : Encodes.Statement .vinLoss :=
  encodes_of_none _ rfl

end Sys2Proof.Laws
end

