-- ==== Sys2Proof/Tests/Slice0.lean ====
section
/-! SUPPORT. Tests: ill-formed terms that the check refuses, words of the spec that decode to the instructions they stand
for, single instructions on small states, and for every statement with hypotheses a state and operands that meet them. -/

namespace Sys2Proof.Tests

open Sys2Proof Sys2Proof.Machine

/-! ### Ill-formed terms, one for each check of Sys2Proof.WellFormed -/

/-- Trap bits on registers that are not read; a shape that reads d takes one. -/
theorem test_wf_trap_bits :
    (Instr.add ⟨1, 2, 3, true, false, false⟩).wf = false ∧ (Instr.mov ⟨1, 2, true, false⟩).wf = false
    ∧ (Instr.sel ⟨1, 2, 3, true, false, false⟩).wf = true ∧ (Instr.ldx ⟨1, 2, 3, 0, .rlx, .str, true, false, false⟩).wf = false
    ∧ (Instr.bext ⟨1, 2, 0, 0, false, true, false⟩).wf = false ∧ (Instr.vabs ⟨1, 2, ⟨false, false, .w8⟩, 0, .g1, true, false⟩).wf = false
    ∧ (Instr.tlbinv ⟨1, 2, 3, 7, true, false, false⟩).wf = false := by decide

/-- Immediates beyond their chunks, and offsets of branches. -/
theorem test_wf_immediates :
    (Instr.movi ⟨1, 0x100000000000, false⟩).wf = false ∧ (Instr.addImm ⟨1, 2, 0x80000000000, false, false⟩).wf = false
    ∧ (Instr.addImm ⟨1, 1, 16, true, false⟩).wf = false ∧ (Instr.sllImm ⟨1, 1, 31, true, false⟩).wf = true
    ∧ (Instr.beq ⟨1, 2, 0x80000000000, false, false⟩).wf = false ∧ (Instr.br ⟨1, 4, false⟩).wf = false
    ∧ (Instr.ldS8 ⟨1, 2, 0x80000000000, .rlx, .str, .g1, false, false⟩).wf = false
    ∧ (Instr.amoaddS64 ⟨1, 2, 3, 0x200000, .rlx, .str, false, false, false⟩).wf = false
    ∧ (Instr.rngadv ⟨1, 0x10000000000, false⟩).wf = false := by decide

/-- Orders that an access does not take, groups out of place and not aligned. -/
theorem test_wf_orders_and_groups :
    (Instr.ldS8 ⟨1, 2, 0, .rel, .str, .g1, false, false⟩).wf = false ∧ (Instr.stS8 ⟨1, 2, 0, .acq, .str, .g1, false, false⟩).wf = false
    ∧ (Instr.topk ⟨1, 2, 3, 0, .comm, .str, false, false, false⟩).wf = false ∧ (Instr.launch ⟨1, 2, .acq, .pkg, 0, false, false⟩).wf = false
    ∧ (Instr.ldS8 ⟨2, 2, 0, .rlx, .str, .g2, false, false⟩).wf = false ∧ (Instr.vld ⟨2, 2, 0, .rlx, .str, .g4, false, false⟩).wf = false
    ∧ (Instr.vadd ⟨0, 0, 9, ⟨false, false, .w8⟩, 0, .g2, false, false, false⟩).wf = false
    ∧ (Instr.vsincos ⟨2, 4, ⟨.rne, false, .f32⟩, .g2, false, false⟩).wf = false
    ∧ (Instr.zscale ⟨0, 4, .rne, false, false⟩).wf = false := by decide

/-- Register numbers of files with fewer than 32 registers, and state registers. -/
theorem test_wf_register_numbers :
    (Instr.zclr 2).wf = false ∧ (Instr.rngdef ⟨8, 1, false, false⟩).wf = false ∧ (Instr.pset ⟨8, 0, false⟩).wf = false
    ∧ (Instr.kset ⟨16, 0, false⟩).wf = false ∧ (Instr.kread ⟨1, 16, false, false⟩).wf = false ∧ (Instr.recv ⟨3, 0, false, false⟩).wf = false
    ∧ (Instr.gets ⟨1, 0x1D, false⟩).wf = false ∧ (Instr.puts ⟨1, 0x00, false⟩).wf = false ∧ (Instr.puts ⟨1, 0x0B, false⟩).wf = false
    ∧ (Instr.putsRound ⟨1, 0x09, false⟩).wf = false ∧ (Instr.mma ⟨0, 1, 1, false, false, false⟩).wf = false := by decide

/-- Modifiers, conditions, parts and services that have no encoding. -/
theorem test_wf_fields :
    (Instr.vand ⟨0, 1, 2, ⟨false, true, .w8⟩, 0, .g1, false, false, false⟩).wf = false
    ∧ (Instr.vcmp ⟨1, 2, 3, ⟨false, false, .w8⟩, 0, 6, false, false⟩).wf = false
    ∧ (Instr.vext ⟨1, 2, ⟨false, false, .w64⟩, 4, .g1, false, false⟩).wf = false
    ∧ (Instr.vcvt ⟨1, 2, 0, .rne, false, .f32, .e2m1, 1, 0, false, false, false⟩).wf = false
    ∧ (Instr.bins ⟨1, 2, 0, 0, true, false, false⟩).wf = false
    ∧ (Instr.cpyc ⟨1, 2, ⟨false, false, 0⟩, false, .dyn, .f32, .f16, false, false⟩).wf = false
    ∧ (Instr.amor ⟨1, 2, 3, .rlx, .pkg, 11, true, false, false, false⟩).wf = false
    ∧ (Instr.syscallNop ⟨1, 1, false⟩).wf = false ∧ (Instr.syscallUnassigned ⟨1, 4, false⟩).wf = false
    ∧ (Instr.fence ⟨1, 2, .sc, .pkg, 0, false, false⟩).wf = false ∧ (Instr.cancel ⟨1, 2, false, false⟩).wf = false := by decide

/-! ### Words of the spec (the listings and worked encodings of spec/11 to spec/17 and spec/22) -/

/-- Page 0: R204's adds, spec/11's worked encodings, a branch of spec/22 R416, and NOP and TRAPZ. -/
theorem test_decode_page0 :
    decodeGroup [0x10A7] = .add ⟨5, 5, 7, false, false, false⟩ ∧ decodeGroup [0xE9C8, 0x10A6] = .add ⟨5, 6, 7, false, true, false⟩
    ∧ decodeGroup [0xF00A, 0xE008, 0x9CA6] = .ldS32 ⟨5, 6, 8, .acq, .bay, .g1, false, false⟩
    ∧ decodeGroup [0xE024, 0xE345, 0x0CA0] = .movi ⟨5, 0x12345, false⟩ ∧ decodeGroup [0xE083, 0x5400] = .br ⟨0, 0x83, false⟩
    ∧ decodeGroup [0x0400] = .nop ∧ decodeGroup [0x0000] = .trapz := by decide

/-- Page 1: shifts, pointers, state registers, SAFE with ranges. -/
theorem test_decode_page1 :
    decodeGroup [0xF040, 0xE02C, 0x28A5] = .sllImm ⟨5, 5, 44, false, false⟩ ∧ decodeGroup [0xF040, 0xA484] = .paddImm ⟨4, 4, 4, false, false⟩
    ∧ decodeGroup [0xF040, 0x8D87] = .puts ⟨12, 0x07, false⟩ ∧ decodeGroup [0xE0A6, 0xE463, 0xD000] = .safe
    ∧ (rawOf [0xE0A6, 0xE463, 0xD000]).safeRanges = [⟨false, 5, 6⟩, ⟨true, 3, 3⟩] := by decide

/-- Pages 2 to 4: vector, conversion, matrix. -/
theorem test_decode_vector_matrix :
    decodeGroup [0xF0C0, 0xEA40, 0xE000, 0xE005, 0x4CA8] = .vqnt ⟨5, 8, 9, .rne, false, .f32, .e2m1, 0, 0, false, false, false⟩
    ∧ decodeGroup [0xF104, 0xE840, 0x1000] = .mma ⟨0, 0, 1, false, false, true⟩
    ∧ decodeGroup [0xF100, 0xEC30, 0x2000] = .zred ⟨0, 0, 16, ⟨.rne, false, .f32⟩, .g8, false⟩ := by decide

/-- Page 5: atomics, rows, records, tagged words, barriers, events. -/
theorem test_decode_sync :
    decodeGroup [0xF140, 0xEF40, 0xE100, 0x1BDC] = .amoorS64 ⟨30, 28, 29, 0x100, .rlx, .str, false, false, false⟩
    ∧ decodeGroup [0xF140, 0xEAC0, 0x5ACD] = .amobaddN64 ⟨22, 13, 11, 0, .rlx, .str, false, false, false⟩
    ∧ decodeGroup [0xF16C, 0xE012, 0x6251] = .rowadd ⟨18, 17, .r256, .f32, .comm, .pkg, false, false⟩
    ∧ decodeGroup [0xF140, 0xEBC0, 0xE046, 0xE000, 0x6C0D] = .topk ⟨0, 13, 15, 0x46 * 2048, .rlx, .str, false, false, false⟩
    ∧ decodeGroup [0xF140, 0x71D5] = .ldfe ⟨14, 21, 0, .rlx, .str, .g1, false, false⟩
    ∧ decodeGroup [0xF140, 0x840F] = .feclr ⟨0, 15, 0, .rlx, .str, .g1, false, false⟩
    ∧ decodeGroup [0xF140, 0x9400] = .lbar ∧ decodeGroup [0xF140, 0xB462] = .kwait ⟨3, 2, false⟩
    ∧ decodeGroup [0xF140, 0xBE4B] = .evsig ⟨18, 11, false, false⟩
    ∧ decodeGroup [0xF14D, 0xE0F8, 0xC7FE] = .waitw ⟨31, 30, 0xF8, .acq, .sys, .g1, false, false⟩ := by decide

/-- Pages 6 and 7: engine commands, Span, messages, continuations, the return from a trap. -/
theorem test_decode_async_system :
    decodeGroup [0xF183, 0xE9C0, 0x04A6] = .cpy ⟨5, 6, 7, ⟨false, false, 3⟩, 0, 0, false, false, false⟩
    ∧ decodeGroup [0xF1A1, 0xE9C0, 0xE011, 0x04A6] = .cpy ⟨5, 6, 7, ⟨true, false, 1⟩, 17, 0, false, false, false⟩
    ∧ decodeGroup [0xF181, 0xE810, 0x2106] = .putv ⟨8, 6, ⟨false, false, 1⟩, 3, 0, .g2, false, false⟩
    ∧ decodeGroup [0xF182, 0x24E9] = .flagr ⟨7, 9, ⟨false, false, 2⟩, 3, 0, .g1, false, false⟩
    ∧ decodeGroup [0xF18D, 0x2DC6] = .getr ⟨14, 6, 0, .acq, .sys, .g1, false, false⟩
    ∧ decodeGroup [0xF19D, 0xE9C0, 0xE010, 0x28A6] = .amor ⟨5, 6, 7, .ar, .sys, 0, true, false, false, false⟩
    ∧ decodeGroup [0xF192, 0x34AA] = .sendPost ⟨5, 10, .rel, .bay, 0, false, false⟩
    ∧ decodeGroup [0xF180, 0x3A00] = .recv ⟨16, 0, false, false⟩
    ∧ decodeGroup [0xF194, 0x4274] = .launch ⟨19, 20, .rel, .pkg, 0, false, false⟩
    ∧ decodeGroup [0xF1C0, 0x0800] = .sret := by decide

/-- R206: a KEXT word, a fifth prefix, prefixes out of order, page 8, an unassigned cell, class N with m = 1, BC without KIMM. -/
theorem test_decode_illegal :
    decodeGroup [0xF800, 0x0400] = .illegalEncoding ∧ decodeGroup [0xF040, 0xE800, 0xE000, 0xE000, 0xE000] = .illegalEncoding
    ∧ decodeGroup [0xE000, 0xE800, 0x0400] = .illegalEncoding ∧ decodeGroup [0xF200, 0x0000] = .illegalEncoding
    ∧ decodeGroup [0xF040, 0xB000] = .illegalEncoding ∧ decodeGroup [0xF001, 0x0400] = .illegalEncoding
    ∧ decodeGroup [0x6822] = .illegalEncoding := by decide

/-! ### A small state: one strand of a job with a trap handler, an instruction of one word in hand -/

/-- The strand of `State.withProgram`, its job with a handler at code offset 0x100. -/
def here : State :=
  let s := State.reset.withProgram
  { s with jobs := s.jobs.map (fun j => { j with tvec := 0x100 }), ir := [0x0400] }

/-- X[r] of the strand in hand holds v. -/
def at1 (r : Reg) (v : Word) : State := { here with cur := here.cur.putX r v }

/-- Its job has no handler. -/
def noHandler : State := { here with jobs := here.jobs.map (fun j => { j with tvec := 0 }) }

/-- The strand is in a transaction of depth n. -/
def inTx (n : Nat) : State := { here with cur := { here.cur with tx := { Tx.none with depth := n } } }

/-- A state register of the strand has a value. -/
def withSr (f : SRegs → SRegs) : State := { here with cur := { here.cur with sr := f here.cur.sr } }

/-- One request, at a pointer and a physical address, and a step that names it. -/
def asked (k : ReqKind) (p : Word) (a : Nat) (st : ReqState) : State :=
  { here with reqs := [{ newReq here k p a .rlx .str with state := st }], arg := { id := here.nextId } }

/-- The request of `asked`. -/
def theReq (k : ReqKind) (p : Word) (a : Nat) (st : ReqState) : Req := { newReq here k p a .rlx .str with state := st }

/-- Pointers into the strand's own local memory, another core's, the depot and another package. -/
def ownP : Word := 0x1000000000000100
def otherP : Word := 0x1001000000000100
def depP : Word := 0x3000000000001000
def awayP : Word := 0x4001000000000100

/-- The page of the depot that the job maps. -/
def leaf : TlbEntry := ⟨0, 1, 3, 0, 0, 2 ^ 30, depAddr (2 ^ 30), true, true, true⟩

/-- A line of the depot and the line's record. -/
def depLine : Nat := lineOf (depAddr 0x1000)
def lineRec (share : Share) (proxies : BitVec 4) (owner : Nat) : Line :=
  ⟨depLine, true, 0, 0, share, proxies, owner, 0, [], [], 0, [], none, 0, none, 0, 0⟩

/-- An open send channel and an open accession channel of job 1, numbered 0. -/
def sendCh : SendChan := ⟨0, 1, 2, 0, 1, 0, 1, 0, 1, 50, 0x3000000000000000, 64, 0, 0, [], [], 0, 0, [], [], 0⟩
def accCh : AccChan := ⟨0, 1, 2, 0, 1, 0, 1, 0, 0, 0, 50, 0, 0, none, 0, 0⟩

/-- Both channels, and a route to the peer, package 2. -/
def linked : State := { here with hub := { here.hub with own := 1, routes := [(2, 1)], sends := [sendCh], accs := [accCh] } }

/-- A packet of a type from the peer, with n bytes of payload or to read; the same with its check value. -/
def packet (ty : BitVec 8) (n : Nat) : Packet := ⟨ty, 0, 2, 1, 0, 1, 1, 0x100, BitVec.ofNat 16 n, 0, 8, 0, 0, 0, 0, 0, [], 0, false⟩
def checked (p : Packet) : Packet := { p with check := packetCheck p }
theorem check_checked (p : Packet) : (checked p).check = packetCheck (checked p) := rfl

/-- An access of n bytes through one pointer of a space without page tables passes. -/
theorem passes_one {s : State} {n a : Nat} {r w : Bool} {p : Word} (h : ptrOff p % n = 0)
    (h2 : lookup s s.myBay s.myTroupe.job p n r w false = .good a none) : passes s n r w [p] s [a] :=
  ⟨a, none, [], h, h2, rfl, rfl, rfl⟩

/-! ### Single instructions (the expected values are those of the rules) -/

/-- What the strand does next, as far as one number of it tells. -/
def after (i : Instr) (s : State) (f : State → Nat) : Option Nat :=
  match exec i s with
  | .next t => some (f t)
  | _ => none

/-- R218: ADD wraps; R204: two-address ADD with the source as destination; R208: x0 stays 0. -/
theorem test_add_wraps : after (.add ⟨5, 5, 5, false, false, false⟩) (at1 5 0x8000000000000001) (fun t => (t.x 5).toNat) = some 2
    ∧ after (.add ⟨0, 5, 5, false, false, false⟩) (at1 5 1) (fun t => (t.x 0).toNat) = some 0 := by decide

/-- The value of the division on its way. -/
def quotient (t : State) : Nat :=
  match t.reqs with
  | { kind := .divide v _, .. } :: _ => v.toNat
  | _ => 0

/-- R219: a zero divisor gives all ones and the dividend; the register is empty until the result comes. -/
theorem test_div_corners :
    after (.div ⟨1, 5, 0, false, false, false⟩) (at1 5 7) (fun t => if t.cur.fullX 1 then 1 else 0) = some 0
    ∧ after (.div ⟨1, 5, 0, false, false, false⟩) (at1 5 7) quotient = some (2 ^ 64 - 1)
    ∧ after (.rem ⟨1, 5, 0, false, false, false⟩) (at1 5 7) quotient = some 7 := by decide

/-- R221, the example of spec/12: bext.s64 x5, x6, 8, 12 of 0x00AB_CD00 gives −0x433. -/
theorem test_bext_example : after (.bext ⟨5, 6, 8, 11, true, false, false⟩) (at1 6 0x00ABCD00) (fun t => (t.x 5).toNat)
    = some (2 ^ 64 - 0x433) := by decide

/-- R229: a branch counts 16-bit words from its own address. -/
theorem test_branch_target : after (.beqz ⟨5, -1, false⟩) { at1 5 0 with cur := { here.cur with pc := 0x3000000000000010 } }
    (fun t => t.cur.pc.toNat) = some 0x300000000000000E := by decide

/-- R355, R364: ILLEGAL, code 1, at the handler with busy set and the resume point saved. -/
theorem test_illegal_traps : after .illegalEncoding here (fun t => t.cur.sr.cause.toNat) = some 0x8001
    ∧ after .illegalEncoding here (fun t => t.cur.pc.toNat) = some 0x3000000000000100
    ∧ after .illegalEncoding here (fun t => t.cur.sr.epc.toNat) = some 0x3000000000000000 := by decide

/-- R239: END of the last strand ends the troupe. -/
theorem test_end_ends : after .endStrand here (fun t => if t.cur.mode = .ended ∧ (t.troupe 1).place = .ended then 1 else 0) = some 1 := by
  decide

/-- R4, R233: a store is little-endian. -/
theorem test_store_little_endian :
    after (.stS32 ⟨6, 5, 0, .rlx, .str, .g1, false, false⟩) { at1 5 ownP with cur := (at1 5 ownP).cur.putX 6 0x11223344 }
      (fun t => (t.byte (lmAddr 0 0x100)).toNat) = some 0x44 := by decide

/-- The host's numbers: NOP, and the SRET of spec/22 (0xF1C0, 0x0800), whose first word lies lowest. -/
theorem test_table_words : decodeTableWord 16 0x0400 = some .nop ∧ decodeTableWord 32 0x0800F1C0 = some .sret
    ∧ (State.reset.withFetchWord 32 0x0800F1C0).byte (depAddr 0x40000000) = 0xC0 := by decide

/-! ### States and operands that meet the hypotheses of the statements, by the statement's name -/

theorem test_meets_ArithmeticResults : here.readyX 1 ∧ here.readyX 2 ∧ here.readyX 31 := by decide
theorem test_meets_LogicResults : (at1 2 64).readyX 0 ∧ (at1 2 64).readyX 2 ∧ (64 : Nat) % 64 = ((at1 2 64).x 2).toNat % 64 := by decide
theorem test_meets_CompareResults : (at1 2 (-1)).readyX 2 ∧ (at1 2 (-1)).readyX 31 := by decide
theorem test_meets_FieldAndPointerResults : (at1 2 ownP).readyX 2 ∧ (at1 2 ownP).readyX 31 ∧ (at1 2 ownP).held = false
    ∧ ({ here with reqs := [{ theReq (.load 8 true 5) depP (depAddr 0x1000) .sent with order := .acq }] } : State).held = true := by decide

theorem test_meets_DivisionResults : here.readyX 1 ∧ ∃ r t,
    (asked (.divide 3 1) 0 0 .sent).req? (asked (.divide 3 1) 0 0 .sent).arg.id = some r ∧ r.kind = .divide 3 1
    ∧ (asked (.divide 3 1) 0 0 .sent).strand? r.sid = some t := ⟨by decide, theReq (.divide 3 1) 0 0 .sent, here.cur, by decide⟩

theorem test_meets_BranchResults : (at1 2 1).readyX 2 ∧ (at1 2 1).readyX 0 := by decide

theorem test_meets_JumpResults :
    ((at1 1 0x3000000000000010).readyX 1 ∧ ((at1 1 0x3000000000000010).x 1).getLsbD 0 = false)
    ∧ (((at1 1 1).x 1).getLsbD 0 = true ∧ (at1 1 1).canTrap)
    ∧ ((withSr (fun r => { r with epc := 1 })).cur.sr.epc.getLsbD 0 = true ∧ (withSr (fun r => { r with epc := 1 })).canTrap)
    ∧ (withSr (fun r => { r with epc := 1, cause := 0x8000 })).cur.sr.epc.getLsbD 0 = true
    ∧ (withSr (fun r => { r with epc := 1, cause := 0x8000 })).cur.sr.cause.getLsbD 15 = true ∧ here.myJob.stopReported = false := by decide

theorem test_meets_TrapDelivery : conservators .watchdog ∧ (¬conservators .illegal ∧ here.canTrap)
    ∧ (noHandler.cur.sr.cause.getLsbD 15 = false ∧ noHandler.myJob.tvec = 0)
    ∧ ((inTx 1).cur.sr.cause.getLsbD 15 = false ∧ (inTx 1).myJob.tvec ≠ 0 ∧ (inTx 1).cur.tx.depth ≠ 0)
    ∧ here.myJob.stopReported = false ∧ ({ here with jobs := here.jobs.map (fun j => { j with stopReported := true }) } : State).myJob.stopReported = true := by
  decide

theorem test_meets_SelfTraps : (at1 2 1).canTrap ∧ (at1 2 1).readyX 2 ∧ (at1 2 1).x 2 ≠ 0 ∧ here.x 2 = 0 := by decide

/-- X[5] is empty. -/
def empty5 : State := { here with cur := here.cur.emptyX 5 }
/-- Every arithmetic counter of the strand's troupe has the limit 1. -/
def limited : State := { here with troupes := here.troupes.map (fun u => { u with alimit := Vector.replicate 5 1 }) }
/-- An operand with its trap bit set and one without, each in the empty register; events that cross a limit of 1, and that do not. -/
theorem test_meets_OperandAndCounterTraps :
    (empty5.cur.full false 5 = false ∧ empty5.cur.full false 4 = true ∧ empty5.canTrap ∧ (⟨1, false, [5], true⟩ : Src).trap = true)
    ∧ ((∀ q ∈ ([⟨1, false, [5], false⟩] : List Src), q.trap = true → ∀ r ∈ q.regs, empty5.cur.full q.vec r = true)
      ∧ (∃ o ∈ ([⟨1, false, [5], false⟩] : List Src), o.vec = false ∧ (5 : Reg) ∈ o.regs))
    ∧ (limited.troupe? limited.cur.troupe).isSome = true ∧ limited.canTrap ∧ limited.readyV .g8 8 ∧ limited.readyV .g1 3
    ∧ (∀ c : Fin 5, ¬Crosses limited.myTroupe.arith[c] limited.myTroupe.alimit[c] (tally [] c))
    ∧ Crosses limited.myTroupe.arith[2] limited.myTroupe.alimit[2] (tally [⟨2, 0, 1, 0, 3, 0x7F⟩] 2) := by decide
/-- Every empty register is read under a trap bit; one is not, beside one that is; one is only written. -/
theorem test_meets_OperandAndCounterTraps_gate :
    (∀ v x, ((∃ o ∈ ([⟨1, false, [5], true⟩] : List Src), o.vec = v ∧ x ∈ o.regs) ∨ ∃ o ∈ ([⟨false, [4]⟩] : List Dst), o.vec = v ∧ x ∈ o.regs) →
      empty5.cur.full v x = false → ∃ o ∈ ([⟨1, false, [5], true⟩] : List Src), o.trap = true ∧ o.vec = v ∧ x ∈ o.regs)
    ∧ (let s : State := { empty5 with cur := empty5.cur.emptyX 6 }
       let reads : List Src := [⟨1, false, [5], true⟩, ⟨2, false, [6], false⟩]
       (∃ o ∈ reads, (6 : Reg) ∈ o.regs) ∧ s.cur.full false 6 = false ∧ ¬∃ o ∈ reads, o.trap = true ∧ o.vec = false ∧ (6 : Reg) ∈ o.regs)
    ∧ (∃ o ∈ ([⟨false, [5]⟩] : List Dst), (5 : Reg) ∈ o.regs) := by
  refine ⟨fun v x h hx => ?_, by decide, by decide⟩
  obtain ⟨o, ho, rfl, hr⟩ | ⟨o, ho, rfl, hr⟩ := h <;> obtain rfl := List.mem_singleton.1 ho
  · exact ⟨_, List.mem_singleton_self _, rfl, rfl, hr⟩
  · obtain rfl := List.mem_singleton.1 hr
    exact absurd hx (by decide)
/-- An MMA or a ZSCALE of this troupe that is to retire. -/
def retiring (o : ArrayOp) : State := { limited with cores := [{ Core.fresh 0 with array := [o] }] }
theorem crosses_one {evs : List Ev} {c : Fin 5} (e : Ev) (h : e ∈ evs) (hc : e.counter = c) : Crosses 0 1 (tally evs c) := by
  have : 0 < tally evs c := List.countP_pos_iff.2 ⟨e, h, by simp [hc]⟩
  exact ⟨by decide, by show 1 ≤ 0 + tally evs c; omega⟩
/-- The first of a run of elements gives its events. -/
theorem first_event {f : Nat → List Ev} {n : Nat} (hn : 0 < n) {e : Ev} (h : e ∈ f 0) : e ∈ ((List.range n).map f).flatten :=
  List.mem_flatten.2 ⟨f 0, List.mem_map.2 ⟨0, List.mem_range.2 hn, rfl⟩, h⟩
theorem test_meets_OperandAndCounterTraps_retirement (o : ArrayOp) :
    ((retiring o).troupe? 1).map (fun u => (u.arith[0], u.alimit[0])) = some (0, 1)
    ∧ ((retiring o).strand? 1).map (fun v => (v.mode, v.pend)) = some (.running, [])
    ∧ ((retiring o).core (retiring o).arg.id).zfreeing[0] = false ∧ ((retiring o).core (retiring o).arg.id).array = [o] := ⟨rfl, rfl, rfl, rfl⟩
/-- A zero element times an infinite factor is invalid. -/
theorem test_meets_OperandAndCounterTraps_zscale : Crosses 0 1
    (tally (((List.range 4096).map (fun n => (ffF32.bin .mul (zelem 0 n) ((([0x7F800000] : List Quad).getD (n % 64) 0).toNat) .rne false
      (drawn .rne n 1)).events 1 0 (n / 64) (n % 64) 0x7F)).flatten) 0) := by
  refine crosses_one ⟨0, 1, 0, 0, 0, 0x7F⟩ (first_event (by decide) ?_) rfl
  have : zelem 0 0 = 0 := by simp only [zelem, BitVec.ofNat_eq_ofNat, BitVec.toNat_zero, Nat.zero_div, Nat.zero_mod]
  rw [this]
  decide
/-- So is a zero times an infinity in f16 panels. -/
def endless : Panel := ⟨5, [0, 0x7C] ++ zeros 2046, []⟩
theorem test_meets_OperandAndCounterTraps_mma : Crosses 0 1 (tally (mmaResult 0 endless ⟨5, zeros 2048, []⟩ 0 true).2 0) := by
  have h : (⟨0, 1, 0, 0, 0, 0⟩ : Ev) ∈ (mmaFloat endless ⟨5, zeros 2048, []⟩ 0 0 0 0).2 := by decide +kernel
  refine crosses_one ⟨0, 1, 0, 0, 0, 0⟩ ?_ rfl
  simp only [mmaResult, List.map_map]
  exact first_event (by decide) h

theorem test_meets_EndAndSafe : here.movesLeft = false ∧ (∀ p ∈ here.cur.pend, p.cause ≠ .postedRefused)
    ∧ (here.troupe? here.cur.troupe).isSome = true := by decide
theorem test_meets_StateRegisters : here.readyX 5 ∧ here.x 5 = 0 := by decide
theorem test_meets_PredicateResults : here.readyX 5 := by decide
theorem test_meets_VectorIntegerResults : here.readyV .g8 0 ∧ here.readyV .g8 8 ∧ here.readyX 3 ∧ here.noLimits := by decide
theorem test_meets_LaneMoves : here.readyV .g1 31 ∧ here.readyX 3 ∧ (3 : BitVec 5).toNat < 256 / laneBits .w64 := by decide
theorem test_meets_VectorFloatResults : here.readyV .g8 24 ∧ here.readyV .g1 1 ∧ here.noLimits := by decide
theorem test_meets_FloatReductionResults : here.readyV .g1 1 ∧ here.readyX 3 ∧ here.noLimits := by decide
theorem test_meets_ConversionResults : here.noLimits ∧ here.readyV .g4 8 ∧ here.readyV .g2 2 ∧ here.readyX 3
    ∧ (Instr.vcvt ⟨1, 2, 0, .rne, false, .f32, .f16, 0, 1, false, false, false⟩).wf = true
    ∧ (Instr.vpack ⟨1, 2, 3, .rne, false, .f32, .f16, 0, 0, false, false, false⟩).wf = true
    ∧ (Instr.vunpack ⟨2, 1, 0, .rne, false, .f16, .f32, 0, 0, false, false, false⟩).wf = true
    ∧ (Instr.vqnt ⟨5, 8, 9, .rne, false, .f32, .e2m1, 0, 1, false, false, false⟩).wf = true
    ∧ (Instr.vdqnt ⟨8, 5, 9, .rne, false, .e2m1, .f32, 1, 0, false, false, false⟩).wf = true := by decide
/-- A block with a NaN, blocks of ones and of zeros; a scale that makes everything NaN, a NaN element, an infinite one and a finite one. -/
theorem test_meets_ConversionResults_blocks :
    ((ffE4m3, 14, 5, 0x7F) ∈ formatRows ∧ (ffE5m2, 7, 13, 0x7E) ∈ formatRows ∧ (ffE2m1, 3, 1, 0) ∈ formatRows)
    ∧ ([(ffE4m3, 8), (ffE5m2, 15), (ffE2m1, 2)] : List (FF × Int)).length = 3
    ∧ (fmtValue .f32 ((List.replicate 32 0x7FC00000).getD 0 0) = .nan ∧ (fmtValue .f16 0x7C00).isInf = true)
    ∧ (List.replicate 32 0x3F800000).length = 32 ∧ Num.Is (fmtValue .f32 0x3F800000) false ((2 ^ 23 : Nat) * 2 ^ (-23 : Int))
    ∧ Num.Is (fmtValue .bf16 0x8000) true ((0 : Nat) * 2 ^ (-133 : Int)) ∧ ffE4m3.decode 0x7F = .nan ∧ ffE5m2.decode 0x7C = .inf false
    ∧ Num.Is (ffE4m3.decode 0x38) false ((8 : Nat) * 2 ^ (-3 : Int)) ∧ fmtFF .bf16 = some ffBf16 ∧ (ffBf16, 255, 120, 0x7FC0) ∈ formatRows :=
  ⟨by decide, by decide, by decide, by decide, ⟨_, _, by decide, rfl⟩, ⟨_, _, by decide, rfl⟩, by decide, by decide,
    ⟨_, _, by decide, rfl⟩, rfl, by decide⟩

/-- One special-function request on its way, waiting or served. -/
def special (served : Bool) : State :=
  { here with sfu := [⟨1, 0, 1, 2, .f32, .rne, false, 4, 0, 1, served, 4, 0, 0⟩], arg := { id := if served then 1 else 0 } }
theorem test_meets_SpecialFunctions :
    (here.readyV .g8 0 ∧ here.readyV .g8 8 ∧ (here.sfuQueue here.myBay).length + 2 * 8 ≤ 16)
    ∧ ((special false).sfuQueue (special false).arg.id).length = 1
    ∧ ((special true).sfu.find? (fun x => x.id == (special true).arg.id && x.served)).isSome = true
    ∧ ((special true).strand? 1).isSome = true ∧ ((special true).job ((special true).troupe 1).job).stopped = false
    ∧ (∀ k : Fin 5, ((special true).troupe 1).alimit[k] = 0)
    ∧ (let s : State := { special true with jobs := here.jobs.map (fun j => { j with stopped := true }) }
       (s.strand? 1).isSome = true ∧ (s.job (s.troupe 1).job).stopped = true)
    ∧ ({ special true with cur := Strand.blank } : State).strand? 1 = none := by decide
/-- The classes of f32 operands: NaN, the infinities, zeros, a negative, a tiny one, and one whose result is bounded. -/
theorem test_meets_SpecialFunctions_classes :
    ffF32.decode 0x7FC00000 = .nan ∧ ffF32.decode 0xFF800000 = .inf true ∧ ffF32.decode 0x80000000 = .fin true 0 (-149)
    ∧ ffF32.decode 0xBF800000 = .fin true 0x800000 (-23) ∧ ffF32.decode 1 = .fin false 1 (-149) ∧ (Nat.log2 1 : Int) + -149 < -128
    ∧ ffF32.decode 0x40400000 = .fin false 0xC00000 (-22) ∧ sfuExact .rcp (.fin false 0xC00000 (-22)) = none
    ∧ ffF16.holds 0x40400000 = true ∧ ffBf16.holds 0x40400000 = true := by decide

/-- X[5] holds a pointer. -/
def points (p : Word) : State := at1 5 p

theorem passes_own : passes (points ownP) 8 true true [ownP] (points ownP) [lmAddr 0 0x100] :=
  passes_one (by decide) (by decide)
theorem passes_dep {s : State} (n : Nat) (r w : Bool) (h : ptrOff depP % n = 0)
    (h2 : lookup s s.myBay s.myTroupe.job depP n r w false = .good (depAddr 0x40001000) (some leaf)) :
    passes s n r w [depP] (s.cacheEntry (some leaf)) [depAddr 0x40001000] :=
  ⟨_, some leaf, [], h, h2, rfl, rfl, rfl⟩

theorem test_meets_ScalarLoads :
    (points ownP).own ownP ∧ (points ownP).moving (lmAddr 0 0x100) 8 = false ∧ (points ownP).anyPoison (lmAddr 0 0x100) 8 = false
    ∧ (points ownP).mayAccess .acq = true ∧ leased depP ∧ (points depP).cur.tx.depth = 0 ∧ (points otherP).other otherP ∧ away awayP
    ∧ ptrOff awayP % 8 = 0 ∧ (points ownP).readyX 5 := by decide
theorem test_meets_ScalarLoads_depot : passes (points depP) 8 true false [depP] ((points depP).cacheEntry (some leaf)) [depAddr 0x40001000] :=
  passes_dep 8 true false (by decide) (by decide)
theorem test_meets_ScalarLoads_channel : linked.channelOpen := ⟨sendCh, by decide⟩

theorem test_meets_ScalarStores : (points ownP).refusesWrite (lmAddr 0 0x100) 4 = false ∧ (points ownP).watchers (lmAddr 0 0x100) 4 = []
    ∧ Safe (points ownP) ∧ (points ownP).mayRelease .rel .sys = true ∧ ((points otherP).core 0).journal.length < 32
    ∧ ((points otherP).core 0).replay = [] ∧ linked.mayReleaseRem .rel = true ∧ linked.chanAccepts (linked.cur.sr.chan.toNat % 4096) 1 8 = true := by
  decide

theorem test_meets_VectorMemory : here.readyV .g4 4 ∧ here.readyV .g1 31 ∧ (List.range (256 / 32)).filter (here.active 0 32 0) ≠ []
    ∧ (points ownP).mayAccess .rlx = true ∧ (points ownP).refusesWrite (lmAddr 0 0x100) 8 = false
    ∧ lookup (points depP) 0 1 (padd depP 8) 1 true false false = .good (depAddr 0x40001008) (some leaf)
    ∧ lookup (points depP) 0 1 0x1000000000060000 1 true false false = .bad .translate 0x02 0 := by decide

theorem test_meets_MemoryTraps : (points (ownP + 1)).canTrap ∧ (points (ownP + 1)).mayAccess .acq = true ∧ (points (ownP + 1)).mayAccess .rlx = true
    ∧ cachedEntry (points 0x3000000040000000) 0 1 0x3000000040000000 = none ∧ ptrOff (ownP + 1) % 2 ≠ 0
    ∧ ptrSpace 0x6000000000000000 ∉ [1, 2, 3, 4] ∧ ptrOff 0x6000000000000000 % 8 = 0
    ∧ lookup (points 0x1000000000060000) 0 1 0x1000000000060000 8 true false false = .bad .translate 0x02 0
    ∧ lookup (points 0x3000000040000000) 0 1 0x3000000040000000 8 true false false = .bad .translate 4 1 := by decide

/-- A load and a store that have been sent to the home of a depot word. -/
def loadSent : State := asked (.load 8 true 5) depP (depAddr 0x1000) .sent
def storeSent : State := asked (.store 8 7) depP (depAddr 0x1000) .sent

theorem test_meets_AccessesServed : ∃ r, loadSent.req? r.id = some r ∧ loadSent.arg.id = r.id ∧ r.isLeased = true ∧ r.kind ≠ .pref
    ∧ homeDie r.addr = dieOfCore r.core ∧ loadSent.mayServe r = true ∧ loadSent.coh.rebasing = false
    ∧ linesOf r.addr (max r.kind.span 1) = [lineOf r.addr] ∧ loadSent.lineFree r (lineOf r.addr) = true
    ∧ loadSent.homeReadable (lineOf r.addr) = true ∧ loadSent.homeGated (lineOf r.addr) = false
    ∧ loadSent.reqs.find? (fun q => q.isLeased && q.state = .sent && lineOf q.addr == depLine && homeDie q.addr == dieOfCore q.core) = some r :=
  ⟨theReq (.load 8 true 5) depP (depAddr 0x1000) .sent, by decide⟩
/-- The lease that is asked for lies beyond the floor of a line that the slice does not hold. -/
theorem test_meets_AccessesServed_stamps : ∃ r, loadSent.req? r.id = some r
    ∧ (loadSent.line (lineOf r.addr)).cached = false ∧ (loadSent.line (lineOf r.addr)).rts < r.lt + 256 :=
  ⟨theReq (.load 8 true 5) depP (depAddr 0x1000) .sent, rfl, rfl, by
    show 0 < 0 + 256
    decide⟩
theorem test_meets_AccessesServed_store : ∃ r, storeSent.req? storeSent.arg.id = some r ∧ r.kind = .store 8 7 ∧ r.tx = false
    ∧ homeDie r.addr = dieOfCore r.core ∧ storeSent.mayServe r = true ∧ linesOf r.addr 8 = [lineOf r.addr]
    ∧ storeSent.lineFree r (lineOf r.addr) = true ∧ storeSent.homeWritable (lineOf r.addr) = true
    ∧ storeSent.coh.rebasing = false ∧ storeSent.conflicts (tileOf r.addr) true = [] ∧ storeSent.refusesWrite r.addr 8 = false ∧ Safe storeSent :=
  ⟨theReq (.store 8 7) depP (depAddr 0x1000) .sent, by decide⟩
/-- Answers to a scalar load, an atomic, TOPK, a tagged load, a call, a vector register, a lane and RECV; a store whose ack brings the
line, and one whose ack does not. -/
theorem test_meets_AccessesServed_kinds (k : ReqKind) (ok : Bool) :
    ((asked k depP 0 (.answered 7 ok)).req? here.nextId).map (fun r => (r.kind, r.state)) = some (k, .answered 7 ok)
    ∧ ((asked k depP 0 (.answered 7 ok)).strand? 1).isSome = true := ⟨rfl, rfl⟩
theorem test_meets_AccessesServed_registers : answerX (.load 1 true 5) 0x80 = some (5, 0xFFFFFFFFFFFFFF80)
    ∧ answerX (.atomic 0 8 true 1 0 5) 9 = some (5, 9) ∧ answerX (.topk 0 1 5) 255 = some (5, 0xFFFFFFFFFFFFFFFF)
    ∧ answerX (.tagged 4 0 5) 1 = some (5, 1) ∧ answerX (.conserv 5) 3 = some (5, 3) ∧ answerX (.vload 5) 3 = none
    ∧ (8 : Nat) ∈ [1, 2, 4, 8] := by decide
theorem test_meets_AccessesServed_acks :
    let s : State := { asked (.store 8 7) depP 0 .performed with
      cores := [{ Core.fresh 0 with acks := [(here.nextId, ⟨depLine, 3, 300, 0⟩)] }] }
    ((s.core 0).acks.find? (fun a => a.1 == here.nextId)).isSome = true
    ∧ ((asked (.store 8 7) depP 0 .performed).core 0).acks = [] := by decide
theorem test_meets_AccessesServed_answers :
    ((asked (.load 1 true 5) depP 0 (.answered 7 true)).req? here.nextId).isSome = true
    ∧ ((asked (.store 8 7) depP 0 .performed).req? here.nextId).isSome = true
    ∧ ((asked (.store 8 7) depP 0 .refused).req? here.nextId).isSome = true ∧ here.cur.mode ≠ .stopped 5 ∧ here.cur.pend.length < 16 := by
  decide

/-- A load of a core on die 1 waits for a line whose home is die 0; die 1 holds the line; the line in a transition. -/
def farLoad (k : ReqKind) : State :=
  { asked k depP (depAddr 0x1000) .sent with
    reqs := [{ theReq k depP (depAddr 0x1000) .sent with core := 160 }], arg := { id := depLine, sel := 1 } }
def held (share : Share) (k : ReqKind) : State :=
  { farLoad k with coh := { here.coh with lines := [lineRec share 2 1], proxies := [⟨depLine, 1, 0, 0⟩] } }
theorem test_meets_DirectorySteps :
    ((farLoad (.load 8 true 5)).proxyWaiter depLine 1 false).isSome = true ∧ (farLoad (.load 8 true 5)).proxy depLine 1 = none
    ∧ ((farLoad (.load 8 true 5)).line depLine).awaiting = [] ∧ ((farLoad (.load 8 true 5)).line depLine).share = .i
    ∧ ((held .s (.store 8 7)).proxyWaiter depLine 1 true).isSome = true ∧ (held .s (.store 8 7)).proxyOwns depLine 1 = false
    ∧ (∀ d ∈ ((held .s (.store 8 7)).line depLine).dies, d = 1) ∧ (held .s (.store 8 7)).depositCores depLine = []
    ∧ ((held .m (.store 8 7)).proxy depLine 1).isSome = true ∧ ((held .m (.store 8 7)).line depLine).share = .m
    ∧ ((held .m (.store 8 7)).line depLine).owner = 1 ∧ (held .m (.store 8 7)).homeGated depLine = false
    ∧ ((held .s (.store 8 7)).proxy depLine 1).isSome = true ∧ ((held .s (.store 8 7)).line depLine).share = .s
    ∧ ((held .s (.store 8 7)).line depLine).awaiting = [] ∧ (held .s (.store 8 7)).conflicts (depLine / 16) true = []
    ∧ (∃ r, (farLoad (.load 8 true 5)).proxyWaiter depLine 1 false = some r ∧ (farLoad (.load 8 true 5)).coh.rebasing = false
        ∧ (farLoad (.load 8 true 5)).lineFree r depLine = true ∧ (farLoad (.load 8 true 5)).depositCores depLine = []) := by
  have waits : (farLoad (.load 8 true 5)).proxyWaiter depLine 1 false
      = some { theReq (.load 8 true 5) depP (depAddr 0x1000) .sent with core := 160 } := by decide
  simp only [waits, Option.some.injEq, exists_eq_left']
  decide
/-- The slice of die 1 that serves the line is gated, and the line's home slice. -/
def gated (s : State) (die : Nat) : State :=
  { s with mgmt := { s.mgmt with bays := [⟨bayOfSlice (sliceOn s depLine die), .gated, 0, false, 0, 0⟩] } }
theorem gated_slice (s : State) (die : Nat) : (gated s die).proxyGated depLine die = true := by
  show (State.bay (gated s die) (bayOfSlice (sliceOn s depLine die))).power == .gated
  simp [State.bay, gated]
theorem gated_line (s : State) (die : Nat) : ((gated s die).line depLine).share = (s.line depLine).share
    ∧ ((gated s die).line depLine).awaiting = (s.line depLine).awaiting
    ∧ ((gated s die).line depLine).reserved = (s.line depLine).reserved := by
  simp only [State.line]
  split <;> split <;> exact ⟨rfl, rfl, rfl⟩
/-- A gated slice holds nothing. -/
theorem test_meets_AccessesServed_gated : (gated loadSent 0).homeGated depLine = true := gated_slice _ _
theorem test_meets_DirectorySteps_gated :
    (farLoad (.load 8 true 5)).proxyGated depLine 1 = false ∧ (held .s (.store 8 7)).proxyGated depLine 1 = false
    ∧ (gated (farLoad (.load 8 true 5)) 1).proxyGated depLine 1 = true ∧ (gated (held .m (.store 8 7)) 0).homeGated depLine = true :=
  ⟨by decide, by decide, gated_slice _ _, gated_slice _ _⟩
/-- A store of a core on die 1, whose die owns the line, is performed at its proxy. -/
theorem test_meets_DirectorySteps_store : ∃ r, (held .m (.store 8 7)).req? here.nextId = some r ∧ r.kind = .store 8 7 ∧ r.tx = false
    ∧ homeDie r.addr ≠ dieOfCore r.core ∧ (held .m (.store 8 7)).mayServe r = true ∧ (held .m (.store 8 7)).coh.rebasing = false
    ∧ (held .m (.store 8 7)).lineFree r depLine = true ∧ (held .m (.store 8 7)).proxyOwns depLine 1 = true
    ∧ (held .m (.store 8 7)).depositCores depLine = [] ∧ (held .m (.store 8 7)).refusesWrite r.addr 8 = false ∧ Safe (held .m (.store 8 7)) :=
  ⟨{ theReq (.store 8 7) depP (depAddr 0x1000) .sent with core := 160 }, by decide⟩
/-- The home's own copy leaves its slice: no proxy is its die's. -/
theorem test_meets_DirectorySteps_home :
    let s : State := { held .s (.store 8 7) with arg := { id := depLine, sel := 0 } }
    s.proxy depLine 0 = none ∧ homeDie (depLine * 128) = 0 ∧ (∃ x ∈ s.coh.lines, x.line = depLine) ∧ (s.line depLine).awaiting = [] := by decide

/-- The same line with answers awaited, a reservation, a registered deposit, and stamps at which a rebase is due. -/
def inTransition (aw : List Nat) : State :=
  { held .s (.load 8 true 5) with
    now := 10240, coh := { here.coh with lines := [{ lineRec .s 2 1 with awaiting := aw, reserved := some 7 }], proxies := [⟨depLine, 1, 0, 0⟩] } }
def deposited : State :=
  { here with
    arg := { id := 0, sel := 0 },
    cores := [{ Core.fresh 0 with upd := [⟨⟨depAddr 0x1000, 128, 0, 1, [(depAddr 0x1000, 5)], 0⟩, [1], true, 0⟩] }] }
theorem test_meets_DirectorySteps_answers :
    1 ∈ ((inTransition [1]).line depLine).awaiting ∧ (1 : Nat) < 4 ∧ 8 ∈ ((inTransition [8]).line depLine).awaiting
    ∧ 1 + 4 ∈ ((inTransition [5]).line depLine).awaiting ∧ ((inTransition []).line depLine).reserved = some 7
    ∧ ((inTransition []).line depLine).reservedAt + 10240 ≤ (inTransition []).now
    ∧ ((deposited.core 0).upd[0]?).isSome = true ∧ Safe deposited ∧ deposited.committingOn (tileOf (depAddr 0x1000)) = false
    ∧ deposited.conflicts (tileOf (depAddr 0x1000)) true = [] ∧ (deposited.line depLine).share = .i
    ∧ (∀ u ∈ ((inTransition [8]).core 0).upd, u.registered = false) ∧ ((inTransition [1]).proxy depLine 1).isSome = true
    ∧ (∀ ln ∈ linesOf (depAddr 0x1000) 128, (deposited.line ln).share = .i ∧ ∀ a ∈ (deposited.line ln).awaiting, 8 ≤ a)
    ∧ deposited.coh.rebasing = false ∧ deposited.isPoison (depAddr 0x1000) = false
    ∧ ([(depAddr 0x1000, 5)] : List (Nat × Word)).Pairwise (fun x y => x.1 + elemBytes 1 ≤ y.1 ∨ y.1 + elemBytes 1 ≤ x.1)
    ∧ rebaseDue { here with cores := [{ Core.fresh 0 with lt := rebaseAt }] } = true ∧ here.coh.rebasing = false ∧ here.coh.lines = [] := by decide
/-- The asked die answers for a line that the home slice holds, and for one that it does not and that tells it nothing new. -/
theorem test_meets_DirectorySteps_recall :
    ((inTransition [1]).line depLine).cached = true ∧ (inTransition [1]).homeGated depLine = false
    ∧ (let s : State := { inTransition [1] with
         coh := { (inTransition [1]).coh with lines := [{ lineRec .s 2 1 with cached := false, awaiting := [1] }] } }
       (s.line depLine).cached = false ∧ s.proxy depLine 1 = some ⟨depLine, 1, 0, 0⟩ ∧ 1 ∈ (s.line depLine).awaiting
       ∧ ¬((s.line depLine).wts < 0 ∨ (s.line depLine).rts < 0)) := by decide

/-- A part of a state and a value: the value comes out, whatever the state. -/
def valueOf {ε α : Type} (x : State × Except ε α) : Option α := x.2.toOption
theorem ok_of {ε α : Type} {x : State × Except ε α} {a : α} (h : valueOf x = some a) : ∃ t, x = (t, .ok a) := by
  obtain ⟨t, _ | v⟩ := x
  · cases h
  · cases h; exact ⟨t, rfl⟩

/-- The own word with its tag empty. -/
def emptied : State := { points ownP with empties := [lmAddr 0 0x100] }
theorem test_meets_TaggedWords :
    (points ownP).own ownP ∧ (points ownP).readyX 5 ∧ (points ownP).noWaiters (lmAddr 0 0x100) ∧ (points ownP).tagFull (lmAddr 0 0x100) = true
    ∧ emptied.tagFull (lmAddr 0 0x100) = false ∧ emptied.isPoison (lmAddr 0 0x100) = false ∧ Safe emptied
    ∧ (points ownP).mayAccess (tagOrder 0 .rlx) = true ∧ (points ownP).mayRelease (tagOrder 2 .rlx) .pkg = true
    ∧ ¬(points otherP).own otherP ∧ (points ownP).mayRelease .acq .pkg = true ∧ (points ownP).watchers (lmAddr 0 0x100) 8 = []
    ∧ (points ownP).moving (lmAddr 0 0x100) 8 = false ∧ (points ownP).isPoison (lmAddr 0 0x100) = false := by decide
theorem test_meets_TaggedWords_passes : passes (points ownP) 8 true true [ownP] (points ownP) [lmAddr 0 0x100] := passes_own
theorem test_meets_TaggedWords_other : passes (points otherP) 8 true true [otherP] (points otherP) [lmAddr 1 0x100] :=
  passes_one (by decide) (by decide)

/-- The strand waits at a tagged word for its request, sent or queued with a limit of 5 ns, at 10 ns. -/
def waiting (st : ReqState) : State :=
  let s := asked (.tagged 0 0 5) otherP (lmAddr 1 0x100) st
  { s with cur := { s.cur with wait := some (.tagged here.nextId) }, reqs := s.reqs.map (fun r => { r with limit := 5 }), now := 10 }
theorem test_meets_TaggedWords_waits : ∃ r u, (waiting .sent).req? (waiting .sent).arg.id = some r ∧ r.kind = .tagged 0 0 5 ∧ r.state = .sent
    ∧ addrSpace r.addr = 1 ∧ (waiting .sent).postedBefore r (addrUnit r.addr) = true ∧ (waiting .sent).isPoison r.addr = false
    ∧ (waiting .sent).noWaiters r.addr ∧ (waiting .sent).strand? r.sid = some u ∧ u.wait = some (.tagged r.id)
    ∧ (waiting .sent).tagFull r.addr = true ∧ (waiting .sent).watchers r.addr 8 = [] ∧ Safe (waiting .sent) :=
  ⟨{ theReq (.tagged 0 0 5) otherP (lmAddr 1 0x100) .sent with limit := 5 }, (waiting .sent).cur, by decide⟩
/-- The same at a word of the gallery. -/
def waitingGal : State :=
  let s := asked (.tagged 2 9 5) 0x2000000000000008 (galAddr 0 8) .sent
  { s with cur := { s.cur with wait := some (.tagged here.nextId) }, empties := [galAddr 0 8] }
theorem test_meets_TaggedWords_gallery : ∃ r u, waitingGal.req? waitingGal.arg.id = some r ∧ r.kind = .tagged 2 9 5 ∧ r.state = .sent
    ∧ addrSpace r.addr = 2 ∧ waitingGal.homeServes r true ∧ waitingGal.isPoison r.addr = false ∧ waitingGal.noWaiters r.addr
    ∧ waitingGal.strand? r.sid = some u ∧ u.wait = some (.tagged r.id) ∧ waitingGal.tagFull r.addr = false ∧ waitingGal.watchers r.addr 8 = []
    ∧ Safe waitingGal :=
  ⟨theReq (.tagged 2 9 5) 0x2000000000000008 (galAddr 0 8) .sent, waitingGal.cur, by decide⟩
theorem test_meets_TaggedWords_timeout : ∃ r, (waiting .queued).req? (waiting .queued).arg.id = some r ∧ r.kind = .tagged 0 0 5
    ∧ r.state = .queued ∧ r.limit ≠ 0 ∧ r.retryAt + r.limit ≤ (waiting .queued).now ∧ (waiting .queued).cur.sid = r.sid
    ∧ (waiting .queued).cur.exists? = true ∧ (waiting .queued).canTrap ∧ (waiting .queued).cur.pend = []
    ∧ (waiting .queued).cur.cancelDue = false ∧ (waiting .queued).cur.cancelTaken = false :=
  ⟨{ theReq (.tagged 0 0 5) otherP (lmAddr 1 0x100) .queued with limit := 5 }, by decide⟩

/-- One entry in the posted-store journal of core 0: on its way, or answered. -/
def posted (applied : Bool) (refused : Nat) : State :=
  { here with
    arg := { id := 0, sel := 3 },
    cores := [{ Core.fresh 0 with journal := [⟨1, otherP, 7, 8, 0, 0, 1, 3, 1, applied, refused, 0, false⟩] }] }
theorem test_meets_PostedStoresAndRemoteReads :
    (∃ e, (posted false 0).entry? 0 3 = some e ∧ e.applied = false ∧ (posted false 0).entryReady 0 e = true
      ∧ ((posted false 0).bay (ptrOwner e.dest / 8)).fenced = false
      ∧ ((posted false 0).job ((posted false 0).jobOf e.sid)).hasCore (ptrOwner e.dest) = true
      ∧ (posted false 0).refusesWrite (lmAddr (ptrOwner e.dest) (ptrOff e.dest)) e.size = false ∧ Safe (posted false 0))
    ∧ ((posted true 1).entry? 0 3).isSome = true ∧ ((posted true 1).core 0).replay = [] ∧ ((posted true 1).strand? 1).isSome = true :=
  ⟨⟨⟨1, otherP, 7, 8, 0, 0, 1, 3, 1, false, 0, 0, false⟩, by decide⟩, by decide⟩
/-- Its target's bay is fenced, is not the job's, or has a lasting error. -/
theorem test_meets_PostedStoresAndRemoteReads_refusals :
    (posted false 0).arg.yes = false
    ∧ (({ posted false 0 with mgmt := { here.mgmt with bays := [⟨0, .active, 0, true, 0, 0⟩] } } : State).bay 0).fenced = true
    ∧ (let s : State := { posted false 0 with jobs := [] }
       (s.bay 0).fenced = false ∧ (s.job (s.jobOf 1)).hasCore 1 = false)
    ∧ (let s : State := { posted false 0 with arg := { id := 0, sel := 3, yes := true } }
       (s.bay 0).fenced = false ∧ (s.job (s.jobOf 1)).hasCore 1 = true ∧ s.arg.yes = true ∧ (s.entry? 0 3).isSome = true)
    ∧ ((posted true 1).strand? 1).map (fun u => (u.mode, u.pend)) = some (.running, []) := by decide
def remote : State := asked (.remote 8 true 5) otherP (lmAddr 1 0x100) .sent
theorem test_meets_PostedStoresAndRemoteReads_remote : ∃ r, remote.req? remote.arg.id = some r ∧ r.state = .sent
    ∧ remote.postedBefore r (addrUnit r.addr) = true ∧ remote.anyPoison r.addr 8 = false ∧ (∀ q ∈ remote.reqs, q.id ≠ r.id → q.sid ≠ r.sid)
    ∧ (remote.strand? r.sid).isSome = true := ⟨theReq (.remote 8 true 5) otherP (lmAddr 1 0x100) .sent, by decide⟩

/-- A request at the home of a depot word that its home serves for a write. -/
def AtHome (k : ReqKind) : Prop := ∃ r, (asked k depP (depAddr 0x1000) .sent).req? (asked k depP (depAddr 0x1000) .sent).arg.id = some r
  ∧ r.kind = k ∧ r.tx = false ∧ (asked k depP (depAddr 0x1000) .sent).homeServes r true
  ∧ (asked k depP (depAddr 0x1000) .sent).anyPoison r.addr 64 = false ∧ Safe (asked k depP (depAddr 0x1000) .sent)
theorem test_meets_Atomics_home : AtHome (.atomic 0 8 true 1 0 5) :=
  ⟨theReq (.atomic 0 8 true 1 0 5) depP (depAddr 0x1000) .sent, by decide⟩
theorem test_meets_Atomics : (points depP).readyX 5 ∧ leased (padd ((points depP).x 5) 0) ∧ (points depP).mayAccess .comm = true
    ∧ (points depP).canDeposit ⟨depAddr 0x1000, 128, 0, 1, [(depAddr 0x1000, 1)], here.nextId⟩ = true ∧ (inTx 1).cur.tx.depth ≠ 0
    ∧ (Instr.amoaddS64 ⟨6, 5, 7, 0, .rlx, .pkg, false, false, false⟩, 0, 8, true, false)
        ∈ atomics ⟨6, 5, 7, 0, .rlx, .pkg, false, false, false⟩ := by decide
theorem test_meets_Atomics_passes (w : Bool) :
    passes (points depP) 8 w true [depP] ((points depP).cacheEntry (some leaf)) [depAddr 0x40001000] := by
  cases w <;> exact passes_dep 8 _ true (by decide) (by decide)

/-- X[5] points to the depot, X[6] into the own local memory, aligned to 32. -/
def rowAt : State := { points depP with cur := (points depP).cur.putX 6 ownP }
theorem test_meets_RowsAndRecords : rowAt.readyX 5 ∧ rowAt.readyX 6 ∧ leased (rowAt.x 5) ∧ rowAt.own (rowAt.x 6) ∧ ptrOff (rowAt.x 6) % 32 = 0
    ∧ ptrOff (rowAt.x 6) + 1024 ≤ 0x60000 ∧ rowAt.moving (lmAddr 0 0x100) 1024 = false ∧ rowAt.cur.tx.depth = 0
    ∧ rowAt.anyPoison (lmAddr 0 0x100) 1024 = false ∧ (rowAt.core 0).upd = [] ∧ rowAt.reqs = [] := by decide
theorem test_meets_RowsAndRecords_passes : passes (points depP) 64 true true [depP] ((points depP).cacheEntry (some leaf)) [depAddr 0x40001000] :=
  passes_dep 64 true true (by decide) (by decide)
theorem test_meets_RowsAndRecords_passes_one_way :
    passes (points depP) 64 false true [depP] ((points depP).cacheEntry (some leaf)) [depAddr 0x40001000]
    ∧ passes (points depP) 64 true false [depP] ((points depP).cacheEntry (some leaf)) [depAddr 0x40001000] :=
  ⟨passes_dep 64 false true (by decide) (by decide), passes_dep 64 true false (by decide) (by decide)⟩
theorem test_meets_RowsAndRecords_home : AtHome (.row 0x0B 4 64 (List.replicate 64 0)) ∧ AtHome (.topk 0 1 5) :=
  ⟨⟨theReq (.row 0x0B 4 64 (List.replicate 64 0)) depP (depAddr 0x1000) .sent, by decide⟩,
   ⟨theReq (.topk 0 1 5) depP (depAddr 0x1000) .sent, by decide⟩⟩
/-- A stale row load of a line that die 1 has in its proxy, with an older copy at home. -/
def behind (wts at' : Nat) : State :=
  { held .m (.ldrow 64 true 0x100 [] []) with
    arg := { id := here.nextId },
    coh := { here.coh with
      lines := [{ lineRec .m 2 1 with stale := some 9, staleWts := wts, staleAt := at' }], proxies := [⟨depLine, 1, 300, 300⟩] } }
/-- The old copy misses nothing that it must not miss, or it may miss the strand's own store; there is no commit on the tile. -/
theorem test_meets_RowsAndRecords_stale : ∃ r, (behind 300 1).req? (behind 300 1).arg.id = some r ∧ r.kind = .ldrow 64 true 0x100 [] [] ∧ r.tx = false
    ∧ (∀ b ∈ [behind 300 1, behind 0 0], b.mayServe r = true ∧ (∀ ln ∈ linesOf r.addr 64, b.committingOn (ln / 16) = false)
        ∧ b.anyPoison r.addr 64 = false)
    ∧ (∀ ln ∈ linesOf r.addr 64, (behind 300 1).staleUsable r ln = true) ∧ linesOf r.addr 64 = [depLine]
    ∧ (behind 0 0).staleUsable r depLine = false ∧ ((behind 0 0).line depLine).awaiting = [] ∧ ((behind 0 0).line depLine).share = .m
    ∧ (behind 0 0).proxy depLine ((behind 0 0).line depLine).owner = some ⟨depLine, 1, 300, 300⟩ :=
  ⟨{ theReq (.ldrow 64 true 0x100 [] []) depP (depAddr 0x1000) .sent with core := 160 }, by decide⟩
/-- ½ lies below 1; 1 does not lie below itself. -/
theorem half_under_one : Num.Under (ffF32.decode 0x3F000000) (ffF32.decode 0x3F800000) := by
  refine ⟨((1 / 2 : ℝ) : EReal), ((1 : ℝ) : EReal), ?_, ?_, .inl (EReal.coe_lt_coe_iff.2 (by norm_num))⟩ <;>
    simp only [show ffF32.decode 0x3F000000 = .fin false (2 ^ 23) (-24) by decide, show ffF32.decode 0x3F800000 = .fin false (2 ^ 23) (-23) by decide,
      Num.At] <;> congr 1 <;> norm_num
theorem one_not_under_one : ¬Num.Under (ffF32.decode 0x3F800000) (ffF32.decode 0x3F800000) := by
  rintro ⟨x, y, hx, hy, h⟩
  rw [show ffF32.decode 0x3F800000 = .fin false (2 ^ 23) (-23) by decide] at *
  obtain rfl : x = y := hx.trans hy.symm
  obtain h | ⟨-, h, -⟩ := h
  · exact lt_irrefl _ h
  · exact absurd h (by decide)
/-- A record with k 2 and the entries (expert 9, score 1) and (expert 3, score ½), and one with room. -/
def record (n : Nat) : List Byte :=
  natBytes 4 7 ++ [2, BitVec.ofNat 8 n, 0, 0] ++ natBytes 4 0x3F800000 ++ natBytes 4 9 ++ natBytes 4 0x3F000000 ++ natBytes 4 3 ++ zeros 40
/-- A NaN score and a k out of range; a duplicate that the new score does not pass, and one that it passes; an expert that is not there, which
finds both entries above it in a full record, or room. -/
theorem test_meets_RowsAndRecords_topk :
    (recField (record 2) 4 1 = 2 ∧ min (recField (record 2) 5 1) 2 = 2 ∧ min (recField (record 1) 5 1) 2 = 1)
    ∧ (ffF32.decode 0x7FC00000 = .nan ∧ recField (zeros 64) 4 1 = 0)
    ∧ (∀ i, i < 2 → ffF32.decode (recEntry (record 2) i).1 ≠ .nan) ∧ recEntry (record 2) 0 = (0x3F800000, 9) ∧ recEntry (record 2) 1 = (0x3F000000, 3)
    ∧ (∀ i, i < 2 → ((recEntry (record 2) i).2 = 9 ↔ i = 0)) ∧ ¬Num.Under (ffF32.decode (recEntry (record 2) 0).1) (ffF32.decode 0x3F800000)
    ∧ (∀ i, i < 2 → ((recEntry (record 2) i).2 = 3 ↔ i = 1)) ∧ Num.Under (ffF32.decode (recEntry (record 2) 1).1) (ffF32.decode 0x3F800000)
    ∧ (∀ i, i < 2 → (recEntry (record 2) i).2 ≠ 12) ∧ Outranks (recEntry (record 2) 0) (0x3F000000, 12) ∧ Outranks (recEntry (record 2) 1) (0x3F000000, 12)
    ∧ Set.ncard {i | i < 0 ∧ Outranks (recEntry (record 0) i) (0x3F000000, 12)} < 2 := by
  have e0 : recEntry (record 2) 0 = (0x3F800000, 9) := by decide
  have e1 : recEntry (record 2) 1 = (0x3F000000, 3) := by decide
  refine ⟨by decide, by decide, by decide, e0, e1, by decide, ?_, by decide, ?_, by decide, ?_, ?_, by simp⟩
  · rw [e0]; exact one_not_under_one
  · rw [e1]; exact half_under_one
  · rw [e0]; exact .inl half_under_one
  · rw [e1]; exact .inr ⟨rfl, by decide⟩
/-- R286's table: after (9, 0.75) the insertion of (3, 0.75) returns 0 and stands first. -/
theorem test_topk_ties :
    let one := natBytes 4 1 ++ [2, 1, 0, 0] ++ natBytes 4 0x3F400000 ++ natBytes 4 9 ++ zeros 48
    (topkInsert one 0x3F400000 3).2 = 0 ∧ (topkInsert one 0x3F400000 3).1.take 24
      = natBytes 4 2 ++ [2, 2, 0, 0] ++ natBytes 4 0x3F400000 ++ natBytes 4 3 ++ natBytes 4 0x3F400000 ++ natBytes 4 9 := by decide
theorem test_meets_RowsAndRecords_load : ∃ r, (asked (.ldrow 64 false 0x100 [] []) depP (depAddr 0x1000) .sent).req? here.nextId = some r
    ∧ r.tx = false ∧ (asked (.ldrow 64 false 0x100 [] []) depP (depAddr 0x1000) .sent).homeServes r false
    ∧ (asked (.ldrow 64 false 0x100 (List.replicate 64 1) [7]) depP (depAddr 0x1000) (.answered 0 true)).anyPoison r.addr 64 = false
    ∧ 8 * 7 + 8 ≤ (List.replicate 64 (1 : Byte)).length ∧ Safe (asked (.ldrow 64 false 0x100 [] []) depP (depAddr 0x1000) .sent) :=
  ⟨theReq (.ldrow 64 false 0x100 [] []) depP (depAddr 0x1000) .sent, by decide⟩

/-- The transaction commits with nothing left to apply; a conflict has been decided against it. -/
def commits (comm : List Deposit) : State :=
  { here with cur := { here.cur with tx := { Tx.none with depth := 1, committing := true, comm := comm } }, arg := { id := 1 } }
def doomed : State := { here with cur := { here.cur with tx := { Tx.none with depth := 1, doomed := some depP } }, arg := { id := 1 } }
theorem test_meets_TransactionResults :
    (here.cur.tx.depth = 0 ∧ here.cur.xfull ||| 1 = BitVec.allOnes 32 ∧ here.cur.vfull = BitVec.allOnes 32 ∧ here.mayAccess .acq = true)
    ∧ (0 < (inTx 14).cur.tx.depth ∧ (inTx 14).cur.tx.depth < 15) ∧ ((inTx 15).cur.tx.depth = 15 ∧ (inTx 15).cur.exists? = true) ∧ here.canTrap
    ∧ ((inTx 1).cur.tx.doomed = none ∧ (inTx 1).releaseReady (inTx 1).cur.sid (inTx 1).cur.core .pkg (inTx 1).nextId = true ∧ (inTx 1).reqs = [])
    ∧ ((doomed.strand? 1).map (·.tx.doomed) = some (some depP))
    ∧ ((commits []).strand? 1).map (fun u => (u.tx.committing, u.tx.tiles, u.tx.comm)) = some (true, [], []) ∧ Safe (commits [])
    ∧ ((commits [⟨depAddr 0x1000, 128, 0, 1, [(depAddr 0x1000, 1)], 0⟩]).focus 1).canDeposit ⟨depAddr 0x1000, 128, 0, 1, [(depAddr 0x1000, 1)], 0⟩ = true := by
  decide

/-- A load of a transaction on its way to its tile. -/
def txLoad : State :=
  let s := asked (.load 8 true 5) depP (depAddr 0x1000) .sent
  { s with cur := (inTx 1).cur, reqs := s.reqs.map (fun r => { r with tx := true }) }
theorem test_meets_TransactionResults_registration : ∃ r u, txLoad.req? txLoad.arg.id = some r ∧ txLoad.strand? r.sid = some u ∧ r.tx = true
    ∧ txLoad.mayServe r = true ∧ u.tx.doomed = none ∧ u.tx.has (tileOf r.addr) false = false ∧ u.tx.exceeds (tileOf r.addr) true false = false
    ∧ txLoad.coh.rebasing = false ∧ (∀ ln ∈ linesOf r.addr 8, txLoad.lineFree r ln = true)
    ∧ (∀ v ∈ txLoad.conflicts (tileOf r.addr) false, v.sid = r.sid) ∧ (∀ ln ∈ r.tileLines, txLoad.homeReadable ln = true) ∧ txLoad.txPoison u.tx r.addr 8 = false :=
  ⟨{ theReq (.load 8 true 5) depP (depAddr 0x1000) .sent with tx := true }, txLoad.cur, by decide⟩
/-- A byte of a poisoned word, which it does not cover, is to be committed, on the slice that the step names. -/
def lost : State :=
  let s := { commits [] with
    cur := { here.cur with tx := { Tx.none with
      depth := 1, committing := true, tiles := [⟨tileOf (depAddr 0x1000), false, true, false, 0, depP⟩], spec := [(depAddr 0x1000, 7)] } },
    poison := [depAddr 0x1000] }
  { s with arg := { id := 1, sel := (tileSlice s (tileOf (depAddr 0x1000))).1 * 80 + (tileSlice s (tileOf (depAddr 0x1000))).2 } }
theorem lost_slice : tileSlice lost (tileOf (depAddr 0x1000)) = (lost.arg.sel / 80, lost.arg.sel % 80) := by
  have h : (tileSlice lost (tileOf (depAddr 0x1000))).2 < 80 := Nat.mod_lt _ (by decide)
  have e : lost.arg.sel = (tileSlice lost (tileOf (depAddr 0x1000))).1 * 80 + (tileSlice lost (tileOf (depAddr 0x1000))).2 := rfl
  exact Prod.ext (by simp only [e]; omega) (by simp only [e]; omega)
theorem test_meets_TransactionResults_lost : ∃ u, lost.strand? lost.arg.id = some u ∧ u.tx.committing = true ∧ Safe lost
    ∧ (depAddr 0x1000, 7) ∈ u.tx.spec ∧ ((u.tx.tiles.filter (fun x => tileSlice lost x.tile == (lost.arg.sel / 80, lost.arg.sel % 80))).any
      (fun x => x.tile == tileOf (depAddr 0x1000))) = true
    ∧ lost.isPoison (depAddr 0x1000) = true ∧ u.tx.covers (wordOf (depAddr 0x1000)) = false ∧ u.mode ≠ .stopped 5 ∧ u.pend.length < 16 := by
  refine ⟨lost.cur, rfl, rfl, by decide, by decide, ?_, by decide, by decide, by decide, by decide⟩
  show ((lost.cur.tx.tiles.filter _).any _) = true
  simp only [show lost.cur.tx.tiles = [⟨tileOf (depAddr 0x1000), false, true, false, 0, depP⟩] from rfl, List.filter_cons, lost_slice, beq_self_eq_true,
    if_true, List.any_cons, Bool.true_or]

/-- A second strand of the troupe, in a cohort, that waits or runs. -/
def pair (cohort : Bool) (w : Option Wait) : State :=
  { here with
    launches := here.launches.map (fun l => { l with cohort := cohort }),
    rest := [{ here.cur with sid := 2, hw := 1, wait := w }] }
theorem test_meets_FencesAndBarriers :
    (here.readyX 5 ∧ here.fenceReady here.cur.sid here.cur.core here.nextId .sc .pkg = true ∧ here.cur.exists? = true)
    ∧ loadSent.fenceReady loadSent.cur.sid loadSent.cur.core (loadSent.nextId + 1) .acq .pkg = false
    ∧ ((pair false none).mayAccess .rlx = true ∧ (∃ u ∈ (pair false none).rest, u.inTroupe 1 ∧ u.wait ≠ some .tbar))
    ∧ ((pair false (some .tbar)).myTroupe.place = .placed
        ∧ ∀ u ∈ (pair false (some .tbar)).rest, u.inTroupe 1 → u.mode = .running ∧ u.wait = some .tbar)
    ∧ (here.launch? here.myTroupe.launch).map (·.cohort) = some false ∧ ((pair true none).launch? here.myTroupe.launch).map (·.cohort) = some true
    ∧ (pair true none).releaseReady 1 0 ((pair true none).launchScope here.myTroupe.launch) here.nextId = true
    ∧ (∀ r ∈ (pair true (some .lbar)).troupes, r.place = .placed) := by decide

/-- A store that came before the last FENCEI is on its way, and one that came after it; no word is in the instruction cache. -/
theorem test_meets_FencesAndBarriers_fetch :
    let before : State := { storeSent with cur := { storeSent.cur with fencei := here.nextId + 1 } }
    icacheWord before (depAddr 0x1002) = none ∧ (∀ q ∈ before.reqs, q.sid = 1 ∧ q.tx = false ∧ q.done = false ∧ q.id < before.cur.fencei)
    ∧ before.reqs.map (·.kind) = [.store 8 7]
    ∧ (∀ q ∈ storeSent.reqs, q.sid = storeSent.cur.sid → storeSent.cur.fencei ≤ q.id ∨ q.done = true) := by decide
/-- No transaction commits; one commits both bytes of the word. -/
theorem test_meets_FencesAndBarriers_commit :
    (∀ u ∈ here.strands, u.tx.committing = false)
    ∧ (let s : State := { commits [] with
         cur := { (commits []).cur with tx := { (commits []).cur.tx with spec := [(depAddr 0x1002, 1), (depAddr 0x1003, 2)] } } }
       icacheWord s (depAddr 0x1002) = none ∧ s.reqs = [] ∧ s.cur ∈ s.strands ∧ (∀ v ∈ s.strands, v = s.cur) ∧ s.cur.exists? = true
       ∧ s.cur.tx.committing = true ∧ (∃ c ∈ s.cur.tx.spec, c.1 = depAddr 0x1002) ∧ s.cur.tx.spec.Pairwise (fun c d => c.1 ≠ d.1)
       ∧ (depAddr 0x1002, 1) ∈ s.cur.tx.spec ∧ (depAddr 0x1002 + 1, 2) ∈ s.cur.tx.spec) := by decide
/-- The other strand of the barrier has released what it must, or has a store on its way. -/
theorem test_meets_FencesAndBarriers_late :
    let s := pair true (some .lbar)
    let l := here.myTroupe.launch
    let late : State := { s with reqs := [{ theReq (.store 8 7) depP (depAddr 0x1000) .sent with sid := 2 }], nextId := here.nextId + 1 }
    s.releaseReady 2 0 (s.launchScope l) s.nextId = true ∧ late.releaseReady 2 0 (late.launchScope l) late.nextId = false
    ∧ late.releaseReady 1 0 (late.launchScope l) late.nextId = true := by decide
/-- Events of the job lie at depot offset 0x2000; the count of event 1 is n. -/
def counted (n : Nat) : State :=
  { here with
    jobs := here.jobs.map (fun j => { j with evtab := 0x3000000000002000 }),
    mem := Memory.writeN here.mem (depAddr 0x40002004) 4 n }
theorem test_meets_CountersAndEvents :
    ((3 : Quad) ≤ 3 ∧ here.k 4 < 1) ∧ (65536 ≤ ((at1 5 65536).x 5).toNat ∧ (at1 5 65536).canTrap)
    ∧ (((at1 5 1).x 5).toNat < 65536 ∧ (at1 5 1).releaseReady 1 0 .pkg (at1 5 1).nextId = true)
    ∧ ((counted 9).nothingToWiden 1 1 ∧ 9 ≤ (counted 9).eventCount 1 1 ∧ (counted 0).eventCount 1 1 < 1)
    ∧ ((counted 0).reg.waits.filter (·.hardware)).length < 4096
    ∧ eventPhys (counted 0) 1 1 = some (depAddr 0x40002004) ∧ (counted 0).isPoison (depAddr 0x40002004) = false ∧ Safe (counted 0)
    ∧ (counted 0).Quiet := by decide
/-- A wait for event 1 in the overflow list, its mark set; an amount on its way. -/
def listed (n : Nat) : State :=
  { counted n with
    cur := { here.cur with wait := some (.event 7) }, arg := { id := 1, sel := 0 },
    reg := { here.reg with waits := [⟨7, 1, 1, 5, none, 1, false, true, 0⟩], requests := [(1, .event 1 2 3 1 0 none)] } }
theorem test_meets_CountersAndEvents_lists :
    ((listed 5).reg.waits.filter (fun w => w.job == 1 && !w.hardware))[0]? = some ⟨7, 1, 1, 5, none, 1, false, true, 0⟩
    ∧ (listed 5).dueWaits 1 1 = [⟨7, 1, 1, 5, none, 1, false, true, 0⟩] ∧ (listed 5).nothingToWiden 1 1
    ∧ (∀ x ∈ (listed 4).dueWaits 1 1, x.hardware = false)
    ∧ (let older : WaitEntry := ⟨6, 1, 1, 5, none, 1, false, true, 0⟩
       ({ listed 5 with reg := { (listed 5).reg with waits := older :: (listed 5).reg.waits } } : State).dueWaits 1 1
         = [older, ⟨7, 1, 1, 5, none, 1, false, true, 0⟩])
    ∧ 5 ≤ (listed 5).eventCount 1 1 ∧ (listed 4).eventCount 1 1 < 5 ∧ ((listed 5).strand? 1).map (·.wait) = some (some (.event 7))
    ∧ ((listed 0).reg.requests.find? (fun r => r.1 == 1)).isSome = true
    ∧ (∀ w ∈ (listed 0).reg.waits, ¬(w.job = 1 ∧ w.event = 2)) := by decide
/-- The amount waits for a store of its strand before the EVSIG; for none in `listed`. -/
theorem test_meets_CountersAndEvents_add :
    let s : State := { storeSent with
      jobs := (counted 0).jobs, arg := { id := here.nextId + 1 },
      reg := { here.reg with requests := [(here.nextId + 1, .event 1 1 3 1 0 none)] } }
    (s.reg.requests.find? (fun r => r.1 == s.arg.id)).isSome = true ∧ (eventPhys s 1 1).isSome = true
    ∧ s.releaseReady 1 0 .pkg s.arg.id = false ∧ (listed 0).releaseReady 1 0 .pkg (listed 0).arg.id = true := by decide
theorem test_meets_CountersAndEvents_watch :
    (points ownP).behindOlder 1 here.nextId (lmAddr 0 0x100) 8 = false ∧ (points ownP).postedDone ownP = true
    ∧ (points ownP).word (lmAddr 0 0x100) ≠ (points ownP).x 5 ∧ (points ownP).word (lmAddr 0 0x100) = (points ownP).x 6
    ∧ (points ownP).ownDeposits 0 (lmAddr 0 0x100) 8 = false ∧ (points depP).ownDeposits 0 (depAddr 0x40001000) 8 = false
    ∧ (points ownP).cur.tx.spec = [] ∧ (points depP).Quiet ∧ (points depP).word (depAddr 0x40001000) = (points depP).x 6 := by decide

/-! ### Engines, rings, the matrix array -/

/-- A copy of 16 bytes in the own local memory, in a state of its life, with the pages it holds. -/
def copy (st : CmdState) (pages : Bool) (pos : Nat) : Cmd :=
  let page : Xlat := ⟨0x1000000000000000, 0x60000, lmAddr 0 0, false⟩
  { id := 1, sid := 1, job := 1, core := 0, troupe := 1, kind := .copy ownP 0x1000000000000200 16 1 0 0, page := 6, opcode := 1, k := 3, bytes := false,
    credit := 16, scope := .pkg, chan := 0, mask := 0, engine := 0, state := st, pos := pos, moved := [], packets := 0,
    sx := if pages then [page] else [], dx := if pages then [page] else [], loaded := [], bound := none, pc := 0, issuer := ⟨0, 0, 0, 1⟩ }
def copies (st : CmdState) (pages : Bool) (pos : Nat) : State := { here with cmds := [copy st pages pos], arg := { id := 1 } }
/-- Three registers with the operands of a CPY of 8 bytes, and V[4] with the geometry of a CPY2. -/
def copyRegs : State :=
  { here with cur := (((here.cur.putX 5 ownP).putX 6 0x1000000000000200).putX 7 8).putV 4 (8 + 2 ^ 64) }
theorem test_meets_CopyCommands :
    copyRegs.readyX 5 ∧ copyRegs.mayCommand = true ∧ ptrOff (copyRegs.x 5) % 8 = 0 ∧ ptrSpace (copyRegs.x 5) ∈ [1, 2, 3, 5]
    ∧ ptrSpace (copyRegs.x 6) ∈ [1, 2, 3, 4, 5] ∧ copyRegs.roomForCmd ∧ (copyRegs.x 7).toNat % 8 = 0 ∧ copyRegs.x 7 ≠ 0 ∧ copyRegs.x 8 = 0
    ∧ copyRegs.cur.exists? = true ∧ copyRegs.cur.wait = none ∧ copyRegs.canTrap
    ∧ (copyRegs.readyV .g1 4 ∧ copyRegs.laneOf 4 64 0 0 = 8 ∧ copyRegs.laneOf 4 64 0 1 = 1 ∧ copyRegs.laneOf 4 64 0 2 = 0) := by decide +kernel

/-- The operands of a CPYC of 32 elements from local memory to the depot. -/
def convertRegs : State := { here with cur := (here.cur.putX 5 32).putV 4 (BitVec.ofNat 256 (depP.toNat + ownP.toNat * 2 ^ 64)) }
theorem test_meets_CopyCommands_convert : 32 ≤ (convertRegs.x 5).toNat ∧ (convertRegs.x 5).toNat % 32 = 0 ∧ convertRegs.readyV .g1 4
    ∧ BitVec.ofNat 64 (convertRegs.laneOf 4 64 0 0) = depP ∧ BitVec.ofNat 64 (convertRegs.laneOf 4 64 0 1) = ownP
    ∧ BitVec.ofNat 64 (convertRegs.laneOf 4 64 0 2) = 0 ∧ BitVec.ofNat 64 (convertRegs.laneOf 4 64 0 3) = 0
    ∧ convertRegs.mayCommand = true ∧ convertRegs.canTrap := by decide

/-- Two rings of int8 with a panel ready in each and nothing pending; accumulator 0 held. -/
def ringOf (base : Nat) : Ring := { Ring.unbound with base := base, count := 2, fmt := 6, ready := 1, troupe := 1 }
def matrixCore : Core :=
  { Core.fresh 0 with
    rings := ((Core.fresh 0).rings.set 0 (ringOf 0)).set 1 (ringOf 4096), zholder := (Core.fresh 0).zholder.set 0 (some 1) }
def ringed : State := { points 0x3000000000002000 with cores := [matrixCore] }
theorem test_meets_CopyCommands_rings :
    ringed.readyX 5 ∧ ringed.roomForCmd ∧ (ringed.ring 0 0).count ≠ 0 ∧ (ringed.ring 0 0).troupe = ringed.cur.troupe ∧ leased (ringed.x 5)
    ∧ ptrOff (ringed.x 5) % 2048 = 0 ∧ (ringed.ring 0 0).fmt ∉ [0x11, 0x12, 0x13] ∧ (ringed.ring 0 0).waiting = []
    ∧ 1 ≤ (ringed.ring 0 0).count - (ringed.ring 0 0).ready - (ringed.ring 0 0).pend ∧ (ringed.ring 0 2).count = 0 ∧ ringed.canTrap
    ∧ (rowAt.own (rowAt.x 6) ∧ ptrOff (rowAt.x 6) % 4 = 0 ∧ leased (rowAt.x 5) ∧ ptrOff (rowAt.x 5) % 2 ^ 3 = 0 ∧ ptrOff (rowAt.x 5) % 2 ^ 10 = 0)
    ∧ (2 : BitVec 4).toNat < 3 ∧ 10 < (11 : BitVec 4).toNat ∧ rowAt.roomForCmd ∧ rowAt.canTrap := by decide

theorem test_meets_EngineSteps :
    (copies .queued false 0).cmds.find? (fun x => x.engine == 0 && x.state = .queued) = some (copy .queued false 0)
    ∧ (copies .active false 2).cmd? 1 = some (copy .active false 2) ∧ (copy .active false 2).units ≤ (copy .active false 2).pos
    ∧ (copy .active false 0).pos < (copy .active false 0).units ∧ (copy .active false 0).left (copies .active false 0) = [0, 1]
    ∧ (∀ e ∈ (copy .active false 0).ready (copies .active false 0), (copy .active false 0).inHand e = false)
    ∧ (copy .active false 0).has 0 = false ∧ xlatFor (copy .active false 0).sx ownP 8 = none ∧ xlatFor (copy .active false 0).dx ownP 8 = none
    ∧ (∀ h ∈ (copies .active false 0).reg.shoots, h.job ≠ 1)
    ∧ (copy .active false 0).toRem = false ∧ (copy .active false 0).loaded = []
    ∧ ({ copy .active false 0 with moved := [0, 1] } : Cmd).left { copies .active false 0 with cmds := [{ copy .active false 0 with moved := [0, 1] }] } = []
    ∧ lookup (copies .active false 0) 80 1 ((copy .active false 0).ptrs (copies .active false 0) 0).1 8 true false false = .good (lmAddr 0 0x100) none
    ∧ lookup (copies .active false 0) 80 1 ((copy .active false 0).ptrs (copies .active false 0) 0).2 8 false true false = .good (lmAddr 0 0x200) none
    ∧ (copies .active false 0).tlb = []
    ∧ ({ copies .done false 2 with arg := { id := 1 } } : State).cmd? 1 = some (copy .done false 2) ∧ ((copies .done false 2).strand? 1).isSome = true := by
  decide
/-- A shootdown of the job is pending; the copy holds both pages; one of its words has been read. -/
def readOne : Cmd := { copy .active true 0 with loaded := [(0, some (zeros 8))] }
def readState (n : Nat) : State := { here with cmds := [readOne], arg := { id := 1, sel := n } }
theorem test_meets_EngineSteps_pages :
    (∃ h ∈ ({ copies .active false 0 with reg := { here.reg with shoots := [⟨1, 1, 0, 65536, [80], 1, 5, [], false, false, 0, []⟩] } } : State).reg.shoots,
      h.job = (copy .active false 0).job)
    ∧ (copies .active true 0).Quiet ∧ Safe (copies .active true 0)
    ∧ ((copy .active true 0).ready (copies .active true 0)).map (fun e => (e.1, e.2.ptr, (copy .active true 0).inHand e))
        = [(none, ownP, true), (none, ptrAt ownP 8, true)]
    ∧ addrSpace (lmAddr 0 0x100) ≠ 5 ∧ (copies .active true 0).anyPoison (lmAddr 0 0x100) 8 = false
    ∧ (readOne.ready (readState 1)).map (·.1) = [some 0, none] ∧ readOne.got 0 = some (zeros 8) ∧ readOne.has 1 = false
    ∧ (xlatFor readOne.dx (readOne.ptrs (readState 1) 0).2 8).map (fun x => addrSpace (x.phys' (readOne.ptrs (readState 1) 0).2)) = some 1
    ∧ ({ readOne with dx := [] } : Cmd).got 0 = some (zeros 8) := by decide
/-- A CPYR waits first for its slots. -/
theorem test_meets_EngineSteps_reserve :
    let s : State := { ringed with
      cores := [{ matrixCore with rings := matrixCore.rings.set 0 { ringOf 0 with waiting := [1] } }],
      cmds := [{ copy .reserving false 0 with kind := .ring 0 0 1 6 depP 0 [] }] }
    (s.cmd? 1).map (·.state) = some .reserving ∧ (s.ring 0 0).waiting.head? = some 1
    ∧ 1 ≤ (s.ring 0 0).count - (s.ring 0 0).ready - (s.ring 0 0).pend := by decide
/-- A paused copy with and without a shootdown of its job; a copy to another package whose words have all been read but not sent. -/
def awayCopy (st : CmdState) : Cmd :=
  { copy st false 0 with kind := .copy ownP awayP 16 1 0 0, loaded := [(0, some (zeros 8)), (1, some (zeros 8))] }
theorem test_meets_EngineSteps_paused :
    ((copies .paused false 0).cmd? 1 = some (copy .paused false 0) ∧ (copies .paused false 0).reg.shoots = [])
    ∧ (let s : State := { here with cmds := [awayCopy .paused], arg := { id := 1 } }
       s.cmd? 1 = some (awayCopy .paused) ∧ (awayCopy .paused).pos < (awayCopy .paused).units ∧ (awayCopy .paused).left s = []
       ∧ (awayCopy .paused).toRem = true ∧ (awayCopy .active).ready { s with cmds := [awayCopy .active] } = [])
    ∧ (let c : Cmd := { awayCopy .active with loaded := [] }
       c.left { here with cmds := [c] } = [0, 1] ∧ ptrSpace awayP = 4 ∧ (0 : Nat) < min (c.rowEnd c.pos) c.units ∧ 0 ∉ c.moved)
    ∧ ∃ h ∈ ({ copies .paused false 0 with reg := { here.reg with shoots := [⟨1, 1, 0, 65536, [80], 1, 5, [], false, false, 0, []⟩] } } : State).reg.shoots,
        h.job = (copy .paused false 0).job := by decide

/-- V[4] defines a ring of two int8 panels at offset 0, or none. -/
def ringDef (count : Nat) : State := { here with cur := here.cur.putV 4 (BitVec.ofNat 256 (count * 2 ^ 32 + 6 * 2 ^ 40)) }
theorem test_meets_RingsAndAccumulators :
    ((ringDef 2).readyV .g1 4 ∧ ((ringDef 2).ring 0 3).count = 0 ∧ ((ringDef 2).ring 0 3).pend = 0 ∧ (ringDef 2).heldFor 3 = false ∧ ((ringDef 2).core 0).array = []
      ∧ ((ringDef 2).v 4).toNat / 2 ^ 32 % 2 ^ 8 = 2 ∧ ((ringDef 2).v 4).toNat / 2 ^ 40 % 2 ^ 8 ∈ [1, 2, 3, 4, 5, 6, 7, 0x11, 0x12, 0x13]
      ∧ 0 + 2048 * 2 ≤ (ringDef 2).myTroupe.lmOff + (ringDef 2).myTroupe.lm * 1024 ∧ ((ringDef 0).v 4).toNat / 2 ^ 32 % 2 ^ 8 = 0)
    ∧ ((ringed.ring 0 0).pend = 0 ∧ (ringed.ring 0 0).ready + 1 ≤ (ringed.ring 0 0).count ∧ ringed.releaseReady 1 0 .cor ringed.nextId = true)
    ∧ ((here.core 0).zholder[0] = none ∧ (here.core 0).zwait[0] = [] ∧ here.holdsZ 0 = false ∧ ringed.holdsZ 0 = true
      ∧ ringed.zquiet 0 = true ∧ ringed.zmoving 0 0 = false ∧ 1 ∉ (ringed.core 0).zwait[0] ∧ (∀ u ∈ ringed.troupes, u.place ≠ .waiting)
      ∧ ringed.canTrap ∧ ringed.mayAccess .rlx = true ∧ ringed.readyX 5)
    ∧ lookup ringed 0 1 0x100000000005FF00 16384 true false false = .bad .translate 0x06 0
    ∧ ((0 : Nat) < 4096 ∧ 0 / 64 % 8 = 0 ∧ 0 / 64 + 8 * Grp.g8.count ≤ 64)
    ∧ (ptrOff (0x1000000000000100 : Word) % 256 = 0 ∧ lookup ringed 0 1 ownP 16384 true false false = .good (lmAddr 0 0x100) none
      ∧ ringed.moving (lmAddr 0 0x100) 16384 = false ∧ ringed.noLimits ∧ (ringed.x 6).toNat < 4096 ∧ ringed.readyV .g8 8) := by decide

theorem test_meets_MatrixArray :
    (ringed.ring 0 0).count ≠ 0 ∧ (ringed.ring 0 1).count ≠ 0 ∧ (ringed.ring 0 1).troupe = ringed.cur.troupe
    ∧ ringGroup (ringed.ring 0 0).fmt = ringGroup (ringed.ring 0 1).fmt ∧ ringed.holdsZ (accOfReg 0) = true
    ∧ (ringed.ring 0 0).claim < (ringed.ring 0 0).ready ∧ (ringed.ring 0 1).claim < (ringed.ring 0 1).ready ∧ (ringed.core 0).array = []
    ∧ ringed.poison = [] ∧ ringed.readyV .g8 8 ∧ ringed.mayAccess .rlx = true ∧ ringed.zmoving 0 0 = false := by decide
/-- A ZST of the other accumulator moves bytes of the panel, or no move touches one. -/
theorem test_meets_MatrixArray_moving :
    (let s : State := { ringed with moves := [⟨1, 1, 0, 0, 16384, 1, true, [0]⟩] }
     s.panelMoving (s.ring 0 0) = true ∧ s.zmoving 0 0 = false)
    ∧ ringed.panelMoving (ringed.ring 0 0) = false ∧ ringed.panelMoving (ringed.ring 0 1) = false := by decide

/-- An MMA or a ZSCALE at the front of the array of core 0, and a ZLD on its way. -/
def arrayed (o : ArrayOp) : State := { ringed with cores := [{ matrixCore with array := [o] }] }
def anMma (started : Bool) (fmt : Nat) : ArrayOp := .mma 1 1 0 0 1 ⟨fmt, List.replicate 2048 1, []⟩ ⟨fmt, List.replicate 2048 1, []⟩ false true false started 0
theorem test_meets_MatrixArray_steps :
    ((arrayed (anMma false 6)).core 0).array = [anMma false 6] ∧ ((arrayed (anMma true 6)).core 0).array = [anMma true 6]
    ∧ ((arrayed (anMma true 6)).core 0).zfreeing[0] = false ∧ (∀ k : Fin 5, ((arrayed (anMma true 6)).troupe 1).alimit[k] = 0)
    ∧ ringGroup 6 = 7 ∧ ringGroup 3 ≠ 7
    ∧ ((arrayed (.zscale 1 1 0 .rne false 1 [] true 0)).core 0).array = [.zscale 1 1 0 .rne false 1 [] true 0]
    ∧ (({ ringed with moves := [⟨1, 1, 0, 0x100, 16384, 0, false, [0, 2047]⟩], arg := { id := 1 } } : State).moves.find? (fun m => m.id == 1)).isSome = true := by
  decide +kernel

/-! ### Span -/

/-- X[5] points to another package and the channel is open. -/
def away5 : State := { linked with cur := linked.cur.putX 5 awayP }
theorem test_meets_SpanCommands : away5.readyX 5 ∧ away (away5.x 5) ∧ ptrOff (away5.x 5) % 256 = 0 ∧ away5.mayAccess .sc = true ∧ away5.mayAccessRem .sc = true
    ∧ away5.outstanding 1 < 32 ∧ ptrOff (awayP + 4) % 8 ≠ 0 ∧ away5.canTrap ∧ ¬away ownP ∧ (∀ q ∈ groupRegs .g4 4, away5.readyX q) := by decide
theorem test_meets_SpanCommands_channel : away5.channelOpen := ⟨sendCh, by decide⟩

/-- A PUT or a FLAG is the only command in the channel's queue; a remote read is on its way. -/
def hubCmd (k : CmdKind) : Cmd := { copy .channel false 0 with kind := k }
def accepts (k : CmdKind) : State :=
  { linked with cmds := [hubCmd k], arg := { id := 0 }, hub := { linked.hub with sends := [{ sendCh with queue := [1] }] } }
def remoteSent : State := { linked with reqs := [theReq (.remRead 8 true 5 false) awayP 0 .sent], arg := { id := linked.nextId } }
theorem test_meets_SpanCommands_steps :
    (accepts (.put awayP [1])).send? 0 = some { sendCh with queue := [1] } ∧ (hubCmd (.put awayP [1])).bound = none ∧ (accepts (.put awayP [1])).cmd? 1 = some (hubCmd (.put awayP [1]))
    ∧ ({ sendCh with queue := [1] } : SendChan).room (jrecSize 1) = some (0, none) ∧ (sendCh.nextSeq - sendCh.landed).toNat ≤ 2048
    ∧ (accepts (.flag awayP 7)).cmd? 1 = some (hubCmd (.flag awayP 7)) ∧ ({ sendCh with queue := [1] } : SendChan).room 32 = some (0, none)
    ∧ sendCh.flagsOut < 16 ∧ (remoteSent.req? remoteSent.arg.id).isSome = true ∧ (remoteSent.send? 0).isSome = true
    ∧ remoteSent.hub.tags = [] ∧ remoteSent.Reaches 2 := by decide

/-- A checked packet for a state's package arrives in it, its payload as it stands. -/
theorem arrives_of {s : State} {ty : Nat} {p : Packet} (hy : s.arg.yes = false) (hs : s.arg.packet = some (checked p)) (ht : p.ptype.toNat = ty)
    (hd : p.dst = s.hub.own) (hp : rebuilt (checked p) = p.payload) : s.Arrives ty (checked p) :=
  ⟨hy, ⟨checked p, hs, rfl, by rw [hp]; rfl⟩, ht, hd⟩

/-- A packet arrives; a remote window maps offset 0 to the own local memory with every right. -/
def arrives (p : Packet) : State :=
  { linked with
    jobs := here.jobs.map (fun j => { j with remotes := [⟨0, 0x1000, 0x1000000000000000, true, true, true, true⟩] }), arg := { packet := some p } }
/-- Data packets with number 1, of 32 bytes and of 4, and a flag packet with number 1 after write 0. -/
def writeP : Packet := checked { packet 1 32 with payload := List.replicate 32 7 }
def narrowP : Packet := checked { packet 1 4 with payload := List.replicate 4 7 }
def flagP : Packet := checked { packet 2 0 with seq := 0 }
theorem asks_write : (arrives writeP).Asks 1 writeP accCh := ⟨arrives_of rfl rfl rfl rfl (by decide), rfl, rfl, rfl⟩
theorem asks_flag : (arrives flagP).Asks 2 flagP accCh := ⟨arrives_of rfl rfl rfl rfl (by decide), rfl, rfl, rfl⟩
/-- The word that a narrow write meets is poisoned. -/
def poisoned : State := { arrives narrowP with poison := [lmAddr 0 0x100] }
theorem test_meets_SpanArrivals :
    atOrBelow writeP.seq accCh.lwm = false ∧ (writeP.seq - accCh.lwm).toNat ≤ 2048
    ∧ accCh.landed writeP.seq = false ∧ (arrives writeP).hub.landings = [] ∧ atOrBelow (0 : Quad) accCh.lwm = true
    ∧ flagP.flagno = accCh.nextFlag ∧ flagP.flagno ≠ 0 ∧ atOrBelow flagP.seq accCh.lwm = true
    ∧ (arrives flagP).hub.flags = [] ∧ addrSpace (lmAddr 0 0x100) = 1 ∧ (∀ j ∈ (arrives flagP).jobs, j.matchCount = 0) ∧ (arrives flagP).Quiet
    ∧ Safe (arrives flagP) ∧ precedes (2 : Quad) accCh.nextFlag = false ∧ precedes (0 : Quad) accCh.nextFlag = true
    ∧ (∀ u ∈ copyUnits (lmAddr 0 0x100) 32 false, (arrives writeP).refusesWrite u.1 u.2.2 = false)
    ∧ (∃ u ∈ copyUnits (lmAddr 0 0x100) 4 false, poisoned.refusesWrite u.1 u.2.2 = true)
    ∧ ((arrives flagP).hub.flags.filter (·.hardware)).length < 4096 := by decide +kernel
/-- Numbers that have landed, are under way, or lie outside the window; the times of the last LANDED; units left of a write. -/
theorem test_meets_SpanArrivals_duplicates :
    (let a := { accCh with bits := 2 }
     a.landed writeP.seq = true ∧ atOrBelow writeP.seq a.lwm = false ∧ (writeP.seq - a.lwm).toNat ≤ 2048)
    ∧ (let s : State := { arrives writeP with hub := { linked.hub with landings := [⟨0, 1, [], List.replicate 32 7, 5⟩] } }
       ∃ l ∈ s.hub.landings, l.chan = accCh.num ∧ l.seq = writeP.seq)
    ∧ (atOrBelow (2049 : Quad) accCh.lwm = false ∧ 2048 < ((2049 : Quad) - accCh.lwm).toNat)
    ∧ accCh.lastLanded = none ∧ ({ accCh with lastLanded := some 3 } : AccChan).lastLanded = some 3 ∧ (arrives writeP).now < 3 + 5000
    ∧ (arrives writeP).Reaches accCh.peer
    ∧ (∃ v ∈ [(lmAddr 0 0x100, 0, 8), (lmAddr 0 0x108, 8, 8)], v ≠ (lmAddr 0 0x100, 0, 8))
    ∧ (∀ v ∈ [(lmAddr 0 0x100, 0, 32)], v = (lmAddr 0 0x100, 0, 32)) := by decide +kernel
theorem test_meets_SpanArrivals_poison : poisoned.Asks 1 narrowP accCh
    ∧ ∃ s2, remoteTarget poisoned 1 0x100 4 0 false true (·.write) = (s2, .ok [lmAddr 0 0x100]) :=
  ⟨⟨arrives_of rfl rfl rfl rfl (by decide), rfl, rfl, rfl⟩, ok_of (by decide)⟩
theorem test_meets_SpanArrivals_untranslated : ∃ s2 st, remoteTarget (arrives writeP) 1 0x2000 32 0 false true (·.write) = (s2, .error st) :=
  ⟨_, _, rfl⟩
theorem test_meets_SpanArrivals_write :
    ∃ s2, remoteTarget (arrives writeP) 1 0x100 32 0 false true (·.write) = (s2, .ok [lmAddr 0 0x100]) := ok_of (by decide)
theorem test_meets_SpanArrivals_flag :
    ∃ s2, remoteTarget (arrives flagP) 1 0x100 8 0 false true (·.write) = (s2, .ok [lmAddr 0 0x100]) := ok_of (by decide)
theorem test_meets_SpanArrivals_amo :
    let amo := checked (packet 3 0)
    let rd := checked (packet 4 8)
    ((arrives amo).Asks 3 amo accCh ∧ amo.op.toNat ≤ 0x0B ∧ amo.size = 8 ∧ (arrives amo).Reaches amo.src
      ∧ ∃ s2, remoteTarget (arrives amo) 1 0x100 8 0 false false (·.atomic) = (s2, .ok [lmAddr 0 0x100]))
    ∧ (arrives rd).Asks 4 rd accCh ∧ rd.length.toNat = 8
      ∧ ∃ s2, remoteTarget (arrives rd) 1 0x100 8 0 true false (·.read) = (s2, .ok [lmAddr 0 0x100]) :=
  ⟨⟨⟨arrives_of rfl rfl rfl rfl (by decide), rfl, rfl, rfl⟩, by decide, by decide, by decide, ok_of (by decide)⟩,
    ⟨arrives_of rfl rfl rfl rfl (by decide), rfl, rfl, rfl⟩, by decide, ok_of (by decide)⟩
/-- A write has arrived with one unit left, or with none; a flag is held whose turn has come. -/
def landing (left : List (Nat × Nat × Nat)) : State :=
  { arrives writeP with arg := { id := 0, sel := 1 }, hub := { linked.hub with landings := [⟨0, 1, left, List.replicate 32 7, 5⟩] } }
def holding : State := { arrives writeP with arg := { id := 0 }, hub := { linked.hub with flags := [⟨0, 1, 0, 0x100, 9, true, 0⟩] } }
theorem test_meets_SpanArrivals_lands :
    (landing []).acc? 0 = some accCh ∧ ((landing []).hub.landings.find? (fun x => x.chan == 0 && x.seq == BitVec.ofNat 32 1)).isSome = true
    ∧ (landing []).Quiet ∧ Safe (landing []) ∧ (1 : Quad) = accCh.lwm + 1 ∧ accCh.bits = 0
    ∧ (∀ u ∈ [(lmAddr 0 0x100, 0, 32)], addrSpace u.1 ∈ [1, 2, 3] ∧ u.2.1 + u.2.2 ≤ 32)
    ∧ holding.acc? 0 = some accCh ∧ (holding.releasable accCh).map (fun h => (h.flagno, h.hardware)) = some (1, true) := by decide +kernel
theorem test_meets_SpanArrivals_release :
    ∃ s2, remoteTarget holding 1 0x100 8 0 false true (·.write) = (s2, .ok [lmAddr 0 0x100]) := ok_of (by decide)

/-- A reply to the send channel: LANDED for the flag, GAP, RESPONSE to a remote read. -/
def flagSent : SendChan := { sendCh with journal := [⟨1, 1, true, 0, 0x100, 9, [], 0, 32, 1, 1, false, false⟩], flagsOut := 1, rounds := 0 }
def replies (p : Packet) : State :=
  { linked with
    arg := { packet := some p }, cmds := [{ hubCmd (.flag awayP 9) with state := .sent }],
    reqs := [theReq (.remRead 8 true 5 false) awayP 0 (.sentRemote 3)],
    hub := { linked.hub with sends := [flagSent], tags := [(3, 0, here.nextId)] } }
def landedP : Packet := checked (packet 5 0)
def breakP : Packet := checked { packet 6 0 with payload := natBytes 4 0 ++ natBytes 4 9 }
def gapP : Packet := checked { packet 6 0 with payload := natBytes 4 1 ++ natBytes 4 1 ++ natBytes 4 1 ++ natBytes 4 2 }
def answerP : Packet := checked { packet 7 8 with tag := 3, payload := zeros 8 }
theorem test_meets_SpanArrivals_replies_arrive :
    (replies landedP).Replies 5 landedP flagSent ∧ (replies breakP).Replies 6 breakP flagSent ∧ (replies gapP).Replies 6 gapP flagSent
    ∧ (replies answerP).Arrives 7 answerP :=
  ⟨⟨arrives_of rfl rfl rfl rfl (by decide), rfl, by decide, rfl⟩, ⟨arrives_of rfl rfl rfl rfl (by decide), rfl, by decide, rfl⟩,
    ⟨arrives_of rfl rfl rfl rfl (by decide), rfl, by decide, rfl⟩, arrives_of rfl rfl rfl rfl (by decide)⟩
/-- The channel has broken. -/
theorem test_meets_SpanArrivals_broken :
    ({ replies landedP with hub := { (replies landedP).hub with sends := [{ flagSent with state := 3 }] } } : State).Replies 5 landedP
      { flagSent with state := 3 } :=
  ⟨arrives_of rfl rfl rfl rfl (by decide), rfl, by decide, rfl⟩
theorem test_meets_SpanArrivals_replies :
    landedP.flagno ≠ 0 ∧ landedP.op = 0 ∧ ({ landedP with flagno := 0 } : Packet).flagno = 0
    ∧ (flagSent.journal.find? (fun j => j.flag && j.flagno == landedP.flagno)).map (·.cmd) = some 1
    ∧ ((replies landedP).cmd? 1).map (·.bound) = some none ∧ ((replies landedP).strand? 1).map (·.wait) = some none
    ∧ fieldAt breakP.payload 4 4 = 9 ∧ flagSent.state ≠ 3 ∧ (∀ c ∈ (replies breakP).cmds, c.bound = none)
    ∧ fieldAt gapP.payload 4 4 ≠ 9 ∧ fieldAt gapP.payload 0 4 = 1 ∧ fieldAt gapP.payload 8 4 = 1 ∧ fieldAt gapP.payload 12 4 = 2
    ∧ (replies gapP).Reaches flagSent.peer ∧ (∀ j ∈ flagSent.journal, j.payload.length ≤ 256)
    ∧ (replies answerP).hub.tags.find? (fun x => x.1 == answerP.tag.toNat % 8192 && x.2.1 == answerP.tag.toNat / 8192) = some (3, 0, here.nextId)
    ∧ ((replies answerP).req? here.nextId).isSome = true ∧ answerP.op = 0
    ∧ (∀ x ∈ (replies answerP).hub.tags, ¬(x.1 = (3 + 8192) % 8192 ∧ x.2.1 = (3 + 8192) / 8192)) := by decide

/-- At 10 ms: 600 numbers landed since the last LANDED, or a gap; the journal's record is old; drops at port 4. -/
def late (a : AccChan) : State :=
  { replies landedP with
    now := 10000000, arg := { id := 0 },
    hub := { (replies landedP).hub with accs := [a], drops := List.replicate 64 (0, 9999999) } }
theorem test_meets_HubTimersAndHostAccesses :
    (let a := { accCh with lwm := 600 }
     (late a).acc? 0 = some a ∧ a.state = 1 ∧ (late a).Reaches a.peer ∧ 512 ≤ (a.lwm - a.since).toNat)
    ∧ (accCh.lwm = accCh.since ∧ (accCh.lwm - accCh.since).toNat < 512)
    ∧ (let a := { accCh with bits := 4, round := 8 }
       (late a).hasGap a = true ∧ a.gapStart + a.gapUs * 1000 ≤ (late a).now ∧ ∀ h ∈ (late a).hub.flags, h.hardware = true)
    ∧ ((late accCh).send? 0 = some flagSent ∧ flagSent.progress + 2 * flagSent.gapUs * 1000 ≤ (late accCh).now
      ∧ flagSent.journal.getLast?.map (·.payload.length) = some 0 ∧ flagSent.rounds < 8 ∧ flagSent.state = 1)
    ∧ ((late accCh).reqs.map (fun r => r.retryAt + 8 * 50 * 1000) = [400000] ∧ (late accCh).hub.tags.find? (fun t => t.1 == 3) = some (3, 0, here.nextId))
    ∧ (late accCh).hub.removed.getLsbD 0 = false
    ∧ ((late accCh).hub.drops.filter (fun d => d.1 == 0)).map (·.2) = [] ++ 9999999 :: List.replicate 62 9999999 ++ 9999999 :: []
    ∧ linked.hub.drops = [] ∧ (9999999 : Nat) ≤ 9999999 + 1000000
    ∧ accCh.lastLanded = none ∧ ({ accCh with lastLanded := some 9999999 } : AccChan).lastLanded = some 9999999
    ∧ (late accCh).now < 9999999 + 5000 ∧ 0 + 5000 ≤ (late accCh).now ∧ 8 ≤ ({ flagSent with rounds := 8 } : SendChan).rounds
    ∧ (let h := { sendCh with state := 2 }
       h.nextSeq - 1 = h.landed ∧ h.flagsOut = 0 ∧ h.queue = [] ∧ ∀ c ∈ linked.cmds, c.chan ≠ h.num)
    ∧ ((late accCh).strand? 1).map (fun u => (u.mode, u.pend)) = some (.running, []) := by decide +kernel

/-! ### Messages, launches, continuations -/

/-- A message of job 1 to core 0, and the launch's template; mail in the core, and a spawn on its way. -/
def message (start : Bool) : Message := ⟨1, 0, start, List.replicate 8 0, 1, 0x0001000000000001, 1, some 1, 1⟩
def mail (c : Core) (ms : List Message) : State :=
  { here with
    arg := { id := if ms = [] then 0 else 1 }, cores := [c],
    launches := here.launches.map (fun l => { l with templates := [⟨0, 1, 1, 16⟩] }),
    reg := { here.reg with messages := ms, requests := [(1, .spawn 1 0 (some 0) 7 1)] } }
/-- X[5] points to 64 bytes in local memory; X[0] names core 0. -/
def sends : State := { points 0x1000000000000100 with launches := (mail (Core.fresh 0) []).launches }
theorem test_meets_MessagesAndSpawns :
    sends.own (sends.x 5) ∧ sends.mayReach (sends.x 0).toNat true = true ∧ sends.mayReach 639 false = false ∧ sends.canTrap
    ∧ sends.mayAccess .sc = true ∧ sends.moving (lmAddr 0 0x100) 64 = false
    ∧ sends.releaseReady 1 0 (widerScope .str (partnerScope 0 0)) sends.nextId = true ∧ (∀ q ∈ groupRegs .g8 8, sends.readyX q)
    ∧ (sends.core 0).posts = [] ∧ ((mail { Core.fresh 0 with posts := [message false] } []).core 0).posts = [message false]
    ∧ (sends.launch? sends.myTroupe.launch).map (·.templates.length) = some 1
    ∧ (((at1 5 0x0001000000000001).x 5).extractLsb' 48 16).toNat = here.myTroupe.job
    ∧ (here.launch? 0x0001000000000001).map (fun l => (l.complete, l.cancelBit)) = some (false, false) := by decide
theorem test_meets_MessagesAndSpawns_passes : passes sends 64 true false [ownP] sends [lmAddr 0 0x100] :=
  passes_one (by decide) (by decide)
/-- A device-fed queue of the job. -/
def queue : QueueDesc := ⟨3, 0x3000000000010000, 6, 2, 1, 0x3000000000020000, 0x3000000000020008⟩
theorem test_meets_MessagesAndSpawns_launch :
    let s : State := { sends with reg := { here.reg with queues := [queue] }, cur := sends.cur.putX 6 3 }
    s.queue? ((s.x 6).toNat % 256) = some queue ∧ queue.job = s.myTroupe.job ∧ queue.feed = 2 ∧ s.blockReady (lmAddr 0 0x100) 64 = true
    ∧ s.ownDeposits 0 (lmAddr 0 0x100) 64 = false ∧ s.poison = [] := by decide
/-- A pointer into the job's first GiB of the depot, wherever the first entry of its page table still says what it says in `here`. -/
theorem dep_phys {u : State} (hp : (u.job 1).ptBase = 0) (hn : u.poison = []) (hw : u.freshWord (depAddr 0) = 0x4000001E) {p : Word}
    (h3 : ptrSpace p = 3) (ho : ptrOff p < 2 ^ 30) : physOf u 1 p = some (depAddr (2 ^ 30) + ptrOff p) := by
  have h1 : ptrOff p / 1073741824 = 0 := Nat.div_eq_of_lt ho
  simp [physOf, tableEntry, h3, hp, walk, walkLevels, h1, State.isPoison, hn, hw]
theorem tail_here (s : State) (hp : (s.job 1).ptBase = 0) (hn : s.poison = []) (hw : s.freshWord (depAddr 0) = 0x4000001E)
    (ht : s.tailOf queue = 0) : s.TailAt queue (depAddr 0x40010000) (depAddr 0x40020000) := by
  refine ⟨by decide, fun u _ h1 h2 h3 => ?_⟩
  have e := fun {p : Word} => dep_phys (u := u) (h1.trans hp) (h2.trans hn) ((h3 _ (by decide) (by decide)).trans hw) (p := p)
  refine ⟨(e (by decide) (by decide)).trans (by decide), fun k hk => ?_⟩
  rw [ht]
  match k, hk with
  | 0, _ | 1, _ | 2, _ | 3, _ | 4, _ | 5, _ | 6, _ | 7, _ => exact (e (by decide) (by decide)).trans (by decide)
/-- LAUNCH into a queue with room, and a record kept for a queue that has room again. -/
theorem test_meets_MessagesAndSpawns_tail :
    let s : State := { sends with reg := { here.reg with queues := [queue] }, cur := sends.cur.putX 6 3 }
    s.TailAt queue (depAddr 0x40010000) (depAddr 0x40020000) ∧ s.queueFull queue = false ∧ (s.job queue.job).stopped = false
    ∧ (∀ e ∈ (s.job queue.job).overflow, e.1 ≠ queue.queue) ∧ s.Quiet ∧ Safe s ∧ s.watchers (depAddr 0x40010000) 64 = []
    ∧ s.watchers (depAddr 0x40020000) 8 = [] :=
  ⟨tail_here _ (by decide) rfl (by decide) (by decide), by decide⟩
theorem test_meets_LaunchLife_tail :
    let s : State := { here with
      reg := { here.reg with queues := [queue] }, jobs := here.jobs.map (fun j => { j with overflow := [(3, 0, List.replicate 8 0)] }) }
    s.TailAt queue (depAddr 0x40010000) (depAddr 0x40020000) ∧ s.Quiet ∧ s.poison = [] ∧ Safe s
    ∧ (s.job? 1).map (·.overflow) = some [(3, 0, List.replicate 8 0)] ∧ s.queue? 3 = some queue ∧ s.queueFull queue = false :=
  ⟨tail_here _ (by decide) rfl (by decide) (by decide), by decide⟩
/-- The queue is full and the job's overflow area has a place. -/
theorem test_meets_MessagesAndSpawns_overflow :
    let s : State := { here with
      jobs := here.jobs.map (fun j => { j with launchOverflow := 64 }), mem := Memory.writeN here.mem (depAddr 0x40020000) 8 64 }
    s.queueFull queue = true ∧ (s.job queue.job).stopped = false ∧ (s.job queue.job).overflow.length < (s.job queue.job).launchOverflow / 64
    ∧ (s.job? queue.job).isSome = true := by decide
theorem test_meets_MessagesAndSpawns_steps :
    (let s := mail (Core.fresh 0) [message true]
     s.reg.messages.find? (fun m => m.id == s.arg.id) = some (message true) ∧ (message true).index ≠ none ∧ s.consumed (message true) = false
     ∧ s.takesMessages 1 (bayOfCore 0) = true ∧ s.queuedBefore (message true) = false ∧ (message true).words.length = 8
     ∧ (s.core 0).starts.length + (s.core 0).posts.length < 64)
    ∧ (let s := mail { Core.fresh 0 with parked := [message false] } []
       s.residentJob 0 = some 1 ∧ (s.core 0).parked.find? (fun m => m.job == 1) = some (message false)
     ∧ (message false).core = s.arg.id ∧ s.consumed (message false) = false)
    ∧ (let s := mail { Core.fresh 0 with starts := [message true] } []
       (s.core 0).starts = [message true] ∧ (s.launch? (message true).launch).isSome = true ∧ (freeOffset (s.windows 0) 16384).isSome = true
       ∧ s.baysOpen 1 0 (bayOfCore 0) = true ∧ s.slotsUsed 0 < 4)
    ∧ (let s := mail (Core.fresh 0) [message true]
       s.reg.requests.find? (fun r => r.1 == s.arg.id) = some (1, .spawn 1 0 (some 0) 7 1)
       ∧ s.firstRequest 1 (.spawn 1 0 (some 0) 7 1) = true ∧ (s.launch? (s.troupe 1).launch).map (fun l => (l.templates[0]?, l.cancelReached))
         = some (some ⟨0, 1, 1, 16⟩, [])) := by
  decide

/-- A record of one troupe, of one core and one strand with 16 KiB. -/
def aRecord : Record := ⟨3, 0, 1, wordsOfBytes (zeros 4 ++ [1, 1] ++ natBytes 2 16 ++ zeros 8 ++ natBytes 4 1 ++ zeros 44), [true, true, true, true], 0, 0, some 0⟩
def recorded : State := { here with reg := { here.reg with records := [aRecord], queues := [queue] }, arg := { id := 3 } }
/-- The tail word of the queue counts a record. -/
def tailed : State := { recorded with mem := Memory.writeN here.mem (depAddr 0x40020000) 8 1 }
/-- The troupe with strands, waiting, ended; the launch with bays to wake and to cancel. -/
def troupeIn (p : Place) : State := { here with arg := { id := 1 }, cur := Strand.blank, troupes := here.troupes.map (fun u => { u with place := p }) }
def waking : State :=
  { here with
    arg := { id := 0, word := 0x0001000000000001 },
    launches := here.launches.map (fun l => { l with wakePending := [0], cancelPending := [0] }) }
theorem test_meets_LaunchLife : tailed.queue? 3 = some queue ∧ tailed.headOf 3 < tailed.tailOf queue ∧ recorded.queueFull queue = false
    ∧ (tailed.job 1).stopped = false ∧ queue.feed ≠ 3 ∧ tailed.arg.yes = false
    ∧ (let s : State := { recorded with jobs := here.jobs.map (fun j => { j with overflow := [(3, 0, List.replicate 8 0)] }) }
       (s.job? 1).map (·.overflow) = some [(3, 0, List.replicate 8 0)] ∧ s.queue? 3 = some queue ∧ s.queueFull queue = false) := by decide
theorem test_meets_LaunchLife_admission : recorded.admissible = [aRecord] ∧ fieldAt aRecord.bytes 21 1 % 2 = 0 ∧ fieldAt aRecord.bytes 16 4 ≠ 0
    ∧ (recorded.job? 1).isSome = true ∧ (∀ i : Nat, i < 4 → (waitSlot aRecord.bytes i).2 = 0)
    ∧ (templatesOf recorded 1 aRecord.bytes).2 = some [] := by decide
theorem test_meets_LaunchLife_wake :
    (waking.launch? waking.arg.word).map (fun l => (l.wakePending, l.cancelPending)) = some ([0], [0])
    ∧ (waking.launch? waking.arg.word).map (fun l => (l.shares, l.cohort, l.cancelReached)) = some ([(0, 0, 1)], false, []) := by decide
theorem test_meets_LaunchLife_troupes : ((troupeIn .waiting).troupe? 1).map (fun u => (troupeIn .waiting).roomFor u) = some (some (0, 0))
    ∧ (troupeIn .waiting).cores = [] ∧ ((troupeIn .ended).troupe? 1).map (fun u => (u.place, u.children)) = some (.ended, 0)
    ∧ (troupeIn .ended).troupeQuiet 1 = true ∧ 1 ≤ (troupeIn .waiting).myTroupe.s
    ∧ ((troupeIn .waiting).troupe? 1).map (·.start) = some (.fresh 0 []) ∧ ((troupeIn .ended).job 1).stopped = false := by decide

/-- The troupe is being captured: its strand has stopped, the completion word is not yet 0, or is. -/
def capturing (zeroed : Bool) (now : Nat) : State :=
  { here with
    arg := { id := 1 }, now := now, cur := { here.cur with mode := .stopped 0 },
    jobs := here.jobs.map (fun j => { j with creg := 0x3000000000030000, log2n := 16, serial := 1 }),
    troupes := here.troupes.map (fun u => { u with capture := some ⟨0x3000000000100000, 1, 1, 5, 1, 0, some 0, zeroed, 0⟩ }) }
theorem test_meets_Continuations :
    ((at1 5 0x100101).readyX 5 ∧ here.cur.sr.cause.getLsbD 15 = false ∧ here.cur.wait = none ∧ here.myTroupe.capture = none ∧ here.cur.stopDue = 0)
    ∧ (points ownP).suspendable ownP = false
    ∧ here.releaseReady 1 0 (widerScope .str .pkg) here.nextId = true ∧ here.job? ((here.x 5).toNat % 65536) = none ∧ here.canTrap
    ∧ ptrOff ((points depP).x 5) % 256 = 0 ∧ leased ((points depP).x 5) ∧ (points depP).mayAccess .rlx = true
    ∧ ptrOff ((points (depP + 8)).x 5) % 256 ≠ 0 ∧ ptrOff ((points ownP).x 5) % 256 = 0 ∧ ¬leased ((points ownP).x 5)
    ∧ (let s : State := { at1 5 1 with jobs := here.jobs.map (fun j => { j with accepts := [1] }) }
       (s.job? ((s.x 5).toNat % 65536)).map (fun j => j.accepts.contains s.myTroupe.job) = some true) := by decide
theorem test_meets_Continuations_capture :
    ((capturing false 0).troupe? 1).map (fun u => (u.place, u.capture.map (·.allStopped))) = some (.placed, some (some 0))
    ∧ ((capturing false 0).job 1).stopped = false ∧ ((capturing true 1000000).job 1).stopReported = false ∧ (capturing false 0).Quiet ∧ Safe (capturing false 0)
    ∧ objWord (capturing false 0) 1 false false true (ptrAt 0x3000000000100000 248) = some (depAddr 0x401000F8)
    ∧ ((capturing true 0).troupe? 1).map ((capturing true 0).capturable) = some true
    ∧ 0 + 1000000 ≤ (capturing true 1000000).now ∧ (capturing true 1000000).cur ∈ (capturing true 1000000).strands := by decide
/-- A request on an object whose bytes are not one. -/
def contAsked : State := { here with reg := { here.reg with conts := [⟨1, 1, 1, 1, 1, 0x3000000000100000, 5, 0, 0, 0, 0, false, 0⟩] }, arg := { id := 1 } }
theorem test_meets_Continuations_check :
    (contAsked.reg.conts.find? (fun x => x.id == 1 && x.kind == 1)).isSome = true ∧ (contAsked.strand? 1).map (fun u => (u.mode, u.pend)) = some (.running, [])
    ∧ (contAsked.job 1).stopped = false
    ∧ ∃ s1, contAsked.checkObject 1 0x3000000000100000 false (fun k => k == 1 || k == 3) (fun n => n / 2 % 2 == 1)
        = (s1, .error ⟨.badCont, 1, 0, 0⟩) :=
  ⟨by decide, by decide, by decide, _, rfl⟩
/-- The job has a window on the gallery of die 0, 64 KiB long. -/
def galleried : State :=
  { here with jobs := here.jobs.map (fun j => { j with windows := [⟨0, 0, 1, 0, true, true⟩], serial := 1, creg := 0x3000000000008000 }) }
theorem galleried_word (i : Nat) (h : i < 8192) : (objWord galleried 1 false false true (ptrAt 0x2000000000000000 (8 * i))).isSome = true := by
  have hp : ptrSpace (ptrAt 0x2000000000000000 (8 * i)) = 2 := ptrSpace_ptrAt _ _
  have hw : ptrOwner (ptrAt 0x2000000000000000 (8 * i)) = 0 := by
    unfold ptrOwner ptrAt padd
    rw [BitVec.extractLsb'_append_eq_of_le (by omega)]
    rfl
  have ho : ptrOff (ptrAt 0x2000000000000000 (8 * i)) = 8 * i := by
    unfold ptrOff ptrAt padd
    rw [BitVec.extractLsb'_append_eq_right, show (0x2000000000000000 : Word).extractLsb' 0 48 = 0#48 from rfl, BitVec.zero_add]
    simp only [BitVec.extractLsb'_toNat, BitVec.toNat_ofNat, Nat.shiftRight_zero]
    omega
  simp only [objWord, lookup, hp, hw, ho, cachedEntry, heldEntry, tableEntry]
  have hj : (galleried.job 1).windows = [⟨0, 0, 1, 0, true, true⟩] := rfl
  have ht : galleried.tlb = [] := rfl
  have h1 : 8 * i < 65536 := by omega
  have h2 : ¬(65536 < 8 * i + 8) := by omega
  simp [Job.windowAt, hj, ht, TlbEntry.check, h1, h2]
theorem test_meets_Continuations_suspend : galleried.suspendable 0x2000000000000000 = true ∧ galleried.nextSerial 1 = some 1
    ∧ ({ galleried with mem := Memory.writeN here.mem (depAddr 0x40008000) 8 1 } : State).nextSerial 1 = none
    ∧ (galleried.troupe? galleried.cur.troupe).isSome = true ∧ galleried.rest = [] ∧ galleried.cur.mode = .running
    ∧ (galleried.rest.map (·.sid)).Nodup ∧ galleried.mayAccess .rlx = true ∧ galleried.myTroupe.parent < galleried.nextId := by
  refine ⟨?_, by decide, by decide, by decide, rfl, rfl, by decide⟩
  have : galleried.myTroupe.csize = 54656 := by decide
  simp only [State.suspendable, objRun, this, Bool.and_eq_true, List.all_eq_true, List.mem_range]
  exact ⟨by decide, by decide, fun i hi => galleried_word i (by omega)⟩

/-! ### System calls, switches, errors, power, management -/

/-- X[5] points to depot offset 0, X[6] holds a length; a shootdown with one bay to answer. -/
def shot : State :=
  { here with
    cur := (here.cur.putX 5 0x3000000000000000).putX 6 65536, now := 100000, arg := { id := 1, sel := 0 },
    reg := { here.reg with shoots := [⟨1, 1, 0, 65536, [0], 1, 5, [], false, false, 0, []⟩] } }
/-- The same while a load through the range is outstanding. -/
def shotBusy : State :=
  { shot with reqs := [theReq (.load 8 true 5) 0x3000000000000000 (depAddr 0x40000000) .sent], nextId := here.nextId + 1 }
def aShoot : Shoot := ⟨1, 1, 0, 65536, [0], 1, 5, [], false, false, 0, []⟩
theorem test_meets_SystemCalls_answers :
    shot.reg.shoots.find? (fun x => x.id == 1) = some aShoot ∧ (∀ d ∈ aShoot.drops, d.1 ≠ 0)
    ∧ ((shot.dropEntries aShoot 0).shoot? 1).map (fun h => (shot.dropEntries aShoot 0).canAnswer h 0) = some true
    ∧ ((shotBusy.dropEntries aShoot 0).shoot? 1).map (fun h => (shotBusy.dropEntries aShoot 0).canAnswer h 0) = some false
    ∧ (shot.bay 0).fenced = false := by decide
theorem test_meets_SystemCalls :
    (ptrSpace (shot.x 5) = 3 ∧ ptrOwner (shot.x 5) = 0 ∧ ptrOff (shot.x 5) % 65536 = 0 ∧ (shot.x 6).toNat % 65536 = 0 ∧ (shot.x 6).toNat ≤ 2 ^ 40
      ∧ (shot.x 6).toNat ≠ 0 ∧ leased (shot.x 5) ∧ (shot.x 6).toNat ≤ 2 ^ 30 ∧ shot.canTrap)
    ∧ ((shot.reg.shoots.find? (fun x => x.id == 1)).map (fun h => (h.waiting, shot.canAnswer h 0)) = some ([0], true) ∧ 0 + 100000 ≤ shot.now)
    ∧ (ptrSpace (0x2000000000000000 : Word) = 2 ∧ shot.mayAccess .rel = true ∧ shot.releaseReady 1 0 .pkg shot.nextId = true) := by decide
/-- Copy engine 0 does not answer. -/
theorem test_meets_SystemCalls_engine :
    let h : Shoot := { aShoot with waiting := [80] }
    let s : State := { shot with reg := { here.reg with shoots := [h] }, arg := { id := 1, sel := 80 } }
    s.reg.shoots.find? (fun x => x.id == s.arg.id) = some h ∧ s.arg.sel ∈ h.waiting ∧ 80 ≤ s.arg.sel ∧ s.arg.sel < 104 ∧ h.time + 100000 ≤ s.now := by
  decide
/-- The argument block at the own pointer: nothing mapped at offset 2^30, one 64 KiB page asked for or a switch. -/
def blocked (len w : Nat) (frames : List Nat) : State :=
  { points 0x1000000000000100 with
    jobs := here.jobs.map (fun j => { j with allotment := frames }),
    mem := Memory.writeN (Memory.writeN (Memory.writeN here.mem (lmAddr 0 0x100) 8 0x80000000) (lmAddr 0 0x108) 8 len) (lmAddr 0 0x110) 8 w }
theorem test_meets_SystemCalls_block :
    (((blocked 65536 12 []).word (lmAddr 0 0x100)).toNat = 2 ^ 31 ∧ ((blocked 65536 12 []).word (lmAddr 0 0x108)).toNat = 65536
      ∧ ((blocked 65536 12 []).word (lmAddr 0 0x110)).toNat % 4 = 0 ∧ (blocked 65536 12 []).leavesIn 1 (2 ^ 31) 65536 = []
      ∧ (blocked 65536 12 []).mapPages 1 (2 ^ 31) 65536 3 1 = none
      ∧ (({ blocked 65536 12 [20] with
            jobs := (blocked 65536 12 [20]).jobs.map (fun j => { j with tableArea := 2 ^ 22, tableRoom := 2 }) } : State).mapPages 1 (2 ^ 31) 65536 3 1).isSome = true ∧ (blocked 0 3 []).requestSwitch 1 0 1 0 3 = none
      ∧ (blocked 65536 12 []).moving (lmAddr 0 0x100) 64 = false ∧ (blocked 65536 12 []).cur.wait = none)
    ∧ ((blocked 2097152 0 []).leavesIn 1 0 65536).map (fun l => (l.off, l.size)) = [(0, 2 ^ 30)] := by decide
theorem test_meets_SystemCalls_passes : passes (blocked 0 0 []) 64 true false [ownP] (blocked 0 0 []) [lmAddr 0 0x100] :=
  passes_one (by decide) (by decide)
/-- A measurement of one word on its way. -/
def measuring : State := { here with reg := { here.reg with measures := [⟨1, 1, 1, depP, 8, 5⟩] }, arg := { id := 1 } }
theorem test_meets_SystemCalls_measure : (measuring.reg.measures.find? (fun x => x.id == 1)).isSome = true ∧ (measuring.job 1).stopped = false
    ∧ (measuring.job? 1).isSome = true ∧ measuring.mgmt.log.length + 2 ≤ 4096 ∧ (measuring.strand? 1).isSome = true := by decide
theorem test_meets_SystemCalls_region : ∃ s2 bs, readRegion { measuring with reg := { measuring.reg with measures := [] } } 1 depP 1 = (s2, .ok bs) :=
  ⟨_, _, rfl⟩

/-- A trap is pending. -/
def pending (c : Cause) : State := { here with cur := { here.cur with pend := [⟨c, 0, 0, 0, 0, 0⟩] }, arg := { id := 1 } }
theorem test_meets_AsyncDelivery : (pending .poison).cur.sid = (pending .poison).arg.id ∧ (firstTrap (pending .poison).cur.pend).isSome = true
    ∧ (pending .poison).canTrap ∧ (pending .poison).cur.mode = .running ∧ (pending .poison).cur.blocked = none
    ∧ (pending .poison).cur.wait = none ∧ (pending .watchdog).myJob.stopReported = false
    ∧ (pending .poison).cur.tx.committing = false ∧ Cause.poison.fatal = false ∧ Cause.watchdog.fatal = true ∧ here.cur.pend = [] := by decide

/-- Partition 0 is resident, partition 1 out on the same bay; a switch between them in a phase, or between two jobs. -/
def parted (phase now : Nat) (busy : Bool) : State :=
  { here with
    now := now, arg := { id := 1, nums := [1, 0, 1, 1, 5000] },
    cur := { here.cur with sr := { here.cur.sr with cause := if busy then 0x8000 else 0 } },
    jobs := here.jobs.map (fun j => { j with parts := j.parts.set 1 { Part.blank with bays := 1, state := .out } }),
    reg := { here.reg with switches := [⟨1, 1, 0, 1, 1, 5000, phase⟩] } }
theorem test_meets_SwitchesOfPartitions :
    (let s := parted 0 0 false
     s.mgmt.boot = 1 ∧ s.arg.code = none ∧ s.now + 5000 ≤ 5000 ∧ ((s.job 1).part 0).state = .resident ∧ ((s.job 1).part 1).state = .out
     ∧ s.heldElsewhere ((s.job 1).part 1).bays 1 0 = false)
    ∧ (5000 ≤ (parted 0 5000 false).now ∧ (parted 0 5000 false).reg.switches.find? (fun x => x.id == 1) = some ⟨1, 1, 0, 1, 1, 5000, 0⟩)
    ∧ ((∀ x ∈ (parted 1 25000 false).strands, x.busy = false) ∧ (∀ x ∈ (parted 1 25000 true).strands, x.busy = true) ∧ 5000 + 20000 ≤ 25000
      ∧ ((parted 1 25000 true).job 1).stopReported = false)
    ∧ (let s : State := { parted 2 25000 false with troupes := [] }
       s.emptied 1 0 = true ∧ (s.job? 1).isSome = true ∧ (s.job 1).stopped = false ∧ ((s.job 1).part 1).objects = [] ∧ ((s.job 1).part 1).bays ≠ 0)
    ∧ (let s : State := { parted 2 25000 false with
         troupes := [], jobs := here.jobs.map (fun j => { j with parts := j.parts.set 1 { Part.blank with state := .switching } }) }
       s.emptied 1 0 = true ∧ ((s.job 1).part 1).bays = 0 ∧ ((s.job 1).part 1).objects = [] ∧ (s.job 1).stopped = false) := by decide
theorem test_meets_SwitchesOfPartitions_fences : ∀ b, ((parted 2 25000 false).bay b).fenced = false := fun _ => rfl

/-- An error in the registers, in a depot word; a line that waits for a die. -/
def err (e : ErrSite) : State := { here with arg := { site := some e, id := galAddr 0 8, yes := true } }
theorem test_meets_DetectedErrors : (err (.registers 1 false)).arg.site = some (.registers 1 false) ∧ ((err (.registers 1 false)).strand? 1).isSome = true
    ∧ (here.job (here.troupe 1).job).stopReported = false ∧ (inTx 1).cur.tx.depth ≠ 0 ∧ (inTx 1).cur.tx.committing = false
    ∧ addrSpace (err (.depot 0)).arg.id = 2 ∧ (err (.depot 0)).arg.yes = true
    ∧ ∃ l ∈ ({ inTransition [1] with now := 200000, arg := { id := 1 } } : State).coh.lines, 1 ∈ l.awaiting ∧ l.askedAt + 200000 ≤ 200000 := by
  decide
/-- An error in an update-only unit of 128 bytes and in one of 64; a core that does not answer for its deposits. -/
theorem test_meets_DetectedErrors_updateOnly :
    (deposited.core 0).upd.map (fun u => (u.dep.unit, u.dep.bytes, u.dep.elem)) = [(depAddr 0x1000, 128, 1)]
    ∧ (let s : State := { deposited with cores := [{ Core.fresh 0 with upd := [⟨⟨depAddr 0x1000, 64, 0, 5, [(depAddr 0x1000, 5)], 0⟩, [1], true, 0⟩] }] }
       ∃ u ∈ (s.core 0).upd, u.dep.unit ≤ depAddr 0x1000 ∧ depAddr 0x1000 < u.dep.unit + u.dep.bytes ∧ u.dep.elem = 5)
    ∧ (let s : State := { inTransition [8] with now := 200000, arg := { id := 0 } }
       ∃ l ∈ s.coh.lines, dieOfCore 0 = s.arg.id ∧ 0 + 8 ∈ l.awaiting ∧ l.askedAt + 200000 ≤ s.now) := by decide

theorem test_meets_PowerAndReset :
    (State.reset.mgmt.powered = true ∧ ({ Mgmt.reset with powered := false } : Mgmt).powered = false ∧ ({ Mgmt.reset with inReset := true } : Mgmt).inReset = true)
    ∧ ({ here with now := 100000, arg := { id := 79 } } : State).mayGate 79 = true ∧ here.mayGate 0 = false
    ∧ (({ here with mgmt := { here.mgmt with bays := [⟨3, .waking, 0, false, 0, 0⟩] } } : State).bay 3).power = .waking
    ∧ (here.bay 3).power ≠ .waking := by decide

/-- A valid JOB_CREATE for job 2 on bay 1. -/
def jobReq : JobReq :=
  ⟨2, [⟨0, 2, true, 0, 0⟩], 0x3000000000000000, 0x3000000000010000, 0, 2 ^ 21, 2 ^ 22, 24, [], List.range 12, [], [], [], 0x3000000002000000, 16,
    0x3000000001000000, 0x3000000003000000, [], 0, 0, 0, 0, 0, 0, 0x3000000000000000, []⟩
theorem test_meets_ManagementRequests :
    here.mgmt.boot = 1 ∧ here.mgmt.identDone = false ∧ here.job? 7 = none ∧ (here.job? 1).isSome = true
    ∧ leased depP ∧ ptrOff depP + 4096 ≤ 2 ^ 48 ∧ 2 ^ 48 < ptrOff depP + 2 ^ 48
    ∧ jobValid jobReq = true ∧ here.hasFor jobReq = true ∧ here.jobs.length < 8 ∧ here.Quiet ∧ jobValid { jobReq with log2n := 15 } = false ∧ jobValid { jobReq with tableRoom := 23 } = false
    ∧ here.arg.code = none ∧ ({ here with arg := { code := some 9 } } : State).arg.code = some 9 ∧ ¬((1 : Nat) ≤ 9 ∧ (9 : Nat) ≤ 8)
    ∧ here.freeKey true < 4096 ∧ (∀ a ∈ here.hub.accs, a.num = 5 → a.state = 0)
    ∧ ptrSpace (0x3000000000010000 : Word) = 3 ∧ ptrOff (0x3000000000010000 : Word) % 65536 = 0 ∧ (linked.send? 0).map (·.state) = some 1
    ∧ (linked.hub.accs.find? (fun x => x.num == 0)).map (fun a => (a.state, a.held)) = some (1, 0)
    ∧ ({ Mgmt.reset with boot := 0x10 } : Mgmt).boot ≠ 1 := by decide +kernel

/-- A region of the job's local memory under key 4, and a word for it. -/
def regioned (bytes : List Byte) : State :=
  { here with
    mgmt := { here.mgmt with regions := [⟨4, false, 1, 0x1000000000000100, 8, true, true⟩] },
    arg := { id := 4, sel := 0, bytes := bytes, nums := [8] } }
theorem test_meets_HubTimersAndHostAccesses_regions : here.mgmt.boot = 1 ∧ here.region? 4 = none ∧ ((regioned []).region? 4).map (fun g => (g.r, g.w, g.len)) = some (true, true, 8)
    ∧ (regioned (zeros 8)).arg.sel + 8 ≤ 8 ∧ ptrOff (ptrAt ownP 0) % 8 = 0
    ∧ lookup (regioned (zeros 8)) 104 1 (ptrAt ownP 0) 8 true true false = .good (lmAddr 0 0x100) none ∧ (8 : Nat) < 0 + (zeros 9).length
    ∧ (regioned (zeros 8)).arg.bytes.length = 8 ∧ Safe (regioned []) ∧ (regioned []).Quiet
    ∧ (regioned []).isPoison (lmAddr 0 0x100) = false ∧ 0 < (regioned (zeros 8)).arg.bytes.length ∧ (4 : Nat) < 8 ∧ 4 ≤ 8 - ptrOff ownP % 8
    ∧ ({ regioned (zeros 4) with poison := [lmAddr 0 0x100] } : State).isPoison (lmAddr 0 0x100) = true
    ∧ lookup (regioned (zeros 4)) 104 1 (ptrAt ownP 0) 4 false true false = .good (lmAddr 0 0x100) none
    ∧ lookup (regioned (zeros 8)) 104 1 0x1000000000060000 8 false true false = .bad .translate 0x02 0
    ∧ lookup (regioned (zeros 8)) 104 1 0x1000000000060000 8 true false false = .bad .translate 0x02 0 := by decide

/-- Numbers of each kind in the formats of the rows, an invalid and an infinite result, a sum of zeros. -/
theorem test_meets_NumberRules :
    ((ffF32, 2 ^ 24 - 1, 104, 0x7FC00000) ∈ formatRows ∧ (ffE2m1, 3, 1, 0) ∈ formatRows ∧ (ftyFF .bf16, 255, 120, 0x7FC0) ∈ formatRows)
    ∧ (ffF16.hasInf = true ∧ ffE4m3.hasInf = false ∧ (0x7F : Nat) < 2 ^ ffE4m3.width ∧ ffF32.decode 0x7FC00001 = .nan)
    ∧ FBin.Invalid .add (.inf true) (.inf false) ∧ FBin.Infinite .div (ffF32.decode 0x3F800000) (ffF32.decode 0x80000000) true
    ∧ Num.Is (ffF32.decode 0x3F800000) false ((2 ^ 23 : Nat) * 2 ^ (-23 : Int)) ∧ Num.Is (ffF32.decode 0x80000000) true ((0 : Nat) * 2 ^ (-149 : Int))
    ∧ fmtFF .f16 = some ffF16 ∧ fmtFF .s8 = none :=
  ⟨by decide, by decide, .inl ⟨rfl, true, rfl, rfl⟩, ⟨by decide, by decide, by simp [FBin.Invalid]; decide, .inr (.inr (.inr ⟨rfl, .inr rfl, rfl⟩))⟩,
    ⟨_, _, by decide, rfl⟩, ⟨_, _, by decide, rfl⟩, rfl, rfl⟩
/-- Operands of a minimum, a root and a comparison: NaN, an infinity, a negative, a zero and 1. -/
theorem test_meets_NumberRules_choices :
    ((ftyFF .f32, 2 ^ 24 - 1, 104, 0x7FC00000) ∈ formatRows ∧ ffF32.decode 0x7FC00000 = .nan ∧ ffF32.decode 0x7F800000 = .inf false
      ∧ (ffF32.decode 0xBF800000).sign = true ∧ (ffF32.decode 0xBF800000).isZero = false)
    ∧ ffF32.decode (ffF32.pick true 0x7FC00000 0x7F800000) = .inf false ∧ (ffF32.decode (ffF32.pick false 0x3F800000 0)).isInf = false
    ∧ Num.Is (ffF32.decode 0x3F800000) false ((2 ^ 23 : Nat) * 2 ^ (-23 : Int)) ∧ Num.At (ffF32.decode 0xFF800000) ⊥
    ∧ Num.At (ffF32.decode 0x80000000) (((-1) * ((0 : Nat) : ℝ) * 2 ^ (-149 : Int) : ℝ) : EReal) := by
  refine ⟨by decide, by decide, by decide, ⟨_, _, by decide, rfl⟩, ?_, ?_⟩
  · rw [show ffF32.decode 0xFF800000 = .inf true by decide]; rfl
  · rw [show ffF32.decode 0x80000000 = .fin true 0 (-149) by decide]; rfl
theorem test_meets_SelRule : here.readyX 1 ∧ empty5.cur.fullX 5 = false ∧ empty5.canTrap ∧ (at1 5 1).x 5 ≠ 0 := by decide
theorem test_meets_DecodeOfEncode : (Instr.add ⟨1, 2, 3, false, true, false⟩).wf = true ∧ encode (.add ⟨1, 2, 3, false, true, false⟩) ≠ []
    ∧ (Instr.add ⟨1, 2, 3, false, true, false⟩).isEvent = false ∧ (1023 : Word).toNat < 1024 := by decide
theorem test_meets_DecodedIsWellFormed : takeGroup 5 [0xE9C8, 0x10A6, 0] = some [0xE9C8, 0x10A6] ∧ isKext 0xF800 = true
    ∧ prefixOrder ([0xE000, 0xE800, 0x0400].filter isPrefixWord) = false := by decide
theorem test_meets_StepKeepsForm : Safe here ∧ here.mgmt.boot = 1 := by decide

/-- The state in which the host's placing of a NOP leaves the machine. -/
def placed : State := State.reset.withFetchWord 16 0x0400
theorem test_meets_StepRunsDecoded :
    placed.agenda = [] ∧ placed.mgmt.powered = true ∧ placed.mgmt.inReset = false ∧ placed.mgmt.boot = 1 ∧ pendingEvents placed.turn = []
    ∧ issuingCores placed.turn = [placed.turn.cur.core] ∧ placed.turn = placed ∧ placed.turn.leaver = none ∧ placed.rest = [] ∧ placed.cur.wait = none ∧ placed.cur.blocked = none ∧ placed.cur.pend = []
    ∧ placed.cur.stopDue = 0 ∧ placed.cur.cancelDue = false ∧ placed.cur.yield = false
    ∧ (⟨.powerOn, {}⟩ : Happening).step.isEvent = true := by decide
theorem test_meets_StepRunsDecoded_strand : nextStrand placed.turn.tick placed.turn.cur.core = some placed.turn.cur := rfl
/-- A strand that waits at a barrier has a trap pending. -/
theorem test_meets_StepRunsDecoded_leaver :
    let s : State := { pending .poison with cur := { (pending .poison).cur with wait := some .tbar } }
    s.turn.leaver = some s.cur ∧ s.cur.cancelDue = false ∧ (∀ u ∈ s.turn.strands, u.sid = s.cur.sid → u = s.cur) := by decide
theorem test_meets_StepRunsDecoded_fetch :
    ∃ s1, fetchGroup 5 { placed.turn.tick with tried := some (placed.turn.cur.core, placed.turn.cur.hw, placed.turn.cur.sid) } placed.turn.cur.pc []
      = (s1, .ok [0x0400]) := ⟨_, rfl⟩
theorem test_meets_EveryStepAnswers : CanStep State.reset ∧ (∀ f, ({ State.reset with mgmt := { Mgmt.reset with powered := f } } : State).agenda = [])
    ∧ ({ Mgmt.reset with boot := 0x12 } : Mgmt).boot ≠ 1 := by decide

end Sys2Proof.Tests
end

section
/-! SUPPORT. The check of full/empty bits before an instruction issues (spec/02 R42, spec/12 R216, spec/19 R368): when it lets an
instruction go, when the strand waits, and when it raises EMPTY_REG. -/

namespace Sys2Proof.Machine

/-- Register x of a file is read or written. -/
def UsesReg (reads : List Src) (writes : List Dst) (v : Bool) (x : Reg) : Prop :=
  (∃ o ∈ reads, o.vec = v ∧ x ∈ o.regs) ∨ ∃ o ∈ writes, o.vec = v ∧ x ∈ o.regs

/-- Register x of a file is read by an operand whose trap bit is set. -/
def TrapReads (reads : List Src) (v : Bool) (x : Reg) : Prop := ∃ o ∈ reads, o.trap = true ∧ o.vec = v ∧ x ∈ o.regs

theorem trapped_iff (reads : List Src) (v : Bool) (x : Reg) : trapped reads v x = true ↔ TrapReads reads v x := by
  simp [trapped, TrapReads, and_assoc]

/-- A strand lacks a register when one that the instruction uses is empty and read under no trap bit. -/
theorem Strand.lacks_iff (t : Strand) (reads : List Src) (writes : List Dst) :
    t.lacks reads writes = true ↔ ∃ v x, UsesReg reads writes v x ∧ t.full v x = false ∧ ¬TrapReads reads v x := by
  simp only [Strand.lacks, Bool.or_eq_true, List.any_eq_true, Bool.and_eq_true, Bool.not_eq_true', ← trapped_iff,
    Bool.not_eq_true]
  constructor
  · rintro (⟨o, ho, x, hx, he, ht⟩ | ⟨o, ho, x, hx, he, ht⟩)
    · exact ⟨o.vec, x, .inl ⟨o, ho, rfl, hx⟩, he, ht⟩
    · exact ⟨o.vec, x, .inr ⟨o, ho, rfl, hx⟩, he, ht⟩
  · rintro ⟨v, x, ⟨o, ho, rfl, hx⟩ | ⟨o, ho, rfl, hx⟩, he, ht⟩
    · exact .inl ⟨o, ho, x, hx, he, ht⟩
    · exact .inr ⟨o, ho, x, hx, he, ht⟩

/-- The registers of an instruction are full exactly when each that it uses is. -/
theorem Strand.ready_iff (t : Strand) (reads : List Src) (writes : List Dst) :
    t.ready reads writes ↔ ∀ v x, UsesReg reads writes v x → t.full v x = true := by
  constructor
  · rintro ⟨hr, hw⟩ v x (⟨o, ho, rfl, hx⟩ | ⟨o, ho, rfl, hx⟩)
    · exact hr o ho x hx
    · exact hw o ho x hx
  · intro h
    exact ⟨fun o ho x hx => h o.vec x (.inl ⟨o, ho, rfl, hx⟩), fun o ho x hx => h o.vec x (.inr ⟨o, ho, rfl, hx⟩)⟩

/-- An operand with an empty register has a lowest one. -/
theorem Strand.emptyOf_isSome (t : Strand) (q : Src) (x : Reg) (hx : x ∈ q.regs) (he : t.full q.vec x = false) :
    (t.emptyOf q).isSome = true := by
  unfold Strand.emptyOf
  rw [List.find?_isSome]
  exact ⟨x, hx, by simp [he]⟩

/-- The lowest empty register of an operand is the one that only full ones precede. -/
theorem Strand.emptyOf_append (t : Strand) (q : Src) (rs rs' : List Reg) (r : Reg) (hq : q.regs = rs ++ r :: rs')
    (he : t.full q.vec r = false) (hf : ∀ x ∈ rs, t.full q.vec x = true) : t.emptyOf q = some r := by
  have hn : rs.find? (fun x => !t.full q.vec x) = none := List.find?_eq_none.2 fun x hx => by simp [hf x hx]
  unfold Strand.emptyOf
  rw [hq, List.find?_append, hn, Option.none_or, List.find?_cons_of_pos (by simp [he])]

/-- The check lets an instruction go exactly when all its registers are full. -/
theorem gate_eq_none_iff (s : State) (reads : List Src) (writes : List Dst) :
    gate s reads writes = none ↔ s.cur.ready reads writes := by
  refine ⟨fun h => ?_, fun h => gate_ready s reads writes h.1 h.2⟩
  rw [Strand.ready_iff]
  intro v x hu
  by_contra he
  rw [Bool.not_eq_true] at he
  unfold gate at h
  by_cases hl : s.cur.lacks reads writes = true
  · simp [hl] at h
  · rw [if_neg hl, Option.map_eq_none_iff, List.find?_eq_none] at h
    have ht : TrapReads reads v x := by
      by_contra ht
      exact hl ((s.cur.lacks_iff reads writes).2 ⟨v, x, hu, he, ht⟩)
    obtain ⟨o, ho, htrap, rfl, hx⟩ := ht
    exact h o ho (by simp [htrap, s.cur.emptyOf_isSome o x hx he])

/-- A strand that lacks a register waits. -/
theorem gate_of_lacks (s : State) (reads : List Src) (writes : List Dst) (h : s.cur.lacks reads writes = true) :
    gate s reads writes = some (s.waitsFor .empty) := by
  unfold gate
  rw [if_pos h]
  rfl

/-- A precise trap of a strand that can take one goes to its handler. -/
theorem State.trap_delivered (s : State) (c : Cause) (c0 c1 c2 c3 : Word) (hf : c.fatal = false) (h : s.canTrap) :
    s.trap c c0 c1 c2 c3 = s.delivered false c.code c0 c1 c2 c3 s.cur.pc := by
  obtain ⟨hx, hb, hv⟩ := h
  unfold State.trap
  rw [State.takeTrap_delivers s false c c0 c1 c2 c3 s.cur.pc hf hb hv hx]
  rfl

/-- A strand that lacks no register takes EMPTY_REG for the first operand with its trap bit set that has an empty one. -/
theorem gate_emptyReg (s : State) (l l' : List Src) (q : Src) (writes : List Dst) (r : Reg) (hl : s.cur.lacks (l ++ q :: l') writes = false)
    (ht : q.trap = true) (he : s.cur.emptyOf q = some r) (hf : ∀ o ∈ l, o.trap = true → ∀ x ∈ o.regs, s.cur.full o.vec x = true)
    (hs : s.canTrap) :
    gate s (l ++ q :: l') writes = some (s.delivered false 0x08
      (BitVec.ofNat 64 (q.op + (if q.vec then 2 ^ 8 else 0) + r.toNat * 2 ^ 16)) 0 0 0 s.cur.pc) := by
  have hn : l.find? (fun o => o.trap && (s.cur.emptyOf o).isSome) = none := by
    rw [List.find?_eq_none]
    intro o ho h
    rw [Bool.and_eq_true] at h
    simp [s.cur.emptyOf_full o (hf o ho h.1)] at h
  have hv : q.vec.toNat * 2 ^ 8 = if q.vec then 2 ^ 8 else 0 := by cases q.vec <;> rfl
  unfold gate
  rw [hl, List.find?_append, hn, Option.none_or, List.find?_cons_of_pos (by simp [ht, he])]
  simp only [Bool.false_eq_true, if_false, Option.map_some, he, Option.getD_some, hv]
  rw [State.trap_delivered s _ _ _ _ _ rfl hs]
  rfl

/-- What `gate` answers, by which registers are empty and which of those are read under a trap bit. -/
theorem gate_answers (s : State) (reads : List Src) (writes : List Dst) :
    (gate s reads writes = none ↔
      (∀ q ∈ reads, ∀ r ∈ q.regs, s.cur.full q.vec r = true) ∧ (∀ q ∈ writes, ∀ r ∈ q.regs, s.cur.full q.vec r = true))
    ∧ (∀ (l : List Src) (q : Src) (l' : List Src) (rs : List Reg) (r : Reg) (rs' : List Reg),
        reads = l ++ q :: l' → q.regs = rs ++ r :: rs' → q.trap = true → s.cur.full q.vec r = false →
        (∀ x ∈ rs, s.cur.full q.vec x = true) → (∀ o ∈ l, o.trap = true → ∀ x ∈ o.regs, s.cur.full o.vec x = true) →
        (∀ v x, UsesReg reads writes v x → s.cur.full v x = false → TrapReads reads v x) → s.canTrap →
      gate s reads writes = some (s.delivered false 0x08
        (BitVec.ofNat 64 (q.op + (if q.vec then 2 ^ 8 else 0) + r.toNat * 2 ^ 16)) 0 0 0 s.cur.pc))
    ∧ ((∃ v x, UsesReg reads writes v x ∧ s.cur.full v x = false ∧ ¬TrapReads reads v x) →
      gate s reads writes = some (s.waitsFor .empty)) := by
  refine ⟨gate_eq_none_iff s reads writes, ?_, fun h => gate_of_lacks s reads writes ((s.cur.lacks_iff reads writes).2 h)⟩
  rintro l q l' rs r rs' rfl hq ht he hrs hl hall hs
  have hlacks : s.cur.lacks (l ++ q :: l') writes = false := by
    rw [← Bool.not_eq_true, Strand.lacks_iff]
    rintro ⟨v, x, hu, hx, hn⟩
    exact hn (hall v x hu hx)
  exact gate_emptyReg s l l' q writes r hlacks ht (s.cur.emptyOf_append q rs rs' r hq he hrs) hl hs

/-- What the check of its registers answers is what the instruction does. -/
theorem withRegs_of_gate {s t : State} {reads : List Src} {writes : List Dst} (k : State → State) (h : gate s reads writes = some t) :
    withRegs s reads writes k = .next t := by
  unfold withRegs
  rw [h]
  rfl

end Sys2Proof.Machine
end

section
/-! SUPPORT. The arithmetic counters (spec/13 R247, spec/19 R370, R371): the events of an instruction added to the counters of its
troupe, and the ARITH of one that takes a counter to its limit. -/

namespace Sys2Proof.Machine

/-! ### Updates of one record in a list -/

/-- What a search finds after an update of the records that it is for, when the update keeps them so. -/
theorem find?_map_ite {α : Type} (p : α → Bool) (f : α → α) (hf : ∀ a, p a = true → p (f a) = true) (l : List α) :
    (l.map (fun a => if p a = true then f a else a)).find? p = (l.find? p).map f := by
  induction l with
  | nil => rfl
  | cons a l ih =>
    by_cases h : p a = true
    · simp [h, hf a h]
    · simpa [h] using ih

/-! ### Tallies -/

theorem eventsOf_length (evs : List Ev) (c : Fin 5) : (eventsOf evs c).length = tally evs c :=
  List.countP_eq_length_filter.symm

/-- The model's test for crossing a limit: a limit that is above some number is not 0. -/
theorem crosses_iff (old limit : Quad) (n : Nat) : crosses old limit n = true ↔ Crosses old limit n := by
  have hz : old.toNat < limit.toNat → limit ≠ 0 := by
    rintro h rfl
    exact absurd h (Nat.not_lt_zero _)
  simp only [crosses, Crosses, Bool.and_eq_true, bne_iff_ne, decide_eq_true_eq]
  exact ⟨fun h => ⟨h.1.2, h.2⟩, fun h => ⟨⟨hz h.1, h.1⟩, h.2⟩⟩

theorem crossed_eq (u : Troupe) (evs : List Ev) :
    crossed u evs = (List.finRange 5).filter (fun c => decide (Crosses u.arith[c] u.alimit[c] (tally evs c))) := by
  unfold crossed
  refine List.filter_congr fun c _ => ?_
  rw [eventsOf_length, Bool.eq_iff_iff, crosses_iff, decide_eq_true_iff]

theorem mem_crossed (u : Troupe) (evs : List Ev) (c : Fin 5) :
    c ∈ crossed u evs ↔ Crosses u.arith[c] u.alimit[c] (tally evs c) := by
  rw [crossed_eq, List.mem_filter, decide_eq_true_iff]
  exact and_iff_right (List.mem_finRange c)

/-- The head of the counters crossed is the lowest one. -/
theorem lt_of_crossed_cons {u : Troupe} {evs : List Ev} {f : Fin 5} {r : List (Fin 5)} (h : crossed u evs = f :: r) (g : Fin 5)
    (hg : g ∈ r) : f < g := by
  have hs : (crossed u evs).Pairwise (· < ·) := (List.pairwise_lt_finRange 5).filter _
  rw [h] at hs
  exact List.rel_of_pairwise_cons hs hg

/-- The sum of a value over the elements that pass a test. -/
theorem foldl_filter_eq_sum {α : Type} (p : α → Bool) (f : α → Nat) (l : List α) (m : Nat) :
    (l.filter p).foldl (fun m a => m + f a) m = m + (l.map (fun a => if p a = true then f a else 0)).sum := by
  induction l generalizing m with
  | nil => rfl
  | cons a l ih =>
    by_cases h : p a = true
    · simp [h, ih, Nat.add_assoc]
    · simp [h, ih]

/-- The element at place n of those that pass a test, with what stands before it in the list. -/
theorem split_at_filter {α : Type} (p : α → Bool) (d : α) (l : List α) (n : Nat) (h : n < (l.filter p).length) :
    ∃ l1 l2, l = l1 ++ (l.filter p).getD n d :: l2 ∧ p ((l.filter p).getD n d) = true ∧ l1.countP p = n := by
  induction l generalizing n with
  | nil => exact absurd h (Nat.not_lt_zero n)
  | cons a l ih =>
    by_cases ha : p a = true
    · cases n with
      | zero => exact ⟨[], l, by simp [ha], by simp [ha], rfl⟩
      | succ n =>
        obtain ⟨l1, l2, hl, hp, hn⟩ := ih n (by simpa [ha] using h)
        rw [List.filter_cons_of_pos ha, List.getD_cons_succ]
        exact ⟨a :: l1, l2, by rw [List.cons_append, ← hl], hp, by rw [List.countP_cons_of_pos ha, hn]⟩
    · obtain ⟨l1, l2, hl, hp, hn⟩ := ih n (by simpa [ha] using h)
      rw [List.filter_cons_of_neg ha]
      exact ⟨a :: l1, l2, by rw [List.cons_append, ← hl], hp, by rw [List.countP_cons_of_neg ha, hn]⟩

/-! ### ARITH -/

/-- Without a counter crossed there is no ARITH. -/
theorem arithTrap_none (u : Troupe) (evs : List Ev) (op : Word) (fa fb : Nat) (pc : Word) (now : Nat)
    (h : ∀ c : Fin 5, ¬Crosses u.arith[c] u.alimit[c] (tally evs c)) : arithTrap u evs op fa fb pc now = none := by
  have hc : crossed u evs = [] := List.eq_nil_iff_forall_not_mem.2 fun c hc => h c ((mem_crossed u evs c).1 hc)
  unfold arithTrap
  rw [hc]

/-- With a counter crossed ARITH names the lowest such counter, all of them, and the element whose event crossed it. -/
theorem arithTrap_some (u : Troupe) (evs : List Ev) (op : Word) (fa fb : Nat) (pc : Word) (now : Nat)
    (h : ∃ c : Fin 5, Crosses u.arith[c] u.alimit[c] (tally evs c)) :
    ∃ c0 c1 c2, CarriesArith u evs (op.toNat / 256) (op.toNat % 64) fa fb c0 c1 c2
      ∧ arithTrap u evs op fa fb pc now = some ⟨.arith, c0, c1, c2, pc, now⟩ := by
  obtain ⟨c, hc⟩ := h
  cases hl : crossed u evs with
  | nil => exact absurd ((mem_crossed u evs c).2 hc) (by simp [hl])
  | cons f r =>
    have hf : Crosses u.arith[f] u.alimit[f] (tally evs f) := (mem_crossed u evs f).1 (by simp [hl])
    have hlow : ∀ g, g < f → ¬Crosses u.arith[g] u.alimit[g] (tally evs g) := by
      intro g hg hx
      have hm : g ∈ f :: r := hl ▸ (mem_crossed u evs g).2 hx
      rcases List.mem_cons.1 hm with rfl | hm
      · exact lt_irrefl _ hg
      · exact lt_asymm hg (lt_of_crossed_cons hl g hm)
    have hmask : (f :: r).foldl (fun m i => m + 2 ^ i.val) 0
        = ((List.finRange 5).map (fun g => if Crosses u.arith[g] u.alimit[g] (tally evs g) then 2 ^ g.val else 0)).sum := by
      rw [← hl, crossed_eq, foldl_filter_eq_sum, Nat.zero_add]
      simp only [decide_eq_true_eq]
    obtain ⟨l1, l2, hs, hp, hn⟩ := split_at_filter (fun e : Ev => e.counter == f) ⟨f, 0, 0, 0, 0, 0x7F⟩ evs
      (u.alimit[f].toNat - u.arith[f].toNat - 1) (by
        rw [← List.countP_eq_length_filter]
        change _ < tally evs f
        obtain ⟨h1, h2⟩ := hf
        omega)
    refine ⟨_, _, _, ⟨f, _, l1, l2, hf, hlow, hs, by simpa using hp, ?_, rfl, rfl, rfl⟩, ?_⟩
    · change u.arith[f].toNat + l1.countP _ + 1 = _
      rw [hn]
      obtain ⟨h1, h2⟩ := hf
      omega
    · unfold arithTrap
      rw [hl, ← hmask]
      rfl

/-! ### Counting -/

/-- Counting no event changes nothing. -/
theorem State.counted_nil (s : State) (uid : Nat) : s.counted uid [] = s := by
  have h : ∀ u : Troupe, (if u.uid = uid then { u with arith := Vector.ofFn (fun i => u.arith[i] + BitVec.ofNat 32 (tally [] i)) }
      else u) = u := by
    intro u
    have hv : Vector.ofFn (fun i : Fin 5 => u.arith[i] + BitVec.ofNat 32 (tally [] i)) = u.arith := by
      ext i hi
      simp [tally]
    rw [hv]
    exact ite_self _
  unfold State.counted
  simp only [h, List.map_id']

/-- What counting does: the events are added, and ARITH is that of the troupe as it stood. -/
theorem State.countEvents_eq (s : State) (uid : Nat) (evs : List Ev) (op : Word) (fa fb : Nat) (pc : Word) :
    s.countEvents uid evs op fa fb pc = (s.counted uid evs, arithTrap (s.troupe uid) evs op fa fb pc s.now) := by
  unfold State.countEvents
  cases evs with
  | nil =>
    rw [State.counted_nil, arithTrap_none]
    · rfl
    · rintro c ⟨h1, h2⟩
      exact absurd (Nat.lt_of_lt_of_le h1 h2) (lt_irrefl _)
  | cons e evs => simp [State.counted, State.setTroupe, addEvents, eventsOf_length]

theorem State.troupe_of_find {s : State} {uid : Nat} {u : Troupe} (h : s.troupe? uid = some u) : s.troupe uid = u := by
  unfold State.troupe
  rw [h]
  rfl

/-- The counters of a troupe have no part in what its job is. -/
theorem State.counted_troupe_job (s : State) (uid n : Nat) (evs : List Ev) : ((s.counted uid evs).troupe n).job = (s.troupe n).job := by
  unfold State.troupe State.troupe? State.counted
  simp only [List.find?_map, Function.comp_def, apply_ite Troupe.uid, ite_self]
  cases s.troupes.find? (fun u => u.uid == n) with
  | none => rfl
  | some u =>
    simp only [Option.map_some, Option.getD_some]
    split <;> rfl

theorem State.counted_canTrap {s : State} (uid : Nat) (evs : List Ev) (h : s.canTrap) : (s.counted uid evs).wentOn.canTrap := by
  obtain ⟨hx, hb, hv⟩ := h
  refine ⟨hx, hb, ?_⟩
  have hj : (s.counted uid evs).wentOn.myJob = s.myJob :=
    congrArg s.job (State.counted_troupe_job s uid s.cur.troupe evs)
  rwa [hj]

/-- An instruction that takes no counter to its limit counts its events and goes on. -/
theorem State.advanceCounting_uncrossed (s : State) (evs : List Ev) (fa fb : Nat) (u : Troupe) (hu : s.troupe? s.cur.troupe = some u)
    (h : ∀ c : Fin 5, ¬Crosses u.arith[c] u.alimit[c] (tally evs c)) :
    s.advanceCounting evs fa fb = (s.counted s.cur.troupe evs).wentOn := by
  unfold State.advanceCounting
  rw [State.countEvents_eq, State.troupe_of_find hu]
  simp only [arithTrap_none u evs _ fa fb s.cur.pc s.now h]
  rfl

/-- An instruction that takes a counter to its limit counts its events, goes on, and takes ARITH. -/
theorem State.advanceCounting_crossed (s : State) (evs : List Ev) (fa fb : Nat) (u : Troupe) (hu : s.troupe? s.cur.troupe = some u)
    (h : ∃ c : Fin 5, Crosses u.arith[c] u.alimit[c] (tally evs c)) (hs : s.canTrap) : ∃ c0 c1 c2 : Word,
    CarriesArith u evs ((opOf s.ir).toNat / 256) ((opOf s.ir).toNat % 64) fa fb c0 c1 c2
    ∧ s.advanceCounting evs fa fb = (s.counted s.cur.troupe evs).wentOn.delivered false 0x0A c0 c1 c2 s.cur.pc s.wentOn.cur.pc := by
  obtain ⟨c0, c1, c2, hc, ht⟩ := arithTrap_some u evs (opOf s.ir) fa fb s.cur.pc s.now h
  refine ⟨c0, c1, c2, hc, ?_⟩
  unfold State.advanceCounting
  rw [State.countEvents_eq, State.troupe_of_find hu]
  simp only [ht]
  exact State.trap_delivered _ .arith c0 c1 c2 s.cur.pc rfl (State.counted_canTrap s.cur.troupe evs hs)

end Sys2Proof.Machine
end

section
/-! SUPPORT. The events of lane-wise operations, lane by lane (spec/13 R244, R245, R247): the clamped lanes of integer results, and rounded
lanes with the LFSR as it reaches each of them (spec/07 R130). -/

namespace Sys2Proof.Machine

theorem zipIdx_map_range {α : Type} (f : Nat → α) (n : Nat) :
    ((List.range n).map f).zipIdx = (List.range n).map (fun i => (f i, i)) := by
  refine List.ext_getElem (by simp) fun i _ _ => ?_
  simp

/-! ### Groups -/

/-- Writing the registers of a group changes no other part of the state than the vector registers. -/
theorem State.setGroup_eq (s : State) (d : Reg) (vs : List VReg) :
    ∃ w : Vector VReg 32, s.setGroup d vs = { s with cur := { s.cur with v := w } } := by
  unfold State.setGroup
  induction vs.zipIdx generalizing s with
  | nil => exact ⟨s.cur.v, rfl⟩
  | cons e l ih =>
    obtain ⟨w, hw⟩ := ih (s.setV (inGroup d e.2) e.1)
    exact ⟨w, hw⟩

theorem fullV_rv (s : State) (place : Nat) (w : Grp) (r : Reg) (trap : Bool) (h : s.readyV w r) :
    ∀ x ∈ (rv place w r trap).regs, s.cur.full (rv place w r trap).vec x = true := h

/-- With their registers full, the operands of a lane-wise operation on d, a and b let it run, whether it reads d or not. -/
theorem withRegs_lanes_ready (s : State) (w : Grp) (d a b : Reg) (ta tb td : Bool) (ds : List Src) (k : State → State)
    (hds : ∀ q ∈ ds, q = rv 0 w d td) (ha : s.readyV w a) (hb : s.readyV w b) (hd : s.readyV w d) :
    withRegs s ([rv 1 w a ta, rv 2 w b tb] ++ ds) [wv w d] k = .next (k s) := by
  refine withRegs_ready s _ _ k (fun q hq => ?_) (fun q hq => ?_)
  · simp only [List.cons_append, List.nil_append, List.mem_cons] at hq
    rcases hq with rfl | rfl | hq
    · exact fullV_rv s 1 w a ta ha
    · exact fullV_rv s 2 w b tb hb
    · rw [hds q hq]
      exact fullV_rv s 0 w d td hd
  · obtain rfl := List.mem_singleton.1 hq
    exact hd

/-! ### Clamped lanes -/

theorem laneInt_lane (m : VMod) (v : VReg) (l : Nat) : laneInt m (lane v (laneBits m.lw) l) = laneVal m (lane v (laneBits m.lw) l) := by
  unfold laneInt laneVal intOf
  cases m.unsigned with
  | false => rfl
  | true => simp [lane]

theorem intMin_eq (m : VMod) : intMin (!m.unsigned) (laneBits m.lw) = laneMin m := by
  unfold intMin laneMin
  cases m.unsigned <;> simp

theorem intMax_eq (m : VMod) : intMax (!m.unsigned) (laneBits m.lw) = laneMax m := by
  unfold intMax laneMax
  cases m.unsigned <;> simp

/-- A result is clamped under .sat when it lies outside the lane's type. -/
theorem narrowLane_clamped (m : VMod) (x : Int) :
    (narrowLane m x).clamped = (m.sat && (decide (x < laneMin m) || decide (laneMax m < x))) := by
  simp only [narrowLane, narrowInt, intMin_eq, intMax_eq, gt_iff_lt]
  cases m.sat with
  | false => simp
  | true =>
    by_cases h1 : x < laneMin m
    · simp [h1]
    · by_cases h2 : laneMax m < x <;> simp [h1, h2]

theorem lane_eq_laneOf (s : State) (d : Reg) (w r l : Nat) : lane (s.v (inGroup d r)) w l = s.laneOf d w r l := by
  unfold lane State.laneOf
  rw [Nat.shiftRight_eq_div_pow]

/-- The clamp events of a predicated lane-wise operation are those of its active clamped lanes. -/
theorem clampEvents_laneGroup (s : State) (d a b : Reg) (w : Grp) (bits : Nat) (p : BitVec 3) (f : Nat → Nat → Nat → LaneOut) :
    clampEvents d (laneGroup s d a b w bits (s.p p) f)
      = ((List.range w.count).map (fun r => ((List.range (256 / bits)).filter (fun l => s.active p bits r l
          && (f (s.laneOf d bits r l) (s.laneOf a bits r l) (s.laneOf b bits r l)).clamped)).map (fun l =>
            (⟨2, 0, (inGroup d r).toNat, 0, l, 0x7F⟩ : Ev)))).flatten := by
  unfold clampEvents laneGroup
  rw [zipIdx_map_range, List.map_map]
  refine congrArg List.flatten (List.map_congr_left fun r _ => ?_)
  simp only [Function.comp_apply, laneReg, zipIdx_map_range, List.filter_map, List.map_map, lane_eq_laneOf]
  refine congrArg (List.map _) (List.filter_congr fun l _ => ?_)
  change LaneOut.clamped (if s.active p bits r l = true then _ else _) = _
  cases s.active p bits r l <;> rfl

/-! ### Rounded lanes -/

theorem drawn_add (rm : Rm) (j k : Nat) (l : Quad) : drawn rm (j + k) l = drawn rm k (drawn rm j l) := by
  unfold drawn
  split
  · induction j generalizing l with
    | zero => rw [Nat.zero_add]; rfl
    | succ j ih => rw [Nat.add_right_comm]; exact ih _
  · rfl

theorem drawn_zero (rm : Rm) (l : Quad) : drawn rm 0 l = l := ite_self l

/-- Rounding draws once, and only in the mode sr (R130). -/
theorem FF.finish_lfsr (f : FF) (v : Exact) (rm : Rm) (sat : Bool) (l : Quad) (src : Option Int) (inNan inInf : Bool) :
    (f.finish v rm sat l src inNan inInf).lfsr = drawn rm 1 l := by
  unfold FF.finish
  cases v with
  | nan => rfl
  | inf neg => dsimp only; split <;> rfl
  | ex x =>
    dsimp only
    split
    · split <;> rfl
    · rfl

theorem FF.bin_lfsr (f : FF) (op : FBin) (a b : Nat) (rm : Rm) (sat : Bool) (l : Quad) : (f.bin op a b rm sat l).lfsr = drawn rm 1 l :=
  f.finish_lfsr _ rm sat l none _ _

/-- Lane i of rounded lanes, of which each active one draws once: the LFSR has gone one draw on for each active lane before it. -/
def laneAt (act : Nat → Bool) (old : Nat → Nat) (f : Nat → Quad → Rounded) (rm : Rm) (l : Quad) (i : Nat) : Rounded :=
  let q := drawn rm ((List.range i).countP act) l
  if act i then f i q else keptLane (old i) q

section
variable {act : Nat → Bool} {old : Nat → Nat} {f : Nat → Quad → Rounded} {rm : Rm}

theorem laneAt_lfsr (hf : ∀ i q, (f i q).lfsr = drawn rm 1 q)
    (l : Quad) (i : Nat) : (laneAt act old f rm l i).lfsr = drawn rm ((List.range (i + 1)).countP act) l := by
  rw [List.range_succ, List.countP_append, drawn_add]
  unfold laneAt
  by_cases h : act i = true
  · simp [h, hf]
  · simp [h, keptLane, drawn_zero]

/-- Rounded lanes from lane a on, the LFSR having gone through the lanes before. -/
theorem flanes_range' (hf : ∀ i q, (f i q).lfsr = drawn rm 1 q)
    (l : Quad) (n a : Nat) : flanes act old f (List.range' a n) (drawn rm ((List.range a).countP act) l)
      = ((List.range' a n).map (laneAt act old f rm l), drawn rm ((List.range (a + n)).countP act) l) := by
  induction n generalizing a with
  | zero => rfl
  | succ n ih =>
    have hx : (if act a = true then f a (drawn rm ((List.range a).countP act) l)
        else keptLane (old a) (drawn rm ((List.range a).countP act) l)) = laneAt act old f rm l a := rfl
    rw [List.range'_succ]
    simp only [flanes, hx, laneAt_lfsr hf, ih (a + 1), List.map_cons]
    rw [Nat.add_right_comm, Nat.add_assoc]

/-- Rounded lanes from the first on. -/
theorem flanes_range (hf : ∀ i q, (f i q).lfsr = drawn rm 1 q)
    (l : Quad) (n : Nat) : flanes act old f (List.range n) l
      = ((List.range n).map (laneAt act old f rm l), drawn rm ((List.range n).countP act) l) := by
  have h := flanes_range' (act := act) (old := old) hf l n 0
  rwa [List.range_zero, List.countP_nil, drawn_zero, ← List.range_eq_range', Nat.zero_add] at h

end

/-- Rounded registers from register a on: each hands its LFSR to the next. -/
theorem fgroup_range' {reg : Nat → Quad → List Rounded × Quad} {rows : Nat → List Rounded} {lf : Nat → Quad}
    (h : ∀ r, reg r (lf r) = (rows r, lf (r + 1))) (k a : Nat) :
    fgroup (a + k) reg k (lf a) = ((List.range' a k).map rows, lf (a + k)) := by
  induction k generalizing a with
  | zero => rfl
  | succ k ih =>
    have hi := ih (a + 1)
    rw [Nat.add_right_comm] at hi
    have ha : a + (k + 1) - (k + 1) = a := Nat.add_sub_cancel a (k + 1)
    simp only [fgroup, ha, h, List.range'_succ, List.map_cons]
    rw [← Nat.add_assoc, hi]

theorem fgroup_range {reg : Nat → Quad → List Rounded × Quad} {rows : Nat → List Rounded} {lf : Nat → Quad}
    (h : ∀ r, reg r (lf r) = (rows r, lf (r + 1))) (n : Nat) : fgroup n reg n (lf 0) = ((List.range n).map rows, lf n) := by
  have h0 := fgroup_range' h n 0
  rwa [Nat.zero_add, ← List.range_eq_range'] at h0

/-- Active lanes before a lane of a register: those of the registers before and those before it in its own. -/
theorem State.lanesBefore_add (s : State) (p : BitVec 3) (bits r l : Nat) :
    s.lanesBefore p bits r l = s.lanesBefore p bits r 0 + (List.range l).countP (s.active p bits r) := by
  unfold State.lanesBefore
  rw [Nat.add_zero, List.range_add, List.countP_append, List.countP_map]
  rfl

theorem State.lanesBefore_succ (s : State) (p : BitVec 3) (bits r : Nat) :
    s.lanesBefore p bits (r + 1) 0 = s.lanesBefore p bits r (256 / bits) := by
  unfold State.lanesBefore
  rw [Nat.add_zero, Nat.succ_mul]

/-- Lane l of register r of a rounded lane-wise operation, each active lane of which draws once. -/
def roundedLane (s : State) (d a b : Reg) (w : Nat) (p : BitVec 3) (f : Nat → Nat → Nat → Quad → Rounded) (rm : Rm)
    (r l : Nat) : Rounded :=
  let q := drawn rm (s.lanesBefore p w r l) s.lfsr
  if s.active p w r l then f (s.laneOf d w r l) (s.laneOf a w r l) (s.laneOf b w r l) q else keptLane (s.laneOf d w r l) q

/-- The lanes of a rounded lane-wise operation, register by register. -/
theorem frounded_lanes (s : State) (d a b : Reg) (w : Grp) (ff : FF) (p : BitVec 3)
    {f : Nat → Nat → Nat → Quad → Rounded} {rm : Rm} (hf : ∀ x y z q, (f x y z q).lfsr = drawn rm 1 q) :
    (frounded s d a b w ff (s.p p) f).1 = (List.range w.count).map (fun r =>
      (List.range (256 / ff.width)).map (roundedLane s d a b ff.width p f rm r)) := by
  have h := fgroup_range (reg := fun r l => flanes (fun i => activeLane (s.p p) (r * lanesOf ff.width + i))
      (lane (s.v (inGroup d r)) ff.width) (fun i q => f (lane (s.v (inGroup d r)) ff.width i) (lane (s.v (inGroup a r)) ff.width i)
        (lane (s.v (inGroup b r)) ff.width i) q) (List.range (lanesOf ff.width)) l)
    (rows := fun r => (List.range (256 / ff.width)).map (roundedLane s d a b ff.width p f rm r))
    (lf := fun r => drawn rm (s.lanesBefore p ff.width r 0) s.lfsr) (fun r => ?_) w.count
  · have h0 : drawn rm (s.lanesBefore p ff.width 0 0) s.lfsr = s.lfsr := by
      unfold State.lanesBefore
      rw [Nat.zero_mul, Nat.zero_add, List.range_zero, List.countP_nil, drawn_zero]
    rw [h0] at h
    exact congrArg Prod.fst h
  · rw [flanes_range (fun i q => hf _ _ _ q)]
    refine Prod.ext (List.map_congr_left fun l _ => ?_) ?_
    · unfold roundedLane laneAt
      rw [s.lanesBefore_add p ff.width r l, drawn_add, ← lane_eq_laneOf, ← lane_eq_laneOf, ← lane_eq_laneOf]
      rfl
    · rw [s.lanesBefore_succ, s.lanesBefore_add p ff.width r (256 / ff.width), drawn_add]
      rfl

/-- A lane that is kept has no event. -/
theorem keptLane_events (v : Nat) (q : Quad) (kind reg row col k : Nat) : (keptLane v q).events kind reg row col k = [] := rfl

/-- The events of rounded registers, in the order of their lanes. -/
theorem laneEvents_range (d : Reg) (g : Nat → Nat → Rounded) (m n : Nat) :
    laneEvents d ((List.range m).map (fun r => (List.range n).map (g r)))
      = ((List.range m).map (fun r => ((List.range n).map (fun l =>
          (g r l).events 0 (inGroup d r).toNat 0 l 0x7F)).flatten)).flatten := by
  unfold laneEvents
  simp only [zipIdx_map_range, List.map_map, Function.comp_def]

/-- The events of a rounded lane-wise operation are those of its active lanes. -/
theorem laneEvents_frounded (s : State) (d a b : Reg) (w : Grp) (ff : FF) (p : BitVec 3)
    {f : Nat → Nat → Nat → Quad → Rounded} {rm : Rm} (hf : ∀ x y z q, (f x y z q).lfsr = drawn rm 1 q) :
    laneEvents d (frounded s d a b w ff (s.p p) f).1 = ((List.range w.count).map (fun r => ((List.range (256 / ff.width)).map (fun l =>
      if s.active p ff.width r l then (f (s.laneOf d ff.width r l) (s.laneOf a ff.width r l) (s.laneOf b ff.width r l)
        (drawn rm (s.lanesBefore p ff.width r l) s.lfsr)).events 0 (inGroup d r).toNat 0 l 0x7F else [])).flatten)).flatten := by
  rw [frounded_lanes s d a b w ff p hf, laneEvents_range]
  refine congrArg List.flatten (List.map_congr_left fun r _ => congrArg List.flatten (List.map_congr_left fun l _ => ?_))
  unfold roundedLane
  split
  · rfl
  · rw [keptLane_events]

/-- Writing rounded registers changes the vector registers and the LFSR, then the events are counted. -/
theorem State.putRounded_eq (s : State) (d : Reg) (w : Nat) (rs : List (List Rounded) × Quad) (fa fb : Nat) :
    ∃ v : Vector VReg 32, s.putRounded d w rs fa fb = { s with
      cur := { s.cur with v := v, sr := { s.cur.sr with lfsr := rs.2.setWidth 64 } } }.advanceCounting (laneEvents d rs.1) fa fb := by
  obtain ⟨v, hv⟩ := s.setGroup_eq d (rs.1.map (fun l => unlanes w (l.map (·.bits))))
  unfold State.putRounded
  rw [hv]
  exact ⟨v, rfl⟩

/-! ### Lane-wise instructions -/

/-- With its registers full a lane-wise integer operation writes its registers and counts its active clamped lanes. -/
theorem vlanes_counts (o : VOp) (f : Nat → Nat → Nat → LaneOut) (s : State) (ha : s.readyV o.w o.a) (hb : s.readyV o.w o.b)
    (hd : s.readyV o.w o.d) :
    let bits := laneBits o.m.lw
    ∃ w : Vector VReg 32, vlanes o f s = .next ({ s with cur := { s.cur with v := w } }.advanceCounting
      (((List.range o.w.count).map (fun r => ((List.range (256 / bits)).filter (fun l => s.active o.pred bits r l
        && (f (s.laneOf o.d bits r l) (s.laneOf o.a bits r l) (s.laneOf o.b bits r l)).clamped)).map (fun l =>
          (⟨2, 0, (inGroup o.d r).toNat, 0, l, 0x7F⟩ : Ev)))).flatten)
      (intCode o.m.unsigned o.m.lw) (intCode o.m.unsigned o.m.lw)) := by
  unfold vlanes
  rw [withRegs_lanes_ready s o.w o.d o.a o.b o.ta o.tb o.td _ _ (fun q hq => ?_) ha hb hd]
  · dsimp only
    rw [clampEvents_laneGroup]
    obtain ⟨w, hw⟩ := s.setGroup_eq o.d ((laneGroup s o.d o.a o.b o.w (laneBits o.m.lw) (s.p o.pred) f).map
      (fun l => unlanes (laneBits o.m.lw) (l.map (·.value))))
    rw [hw]
    exact ⟨w, rfl⟩
  · split at hq
    · exact absurd hq List.not_mem_nil
    · exact List.mem_singleton.1 hq

/-- With its registers full a lane-wise floating operation that draws once in each active lane writes its registers and the LFSR, and
counts the events of its active lanes. -/
theorem vflanes_counts (o : FOp) (readsD : Bool) (f : FF → Rm → Nat → Nat → Nat → Quad → Rounded) (s : State)
    (hf : ∀ ff rm x y z q, (f ff rm x y z q).lfsr = drawn rm 1 q) (ha : s.readyV o.w o.a) (hb : s.readyV o.w o.b)
    (hd : s.readyV o.w o.d) :
    let ff := ftyFF o.m.ty
    let rm := s.mode o.m.rm
    ∃ (w : Vector VReg 32) (lf : Word), vflanes o readsD f s = .next ({ s with
      cur := { s.cur with v := w, sr := { s.cur.sr with lfsr := lf } } }.advanceCounting
        (((List.range o.w.count).map (fun r => ((List.range (256 / ff.width)).map (fun l =>
          if s.active o.pred ff.width r l then
            (f ff rm (s.laneOf o.d ff.width r l) (s.laneOf o.a ff.width r l) (s.laneOf o.b ff.width r l)
              (drawn rm (s.lanesBefore o.pred ff.width r l) s.lfsr)).events 0 (inGroup o.d r).toNat 0 l 0x7F
          else [])).flatten)).flatten) (ftyCode o.m.ty) (ftyCode o.m.ty)) := by
  unfold vflanes
  rw [withRegs_lanes_ready s o.w o.d o.a o.b o.ta o.tb o.td _ _ (fun q hq => ?_) ha hb hd]
  · obtain ⟨w, hw⟩ := s.putRounded_eq o.d (ftyFF o.m.ty).width (frounded s o.d o.a o.b o.w (ftyFF o.m.ty) (s.p o.pred)
      (f (ftyFF o.m.ty) (s.mode o.m.rm))) (ftyCode o.m.ty) (ftyCode o.m.ty)
    rw [laneEvents_frounded s o.d o.a o.b o.w (ftyFF o.m.ty) o.pred (hf _ _)] at hw
    exact ⟨w, _, congrArg _ hw⟩
  · split at hq
    · exact List.mem_singleton.1 hq
    · exact absurd hq List.not_mem_nil

theorem exec_vadd (o : VOp) (s : State) :
    exec (.vadd o) s = vlanes o (fun _ a b => narrowLane o.m (laneInt o.m a + laneInt o.m b)) s := rfl

theorem exec_vfadd (o : FOp) (s : State) :
    exec (.vfadd o) s = vflanes o false (fun ff rm _ a b l => ff.bin .add a b rm o.m.sat l) s := rfl

/-- With its registers full VADD counts the lanes that it clamps. -/
theorem exec_vadd_counts (o : VOp) (s : State) (ha : s.readyV o.w o.a) (hb : s.readyV o.w o.b) (hd : s.readyV o.w o.d) :
    let bits := laneBits o.m.lw
    let sum := fun r l => laneVal o.m (s.laneOf o.a bits r l) + laneVal o.m (s.laneOf o.b bits r l)
    ∃ w : Vector VReg 32, exec (.vadd o) s = .next ({ s with cur := { s.cur with v := w } }.advanceCounting
      (((List.range o.w.count).map (fun r => ((List.range (256 / bits)).filter (fun l =>
        s.active o.pred bits r l && o.m.sat && (decide (sum r l < laneMin o.m) || decide (laneMax o.m < sum r l)))).map (fun l =>
          (⟨2, 0, (inGroup o.d r).toNat, 0, l, 0x7F⟩ : Ev)))).flatten)
      (intCode o.m.unsigned o.m.lw) (intCode o.m.unsigned o.m.lw)) := by
  obtain ⟨w, hw⟩ := vlanes_counts o (fun _ a b => narrowLane o.m (laneInt o.m a + laneInt o.m b)) s ha hb hd
  refine ⟨w, (exec_vadd o s).trans (hw.trans ?_)⟩
  simp only [narrowLane_clamped, ← lane_eq_laneOf, laneInt_lane, Bool.and_assoc]

/-- With its registers full VFADD counts the events of its lanes. -/
theorem exec_vfadd_counts (o : FOp) (s : State) (ha : s.readyV o.w o.a) (hb : s.readyV o.w o.b) (hd : s.readyV o.w o.d) :
    let ff := ftyFF o.m.ty
    let res := fun r l => ff.bin .add (s.laneOf o.a ff.width r l) (s.laneOf o.b ff.width r l) (s.mode o.m.rm) o.m.sat
      (drawn (s.mode o.m.rm) (s.lanesBefore o.pred ff.width r l) s.lfsr)
    ∃ (w : Vector VReg 32) (lf : Word), exec (.vfadd o) s = .next ({ s with
      cur := { s.cur with v := w, sr := { s.cur.sr with lfsr := lf } } }.advanceCounting
        (((List.range o.w.count).map (fun r => ((List.range (256 / ff.width)).map (fun l =>
          if s.active o.pred ff.width r l then (res r l).events 0 (inGroup o.d r).toNat 0 l 0x7F else [])).flatten)).flatten)
        (ftyCode o.m.ty) (ftyCode o.m.ty)) := by
  rw [exec_vfadd]
  exact vflanes_counts o false _ s (fun ff rm _ y z q => ff.bin_lfsr .add y z rm o.m.sat q) ha hb hd

end Sys2Proof.Machine
end

section
/-! SUPPORT. What an operation of the matrix array does to its strand as it retires (spec/13 R273 to R276, spec/19 R370): its events are
counted, and ARITH becomes pending. -/

namespace Sys2Proof.Machine

/-! ### Cores -/

/-- From s to t nothing but records of cores has changed. -/
def OnlyCores (s t : State) : Prop := ∃ cs, t = { s with cores := cs }

theorem OnlyCores.refl (s : State) : OnlyCores s s := ⟨s.cores, rfl⟩

theorem OnlyCores.trans {s t u : State} (h : OnlyCores s t) (k : OnlyCores t u) : OnlyCores s u := by
  obtain ⟨_, rfl⟩ := h
  obtain ⟨cs, rfl⟩ := k
  exact ⟨cs, rfl⟩

theorem State.setCore_onlyCores (s : State) (n : Nat) (f : Core → Core) : OnlyCores s (s.setCore n f) := by
  unfold State.setCore
  split
  · exact ⟨_, rfl⟩
  · exact ⟨_, rfl⟩

theorem State.setZ_onlyCores (s : State) (n : Nat) (z : Fin 2) (v : BitVec 131072) : OnlyCores s (s.setZ n z v) :=
  s.setCore_onlyCores n _

theorem State.setRing_onlyCores (s : State) (n q : Nat) (f : Ring → Ring) : OnlyCores s (s.setRing n q f) :=
  s.setCore_onlyCores n _

/-- A core reads as it has been set. -/
theorem State.core_setCore (s : State) (n : Nat) (f : Core → Core) (hf : ∀ c, (f c).num = c.num) :
    (s.setCore n f).core n = f (s.core n) := by
  unfold State.setCore State.core
  split
  next h =>
    rw [List.any_eq_true] at h
    obtain ⟨c, hc⟩ := Option.isSome_iff_exists.1 (List.find?_isSome.2 h)
    rw [find?_map_ite (fun c : Core => c.num == n) f (fun c hc => by rw [hf]; exact hc), hc]
    rfl
  next h =>
    have hn : s.cores.find? (fun c => c.num == n) = none :=
      List.find?_eq_none.2 fun c hc hp => h (List.any_eq_true.2 ⟨c, hc, hp⟩)
    have hnew : ((f (Core.fresh n)).num == n) = true := by rw [hf]; exact beq_self_eq_true n
    rw [List.find?_append, hn, Option.none_or, List.find?_cons_of_pos (p := fun c : Core => c.num == n) hnew]
    rfl

theorem State.core_setZ_zfreeing (s : State) (n : Nat) (z : Fin 2) (v : BitVec 131072) :
    ((s.setZ n z v).core n).zfreeing = (s.core n).zfreeing := by
  unfold State.setZ
  rw [State.core_setCore]
  exact fun _ => rfl

theorem State.core_setRing_zfreeing (s : State) (n q : Nat) (f : Ring → Ring) :
    ((s.setRing n q f).core n).zfreeing = (s.core n).zfreeing := by
  unfold State.setRing
  rw [State.core_setCore]
  exact fun _ => rfl

/-! ### Strands -/

/-- The strand that is found after a change to it that leaves it its number and does not end it. -/
theorem State.strand?_setStrand (s : State) (sid : Nat) (f : Strand → Strand) (hs : ∀ t, (f t).sid = t.sid)
    (hm : ∀ t, (f t).mode = t.mode) :
    (s.setStrand sid f).strand? sid = (s.strand? sid).map f := by
  refine find?_map_ite (fun t : Strand => t.sid == sid && t.exists?) f (fun t ht => ?_) s.strands
  simpa [Strand.exists?, hs, hm] using ht

/-- A trap becomes pending for a strand that takes part and has room for it. -/
theorem State.pendTrap_eq (s : State) (sid : Nat) (p : Trap) (v : Strand) (hv : s.strand? sid = some v) (hm : v.mode ≠ .stopped 5)
    (hl : v.pend.length < 16) : s.pendTrap sid p = s.setStrand sid (fun u => { u with pend := u.pend ++ [p] }) := by
  unfold State.pendTrap
  rw [hv]
  simp only [if_neg hm, if_neg (Nat.not_le.2 hl)]

/-! ### Retirement -/

/-- Troupe u and strand v are there, and a trap of v can become pending. -/
structure TakesPending (s : State) (sid uid : Nat) (u : Troupe) (v : Strand) : Prop where
  troupe : s.troupe? uid = some u
  strand : s.strand? sid = some v
  unstopped : v.mode ≠ .stopped 5
  room : v.pend.length < 16

/-- From s to t the events of an array operation at pc have been counted for troupe u, and ARITH is pending for strand v. -/
def ArithPends (s t : State) (sid uid : Nat) (u : Troupe) (v : Strand) (evs : List Ev) (opcode fa fb : Nat) (pc : Word) : Prop :=
  ∃ (v' : Strand) (c0 c1 c2 : Word), CarriesArith u evs 4 opcode fa fb c0 c1 c2 ∧ t.mem = s.mem
    ∧ t.troupes = (s.counted uid evs).troupes ∧ t.strand? sid = some v'
    ∧ v' = { v with pend := v.pend ++ [⟨.arith, c0, c1, c2, pc, s.now⟩] }

section
variable {s t : State} {core sid uid : Nat} {z : Fin 2} {u : Troupe} {v : Strand}

/-- An operation that leaves the array with no ZFREE pending counts its events, and its ARITH becomes pending. -/
theorem State.leaveArray_eq (hz : (s.core core).zfreeing[z] = false) (hu : s.troupe? uid = some u) (evs : List Ev) (op fa fb : Nat)
    (pc : Word) (p : Trap) (hp : arithTrap u evs (BitVec.ofNat 64 (4 * 256 + op)) fa fb pc s.now = some p) :
    ∃ cs, s.leaveArray core sid uid z evs op fa fb pc = (({ s with cores := cs } : State).counted uid evs).pendTrap sid p := by
  have hfree : ((s.setCore core (fun c => { c with array := c.array.drop 1 })).core core).zfreeing[z] = false := by
    rw [State.core_setCore]
    · exact hz
    · exact fun _ => rfl
  obtain ⟨cs, hcs⟩ := s.setCore_onlyCores core (fun c => { c with array := c.array.drop 1 })
  refine ⟨cs, ?_⟩
  unfold State.leaveArray
  simp only [hfree, Bool.false_eq_true, false_and, if_false]
  rw [hcs, State.countEvents_eq, State.troupe_of_find (s := { s with cores := cs }) hu]
  simp only [hp]

/-- An operation that leaves the array, and whose events take a counter of its troupe to its limit. -/
theorem State.leaveArray_pends (hst : OnlyCores s t) (hz : (t.core core).zfreeing[z] = false) (hp : TakesPending s sid uid u v)
    (evs : List Ev) (op fa fb : Nat) (pc : Word) (hop : op < 64) (h : ∃ c : Fin 5, Crosses u.arith[c] u.alimit[c] (tally evs c)) :
    ArithPends s (t.leaveArray core sid uid z evs op fa fb pc) sid uid u v evs op fa fb pc := by
  obtain ⟨c0, c1, c2, hc, ht⟩ := arithTrap_some u evs (BitVec.ofNat 64 (4 * 256 + op)) fa fb pc s.now h
  have hcode : (BitVec.ofNat 64 (4 * 256 + op)).toNat / 256 = 4 ∧ (BitVec.ofNat 64 (4 * 256 + op)).toNat % 64 = op := by
    rw [BitVec.toNat_ofNat]
    omega
  rw [hcode.1, hcode.2] at hc
  obtain ⟨_, rfl⟩ := hst
  obtain ⟨cs, hl⟩ := State.leaveArray_eq (sid := sid) hz hp.troupe evs op fa fb pc _ ht
  have hv : (({ s with cores := cs } : State).counted uid evs).strand? sid = some v := hp.strand
  have he := hl.trans (State.pendTrap_eq _ sid _ v hv hp.unstopped hp.room)
  rw [he]
  refine ⟨_, c0, c1, c2, hc, rfl, rfl, ?_, rfl⟩
  rw [State.strand?_setStrand, hv]
  · rfl
  · exact fun _ => rfl
  · exact fun _ => rfl

end

/-- The number of an accumulator, as an operation of the array holds it. -/
theorem accumulator_mod (z : Fin 2) : (⟨z.val % 2, Nat.mod_lt _ (by decide)⟩ : Fin 2) = z := Fin.ext (Nat.mod_eq_of_lt z.isLt)

/-- A ring gives up the panel that an operation has read, unless the operation keeps it. -/
def State.eats (s : State) (core uid : Nat) (keep : Bool) (q : Nat) : State :=
  if keep then s else s.setRing core q (fun x => x.consume uid)

theorem State.eats_kept (s : State) (core uid q : Nat) : s.eats core uid true q = s := rfl

theorem State.eats_consumed (s : State) (core uid q : Nat) : s.eats core uid false q = s.setRing core q (fun x => x.consume uid) := rfl

theorem State.eats_onlyCores (s : State) (core uid : Nat) (keep : Bool) (q : Nat) : OnlyCores s (s.eats core uid keep q) := by
  cases keep with
  | true => exact OnlyCores.refl s
  | false =>
    rw [State.eats_consumed]
    exact s.setRing_onlyCores core q _

theorem State.core_eats_zfreeing (s : State) (core uid : Nat) (keep : Bool) (q : Nat) :
    ((s.eats core uid keep q).core core).zfreeing = (s.core core).zfreeing := by
  cases keep with
  | true => rw [State.eats_kept]
  | false => rw [State.eats_consumed, State.core_setRing_zfreeing]

/-- An MMA that retires changes cores alone, none of it a pending ZFREE, and leaves the array with its events. -/
theorem exec_mmaRetire (s : State) (sid uid qa qb : Nat) (z : Fin 2) (a b : Panel) (ka kb zo : Bool) (pc : Word) (r : List ArrayOp)
    (h : (s.core s.arg.id).array = .mma sid uid z.val qa qb a b ka kb zo true pc :: r) :
    ∃ t, OnlyCores s t ∧ (t.core s.arg.id).zfreeing = (s.core s.arg.id).zfreeing
      ∧ exec .mmaRetire s = .next
        (t.leaveArray s.arg.id sid uid z (mmaResult (s.core s.arg.id).z[z] a b z.val zo).2 0x04 a.fmt b.fmt pc) := by
  refine ⟨((s.setZ s.arg.id z (mmaResult (s.core s.arg.id).z[z] a b z.val zo).1).eats s.arg.id uid ka qa).eats s.arg.id uid kb qb,
    ((s.setZ_onlyCores _ _ _).trans (State.eats_onlyCores _ _ _ _ _)).trans (State.eats_onlyCores _ _ _ _ _), ?_, ?_⟩
  · rw [State.core_eats_zfreeing, State.core_eats_zfreeing, State.core_setZ_zfreeing]
  · change execMmaRetire s = _
    unfold execMmaRetire
    simp only [h, accumulator_mod]
    rfl

/-- The events of a ZSCALE of an accumulator with value v, element by element, each of which draws once (R130). -/
theorem zscale_events (v : BitVec 131072) (cols : List Quad) (rm : Rm) (sat : Bool) (l : Quad) (z n : Nat) :
    (((flanes (fun _ => true) (fun _ => 0) (fun n l => ffF32.bin .mul (zelem v n) ((cols.getD (n % 64) 0).toNat) rm sat l)
        (List.range n) l).1.zipIdx).map (fun e => e.1.events 1 z (e.2 / 64) (e.2 % 64) 0x7F)).flatten
      = ((List.range n).map (fun n => (ffF32.bin .mul (zelem v n) ((cols.getD (n % 64) 0).toNat) rm sat
          (drawn rm n l)).events 1 z (n / 64) (n % 64) 0x7F)).flatten := by
  have hlane : ∀ i, laneAt (fun _ => true) (fun _ => 0) (fun n l => ffF32.bin .mul (zelem v n) ((cols.getD (n % 64) 0).toNat) rm sat l)
      rm l i = ffF32.bin .mul (zelem v i) ((cols.getD (i % 64) 0).toNat) rm sat (drawn rm i l) := by
    intro i
    simp only [laneAt, List.countP_true, List.length_range, if_true]
  rw [flanes_range (rm := rm) fun _ _ => FF.bin_lfsr _ _ _ _ _ _ _]
  simp only [zipIdx_map_range, List.map_map, Function.comp_def, hlane]

/-- A ZSCALE that retires changes its accumulator alone, and leaves the array with its events. -/
theorem exec_zscaleRetire (s : State) (sid uid : Nat) (z : Fin 2) (rm : Rm) (sat : Bool) (l : Quad) (cols : List Quad) (pc : Word)
    (r : List ArrayOp) (h : (s.core s.arg.id).array = .zscale sid uid z.val rm sat l cols true pc :: r) :
    ∃ t, OnlyCores s t ∧ (t.core s.arg.id).zfreeing = (s.core s.arg.id).zfreeing
      ∧ exec .zscaleRetire s = .next (t.leaveArray s.arg.id sid uid z
        (((List.range 4096).map (fun n => (ffF32.bin .mul (zelem (s.core s.arg.id).z[z] n) ((cols.getD (n % 64) 0).toNat) rm sat
          (drawn rm n l)).events 1 z.val (n / 64) (n % 64) 0x7F)).flatten) 0x09 0 0 pc) := by
  change ∃ t, _ ∧ _ ∧ execZscaleRetire s = _
  unfold execZscaleRetire
  simp only [h, accumulator_mod, zscale_events]
  exact ⟨_, s.setZ_onlyCores s.arg.id z _, s.core_setZ_zfreeing s.arg.id z _, rfl⟩

end Sys2Proof.Machine
end

section
/-! What an instruction does when a register is empty, and when a counter passes its limit (spec/02 R42, spec/12 R216, spec/19 R364, R368,
R370, R371). -/

namespace Sys2Proof.Machine

theorem exec_add (o : RRR) (s : State) : exec (.add o) s = rrr o (· + ·) s := rfl

theorem exec_addImm (o : RI) (s : State) : exec (.addImm o) s = ri o (· + ·) s := rfl

theorem exec_bins (o : BFOp) (s : State) : exec (.bins o) s = execBins o s := rfl

/-- ADD, ADD_IMM, BINS and VADD do what the check of their registers answers. -/
theorem exec_of_gate (o : RRR) (i : RI) (b : BFOp) (v : VOp) (s t : State) :
    (gate s [⟨1, false, [o.a], o.ta⟩, ⟨2, false, [o.b], o.tb⟩] [⟨false, [o.d]⟩] = some t → exec (.add o) s = .next t)
    ∧ (gate s [⟨if i.td then 0 else 1, false, [i.a], i.ta || i.td⟩] [⟨false, [i.d]⟩] = some t → exec (.addImm i) s = .next t)
    ∧ (gate s [⟨1, false, [b.a], b.ta⟩, ⟨0, false, [b.d], b.td⟩] [⟨false, [b.d]⟩] = some t → exec (.bins b) s = .next t)
    ∧ (gate s ([⟨1, true, groupRegs v.w v.a, v.ta⟩, ⟨2, true, groupRegs v.w v.b, v.tb⟩]
          ++ if v.pred = 0 then [] else [⟨0, true, groupRegs v.w v.d, v.td⟩]) [⟨true, groupRegs v.w v.d⟩] = some t →
        exec (.vadd v) s = .next t) := by
  refine ⟨fun h => ?_, fun h => ?_, fun h => ?_, fun h => ?_⟩
  · rw [exec_add]
    exact withRegs_of_gate _ h
  · rw [exec_addImm]
    exact withRegs_of_gate _ h
  · rw [exec_bins]
    exact withRegs_of_gate _ h
  · rw [exec_vadd]
    exact withRegs_of_gate _ h

/-- Settles O11, each clause by the lemmas of its own: the check of the registers, what it answers being what the instruction does; the
counters of an instruction; the events of VADD and VFADD, lane by lane; and the ARITH of what retires in the array. That a register read
both with a trap bit and without one traps and does not wait is the model's reading (log entry 79). -/
theorem operandAndCounterTraps : Obligations.OperandAndCounterTraps := by
  unfold Obligations.OperandAndCounterTraps
  refine ⟨gate_answers, exec_of_gate, fun s evs fa fb u hu => ⟨s.advanceCounting_uncrossed evs fa fb u hu,
    s.advanceCounting_crossed evs fa fb u hu⟩, exec_vadd_counts, exec_vfadd_counts, ?_⟩
  intro s sid uid z pc r u v hu hv hm hl hz
  have hp : TakesPending s sid uid u v := ⟨hu, hv, hm, hl⟩
  refine ⟨fun rm sat l cols ha hc => ?_, fun qa qb a b ka kb zo ha hc => ?_⟩
  · obtain ⟨t, hst, hf, he⟩ := exec_zscaleRetire s sid uid z rm sat l cols pc r ha
    obtain ⟨v', c0, c1, c2, hk⟩ := State.leaveArray_pends hst (hf ▸ hz) hp _ 0x09 0 0 pc (by decide) hc
    exact ⟨_, v', c0, c1, c2, he, hk⟩
  · obtain ⟨t, hst, hf, he⟩ := exec_mmaRetire s sid uid qa qb z a b ka kb zo pc r ha
    obtain ⟨v', c0, c1, c2, hk⟩ := State.leaveArray_pends hst (hf ▸ hz) hp _ 0x04 a.fmt b.fmt pc (by decide) hc
    exact ⟨_, v', c0, c1, c2, he, hk⟩

end Sys2Proof.Machine
end

section
/-! SUPPORT. Frames of the coherence records and of the strands: what the lines' operations, an acquire and a write that wakes its watchers
leave as it was (spec/06 R109 to R118, spec/14 R298). -/

namespace Sys2Proof.Machine

/-! ### The coherence records -/

/-- From s to t nothing but the coherence records has changed. -/
def OnlyCoh (s t : State) : Prop := ∃ c, t = { s with coh := c }

theorem OnlyCoh.refl (s : State) : OnlyCoh s s := ⟨s.coh, rfl⟩

theorem OnlyCoh.trans {s t u : State} (h : OnlyCoh s t) (k : OnlyCoh t u) : OnlyCoh s u := by
  obtain ⟨_, rfl⟩ := h
  obtain ⟨c, rfl⟩ := k
  exact ⟨c, rfl⟩

theorem OnlyCoh.foldl {α : Type} {op : State → α → State} (h : ∀ t a, OnlyCoh t (op t a)) (l : List α) (s : State) :
    OnlyCoh s (l.foldl op s) :=
  List.foldlRecOn l op (OnlyCoh.refl s) fun t ht a _ => ht.trans (h t a)

theorem OnlyCoh.strand? {s t : State} (h : OnlyCoh s t) (sid : Nat) : t.strand? sid = s.strand? sid := by
  obtain ⟨_, rfl⟩ := h
  rfl

theorem OnlyCoh.req? {s t : State} (h : OnlyCoh s t) (id : Nat) : t.req? id = s.req? id := by
  obtain ⟨_, rfl⟩ := h
  rfl

theorem OnlyCoh.mem {s t : State} (h : OnlyCoh s t) : t.mem = s.mem := by
  obtain ⟨_, rfl⟩ := h
  rfl

theorem State.raiseFloor_onlyCoh (s : State) (d : Nat × Nat) (n : Nat) : OnlyCoh s (s.raiseFloor d n) := ⟨_, rfl⟩

theorem State.dropProxy_onlyCoh (s : State) (ln die : Nat) : OnlyCoh s (s.dropProxy ln die) := ⟨_, rfl⟩

theorem State.putLine_onlyCoh (s : State) (ln : Nat) (f : Line → Line) : OnlyCoh s (s.putLine ln f) := by
  unfold State.putLine
  dsimp only
  split <;> split <;> exact ⟨_, rfl⟩

theorem State.evictHome_onlyCoh (s : State) (l : Line) : OnlyCoh s (s.evictHome l) := ⟨_, rfl⟩

theorem State.evictProxy_onlyCoh (s : State) (p : Proxy) : OnlyCoh s (s.evictProxy p) := by
  have hput := s.putLine_onlyCoh p.line (fun l => l.without p)
  unfold State.evictProxy
  dsimp only
  refine OnlyCoh.trans ?_ (State.raiseFloor_onlyCoh _ _ _)
  refine OnlyCoh.trans ?_ (State.dropProxy_onlyCoh _ _ _)
  split
  · exact hput
  · exact hput.trans (State.evictHome_onlyCoh _ _)

theorem State.evictOne_onlyCoh (s : State) (k : Nat × Nat) (ln n : Nat) : OnlyCoh s (s.evictOne k ln n) := by
  unfold State.evictOne
  dsimp only
  split
  · exact s.evictHome_onlyCoh _
  · split
    · exact s.evictProxy_onlyCoh _
    · exact OnlyCoh.refl s

theorem State.keepSlice_onlyCoh (s : State) (k : Nat × Nat) (ln : Nat) : OnlyCoh s (s.keepSlice k ln) := by
  unfold State.keepSlice
  split
  · exact OnlyCoh.refl s
  · exact OnlyCoh.foldl (fun t i => t.evictOne_onlyCoh k ln _) _ s

theorem State.setLine_onlyCoh (s : State) (ln : Nat) (f : Line → Line) : OnlyCoh s (s.setLine ln f) :=
  (s.putLine_onlyCoh ln f).trans (State.keepSlice_onlyCoh _ _ _)

theorem State.reserveLine_onlyCoh (s : State) (ln : Nat) : OnlyCoh s (s.reserveLine ln) := by
  unfold State.reserveLine
  dsimp only
  split
  · exact s.setLine_onlyCoh ln _
  · exact OnlyCoh.refl s

theorem State.callIn_onlyCoh (s : State) (ln : Nat) : OnlyCoh s (s.callIn ln) := by
  unfold State.callIn
  dsimp only
  split
  · exact OnlyCoh.refl s
  · exact (s.setLine_onlyCoh ln _).trans ⟨_, rfl⟩

theorem State.noteServed_onlyCoh (s : State) (r : Req) : OnlyCoh s (s.noteServed r) := by
  refine OnlyCoh.foldl (fun t ln => ?_) _ s
  dsimp only
  split
  · exact t.setLine_onlyCoh ln _
  · exact OnlyCoh.refl t

/-! ### Cores -/

theorem OnlyCores.strand? {s t : State} (h : OnlyCores s t) (sid : Nat) : t.strand? sid = s.strand? sid := by
  obtain ⟨_, rfl⟩ := h
  rfl

theorem OnlyCores.mem {s t : State} (h : OnlyCores s t) : t.mem = s.mem := by
  obtain ⟨_, rfl⟩ := h
  rfl

theorem State.acquire_onlyCores (s : State) (core : Nat) : OnlyCores s (s.acquire core) := s.setCore_onlyCores core _

theorem State.trimLeases_onlyCores (s : State) (core : Nat) : OnlyCores s (s.trimLeases core) := s.setCore_onlyCores core _

/-! ### Strands -/

/-- A strand that is found has the number it was looked for by, and has not ended. -/
theorem State.strand?_spec {s : State} {sid : Nat} {u : Strand} (h : s.strand? sid = some u) : u.sid = sid ∧ u.exists? = true := by
  have hp := List.find?_some h
  simpa using hp

/-- The strand that is found after a change to it that leaves it its number and does not end it. -/
theorem State.strand?_setStrand_of {s : State} {sid : Nat} {u : Strand} (hu : s.strand? sid = some u) (f : Strand → Strand)
    (hs : ∀ t, (f t).sid = t.sid) (hm : ∀ t, (f t).mode = t.mode) : (s.setStrand sid f).strand? sid = some (f u) := by
  rw [s.strand?_setStrand sid f hs hm, hu]
  rfl

/-- The strand in hand is found by its number, unless it has ended. -/
theorem State.strand?_cur (s : State) (h : s.cur.exists? = true) : s.strand? s.cur.sid = some s.cur :=
  List.find?_cons_of_pos (by simp [h])

/-- The strand that is found after a change to all strands that keeps their numbers and ends none. -/
theorem State.strand?_of_strands_map {s t : State} {f : Strand → Strand} (h : t.strands = s.strands.map f)
    (hs : ∀ u, (f u).sid = u.sid) (he : ∀ u, (f u).exists? = u.exists?) (sid : Nat) : t.strand? sid = (s.strand? sid).map f := by
  have hp : ((fun u : Strand => u.sid == sid && u.exists?) ∘ f) = fun u => u.sid == sid && u.exists? := by
    funext u
    simp [hs, he]
  unfold State.strand?
  rw [h, List.find?_map, hp]

/-- From s to t a write may have woken the strand of a number; its mode, its transaction and its pending traps are as they were. -/
def KeepsTx (sid : Nat) (s t : State) : Prop :=
  ∀ u, s.strand? sid = some u → ∃ u', t.strand? sid = some u' ∧ u'.mode = u.mode ∧ u'.tx = u.tx ∧ u'.pend = u.pend

theorem KeepsTx.trans {sid : Nat} {s t u : State} (h : KeepsTx sid s t) (k : KeepsTx sid t u) : KeepsTx sid s u := by
  intro v hv
  obtain ⟨v1, h1, hm1, ht1, hp1⟩ := h v hv
  obtain ⟨v2, h2, hm2, ht2, hp2⟩ := k v1 h1
  exact ⟨v2, h2, hm2.trans hm1, ht2.trans ht1, hp2.trans hp1⟩

theorem KeepsTx.of_eq {sid : Nat} {s t : State} (h : t.strand? sid = s.strand? sid) : KeepsTx sid s t :=
  fun u hu => ⟨u, h.trans hu, rfl, rfl, rfl⟩

/-- What waking a strand by a write leaves of it. -/
theorem Strand.noteWrite_keeps (t : Strand) (m : Memory) (a n : Nat) :
    (t.noteWrite m a n).sid = t.sid ∧ (t.noteWrite m a n).mode = t.mode ∧ (t.noteWrite m a n).tx = t.tx
      ∧ (t.noteWrite m a n).pend = t.pend := by
  unfold Strand.noteWrite
  split
  · dsimp only
    split
    · simp [Strand.finishWait]
    · exact ⟨rfl, rfl, rfl, rfl⟩
  · exact ⟨rfl, rfl, rfl, rfl⟩

/-- Showing a write to its watchers wakes strands, and their cores acquire. -/
theorem State.noteAt_onlyCores (s : State) (a n : Nat) : OnlyCores (s.mapStrands (fun t => t.noteWrite s.mem a n)) (s.noteAt a n) :=
  List.foldlRecOn (s.watchers a n) _ (OnlyCores.refl _) fun t ht core _ => ht.trans (t.acquire_onlyCores core)

theorem State.noteAt_mem (s : State) (a n : Nat) : (s.noteAt a n).mem = s.mem := (s.noteAt_onlyCores a n).mem

theorem State.noteAt_keepsTx (s : State) (a n sid : Nat) : KeepsTx sid s (s.noteAt a n) := by
  intro u hu
  obtain ⟨-, hm, ht, hp⟩ := u.noteWrite_keeps s.mem a n
  refine ⟨u.noteWrite s.mem a n, ?_, hm, ht, hp⟩
  rw [(s.noteAt_onlyCores a n).strand?, State.strand?_of_strands_map (s := s) (f := fun t => t.noteWrite s.mem a n) rfl, hu]
  · rfl
  · exact fun t => (t.noteWrite_keeps s.mem a n).1
  · exact fun t => by simp [Strand.exists?, (t.noteWrite_keeps s.mem a n).2.1]

/-- Several runs of bytes are written, then shown to their watchers. -/
theorem State.putAll_mem (s : State) (parts : List (Nat × List Byte)) :
    (s.putAll parts).mem = parts.foldl (fun m p => Memory.setBytes m p.1 p.2) s.mem := by
  have hpoke : ∀ (l : List (Nat × List Byte)) (t : State),
      (l.foldl (fun t p => t.poke p.1 p.2) t).mem = l.foldl (fun m p => Memory.setBytes m p.1 p.2) t.mem := by
    intro l
    induction l with
    | nil => exact fun _ => rfl
    | cons p l ih => exact fun t => ih (t.poke p.1 p.2)
  rw [← hpoke]
  exact List.foldlRecOn (motive := fun t : State => t.mem = _) parts _ rfl fun t ht p _ => (t.noteAt_mem _ _).trans ht

theorem State.putAll_keepsTx (s : State) (parts : List (Nat × List Byte)) (sid : Nat) : KeepsTx sid s (s.putAll parts) := by
  have hpoke : (parts.foldl (fun t p => t.poke p.1 p.2) s).strand? sid = s.strand? sid :=
    List.foldlRecOn (motive := fun t : State => t.strand? sid = s.strand? sid) parts _ rfl fun _ ht _ _ => ht
  exact List.foldlRecOn (motive := KeepsTx sid s) parts _ (KeepsTx.of_eq hpoke) fun t ht p _ => ht.trans (t.noteAt_keepsTx _ _ sid)

/-- What stopping a job makes of a strand (R105, R359). -/
def State.haltStrand (s : State) (n : Nat) (u : Strand) : Strand :=
  if u.exists? && (s.troupe u.troupe).job == n then
    { u with mode := .stopped 5, wait := none, blocked := none, stalled := false, stopDue := 0,
             tx := if u.tx.committing then u.tx else Tx.none }
  else u

theorem State.haltJob_strands (s : State) (n : Nat) : (s.haltJob n).strands = s.strands.map (s.haltStrand n) := rfl

theorem State.haltStrand_sid (s : State) (n : Nat) (u : Strand) : (s.haltStrand n u).sid = u.sid := by
  unfold State.haltStrand
  split <;> rfl

theorem State.haltStrand_exists (s : State) (n : Nat) (u : Strand) : (s.haltStrand n u).exists? = u.exists? := by
  unfold State.haltStrand
  split
  · next h => exact (Bool.and_eq_true _ _ ▸ h).1.symm
  · rfl

theorem State.haltStrand_tx (s : State) (n : Nat) (u : Strand) (hc : u.tx.committing = true) : (s.haltStrand n u).tx = u.tx := by
  unfold State.haltStrand
  rw [hc]
  split <;> rfl

/-- A strand whose transaction commits is found with it when a trap becomes pending, even where that stops its job (R105). -/
theorem State.pendTrap_keepsCommit (s : State) (sid : Nat) (p : Trap) (u : Strand) (hu : s.strand? sid = some u)
    (hc : u.tx.committing = true) : (s.pendTrap sid p).mem = s.mem ∧ ∃ u', (s.pendTrap sid p).strand? sid = some u' ∧ u'.tx = u.tx := by
  unfold State.pendTrap
  rw [hu]
  dsimp only
  split
  · exact ⟨rfl, u, hu, rfl⟩
  split
  · unfold State.stopFor State.stopJob
    dsimp only
    split
    · exact ⟨rfl, u, hu, rfl⟩
    · refine ⟨rfl, s.haltStrand (s.troupe u.troupe).job u, ?_, s.haltStrand_tx _ u hc⟩
      have h := State.strand?_of_strands_map (s.haltJob_strands (s.troupe u.troupe).job) (s.haltStrand_sid _) (s.haltStrand_exists _) sid
      rw [hu] at h
      exact h
  · exact ⟨rfl, _, State.strand?_setStrand_of hu _ (fun _ => rfl) (fun _ => rfl), rfl⟩

end Sys2Proof.Machine
end

section
/-! SUPPORT. The transaction instructions and the abort (spec/05 R91 to R93, R99, R103, R104, spec/14 R294). -/

namespace Sys2Proof.Machine

/-! ### The abort -/

theorem tileFields_lt (p : Word) : (tileFields p).toNat < 2 ^ 44 := by
  have ho : ptrOff p < 2 ^ 48 := (p.extractLsb' 0 48).isLt
  unfold tileFields
  split
  · rw [BitVec.toNat_ofNat]
    omega
  · split
    · rw [BitVec.toNat_ofNat]
      omega
    · decide

/-- A field of the abort status above its tile fields reads as what the number below has there. -/
theorem abortStatus_field (t : Tx) (cause code : Nat) (tile : Option Word) (k w v : Nat) (hk : 44 ≤ k)
    (hv : (cause * 2 ^ 60 + t.depth * 2 ^ 56 + code % 256 * 2 ^ 48
      + min ((t.status.extractLsb' 44 4).toNat + 1) 15 * 2 ^ 44) % 2 ^ 64 / 2 ^ k % 2 ^ w = v % 2 ^ w) :
    (abortStatus t cause code tile).extractLsb' k w = BitVec.ofNat w v := by
  have hlow : ∀ f : Word, f.toNat < 2 ^ 44 → (BitVec.ofNat 64 (cause * 2 ^ 60 + t.depth * 2 ^ 56 + code % 256 * 2 ^ 48
      + min ((t.status.extractLsb' 44 4).toNat + 1) 15 * 2 ^ 44) ||| f).extractLsb' k w = BitVec.ofNat w v := by
    intro f hf
    generalize hn : cause * 2 ^ 60 + t.depth * 2 ^ 56 + code % 256 * 2 ^ 48
      + min ((t.status.extractLsb' 44 4).toNat + 1) 15 * 2 ^ 44 = n at hv ⊢
    have hor : (BitVec.ofNat 64 n ||| f).extractLsb' k w = (BitVec.ofNat 64 n).extractLsb' k w := by
      ext i hi
      have hz : f.getLsbD (k + i) = false :=
        Nat.testBit_lt_two_pow (Nat.lt_of_lt_of_le hf (Nat.pow_le_pow_right (by decide) (by omega)))
      simp [hz]
    apply BitVec.eq_of_toNat_eq
    rw [hor, BitVec.extractLsb'_toNat, BitVec.toNat_ofNat, BitVec.toNat_ofNat, Nat.shiftRight_eq_div_pow]
    exact hv
  unfold abortStatus
  cases tile with
  | none => exact hlow 0 (by decide)
  | some p => exact hlow _ (tileFields_lt p)

/-- The abort status names the cause, the depth and the code (R104). -/
theorem abortStatus_fields (t : Tx) (cause code : Nat) (tile : Option Word) (hd : t.depth < 16) :
    (abortStatus t cause code tile).extractLsb' 60 4 = BitVec.ofNat 4 cause
      ∧ (abortStatus t cause code tile).extractLsb' 56 4 = BitVec.ofNat 4 t.depth
      ∧ (abortStatus t cause code tile).extractLsb' 48 8 = BitVec.ofNat 8 code := by
  have hr : min ((t.status.extractLsb' 44 4).toNat + 1) 15 ≤ 15 := Nat.min_le_right _ _
  exact ⟨abortStatus_field t cause code tile 60 4 cause (by decide) (by omega),
    abortStatus_field t cause code tile 56 4 t.depth (by decide) (by omega),
    abortStatus_field t cause code tile 48 8 code (by decide) (by omega)⟩

/-- Aborting the transaction of a strand does what R103 says. -/
theorem State.abortTx_aborted (s : State) (u : Strand) (cause code : Nat) (tile : Option Word) (hu : s.strand? u.sid = some u)
    (hd : u.tx.depth < 16) : Aborted s (s.abortTx u.sid cause code tile) u cause code := by
  have hf : (s.abortTx u.sid cause code tile).strand? u.sid = some (u.abort cause code tile) :=
    State.strand?_setStrand_of hu (fun t => t.abort cause code tile) (fun _ => rfl) (fun _ => rfl)
  refine ⟨⟨_, hf, rfl, rfl, rfl, rfl, rfl, rfl, rfl, rfl, fun k hk => ?_, abortStatus_fields u.tx cause code tile hd⟩, rfl, ?_, ?_⟩
  · unfold Strand.abort
    rw [hk]
    exact ⟨rfl, rfl, rfl, rfl, rfl⟩
  · exact List.filter_congr fun c _ => by simp [beq_eq_decide]
  · exact List.filter_congr fun r _ => by simp [beq_eq_decide]

/-! ### XBEGIN -/

theorem exec_xbegin (z : BZ) (s : State) : exec (.xbegin z) s = execXbegin z s := rfl

/-- The age of a new transaction is that of its first attempt, and never 0 (R92). -/
theorem State.beginTx_xage (s : State) (h : Word) :
    (s.now < 2 ^ 63 → (s.beginTx h).cur.sr.xage ≠ 0)
      ∧ (s.cur.sr.xage ≠ 0 → (s.beginTx h).cur.sr.xage = s.cur.sr.xage) := by
  by_cases hx : s.cur.sr.xage = 0
  · refine ⟨fun hn => ?_, fun hne => absurd hx hne⟩
    have hage : (s.beginTx h).cur.sr.xage = BitVec.ofNat 64 (max (s.timeAt s.cur.core) 1) := by
      exact if_pos (by simpa using hx)
    rw [hage]
    intro hz
    have hz := congrArg BitVec.toNat hz
    rw [BitVec.toNat_ofNat] at hz
    change max (s.now + Config.skew (dieOfCore s.cur.core) % 5) 1 % 2 ^ 64 = 0 at hz
    omega
  · have hage : (s.beginTx h).cur.sr.xage = s.cur.sr.xage := by
      exact if_neg (by simpa using hx)
    exact ⟨fun _ => hage ▸ hx, fun _ => hage⟩

/-- XBEGIN outside a transaction, every register full, starts one, acquires and goes on. -/
theorem exec_xbegin_outside (z : BZ) (s : State) (hd : s.cur.tx.depth = 0) (hx : s.cur.xfull ||| 1 = BitVec.allOnes 32)
    (hv : s.cur.vfull = BitVec.allOnes 32) :
    ∃ cs, exec (.xbegin z) s = .next { s.beginTx (s.relative z.off) with cores := cs }.wentOn := by
  obtain ⟨cs, hcs⟩ := (s.beginTx (s.relative z.off)).acquire_onlyCores s.cur.core
  refine ⟨cs, ?_⟩
  rw [exec_xbegin]
  unfold execXbegin
  rw [if_pos hd, if_pos ⟨hx, hv⟩, State.target_eq, hcs, State.advance_eq]

theorem exec_xbegin_inside (z : BZ) (s : State) (h0 : 0 < s.cur.tx.depth) (h15 : s.cur.tx.depth < 15) :
    exec (.xbegin z) s = .next ({ s with cur := { s.cur with tx := { s.cur.tx with depth := s.cur.tx.depth + 1 } } }.wentOn) := by
  rw [exec_xbegin]
  unfold execXbegin
  rw [if_neg (Nat.ne_of_gt h0), if_pos h15, State.advance_eq]

theorem exec_xbegin_nest (z : BZ) (s : State) (h : s.cur.tx.depth = 15) : exec (.xbegin z) s = .next (s.abortTx s.cur.sid xNest 0 none) := by
  rw [exec_xbegin]
  unfold execXbegin
  rw [if_neg (by omega), if_neg (by omega)]

/-! ### XEND, XABORT, XTEST, XSTAT -/

theorem exec_xend (s : State) : exec .xend s = execXend s := rfl

theorem exec_xabort (s : State) : exec .xabort s = execXabort s := rfl

/-- An illegal use takes ILLEGAL with its sub-code. -/
theorem State.illegal_delivered (s : State) (sub : Nat) (h : s.canTrap) :
    s.illegal sub = s.delivered false 0x01 (wordsInfo s.ir).1 (wordsInfo s.ir).2 (BitVec.ofNat 64 sub) 0 s.cur.pc :=
  State.trap_delivered s .illegal _ _ _ _ rfl h

theorem exec_xend_outside (s : State) (h : s.cur.tx.depth = 0) : exec .xend s = .next (s.illegal 0x0B) := by
  rw [exec_xend]
  unfold execXend
  rw [if_pos h]

theorem exec_xabort_outside (s : State) (h : s.cur.tx.depth = 0) : exec .xabort s = .next (s.illegal 0x0B) := by
  rw [exec_xabort]
  unfold execXabort
  rw [if_pos h]

theorem exec_xabort_inside (s : State) (h : 0 < s.cur.tx.depth) :
    exec .xabort s = .next (s.abortTx s.cur.sid xExplicit ((rawOf s.ir).imm.toNat % 256) none) := by
  rw [exec_xabort]
  unfold execXabort
  rw [if_neg (Nat.ne_of_gt h)]

theorem exec_xend_nested (s : State) (h : 1 < s.cur.tx.depth) :
    exec .xend s = .next ({ s with cur := { s.cur with tx := { s.cur.tx with depth := s.cur.tx.depth - 1 } } }.wentOn) := by
  rw [exec_xend]
  unfold execXend
  rw [if_neg (by omega), if_pos (by omega), State.advance_eq]

/-- XEND at depth 1 with nothing left to wait for starts the commit: it waits at itself, no abort reaches it (R105). -/
theorem exec_xend_commits (s : State) (h : s.cur.tx.depth = 1)
    (hr : ∀ r ∈ s.reqs, r.sid = s.cur.sid → r.tx = true → r.done = true) (hd : s.cur.tx.doomed = none)
    (hrel : s.releaseReady s.cur.sid s.cur.core .pkg s.nextId = true) :
    exec .xend s = .next { s with
      reqs := s.reqs.map (fun r => if r.sid = s.cur.sid then { r with tx := false } else r),
      cur := { s.cur with tx := { s.cur.tx with committing := true }, skip := s.wentOn.cur.pc, stalled := false, safe := false } } := by
  have hdone : s.reqs.any (fun r => r.sid == s.cur.sid && r.tx && !r.done) = false := by
    rw [List.any_eq_false]
    intro r hm hn
    simp only [Bool.and_eq_true, beq_iff_eq, Bool.not_eq_true'] at hn
    obtain ⟨⟨hs, ht⟩, hn⟩ := hn
    rw [hr r hm hs ht] at hn
    exact Bool.noConfusion hn
  rw [exec_xend]
  unfold execXend
  rw [if_neg (by omega), if_neg (by omega), if_neg (by simp [hdone, hd, hrel])]
  rfl

theorem exec_xtest_ready (d : Reg) (s : State) (h : s.readyX d) :
    exec (.xtest d) s = .next (s.wrote d (BitVec.ofNat 64 s.cur.tx.depth)) :=
  withRegs_ready s [] [wx d] (fun s => (s.setX d (BitVec.ofNat 64 s.cur.tx.depth)).advance) (by simp)
    (by simpa [wx, Strand.full] using h)

theorem exec_xstat_ready (d : Reg) (s : State) (h : s.readyX d) : exec (.xstat d) s = .next (s.wrote d s.cur.tx.status) :=
  withRegs_ready s [] [wx d] (fun s => (s.setX d s.cur.tx.status).advance) (by simp) (by simpa [wx, Strand.full] using h)

/-! ### CONFLICT_ABORT -/

theorem exec_conflictAbort (s : State) (u : Strand) (p : Word) (hu : s.strand? s.arg.id = some u) (hp : u.tx.doomed = some p)
    (h0 : 0 < u.tx.depth) (hc : u.tx.committing = false) :
    exec .conflictAbort s = .next (s.abortTx u.sid xConflict 0 (some p)) := by
  change execConflictAbort s = _
  unfold execConflictAbort
  rw [hu]
  dsimp only
  rw [hp]
  dsimp only
  rw [if_neg (by simp [hc]; omega)]

end Sys2Proof.Machine
end

section
/-! SUPPORT. TRANSACTIONAL_REGISTRATION of a load that nothing stands against (spec/05 R94, R96, R97). -/

namespace Sys2Proof.Machine

/-- A registration gives at least the rights to read. -/
theorem Tx.enter_has (t : Tx) (tile : Nat) (reads writes : Bool) (ptr : Word) (now : Nat) :
    (t.enter tile reads writes ptr now).has tile false = true := by
  unfold Tx.enter Tx.has
  split
  · next h =>
    obtain ⟨x, hx, hxt⟩ := List.any_eq_true.1 h
    refine List.any_eq_true.2 ⟨_, List.mem_map_of_mem hx, ?_⟩
    simp [beq_iff_eq.1 hxt]
  · simp

/-- The registration changes no speculative byte. -/
theorem Tx.enter_spec (t : Tx) (tile : Nat) (reads writes : Bool) (ptr : Word) (now : Nat) :
    (t.enter tile reads writes ptr now).spec = t.spec := by
  unfold Tx.enter
  split <;> rfl

/-- The request that is found after a change to it that leaves it its number. -/
theorem State.req?_setReq (s : State) (id : Nat) (f : Req → Req) (hf : ∀ q, (f q).id = q.id) :
    (s.setReq id f).req? id = (s.req? id).map f :=
  find?_map_ite (fun q : Req => q.id == id) f (fun q hq => by rw [hf]; exact hq) s.reqs

/-- A load in a transaction that no poison refuses answers with the bytes as the transaction sees them. -/
theorem State.txPerform_load (s : State) (r : Req) (u : Strand) (n : Nat) (signed : Bool) (d : Reg) (hk : r.kind = .load n signed d)
    (hu : s.strand? r.sid = some u) (hp : s.txPoison u.tx r.addr n = false) (hr : s.req? r.id = some r) :
    ∃ r', (s.txPerform r).req? r.id = some r' ∧ r'.state = .answered (BitVec.ofNat 256 (leNat (u.tx.bytes s.mem r.addr n))) true
      ∧ (s.txPerform r).mem = s.mem ∧ (s.txPerform r).strand? r.sid = some u := by
  have he : txEffect s u.tx r.kind r.addr = some ([], BitVec.ofNat 256 (leNat (u.tx.bytes s.mem r.addr n))) := by
    rw [hk]
    change (if s.txPoison u.tx r.addr n then none else _) = _
    rw [hp]
    rfl
  unfold State.txPerform
  rw [hu]
  dsimp only
  rw [he]
  simp only [List.isEmpty_nil, if_true]
  rw [State.req?_setReq, hr]
  · exact ⟨_, rfl, rfl, rfl, hu⟩
  · exact fun _ => rfl

/-- The state in which a reader has been entered with its transaction; cs are the cores after that. -/
def State.withReader (s : State) (r : Req) (cs : List Core) : State :=
  { s.setStrand r.sid (fun v => { v with tx := v.tx.enter (tileOf r.addr) true false r.ptr s.ticks }) with cores := cs }

theorem State.withReader_strand? (s : State) (r : Req) (cs : List Core) (u : Strand) (hu : s.strand? r.sid = some u) :
    (s.withReader r cs).strand? r.sid = some { u with tx := u.tx.enter (tileOf r.addr) true false r.ptr s.ticks } :=
  State.strand?_setStrand_of hu (fun v => { v with tx := v.tx.enter (tileOf r.addr) true false r.ptr s.ticks })
    (fun _ => rfl) (fun _ => rfl)

/-- A reader at its tile is registered and performed; no tile has to make room, and leases of its core may go (R11, R94, R95). -/
theorem State.grantTx_load (s : State) (r : Req) (u : Strand) (n : Nat) (signed : Bool) (d : Reg) (hk : r.kind = .load n signed d) :
    ∃ cs, s.grantTx r u = ((s.withReader r cs).txPerform r).noteServed r := by
  obtain ⟨cs, hcs⟩ := ((s.withReader r s.cores).acquire_onlyCores u.core).trans (State.trimLeases_onlyCores _ u.core)
  refine ⟨cs, ?_⟩
  change _ = (State.txPerform { s.withReader r s.cores with cores := cs } r).noteServed r
  rw [← hcs]
  unfold State.grantTx
  rw [hk]
  rfl

/-- A load that finds its tile ready is registered there and answered. -/
theorem State.grantTx_answers (s : State) (r : Req) (u : Strand) (n : Nat) (signed : Bool) (d : Reg) (hk : r.kind = .load n signed d)
    (hu : s.strand? r.sid = some u) (hp : s.txPoison u.tx r.addr n = false) (hr : s.req? r.id = some r) :
    ∃ r' u', (s.grantTx r u).req? r.id = some r' ∧ r'.state = .answered (BitVec.ofNat 256 (leNat (u.tx.bytes s.mem r.addr n))) true
      ∧ (s.grantTx r u).strand? r.sid = some u' ∧ u'.tx.has (tileOf r.addr) false = true ∧ (s.grantTx r u).mem = s.mem := by
  obtain ⟨cs, hg⟩ := s.grantTx_load r u n signed d hk
  have hspec := u.tx.enter_spec (tileOf r.addr) true false r.ptr s.ticks
  have hpoison : (s.withReader r cs).txPoison (u.tx.enter (tileOf r.addr) true false r.ptr s.ticks) r.addr n = false := by
    unfold State.txPoison Tx.covers
    rw [hspec]
    exact hp
  obtain ⟨r', hr', ha, hm, hs⟩ := (s.withReader r cs).txPerform_load r _ n signed d hk (s.withReader_strand? r cs u hu) hpoison hr
  have hbytes : (u.tx.enter (tileOf r.addr) true false r.ptr s.ticks).bytes (s.withReader r cs).mem r.addr n = u.tx.bytes s.mem r.addr n := by
    unfold Tx.bytes Tx.byte
    rw [hspec]
    rfl
  have hc := ((s.withReader r cs).txPerform r).noteServed_onlyCoh r
  rw [hg, hc.req?, hc.strand?, hc.mem, ← hbytes]
  exact ⟨r', _, hr', ha, hs, u.tx.enter_has _ _ _ _ _, hm⟩

theorem exec_transactionalRegistration (s : State) (r : Req) (u : Strand) (hr : s.req? s.arg.id = some r) (hu : s.strand? r.sid = some u)
    (htx : r.tx = true) (hspan : r.kind.span ≠ 0) (hm : s.mayServe r = true) (hd : u.tx.doomed = none) :
    exec .transactionalRegistration s = .next (s.registerTx r u) := by
  change execTransactionalRegistration s = _
  unfold execTransactionalRegistration
  rw [hr]
  dsimp only
  rw [hu]
  dsimp only
  rw [if_pos (by simp [htx, hspan, hm, hd])]

/-- A load within the limits, that no rebase, no other request and no rival holds up at a tile ready for it, is granted. -/
theorem State.registerTx_grants (s : State) (r : Req) (u : Strand) (n : Nat) (signed : Bool) (d : Reg) (hk : r.kind = .load n signed d)
    (hn : 0 < n) (hh : u.tx.has (tileOf r.addr) false = false) (he : u.tx.exceeds (tileOf r.addr) true false = false)
    (hb : s.coh.rebasing = false) (hf : ∀ ln ∈ linesOf r.addr n, s.lineFree r ln = true)
    (hc : ∀ v ∈ s.conflicts (tileOf r.addr) false, v.sid = r.sid) (hl : ∀ ln ∈ r.tileLines, s.homeReadable ln = true) :
    s.registerTx r u = s.grantTx r u := by
  have hreads : r.kind.reads = true := by rw [hk]; rfl
  have hwrites : r.kind.txWrites = false := by rw [hk]; rfl
  have hspan : max r.kind.span 1 = n := by rw [hk]; exact Nat.max_eq_left hn
  have hrivals : (s.conflicts (tileOf r.addr) false).filter (fun v => v.sid != r.sid) = [] :=
    List.filter_eq_nil_iff.2 fun v hv => by simp [hc v hv]
  have hfree : (linesOf r.addr n).all (s.lineFree r) = true := List.all_eq_true.2 hf
  have hready : s.tileReady r false = true := List.all_eq_true.2 hl
  unfold State.registerTx
  simp [hreads, hwrites, hspan, hrivals, hfree, hready, hh, he, hb]

end Sys2Proof.Machine
end

section
/-! SUPPORT. COMMIT_APPLY: which speculative bytes a commit writes, what memory then holds, and what becomes of the strand (spec/05 R105,
spec/20 R381, R382). -/

namespace Sys2Proof.Machine

/-! ### Cells written one by one -/

theorem Memory.wf_setCells (cs : List Host.Cell) (m : Memory) (h : Memory.wf m = true) :
    Memory.wf (cs.foldl (fun m c => Memory.set m c.1 c.2) m) = true :=
  List.foldlRecOn (motive := fun m : Memory => Memory.wf m = true) cs _ h fun m hm c _ => Memory.wf_set m c.1 c.2 hm

theorem Memory.get_setCells_other (cs : List Host.Cell) (m : Memory) (a : Nat) (h : ∀ c ∈ cs, c.1 ≠ a) :
    Memory.get (cs.foldl (fun m c => Memory.set m c.1 c.2) m) a = Memory.get m a :=
  List.foldlRecOn (motive := fun m' : Memory => Memory.get m' a = Memory.get m a) cs _ rfl fun m' hm c hc =>
    (Memory.get_set_other m' c.1 a c.2 (h c hc).symm).trans hm

/-- Of cells that agree where they meet, each is found where it was written. -/
theorem Memory.get_setCells_same (cs : List Host.Cell) (m : Memory) (hw : Memory.wf m = true) (c : Host.Cell) (hc : c ∈ cs)
    (h : ∀ d ∈ cs, d.1 = c.1 → d = c) : Memory.get (cs.foldl (fun m c => Memory.set m c.1 c.2) m) c.1 = c.2 := by
  induction cs generalizing m with
  | nil => exact absurd hc List.not_mem_nil
  | cons d cs ih =>
    rw [List.foldl_cons]
    by_cases hin : c ∈ cs
    · exact ih _ (Memory.wf_set m d.1 d.2 hw) hin fun e he => h e (List.mem_cons_of_mem d he)
    · obtain rfl : c = d := (List.mem_cons.1 hc).resolve_right hin
      rw [Memory.get_setCells_other]
      · exact Memory.get_set_same m c.1 c.2 hw
      · intro e he heq
        exact hin (h e (List.mem_cons_of_mem c he) heq ▸ he)

/-- In a list of cells with distinct addresses, one address holds one cell. -/
theorem eq_of_fst_eq {cs : List Host.Cell} (h : cs.Pairwise (fun c d => c.1 ≠ d.1)) {c d : Host.Cell} (hc : c ∈ cs) (hd : d ∈ cs)
    (he : c.1 = d.1) : c = d := by
  have hn : (cs.map (·.1)).Nodup := List.Pairwise.map _ (fun _ _ h => h) h
  exact List.inj_on_of_nodup_map hn hc hd he

/-! ### Words -/

theorem wordOf_wordOf (a : Nat) : wordOf (wordOf a) = wordOf a := by
  unfold wordOf
  omega

theorem State.isPoison_wordOf (s : State) (a : Nat) : s.isPoison (wordOf a) = s.isPoison a := by
  unfold State.isPoison
  rw [wordOf_wordOf]

/-- The bytes of one word lie in one tile. -/
theorem tileOf_eq_of_wordOf_eq {a b : Nat} (h : wordOf a = wordOf b) : tileOf a = tileOf b := by
  unfold wordOf at h
  unfold tileOf
  omega

/-- Of distinct speculative bytes eight lie in a word exactly when they cover it. -/
theorem Tx.covers_iff_length (t : Tx) (hp : t.spec.Pairwise (fun c d => c.1 ≠ d.1)) (a : Nat) :
    t.covers (wordOf a) = true ↔ 8 ≤ (t.spec.filter (fun c => wordOf c.1 == wordOf a)).length := by
  have hnodup : ((t.spec.filter (fun c => wordOf c.1 == wordOf a)).map (·.1)).Nodup :=
    List.Pairwise.map _ (fun _ _ h => h) (hp.filter _)
  have hmem : ∀ b, b ∈ (t.spec.filter (fun c => wordOf c.1 == wordOf a)).map (·.1) ↔ wordOf b = wordOf a ∧ ∃ c ∈ t.spec, c.1 = b := by
    intro b
    simp only [List.mem_map, List.mem_filter, beq_iff_eq]
    constructor
    · rintro ⟨c, ⟨hc, hw⟩, rfl⟩
      exact ⟨hw, c, hc, rfl⟩
    · rintro ⟨hw, c, hc, rfl⟩
      exact ⟨c, ⟨hc, hw⟩, rfl⟩
  have hword : ∀ b, b ∈ List.range' (wordOf a) 8 ↔ wordOf b = wordOf a := by
    intro b
    rw [List.mem_range'_1]
    unfold wordOf
    omega
  have hcov : t.covers (wordOf a) = true ↔ ∀ b ∈ List.range' (wordOf a) 8, ∃ c ∈ t.spec, c.1 = b := by
    simp only [Tx.covers, List.all_eq_true, List.any_eq_true, beq_iff_eq, List.mem_range, List.mem_range'_1]
    constructor
    · rintro h b ⟨h1, h2⟩
      obtain ⟨c, hc, hb⟩ := h (b - wordOf a) (by omega)
      exact ⟨c, hc, by omega⟩
    · exact fun h i hi => h (wordOf a + i) ⟨by omega, by omega⟩
  rw [hcov, ← List.length_map (f := (·.1))]
  constructor
  · intro h
    have hsub := (List.nodup_range' (s := wordOf a) (n := 8)).subperm fun b hb => (hmem b).2 ⟨(hword b).1 hb, h b hb⟩
    simpa using hsub.length_le
  · intro h b hb
    have hsub := hnodup.subperm fun b hb => (hword b).2 ((hmem b).1 hb).1
    exact ((hmem b).1 ((hsub.perm_of_length_le (by simpa using h)).mem_iff.2 hb)).2

/-! ### What is written -/

/-- A commit loses a word of some cells: it is poisoned, and they do not make it whole. -/
def State.losesWord (s : State) (cells : List Host.Cell) (w : Nat) : Bool :=
  s.isPoison w && decide ((cells.filter (fun c => wordOf c.1 == w)).length < 8)

/-- The cells that a commit writes of some: all but those of the words that it loses. -/
def State.keptCells (s : State) (cells : List Host.Cell) : List Host.Cell :=
  ((cells.map (fun c => wordOf c.1)).dedup.flatMap (fun w => if s.losesWord cells w then [] else cells.filter (fun c => wordOf c.1 == w)))

theorem State.commitWord_eq (s : State) (cells : List Host.Cell) (w : Nat) :
    s.commitWord cells w = (if s.losesWord cells w then [] else cells.filter (fun c => wordOf c.1 == w)).map (fun c => (c.1, [c.2])) := by
  unfold State.commitWord State.losesWord
  dsimp only
  split <;> rfl

/-- Of a word that some of the cells lie in, nothing is written exactly when it is lost. -/
theorem State.commitWord_isEmpty (s : State) (cells : List Host.Cell) (w : Nat) (hw : w ∈ cells.map (fun c => wordOf c.1)) :
    (s.commitWord cells w).isEmpty = s.losesWord cells w := by
  obtain ⟨c, hc, rfl⟩ := List.mem_map.1 hw
  have hin : c ∈ cells.filter (fun d => wordOf d.1 == wordOf c.1) := by simp [hc]
  rw [State.commitWord_eq, List.isEmpty_map]
  cases s.losesWord cells (wordOf c.1) with
  | true => rfl
  | false => exact List.isEmpty_eq_false_iff.2 (List.ne_nil_of_mem hin)

theorem State.mem_keptCells (s : State) (cells : List Host.Cell) (c : Host.Cell) :
    c ∈ s.keptCells cells ↔ c ∈ cells ∧ s.losesWord cells (wordOf c.1) = false := by
  simp only [State.keptCells, List.mem_flatMap, List.mem_dedup]
  constructor
  · rintro ⟨w, -, hc⟩
    split at hc
    · exact absurd hc List.not_mem_nil
    · next hl =>
      obtain ⟨hcells, hw⟩ := List.mem_filter.1 hc
      obtain rfl := beq_iff_eq.1 hw
      exact ⟨hcells, Bool.not_eq_true _ ▸ hl⟩
  · rintro ⟨hc, hl⟩
    refine ⟨wordOf c.1, List.mem_map_of_mem hc, ?_⟩
    rw [hl]
    simp [hc]

/-- The speculative bytes of some tiles of a transaction. -/
def Tx.cellsOf (t : Tx) (mine : List TxTile) : List Host.Cell := t.spec.filter (fun c => mine.any (fun x => x.tile == tileOf c.1))

theorem Tx.mem_cellsOf (t : Tx) (mine : List TxTile) (c : Host.Cell) :
    c ∈ t.cellsOf mine ↔ c ∈ t.spec ∧ mine.any (fun x => x.tile == tileOf c.1) = true := List.mem_filter

/-- A word of a tile that is applied is lost when it is poisoned and the transaction does not cover it. -/
theorem State.losesWord_cellsOf (s : State) (t : Tx) (mine : List TxTile) (hp : t.spec.Pairwise (fun c d => c.1 ≠ d.1)) (c : Host.Cell)
    (hc : mine.any (fun x => x.tile == tileOf c.1) = true) :
    s.losesWord (t.cellsOf mine) (wordOf c.1) = true ↔ s.isPoison c.1 = true ∧ t.covers (wordOf c.1) = false := by
  have hsame : (t.cellsOf mine).filter (fun d => wordOf d.1 == wordOf c.1) = t.spec.filter (fun d => wordOf d.1 == wordOf c.1) := by
    unfold Tx.cellsOf
    rw [List.filter_filter]
    refine List.filter_congr fun d _ => ?_
    by_cases hw : wordOf d.1 = wordOf c.1
    · simp only [tileOf_eq_of_wordOf_eq hw, hc, Bool.and_true]
    · simp [hw]
  rw [State.losesWord, State.isPoison_wordOf, hsame, Bool.and_eq_true, decide_eq_true_eq, ← Bool.not_eq_true (t.covers _),
    t.covers_iff_length hp, Nat.not_le]

/-! ### What the tiles of a commit leave behind -/

theorem State.unpoison_fold_mem (s : State) (l : List Nat) : (l.foldl State.unpoison s).mem = s.mem :=
  List.foldlRecOn (motive := fun t : State => t.mem = s.mem) l _ rfl fun _ ht _ _ => ht

theorem State.unpoison_fold_strand? (s : State) (l : List Nat) (sid : Nat) : (l.foldl State.unpoison s).strand? sid = s.strand? sid :=
  List.foldlRecOn (motive := fun t : State => t.strand? sid = s.strand? sid) l _ rfl fun _ ht _ _ => ht

/-- A commit writes cells as one write; the words that they make whole are poisoned no more. -/
def State.writeCells (s : State) (cells : List Host.Cell) : State :=
  let words := (cells.map (fun c => wordOf c.1)).dedup
  ((words.filter (fun w => s.isPoison w && decide (8 ≤ (cells.filter (fun c => wordOf c.1 == w)).length))).foldl State.unpoison s).putAll
    (words.flatMap (s.commitWord cells))

theorem State.writeCells_mem (s : State) (cells : List Host.Cell) :
    (s.writeCells cells).mem = (s.keptCells cells).foldl (fun m c => Memory.set m c.1 c.2) s.mem := by
  have hparts : (cells.map (fun c => wordOf c.1)).dedup.flatMap (s.commitWord cells) = (s.keptCells cells).map (fun c => (c.1, [c.2])) := by
    rw [State.keptCells, List.map_flatMap]
    exact List.flatMap_congr fun w _ => s.commitWord_eq cells w
  unfold State.writeCells
  dsimp only
  rw [State.putAll_mem, hparts, List.foldl_map, State.unpoison_fold_mem]
  rfl

theorem State.writeCells_keepsTx (s : State) (cells : List Host.Cell) (sid : Nat) : KeepsTx sid s (s.writeCells cells) :=
  (KeepsTx.of_eq (s.unpoison_fold_strand? _ sid)).trans (State.putAll_keepsTx _ _ sid)

/-- The lines of the tiles that a commit writes. -/
def writtenLines (mine : List TxTile) : List Nat :=
  List.flatten ((mine.filter (·.write)).map (fun x => (List.range 16).map (fun i => x.tile * 16 + i)))

/-- Each of some lines is called in and stamped, then reserved for who waits for it. -/
def State.stampLines (s : State) (lns : List Nat) : State :=
  lns.foldl (fun a ln => a.reserveLine ln) (lns.foldl (fun a ln => (a.callIn ln).setLine ln (fun l => l.stampWrite 0)) s)

theorem State.stampLines_onlyCoh (s : State) (lns : List Nat) : OnlyCoh s (s.stampLines lns) :=
  (OnlyCoh.foldl (fun t ln => (t.callIn_onlyCoh ln).trans (State.setLine_onlyCoh _ ln _)) lns s).trans
    (OnlyCoh.foldl (fun t ln => t.reserveLine_onlyCoh ln) lns _)

/-- A transaction without some of its tiles and their bytes. -/
def Tx.without (t : Tx) (tiles : TxTile → Bool) (mine : List TxTile) : Tx :=
  { t with tiles := t.tiles.filter (fun x => !tiles x), spec := t.spec.filter (fun c => !mine.any (fun x => x.tile == tileOf c.1)) }

/-- Some tiles of a strand's commit have been applied; no word has been told lost yet. -/
def State.applied (s : State) (u : Strand) (which : TxTile → Bool) : State :=
  let mine := u.tx.tiles.filter which
  (((s.writeCells (u.tx.cellsOf mine)).stampLines (writtenLines mine)).setCore u.core (fun c =>
    { c with l1 := c.l1.filter (fun l => !(writtenLines mine).contains l.line) })).setStrand u.sid (fun v =>
      { v with tx := v.tx.without which mine })

theorem State.applied_mem (s : State) (u : Strand) (which : TxTile → Bool) :
    (s.applied u which).mem = (s.keptCells (u.tx.cellsOf (u.tx.tiles.filter which))).foldl (fun m c => Memory.set m c.1 c.2) s.mem := by
  unfold State.applied
  rw [State.setStrand_mem, State.setCore_mem, (State.stampLines_onlyCoh _ _).mem, State.writeCells_mem]

/-- What the strand is once tiles of its commit have been applied. -/
theorem State.applied_strand? (s : State) (u : Strand) (which : TxTile → Bool) (hu : s.strand? u.sid = some u) :
    ∃ u', (s.applied u which).strand? u.sid = some u' ∧ u'.mode = u.mode ∧ u'.tx = u.tx.without which (u.tx.tiles.filter which)
      ∧ u'.pend = u.pend := by
  obtain ⟨v, hv, hm, ht, hp⟩ := s.writeCells_keepsTx (u.tx.cellsOf (u.tx.tiles.filter which)) u.sid u hu
  refine ⟨_, State.strand?_setStrand_of ?_ _ (fun _ => rfl) (fun _ => rfl), hm, congrArg (Tx.without · which _) ht, hp⟩
  rw [(State.setCore_onlyCores _ _ _).strand?, (State.stampLines_onlyCoh _ _).strand?, hv]

/-- Bytes of the tiles are written, but for those of a poisoned word that they do not cover. -/
theorem State.applied_byte (s : State) (u : Strand) (which : TxTile → Bool) (hp : u.tx.spec.Pairwise (fun c d => c.1 ≠ d.1))
    (hw : Memory.wf s.mem = true) (c : Host.Cell) (hc : c ∈ u.tx.spec)
    (hin : (u.tx.tiles.filter which).any (fun x => x.tile == tileOf c.1) = true)
    (hkept : s.isPoison c.1 = false ∨ u.tx.covers (wordOf c.1) = true) : (s.applied u which).byte c.1 = c.2 := by
  have hl : s.losesWord (u.tx.cellsOf (u.tx.tiles.filter which)) (wordOf c.1) = false := by
    rw [← Bool.not_eq_true, s.losesWord_cellsOf u.tx _ hp c hin]
    rcases hkept with h | h
    · simp [h]
    · simp [h]
  unfold State.byte
  rw [State.applied_mem]
  refine Memory.get_setCells_same _ _ hw c ((s.mem_keptCells _ c).2 ⟨(u.tx.mem_cellsOf _ c).2 ⟨hc, hin⟩, hl⟩) fun d hd he => ?_
  exact eq_of_fst_eq hp ((u.tx.mem_cellsOf _ d).1 ((s.mem_keptCells _ d).1 hd).1).1 hc he

/-- A byte that none of the tiles' speculative bytes stands for is as it was. -/
theorem State.applied_byte_other (s : State) (u : Strand) (which : TxTile → Bool) (b : Nat)
    (h : ∀ c ∈ u.tx.spec, (u.tx.tiles.filter which).any (fun x => x.tile == tileOf c.1) = true → c.1 ≠ b) :
    (s.applied u which).byte b = s.byte b := by
  unfold State.byte
  rw [State.applied_mem]
  refine Memory.get_setCells_other _ _ b fun c hc => ?_
  obtain ⟨hspec, hin⟩ := (u.tx.mem_cellsOf _ c).1 ((s.mem_keptCells _ c).1 hc).1
  exact h c hspec hin

/-! ### COMMIT_APPLY -/

/-- The first word that is lost of those of some tiles. -/
def State.lostWord (s : State) (cells : List Host.Cell) : Option Nat :=
  (cells.map (fun c => wordOf c.1)).dedup.find? (fun w => (s.commitWord cells w).isEmpty)

theorem State.lostWord_isSome (s : State) (cells : List Host.Cell) (c : Host.Cell) (hc : c ∈ cells)
    (hl : s.losesWord cells (wordOf c.1) = true) : ∃ w, s.lostWord cells = some w := by
  have hw : wordOf c.1 ∈ cells.map (fun c => wordOf c.1) := List.mem_map_of_mem hc
  exact Option.isSome_iff_exists.1 (List.find?_isSome.2 ⟨_, List.mem_dedup.2 hw, (s.commitWord_isEmpty cells _ hw).trans hl⟩)

/-- The tiles are applied, and the strand is told of a word that is lost. -/
theorem State.applyTiles_eq (s : State) (u : Strand) (which : TxTile → Bool) (hu : s.strand? u.sid = some u) :
    s.applyTiles u.sid which = (s.lostWord (u.tx.cellsOf (u.tx.tiles.filter which))).elim (s.applied u which)
      ((s.applied u which).commitLoses u) := by
  unfold State.applyTiles
  rw [hu]
  change (match s.lostWord (u.tx.cellsOf (u.tx.tiles.filter which)) with
    | some w => (s.applied u which).commitLoses u w
    | none => s.applied u which) = _
  cases s.lostWord (u.tx.cellsOf (u.tx.tiles.filter which)) <;> rfl

/-- Being told of a lost word, even where that stops the job, changes neither memory nor the transaction that commits. -/
theorem State.applyTiles_keeps (s : State) (u : Strand) (which : TxTile → Bool) (hu : s.strand? u.sid = some u)
    (hc : u.tx.committing = true) : (s.applyTiles u.sid which).mem = (s.applied u which).mem
      ∧ ∃ u', (s.applyTiles u.sid which).strand? u.sid = some u' ∧ u'.tx = u.tx.without which (u.tx.tiles.filter which) := by
  obtain ⟨v, hv, -, ht, -⟩ := s.applied_strand? u which hu
  rw [State.applyTiles_eq s u which hu]
  cases s.lostWord (u.tx.cellsOf (u.tx.tiles.filter which)) with
  | none => exact ⟨rfl, v, hv, ht⟩
  | some w =>
    obtain ⟨hm, v', hv', ht'⟩ := (s.applied u which).pendTrap_keepsCommit u.sid (poisonTrap (ptrAt ((u.tilePtr (tileOf w)).getD 0
      &&& ~~~(2047 : Word)) (w % 2048)) accStore 8 (opOf (encode .xend)) (s.applied u which).now) v hv (by rw [ht]; exact hc)
    exact ⟨hm, v', hv', ht'.trans ht⟩

/-- Where a word is lost, POISON becomes pending for a strand that has room for it (R382). -/
theorem State.applyTiles_tells (s : State) (u : Strand) (which : TxTile → Bool) (hu : s.strand? u.sid = some u) (w : Nat)
    (hw : s.lostWord (u.tx.cellsOf (u.tx.tiles.filter which)) = some w) (hm : u.mode ≠ .stopped 5) (hl : u.pend.length < 16) :
    ∃ (u' : Strand) (tr : Trap), (s.applyTiles u.sid which).strand? u.sid = some u' ∧ u'.pend = u.pend ++ [tr] ∧ tr.cause = .poison := by
  obtain ⟨v, hv, hvm, -, hvp⟩ := s.applied_strand? u which hu
  rw [State.applyTiles_eq s u which hu, hw]
  dsimp only [Option.elim_some]
  unfold State.commitLoses
  rw [State.pendTrap_eq _ _ _ v hv (hvm ▸ hm) (hvp ▸ hl)]
  exact ⟨_, _, State.strand?_setStrand_of hv _ (fun _ => rfl) (fun _ => rfl), congrArg (· ++ _) hvp, rfl⟩

/-- What applying some tiles of a commit does: the tiles leave the transaction, their bytes are memory's but for those of words that are lost,
no other byte changes, and the strand is told of a loss (R105, R381, R382). -/
theorem State.applyTiles_commits (s : State) (u : Strand) (which : TxTile → Bool) (hu : s.strand? u.sid = some u)
    (hc : u.tx.committing = true) (hp : u.tx.spec.Pairwise (fun c d => c.1 ≠ d.1)) (hw : Memory.wf s.mem = true) :
    let here := fun c : Host.Cell => (u.tx.tiles.filter which).any (fun x => x.tile == tileOf c.1)
    ∃ u', (s.applyTiles u.sid which).strand? u.sid = some u' ∧ u'.tx.tiles = u.tx.tiles.filter (fun x => !which x)
      ∧ (∀ c ∈ u.tx.spec, here c = true → s.isPoison c.1 = false ∨ u.tx.covers (wordOf c.1) = true → (s.applyTiles u.sid which).byte c.1 = c.2)
      ∧ (∀ b, (∀ c ∈ u.tx.spec, here c = true → c.1 ≠ b) → (s.applyTiles u.sid which).byte b = s.byte b)
      ∧ ((∃ c ∈ u.tx.spec, here c = true ∧ s.isPoison c.1 = true ∧ u.tx.covers (wordOf c.1) = false) →
          u.mode ≠ .stopped 5 → u.pend.length < 16 → ∃ tr : Trap, u'.pend = u.pend ++ [tr] ∧ tr.cause = .poison) := by
  intro here
  obtain ⟨hm, u', hf, htx⟩ := s.applyTiles_keeps u which hu hc
  have hbyte : ∀ b, (s.applyTiles u.sid which).byte b = (s.applied u which).byte b := fun b => congrArg (Memory.get · b) hm
  refine ⟨u', hf, congrArg Tx.tiles htx, fun c hcs hin hkept => ?_, fun b hb => ?_, ?_⟩
  · exact (hbyte c.1).trans (s.applied_byte u which hp hw c hcs hin hkept)
  · exact (hbyte b).trans (s.applied_byte_other u which b hb)
  · rintro ⟨c, hcs, hin, hpoison, hcov⟩ hmode hroom
    obtain ⟨w, hlost⟩ := s.lostWord_isSome _ c ((u.tx.mem_cellsOf _ c).2 ⟨hcs, hin⟩)
      ((s.losesWord_cellsOf u.tx _ hp c hin).2 ⟨hpoison, hcov⟩)
    obtain ⟨v, tr, hv, hpend, hcause⟩ := s.applyTiles_tells u which hu w hlost hmode hroom
    obtain rfl := Option.some.inj (hf.symm.trans hv)
    exact ⟨tr, hpend, hcause⟩

theorem exec_commitApply (s : State) (u : Strand) (hu : s.strand? s.arg.id = some u) (hc : u.tx.committing = true) :
    exec .commitApply s = .next (s.applyTiles u.sid (fun x => tileSlice s x.tile == (s.arg.sel / 80, s.arg.sel % 80))) := by
  change execCommitApply s = _
  unfold execCommitApply
  rw [hu]
  dsimp only
  rw [if_pos hc]

end Sys2Proof.Machine
end

section
/-! SUPPORT. TRANSACTION_COMMIT: a buffered access is deposited, or XEND retires (spec/05 R101, R105, spec/06 R118). -/

namespace Sys2Proof.Machine

theorem Deposit.sameUnit_self (d : Deposit) : d.sameUnit d = true := by
  simp [Deposit.sameUnit]

/-- A core that takes a deposit has an update-only unit for it, to which the strand contributes. -/
theorem Core.deposit_unit (c : Core) (sid : Nat) (q : Deposit) (now : Nat) :
    ∃ v ∈ (c.deposit sid q now).upd, v.dep.sameUnit q = true ∧ sid ∈ v.sids := by
  unfold Core.deposit
  split
  · next h =>
    obtain ⟨v, hv, hs⟩ := List.any_eq_true.1 h
    refine ⟨_, List.mem_map_of_mem hv, ?_, ?_⟩
    · rw [if_pos hs]
      exact hs
    · rw [if_pos hs]
      dsimp only
      split
      · next hin => simpa using hin
      · simp
  · exact ⟨_, List.mem_append_right _ (List.mem_singleton_self _), q.sameUnit_self, List.mem_singleton_self _⟩

theorem Core.deposit_num (c : Core) (sid : Nat) (q : Deposit) (now : Nat) : (c.deposit sid q now).num = c.num := by
  unfold Core.deposit
  split <;> rfl

theorem State.trimLeases_upd (s : State) (core : Nat) : ((s.trimLeases core).core core).upd = (s.core core).upd := by
  unfold State.trimLeases
  dsimp only
  rw [State.core_setCore]
  exact fun _ => rfl

theorem State.takeDeposit_onlyCores (s : State) (core sid : Nat) (d : Deposit) : OnlyCores s (s.takeDeposit core sid d) :=
  (s.setCore_onlyCores core _).trans (State.trimLeases_onlyCores _ core)

theorem State.takeDeposit_unit (s : State) (core sid : Nat) (d : Deposit) :
    ∃ v ∈ ((s.takeDeposit core sid d).core core).upd, v.dep.sameUnit d = true ∧ sid ∈ v.sids := by
  unfold State.takeDeposit
  rw [State.trimLeases_upd, State.core_setCore]
  · exact (s.core core).deposit_unit sid d s.now
  · exact fun c => c.deposit_num sid d s.now

theorem exec_transactionCommit_deposits (s : State) (u : Strand) (d : Deposit) (l : List Deposit) (hu : s.strand? s.arg.id = some u)
    (hc : u.tx.committing = true) (ht : u.tx.tiles = []) (hl : u.tx.comm = d :: l) (hd : (s.focus u.sid).canDeposit d = true) :
    exec .transactionCommit s = .next ((s.takeDeposit u.core u.sid d).setStrand u.sid (fun v => { v with tx := { v.tx with comm := l } })) := by
  change execTransactionCommit s = _
  unfold execTransactionCommit
  rw [hu]
  dsimp only
  rw [if_neg (by simp [hc, ht]), hl]
  dsimp only
  rw [if_neg (by simp [hd])]

theorem exec_transactionCommit_retires (s : State) (u : Strand) (hu : s.strand? s.arg.id = some u) (hc : u.tx.committing = true)
    (ht : u.tx.tiles = []) (hl : u.tx.comm = []) : exec .transactionCommit s = .next (s.retireTx u.sid) := by
  change execTransactionCommit s = _
  unfold execTransactionCommit
  rw [hu]
  dsimp only
  rw [if_neg (by simp [hc, ht]), hl]

/-- A strand without commands has none that a commit releases. -/
theorem State.releaseHeld_of_none (s : State) (sid : Nat) (h : ∀ c ∈ s.cmds, c.sid ≠ sid) : s.releaseHeld sid = s := by
  have hn : s.cmds.filter (fun c => c.sid == sid && c.state = .held) = [] :=
    List.filter_eq_nil_iff.2 fun c hc => by simp [h c hc]
  unfold State.releaseHeld
  rw [hn]
  rfl

end Sys2Proof.Machine
end

section
/-! Tile transactions: begin, end, abort, test, registration, conflict and commit (spec/05 R91 to R105, spec/14 R294). -/

namespace Sys2Proof.Machine

/-- XEND retires with no command left to release: the transaction is over and the strand goes on. -/
theorem transactionCommit_retires (s : State) (u : Strand) (hu : s.strand? s.arg.id = some u) (hc : u.tx.committing = true)
    (ht : u.tx.tiles = []) (hl : u.tx.comm = []) (hn : ∀ c ∈ s.cmds, c.sid ≠ u.sid) :
    ∃ t : State, ∃ u', exec .transactionCommit s = .next t ∧ t.strand? s.arg.id = some u' ∧ u'.tx.depth = 0 ∧ u'.tx.committing = false
      ∧ u'.sr.xage = 0 ∧ u'.pc = u.skip ∧ u'.x = u.x ∧ u'.v = u.v ∧ u'.tx.status = u.tx.status ∧ t.mem = s.mem := by
  obtain ⟨hsid, -⟩ := State.strand?_spec hu
  rw [exec_transactionCommit_retires s u hu hc ht hl, State.retireTx, s.releaseHeld_of_none u.sid hn]
  rw [← hsid] at hu ⊢
  exact ⟨_, _, rfl, State.strand?_setStrand_of hu _ (fun _ => rfl) (fun _ => rfl), rfl, rfl, rfl, rfl, rfl, rfl, rfl, rfl⟩

/-- A buffered access is deposited in its core, and is buffered no more. -/
theorem transactionCommit_deposits (s : State) (u : Strand) (dep : Deposit) (l : List Deposit) (hu : s.strand? s.arg.id = some u)
    (hc : u.tx.committing = true) (ht : u.tx.tiles = []) (hl : u.tx.comm = dep :: l) (hd : (s.focus u.sid).canDeposit dep = true) :
    ∃ t : State, ∃ u' v, exec .transactionCommit s = .next t ∧ t.strand? s.arg.id = some u' ∧ u'.tx.comm = l ∧ u'.tx.depth = u.tx.depth
      ∧ v ∈ (t.core u.core).upd ∧ v.dep.sameUnit dep = true ∧ u.sid ∈ v.sids ∧ t.mem = s.mem := by
  obtain ⟨hsid, -⟩ := State.strand?_spec hu
  obtain ⟨v, hv, hunit, hin⟩ := s.takeDeposit_unit u.core u.sid dep
  have hcores := s.takeDeposit_onlyCores u.core u.sid dep
  rw [exec_transactionCommit_deposits s u dep l hu hc ht hl hd]
  rw [← hsid] at hu ⊢
  exact ⟨_, _, v, rfl, State.strand?_setStrand_of ((hcores.strand? u.sid).trans hu) _ (fun _ => rfl) (fun _ => rfl), rfl, rfl, hv, hunit,
    hin, hcores.mem⟩

/-- Settles O31, each clause by the lemmas of its own: the five instructions, the abort by R103's steps, the registration of a load as the
grant that nothing stands against, COMMIT_APPLY as a write of the cells that are not lost, and TRANSACTION_COMMIT. -/
theorem transactionResults : Obligations.TransactionResults := by
  unfold Obligations.TransactionResults
  refine ⟨fun z d s => ⟨?begin, exec_xbegin_inside z s, ?nest, ?illegal, exec_xend_nested s, ?commit, ?abort,
    fun h => ⟨exec_xtest_ready d s h, exec_xstat_ready d s h⟩⟩, ?conflict, ?registration, ?apply, ?finish⟩
  case begin =>
    intro hd hx hv
    obtain ⟨cs, h⟩ := exec_xbegin_outside z s hd hx hv
    obtain ⟨hage, hkeep⟩ := s.beginTx_xage (s.relative z.off)
    exact ⟨_, h, rfl, rfl, hage, hkeep, rfl, rfl, rfl, rfl, rfl, rfl, rfl, rfl, rfl, rfl, rfl⟩
  case nest =>
    intro hd he
    exact ⟨_, exec_xbegin_nest z s hd, s.abortTx_aborted s.cur _ _ _ (s.strand?_cur he) (by omega)⟩
  case illegal =>
    intro h
    rw [exec_xend_outside s h.1, exec_xabort_outside s h.1, s.illegal_delivered _ h]
    exact ⟨rfl, rfl⟩
  case commit => exact fun hd hr hdoom hrel => ⟨_, exec_xend_commits s hd hr hdoom hrel, rfl, rfl⟩
  case abort => exact fun h0 h16 he => ⟨_, exec_xabort_inside s h0, s.abortTx_aborted s.cur _ _ _ (s.strand?_cur he) h16⟩
  case conflict =>
    intro s u p hu hp h0 h16 hc
    exact ⟨_, exec_conflictAbort s u p hu hp h0 hc, s.abortTx_aborted u _ _ _ ((State.strand?_spec hu).1 ▸ hu) h16⟩
  case registration =>
    intro s r u n signed d hr hu hk hn htx hm hd hh he hb hf hc hl hp
    have hspan : r.kind.span ≠ 0 := by rw [hk]; exact Nat.ne_of_gt hn
    have hid : r.id = s.arg.id := by simpa using List.find?_some hr
    obtain ⟨r', u', h⟩ := s.grantTx_answers r u n signed d hk hu hp (hid ▸ hr)
    refine ⟨s.grantTx r u, r', u', ?_, h⟩
    rw [exec_transactionalRegistration s r u hr hu htx hspan hm hd, s.registerTx_grants r u n signed d hk hn hh he hb hf hc hl]
  case apply =>
    intro s u hu hc mine here hp hsafe
    obtain ⟨hsid, -⟩ := State.strand?_spec hu
    obtain ⟨u', h⟩ := s.applyTiles_commits u mine (hsid ▸ hu) hc hp hsafe.1
    exact ⟨_, u', exec_commitApply s u hu hc, hsid ▸ h⟩
  case finish =>
    intro s u hu hc ht
    exact ⟨transactionCommit_retires s u hu hc ht, fun dep l => transactionCommit_deposits s u dep l hu hc ht⟩

end Sys2Proof.Machine
end


section
/-! SUPPORT. The records of lines and of their copies at proxies: what a change to one leaves of the others while a slice makes room for it,
and how it reads back (spec/06 R109 to R113, R122; log entry 77). -/

namespace Sys2Proof.Machine

/-- What a search finds after an update of records that it is not for, when the update does not make them so. -/
theorem find?_map_ite_of_not {α : Type} (p c : α → Bool) (f : α → α) (h : ∀ a, c a = true → p a = false ∧ p (f a) = false) (l : List α) :
    (l.map (fun a => if c a = true then f a else a)).find? p = l.find? p := by
  induction l with
  | nil => rfl
  | cons a l ih =>
    by_cases hc : c a = true
    · simp [hc, (h a hc).1, (h a hc).2, ih]
    · simp [hc, List.find?_cons, ih]

/-! ### Slices and floors -/

theorem sliceOn_congr {s t : State} (h : t.coh.rehomed = s.coh.rehomed) (ln die : Nat) : sliceOn t ln die = sliceOn s ln die := by
  unfold sliceOn
  rw [h]

theorem State.floorOf_raiseFloor (s : State) (d k : Nat × Nat) (n : Nat) :
    (s.raiseFloor d n).floorOf k = if k = d then max (s.floorOf k) n else s.floorOf k := by
  unfold State.raiseFloor State.floorOf
  dsimp only
  split
  · next h =>
    subst h
    rw [List.find?_cons_of_pos (by simp)]
    rfl
  · next h =>
    have hne : ¬(d.1 = k.1 ∧ d.2 = k.2) := fun e => h (Prod.ext e.1.symm e.2.symm)
    rw [List.find?_cons_of_neg (by simpa using hne), List.find?_filter]
    congr 3
    funext m
    rw [Bool.eq_iff_iff]
    simp only [Bool.and_eq_true, Bool.not_eq_true', Bool.and_eq_false_imp, decide_eq_true_eq, beq_iff_eq, beq_eq_false_iff_ne]
    exact ⟨fun hm => hm.2, fun hm => ⟨fun h1 h2 => hne ⟨h1.symm.trans hm.1, h2.symm.trans hm.2⟩, hm⟩⟩

theorem State.le_floorOf_raiseFloor (s : State) (d k : Nat × Nat) (n : Nat) : s.floorOf k ≤ (s.raiseFloor d n).floorOf k := by
  rw [State.floorOf_raiseFloor]
  split
  · exact Nat.le_max_left _ _
  · exact Nat.le_refl _

/-! ### One line's record -/

/-- The record of a line, where the home has one. -/
def State.record (s : State) (ln : Nat) : Option Line := s.coh.lines.find? (fun l => l.line == ln)

/-- What the home knows of a line without a record. -/
def Line.bare (ln : Nat) : Line := ⟨ln, false, 0, 0, .i, 0, 0, 0, [], [], 0, [], none, 0, none, 0, 0⟩

/-- A line that its home slice does not hold, the floor being n. -/
def Line.atFloor (l : Line) (n : Nat) : Line := { l with cached := false, wts := n, rts := n }

/-- Whether the home slice of a line holds it once its record has become l. -/
def State.holds (s : State) (ln : Nat) (l : Line) : Bool :=
  !s.homeGated ln && (l.cached || l.wts != s.floorOf (sliceOf s ln) || l.rts != s.floorOf (sliceOf s ln))

theorem State.line_eq (s : State) (ln : Nat) :
    s.line ln = if ((s.record ln).getD (Line.bare ln)).cached && !s.homeGated ln then (s.record ln).getD (Line.bare ln)
      else ((s.record ln).getD (Line.bare ln)).atFloor (s.floorOf (sliceOf s ln)) := by
  unfold State.line State.record
  cases s.coh.lines.find? (fun l => l.line == ln) <;> rfl

theorem State.line_line (s : State) (ln : Nat) : (s.line ln).line = ln := by
  have hrec : ((s.record ln).getD (Line.bare ln)).line = ln := by
    cases h : s.record ln with
    | none => rfl
    | some l => simpa using List.find?_some h
  rw [State.line_eq]
  split
  · exact hrec
  · exact hrec

/-- A line that its home slice does not hold has the floor for stamps. -/
theorem State.line_of_uncached (s : State) (ln : Nat) (h : (s.line ln).cached = false) :
    (s.line ln).wts = s.floorOf (sliceOf s ln) ∧ (s.line ln).rts = s.floorOf (sliceOf s ln) := by
  rw [State.line_eq] at h ⊢
  split at h
  · next hc => exact absurd h (by simp [(Bool.and_eq_true_iff.1 hc).1])
  · next hc =>
    rw [if_neg hc]
    exact ⟨rfl, rfl⟩

theorem State.homeGated_of_cached (s : State) (ln : Nat) (h : (s.line ln).cached = true) : s.homeGated ln = false := by
  rw [State.line_eq] at h
  split at h
  · next hc => simpa using (Bool.and_eq_true_iff.1 hc).2
  · exact absurd h Bool.false_ne_true

/-- What the record of a line says depends on nothing but the coherence records and the bays. -/
theorem State.line_congr {s t : State} (hc : t.coh = s.coh) (hm : t.mgmt = s.mgmt) (ln : Nat) : t.line ln = s.line ln := by
  have hslice : sliceOf t ln = sliceOf s ln := sliceOn_congr (by rw [hc]) ln _
  have hgated : t.homeGated ln = s.homeGated ln := by
    unfold State.homeGated State.bay
    rw [hslice, hm]
  have hfloor : ∀ k, t.floorOf k = s.floorOf k := fun k => by
    unfold State.floorOf
    rw [hc]
  unfold State.line
  rw [hslice, hgated, hfloor, hc]

/-! ### The other lines' records -/

/-- From s to t only coherence records have changed, that of line ln not at all, and no floor has fallen. -/
structure KeepsLine (ln : Nat) (s t : State) : Prop where
  only : OnlyCoh s t
  rehomed : t.coh.rehomed = s.coh.rehomed
  record : t.record ln = s.record ln
  floor : ∀ k, s.floorOf k ≤ t.floorOf k

theorem KeepsLine.refl (ln : Nat) (s : State) : KeepsLine ln s s := ⟨OnlyCoh.refl s, rfl, rfl, fun _ => Nat.le_refl _⟩

theorem KeepsLine.trans {ln : Nat} {s t u : State} (h : KeepsLine ln s t) (k : KeepsLine ln t u) : KeepsLine ln s u :=
  ⟨h.only.trans k.only, k.rehomed.trans h.rehomed, k.record.trans h.record, fun d => (h.floor d).trans (k.floor d)⟩

theorem KeepsLine.sliceOf {ln : Nat} {s t : State} (h : KeepsLine ln s t) : sliceOf t ln = sliceOf s ln := sliceOn_congr h.rehomed ln _

theorem KeepsLine.homeGated {ln : Nat} {s t : State} (h : KeepsLine ln s t) : t.homeGated ln = s.homeGated ln := by
  obtain ⟨c, rfl⟩ := h.only
  unfold State.homeGated
  rw [h.sliceOf]
  rfl

/-- A line whose record is kept reads as it did while its slice holds it; else its stamps have risen with the floor. -/
theorem KeepsLine.line {ln : Nat} {s t : State} (h : KeepsLine ln s t) :
    t.line ln = if (s.line ln).cached then s.line ln else (s.line ln).atFloor (t.floorOf (Machine.sliceOf s ln)) := by
  rw [t.line_eq, s.line_eq, h.record, h.homeGated, h.sliceOf]
  by_cases hc : (((s.record ln).getD (Line.bare ln)).cached && !s.homeGated ln) = true
  · rw [if_pos hc, if_pos hc, if_pos (Bool.and_eq_true_iff.1 hc).1]
  · rw [if_neg hc, if_neg hc]
    rfl

theorem State.raiseFloor_keepsLine (s : State) (d : Nat × Nat) (n ln : Nat) : KeepsLine ln s (s.raiseFloor d n) :=
  ⟨s.raiseFloor_onlyCoh d n, rfl, rfl, fun k => s.le_floorOf_raiseFloor d k n⟩

theorem State.dropProxy_keepsLine (s : State) (m die ln : Nat) : KeepsLine ln s (s.dropProxy m die) :=
  ⟨s.dropProxy_onlyCoh m die, rfl, rfl, fun _ => Nat.le_refl _⟩

/-- Every line's record, that of line ln as f leaves it. -/
def State.linesPut (s : State) (ln : Nat) (f : Line → Line) : List Line :=
  if s.coh.lines.any (fun l => l.line == ln) then
    s.coh.lines.map (fun x => if x.line == ln then { f (s.line ln) with cached := s.holds ln (f (s.line ln)) } else x)
  else s.coh.lines ++ [{ f (s.line ln) with cached := s.holds ln (f (s.line ln)) }]

/-- A gated slice evicts at once the line that is put: its floor takes the lease. -/
theorem State.putLine_eq (s : State) (ln : Nat) (f : Line → Line) :
    s.putLine ln f =
      if s.homeGated ln then
        State.raiseFloor { s with coh := { s.coh with lines := s.linesPut ln f } } (sliceOf s ln) (f (s.line ln)).rts
      else { s with coh := { s.coh with lines := s.linesPut ln f } } := by
  unfold State.putLine State.linesPut State.holds
  dsimp only
  split <;> split <;> rfl

theorem State.putLine_lines (s : State) (ln : Nat) (f : Line → Line) : (s.putLine ln f).coh.lines = s.linesPut ln f := by
  rw [State.putLine_eq]
  split <;> rfl

theorem State.putLine_proxies (s : State) (ln : Nat) (f : Line → Line) : (s.putLine ln f).coh.proxies = s.coh.proxies := by
  rw [State.putLine_eq]
  split <;> rfl

theorem State.putLine_rehomed (s : State) (ln : Nat) (f : Line → Line) : (s.putLine ln f).coh.rehomed = s.coh.rehomed := by
  rw [State.putLine_eq]
  split <;> rfl

theorem State.floorOf_putLine (s : State) (ln : Nat) (f : Line → Line) (k : Nat × Nat) :
    (s.putLine ln f).floorOf k =
      if s.homeGated ln = true ∧ k = sliceOf s ln then max (s.floorOf k) (f (s.line ln)).rts else s.floorOf k := by
  rw [State.putLine_eq]
  by_cases hg : s.homeGated ln = true
  · simp only [hg, if_true, true_and]
    exact State.floorOf_raiseFloor _ _ _ _
  · rw [if_neg hg, if_neg fun h => hg h.1]
    rfl

theorem State.record_putLine_same (s : State) (ln : Nat) (f : Line → Line) (hf : ∀ l, (f l).line = l.line) :
    (s.putLine ln f).record ln = some { f (s.line ln) with cached := s.holds ln (f (s.line ln)) } := by
  have hline : (f (s.line ln)).line = ln := (hf _).trans (s.line_line ln)
  unfold State.record
  rw [State.putLine_lines, State.linesPut]
  split
  · next h =>
    obtain ⟨l, hl⟩ := Option.isSome_iff_exists.1 (List.find?_isSome.2 (List.any_eq_true.1 h))
    rw [find?_map_ite (fun l : Line => l.line == ln) (fun _ => _) (fun _ _ => by simp [hline]), hl]
    rfl
  · next h =>
    rw [List.find?_append, List.find?_eq_none.2 fun l hl hp => h (List.any_eq_true.2 ⟨l, hl, hp⟩)]
    simp [hline]

theorem State.record_putLine_other (s : State) (m ln : Nat) (f : Line → Line) (hf : ∀ l, (f l).line = l.line) (h : m ≠ ln) :
    (s.putLine m f).record ln = s.record ln := by
  have hline : (f (s.line m)).line ≠ ln := by rwa [hf, s.line_line]
  unfold State.record
  rw [State.putLine_lines, State.linesPut]
  split
  · refine find?_map_ite_of_not _ (fun l : Line => l.line == m) (fun _ => _) (fun x hx => ?_) s.coh.lines
    rw [beq_iff_eq.1 hx]
    exact ⟨beq_false_of_ne h, beq_false_of_ne hline⟩
  · rw [List.find?_append]
    simp [hline]

theorem State.putLine_keepsLine (s : State) (m ln : Nat) (f : Line → Line) (hf : ∀ l, (f l).line = l.line) (h : m ≠ ln) :
    KeepsLine ln s (s.putLine m f) := by
  refine ⟨s.putLine_onlyCoh m f, s.putLine_rehomed m f, s.record_putLine_other m ln f hf h, fun k => ?_⟩
  rw [State.floorOf_putLine]
  split
  · exact Nat.le_max_left _ _
  · exact Nat.le_refl _

theorem State.evictHome_keepsLine (s : State) (l : Line) (ln : Nat) (h : l.line ≠ ln) : KeepsLine ln s (s.evictHome l) := by
  refine ⟨s.evictHome_onlyCoh l, rfl, ?_, fun k => s.le_floorOf_raiseFloor _ k _⟩
  unfold State.record State.evictHome
  dsimp only
  split
  · rw [List.find?_filter]
    congr 1
    funext x
    by_cases hx : x.line = ln
    · simp [hx, Ne.symm h]
    · simp [hx]
  · refine find?_map_ite_of_not _ (fun x : Line => x.line == l.line) (fun x => { x with cached := false }) (fun x hx => ?_) s.coh.lines
    rw [beq_iff_eq.1 hx]
    exact ⟨beq_false_of_ne h, beq_false_of_ne h⟩

theorem Line.without_line (l : Line) (p : Proxy) : (l.without p).line = l.line := by
  unfold Line.without
  dsimp only
  split <;> rfl

theorem State.evictProxy_keepsLine (s : State) (p : Proxy) (ln : Nat) (h : p.line ≠ ln) : KeepsLine ln s (s.evictProxy p) := by
  have hput := s.putLine_keepsLine p.line ln (fun l => l.without p) (fun l => l.without_line p) h
  have htold : KeepsLine ln s (if (s.line p.line).cached then s.putLine p.line (fun l => l.without p)
      else (s.putLine p.line (fun l => l.without p)).evictHome ((s.putLine p.line (fun l => l.without p)).line p.line)) := by
    split
    · exact hput
    · exact hput.trans (State.evictHome_keepsLine _ _ ln (by rwa [State.line_line]))
  exact (htold.trans (State.dropProxy_keepsLine _ _ _ ln)).trans (State.raiseFloor_keepsLine _ _ _ ln)

/-- What a slice evicts to take in a line is not that line's. -/
theorem State.evictOne_keepsLine (s : State) (k : Nat × Nat) (ln n : Nat) : KeepsLine ln s (s.evictOne k ln n) := by
  unfold State.evictOne
  dsimp only
  split
  · next m hm =>
    refine s.evictHome_keepsLine _ ln ?_
    rw [s.line_line]
    simpa using (List.mem_filter.1 (List.mem_of_getElem? hm)).2
  · split
    · next p hp =>
      refine s.evictProxy_keepsLine p ln ?_
      have := (List.mem_filter.1 (List.mem_of_getElem? hp)).2
      simp only [Bool.and_eq_true, bne_iff_ne] at this
      exact this.1
    · exact KeepsLine.refl ln s

theorem State.keepSlice_keepsLine (s : State) (k : Nat × Nat) (ln : Nat) : KeepsLine ln s (s.keepSlice k ln) := by
  unfold State.keepSlice
  split
  · exact KeepsLine.refl ln s
  · exact List.foldlRecOn (motive := KeepsLine ln s) _ _ (KeepsLine.refl ln s) fun t ht i _ => ht.trans (t.evictOne_keepsLine k ln _)

/-! ### A line that is set -/

/-- A line reads as it has been set while its slice holds it; else its stamps are the floor's. -/
theorem State.line_setLine (s : State) (ln : Nat) (f : Line → Line) (hf : ∀ l, (f l).line = l.line) :
    (s.setLine ln f).line ln = if s.holds ln (f (s.line ln)) then { f (s.line ln) with cached := true }
      else (f (s.line ln)).atFloor ((s.setLine ln f).floorOf (sliceOf s ln)) := by
  have hslice : sliceOf (s.putLine ln f) ln = sliceOf s ln := sliceOn_congr (s.putLine_rehomed ln f) ln _
  have hgated : (s.putLine ln f).homeGated ln = s.homeGated ln := by
    unfold State.homeGated
    rw [hslice]
    obtain ⟨c, hc⟩ := s.putLine_onlyCoh ln f
    rw [hc]
    rfl
  have hput : (s.putLine ln f).line ln = if s.holds ln (f (s.line ln)) then { f (s.line ln) with cached := true }
      else (f (s.line ln)).atFloor ((s.putLine ln f).floorOf (sliceOf s ln)) := by
    rw [State.line_eq, s.record_putLine_same ln f hf, Option.getD_some, hgated, hslice]
    cases hh : s.holds ln (f (s.line ln)) with
    | false => rfl
    | true =>
      have hg : s.homeGated ln = false := by simpa using (Bool.and_eq_true_iff.1 hh).1
      simp [hg]
  have hkeep := ((s.putLine ln f).keepSlice_keepsLine (sliceOf s ln) ln).line
  unfold State.setLine
  rw [hkeep, hput, hslice]
  cases s.holds ln (f (s.line ln)) <;> rfl

/-- The floor covers the lease of a line that has been set and that its slice does not hold. -/
theorem State.le_floorOf_setLine (s : State) (ln : Nat) (f : Line → Line) (h : s.holds ln (f (s.line ln)) = false) :
    (f (s.line ln)).rts ≤ (s.setLine ln f).floorOf (sliceOf s ln) := by
  refine Nat.le_trans ?_ (((s.putLine ln f).keepSlice_keepsLine (sliceOf s ln) ln).floor _)
  rw [State.floorOf_putLine]
  cases hg : s.homeGated ln with
  | true => simp
  | false =>
    simp only [State.holds, hg, Bool.not_false, Bool.true_and, Bool.or_eq_false_iff, bne_eq_false_iff_eq] at h
    simp [h.2]

theorem State.setLine_rehomed (s : State) (ln : Nat) (f : Line → Line) : (s.setLine ln f).coh.rehomed = s.coh.rehomed :=
  ((s.putLine ln f).keepSlice_keepsLine (Machine.sliceOf s ln) ln).rehomed.trans (s.putLine_rehomed ln f)

theorem State.sliceOf_setLine (s : State) (ln : Nat) (f : Line → Line) : sliceOf (s.setLine ln f) ln = sliceOf s ln :=
  sliceOn_congr (s.setLine_rehomed ln f) ln _

theorem State.floorOf_le_setLine (s : State) (ln : Nat) (f : Line → Line) (k : Nat × Nat) : s.floorOf k ≤ (s.setLine ln f).floorOf k := by
  refine Nat.le_trans ?_ (((s.putLine ln f).keepSlice_keepsLine (sliceOf s ln) ln).floor k)
  rw [State.floorOf_putLine]
  split
  · exact Nat.le_max_left _ _
  · exact Nat.le_refl _

end Sys2Proof.Machine
end


section
/-! SUPPORT. The copies at proxies when a slice makes room: which stay gone, which one goes, and when nothing does (spec/06 R111, R113;
log entry 77). -/

namespace Sys2Proof.Machine

theorem State.evictProxy_proxies (s : State) (p : Proxy) :
    (s.evictProxy p).coh.proxies = s.coh.proxies.filter (fun q => !(q.line == p.line && q.die == p.die)) := by
  have htold : (if (s.line p.line).cached then s.putLine p.line (fun l => l.without p)
      else (s.putLine p.line (fun l => l.without p)).evictHome ((s.putLine p.line (fun l => l.without p)).line p.line)).coh.proxies
      = s.coh.proxies := by
    split <;> exact s.putLine_proxies _ _
  rw [← htold]
  rfl

/-- A copy that goes is held no more, whichever line's it is. -/
theorem State.evictProxy_proxy_self (s : State) (p : Proxy) : (s.evictProxy p).proxy p.line p.die = none := by
  unfold State.proxy
  rw [State.evictProxy_proxies, List.find?_eq_none]
  intro q hq
  have := (List.mem_filter.1 hq).2
  simpa only [Bool.not_eq_true', Bool.not_eq_true] using this

/-- An eviction gives no proxy a copy that it does not have. -/
theorem State.evictOne_proxy_none (s : State) (k : Nat × Nat) (m n ln die : Nat) (h : s.proxy ln die = none) :
    (s.evictOne k m n).proxy ln die = none := by
  unfold State.evictOne
  dsimp only
  split
  · exact h
  · split
    · next p _ =>
      unfold State.proxy
      rw [State.evictProxy_proxies, List.find?_eq_none]
      exact fun q hq => List.find?_eq_none.1 h q (List.mem_filter.1 hq).1
    · exact h

/-- A slice that holds neither another home line nor another copy has nothing to evict. -/
theorem State.keepSlice_of_alone (s : State) (k : Nat × Nat) (ln : Nat) (hl : ∀ l ∈ s.coh.lines, l.cached = false)
    (hp : ∀ p ∈ s.coh.proxies, p.line = ln) : s.keepSlice k ln = s := by
  have hhomes : s.cachedLines k = [] := by
    unfold State.cachedLines
    rw [List.map_eq_nil_iff, List.filter_eq_nil_iff]
    exact fun l h => by simp [hl l h]
  have hcopies : (s.cachedProxies k).filter (fun p => p.line != ln && (s.line p.line).awaiting.isEmpty) = [] := by
    rw [List.filter_eq_nil_iff]
    exact fun p h => by simp [hp p (List.mem_filter.1 h).1]
  have hone (n : Nat) : s.evictOne k ln n = s := by
    unfold State.evictOne
    simp [hhomes, hcopies]
  unfold State.keepSlice
  split
  · rfl
  · exact List.foldlRecOn (motive := (· = s)) _ _ rfl fun t ht i _ => by rw [ht, hone]

/-- A slice whose vitrine alone is more than it has room for gives up the one copy of another line that it may evict. -/
theorem State.keepSlice_evicts (s : State) (k : Nat × Nat) (ln : Nat) (p : Proxy) (hl : ∀ l ∈ s.coh.lines, l.cached = false)
    (hp : s.coh.proxies = [p]) (hk : sliceOn s p.line p.die = k) (hne : p.line ≠ ln) (ha : (s.line p.line).awaiting = [])
    (hv : sliceLines < 16 * (s.vitrineTiles.filter (fun t => sliceOf s (t * 16) == k)).length) :
    (s.keepSlice k ln).proxy p.line p.die = none := by
  have hhomes : s.cachedLines k = [] := by
    unfold State.cachedLines
    rw [List.map_eq_nil_iff, List.filter_eq_nil_iff]
    exact fun l h => by simp [hl l h]
  have hcopies : (s.cachedProxies k).filter (fun p => p.line != ln && (s.line p.line).awaiting.isEmpty) = [p] := by
    simp [State.cachedProxies, hp, hk, hne, ha]
  have hone (n : Nat) : (s.evictOne k ln n).proxy p.line p.die = none := by
    have : s.evictOne k ln n = s.evictProxy p := by
      unfold State.evictOne
      simp [hhomes, hcopies, Nat.mod_one]
    rw [this, State.evictProxy_proxy_self]
  have hall := List.length_filter_le (fun t => sliceOf s (t * 16) == k) s.vitrineTiles
  have hused : sliceLines < s.sliceUsed k := Nat.lt_of_lt_of_le hv (Nat.le_add_left _ _)
  obtain ⟨m, hm⟩ : ∃ m, s.sliceUsed k - sliceLines = m + 1 := ⟨s.sliceUsed k - sliceLines - 1, by omega⟩
  unfold State.keepSlice
  rw [if_neg (by omega), hm, List.range_succ_eq_map, List.foldl_cons]
  exact List.foldlRecOn (motive := fun t : State => t.proxy p.line p.die = none) _ _ (hone _) fun t ht i _ =>
    t.evictOne_proxy_none k ln _ _ _ ht

end Sys2Proof.Machine
end


section
/-! SUPPORT. A store at its point of performance: what it writes and whom it wakes (spec/06 R110, spec/14 R298, spec/20 R381). -/

namespace Sys2Proof.Machine

theorem State.cleanse_eq (s : State) (a n : Nat) : ∃ em po, s.cleanse a n = { s with empties := em, poison := po } := by
  refine List.foldlRecOn (motive := fun t : State => ∃ em po, t = { s with empties := em, poison := po }) (wordsOf a n) _
    ⟨s.empties, s.poison, rfl⟩ fun t ht w _ => ?_
  obtain ⟨em, po, rfl⟩ := ht
  split
  · exact ⟨_, _, rfl⟩
  · exact ⟨em, po, rfl⟩

/-- A store that no poison refuses writes its bytes; strands that watch them may be woken, their cores acquire, tags and poison change. -/
theorem State.storeAt_eq (s : State) (a : Nat) (bs : List Byte) (h : s.refusesWrite a bs.length = false) :
    ∃ em po cs, s.storeAt a bs =
      State.mapStrands { s with mem := Memory.setBytes s.mem a bs, empties := em, poison := po, cores := cs }
        (fun t => t.noteWrite (Memory.setBytes s.mem a bs) a bs.length) := by
  obtain ⟨em, po, hcl⟩ := s.cleanse_eq a bs.length
  obtain ⟨cs, hn⟩ := ((s.cleanse a bs.length).poke a bs).noteAt_onlyCores a bs.length
  refine ⟨em, po, cs, ?_⟩
  unfold State.storeAt State.put
  rw [if_neg (by simp [h]), hn, hcl]
  rfl

/-- The same of a store request, which is then performed with the stamp that it has got, and whose acknowledgement the core awaits. -/
theorem State.performStore_eq (s : State) (r : Req) (w n : Nat) (d : VReg) (hk : r.kind = .store n d)
    (h : s.refusesWrite r.addr n = false) :
    ∃ em po cs, s.performStore r w =
      State.setReq (State.mapStrands
        { s with mem := Memory.writeN s.mem r.addr n d.toNat, empties := em, poison := po, cores := cs }
        (fun t => t.noteWrite (Memory.writeN s.mem r.addr n d.toNat) r.addr n)) r.id (fun q => { q with state := .performed, wts := w }) := by
  have hbs : r.kind.storeBytes = natBytes n d.toNat := by rw [hk]; rfl
  have hlen : (natBytes n d.toNat).length = n := natBytes_length _ _
  obtain ⟨em, po, cs, hst⟩ := s.storeAt_eq r.addr (natBytes n d.toNat) (by rwa [hlen])
  unfold State.performStore
  dsimp only
  rw [hbs, hlen, if_neg (by simp [h])]
  obtain ⟨cs', hcs⟩ := (s.storeAt r.addr (natBytes n d.toNat)).setCore_onlyCores r.core (fun c =>
    { c with acks := c.acks ++ [(r.id, ⟨lineOf r.addr, w, w, (s.storeAt r.addr (natBytes n d.toNat)).lineData (lineOf r.addr)⟩)] })
  refine ⟨em, po, cs', ?_⟩
  rw [hcs, hst, hlen]
  rfl

/-- A line once a request that was served has given up what it had reserved there, and starves no more. -/
def Line.served (l : Line) (id : Nat) : Line :=
  { l with reserved := if l.reserved = some id then none else l.reserved, starving := l.starving.filter (fun e => e.2 != id) }

/-- A request that was served gives up what it has reserved at one line. -/
def State.giveUp (s : State) (r : Req) (ln : Nat) : State :=
  if (s.line ln).reserved = some r.id ∨ (s.line ln).starving.any (fun e => e.2 == r.id) then s.setLine ln (fun l => l.served r.id) else s

theorem State.noteServed_eq (s : State) (r : Req) :
    s.noteServed r = (linesOf r.addr (max r.kind.span 1)).foldl (fun t ln => t.giveUp r ln) s := rfl

/-- A line once the die that owns it has written it: the home copy, which had the data of s, stays behind a store with stamp w (R113,
R115). -/
def State.ownerWrote (s : State) (ln w : Nat) (l : Line) : Line :=
  if l.stale.isSome then { l with share := .m }
  else { l with share := .m, stale := some (s.lineData ln), staleWts := w, staleAt := s.ticks }

theorem Req.storeBytes_nonempty (r : Req) {n : Nat} {d : VReg} (hk : r.kind = .store n d) (hn : 0 < n) :
    r.kind.storeBytes.isEmpty = false := by
  rw [hk, List.isEmpty_eq_false_iff_exists_mem, ← List.length_pos_iff_exists_mem]
  exact (natBytes_length n _).symm ▸ hn

/-- A store that its die's proxy may perform, and that nothing stands against there, is performed. -/
theorem exec_storeApply_atProxy (s : State) (r : Req) (p : Proxy) (n : Nat) (d : VReg) (hr : s.req? s.arg.id = some r)
    (hk : r.kind = .store n d) (hn : 0 < n) (ht : r.tx = false) (hh : homeDie r.addr ≠ dieOfCore r.core) (hm : s.mayServe r = true)
    (hb : s.coh.rebasing = false) (hf : s.lineFree r (lineOf r.addr) = true) (ho : s.proxyOwns (lineOf r.addr) (dieOfCore r.core) = true)
    (hp : s.proxy (lineOf r.addr) (dieOfCore r.core) = some p) (hc : s.conflicts (tileOf r.addr) true = [])
    (hd : s.depositCores (lineOf r.addr) = []) :
    let w := max r.lt (p.rts + 1)
    exec .storeApply s = .next ((((s.setProxy { p with wts := w, rts := w }).setLine (lineOf r.addr)
      (s.ownerWrote (lineOf r.addr) w)).performStore r w).noteServed r) := by
  change execStoreApply s = _
  unfold execStoreApply
  rw [hr]
  dsimp only
  rw [if_neg (by simp [r.storeBytes_nonempty hk hn, ht]), if_neg hh, if_neg (by simp [hm]), if_neg (by simp [hb]), if_neg (by simp [hf]), if_pos ho]
  unfold State.storeAtProxy
  dsimp only
  rw [hp]
  dsimp only
  rw [if_neg (by simp [hc]), if_neg (by simp [hd])]
  rfl

end Sys2Proof.Machine
end

section
/-! Proxies, recalls, deposits, reservations and the rebase (spec/06 R111 to R119). -/

namespace Sys2Proof.Machine

/-- The last four bytes of the depot whose home is die 0; the first line of die 1 follows. -/
def edgeAddr : Nat := depAddr (2 ^ 39 - 4)
def edgeLine : Nat := lineOf edgeAddr

/-- A store of eight bytes there by a core of die 1. -/
def edgeStore : Req :=
  { id := 1, sid := 0, core := 160, kind := .store 8 7, ptr := 0, addr := edgeAddr, order := .rlx, scope := .str, state := .sent, tx := false,
    lt := 0, wts := 0, time := none, limit := 0, page := 0, opcode := 0, pc := 0, chan := 0, refusals := 0, retryAt := 0, turn := 0, group := 0 }

/-- The line next to it, reserved for the store. -/
def edgeNext : Line := { Line.bare (edgeLine + 1) with reserved := some 1 }

/-- The records when die 1 owns the first line, as l says, with stamps p, and one slice of die 1 stands in for all of them. -/
def edgeCoh (l : Line) (p : Proxy) : Coherence :=
  { lines := [l, edgeNext], proxies := [p], mts := [], rebasing := false, rehomed := (List.range 80).map (fun i => (1, i, 0)) }

/-- So many tiles take more lines than a slice has. -/
def edgeTiles : Nat := 615

/-- A strand whose speculative tiles fill the vitrine of that slice. -/
def edgeStrand : Strand :=
  { Strand.blank with
    mode := .running,
    tx := { Tx.none with tiles := List.replicate edgeTiles ⟨tileOf edgeAddr + 1, true, true, true, 0, 0⟩ } }

/-- Die 1 owns the line that the store begins in. -/
def edgeOwned : Line := { Line.bare edgeLine with share := .m, owner := 1, proxies := 2 }

/-- The store waits for its die's proxy, which may perform it. -/
def edge : State :=
  { State.reset with
    cur := edgeStrand, reqs := [edgeStore], arg := { id := 1 },
    coh := edgeCoh edgeOwned ⟨edgeLine, 1, 0, 0⟩ }

theorem sliceOn_edge (s : State) (ln : Nat) (h : s.coh.rehomed = (List.range 80).map (fun i => (1, i, 0))) : sliceOn s ln 1 = (1, 0) := by
  have hall : ∀ i, i < 80 → ((List.range 80).map (fun i => ((1 : Nat), i, 0))).find? (fun r => r.1 == 1 && r.2.1 == i) = some (1, i, 0) := by
    decide
  unfold sliceOn
  dsimp only
  rw [h, hall _ (Nat.mod_lt _ (by decide))]

/-- Where the store has been performed, what it reserved is given up; the slice makes room for that line, and the copy that die 1 holds of
the other goes. -/
theorem noteServed_edge (s : State) (l : Line) (p : Proxy) (hc : s.coh = edgeCoh l p)
    (hv : s.vitrineTiles = edge.vitrineTiles) (hl : l.line = edgeLine) (hcached : l.cached = false)
    (hr : l.reserved = none) (hs : l.starving = []) (ha : l.awaiting = []) (hp : p.line = edgeLine) (hd : p.die = 1) :
    (s.noteServed edgeStore).proxy edgeLine 1 = none := by
  have hrec : s.record edgeLine = some l := by
    unfold State.record
    rw [hc]
    exact List.find?_cons_of_pos (by simp [hl])
  have hfirst : (s.line edgeLine).reserved = none ∧ (s.line edgeLine).starving = [] := by
    rw [State.line_eq, hrec]
    split <;> exact ⟨hr, hs⟩
  have hrec' : s.record (edgeLine + 1) = some edgeNext := by
    unfold State.record
    rw [hc]
    exact (List.find?_cons_of_neg (by simp [hl])).trans (List.find?_cons_of_pos (by decide))
  have hnext : s.line (edgeLine + 1) = edgeNext.atFloor (s.floorOf (sliceOf s (edgeLine + 1))) := by
    rw [State.line_eq, hrec']
    rfl
  have hrehomed : s.coh.rehomed = (List.range 80).map (fun i => (1, i, 0)) := by rw [hc]; rfl
  have hslice : sliceOf s (edgeLine + 1) = (1, 0) := sliceOn_edge s _ hrehomed
  have hlines : linesOf edgeStore.addr (max edgeStore.kind.span 1) = [edgeLine, edgeLine + 1] := by decide
  have hkept : s.giveUp edgeStore edgeLine = s := if_neg (by simp [hfirst])
  have hgiven : s.giveUp edgeStore (edgeLine + 1) = s.setLine (edgeLine + 1) (fun l => l.served 1) := if_pos (.inl (by rw [hnext]; rfl))
  have hput : (s.putLine (edgeLine + 1) (fun l => l.served 1)).coh.lines
      = [l, { (s.line (edgeLine + 1)).served 1 with cached := s.holds (edgeLine + 1) ((s.line (edgeLine + 1)).served 1) }] := by
    rw [State.putLine_lines, State.linesPut, hc]
    simp [edgeCoh, edgeNext, Line.bare, hl]
  have hheld : s.holds (edgeLine + 1) ((s.line (edgeLine + 1)).served 1) = false := by
    unfold State.holds
    rw [hnext]
    simp [Line.served, Line.atFloor]
  have hevicts := State.keepSlice_evicts (s.putLine (edgeLine + 1) (fun l => l.served 1)) (1, 0) (edgeLine + 1) p ?_ ?_ ?_ ?_ ?_ ?_
  · rw [State.noteServed_eq, hlines, List.foldl_cons, List.foldl_cons, List.foldl_nil, hkept, hgiven, State.setLine, hslice]
    rwa [hp, hd] at hevicts
  · rw [hput, hheld]
    simp [hcached]
  · rw [State.putLine_proxies, hc]
    rfl
  · rw [hd, sliceOn_edge _ _ ((s.putLine_rehomed _ _).trans hrehomed)]
  · rw [hp]
    decide
  · have hkeep := s.record_putLine_other (edgeLine + 1) edgeLine (fun l => l.served 1) (fun _ => rfl) (by decide)
    rw [hp, State.line_eq, hkeep, hrec]
    split <;> exact ha
  · have hvit : (s.putLine (edgeLine + 1) (fun l => l.served 1)).vitrineTiles = edge.vitrineTiles := by
      obtain ⟨c, h⟩ := s.putLine_onlyCoh (edgeLine + 1) (fun l => l.served 1)
      rw [h]
      exact hv
    have htiles : edge.vitrineTiles = List.replicate edgeTiles (tileOf edgeAddr + 1) := by
      simp [State.vitrineTiles, State.strands, edge, edgeStrand, State.reset, Strand.exists?]
    have htile : sliceOf (s.putLine (edgeLine + 1) (fun l => l.served 1)) ((tileOf edgeAddr + 1) * 16) = (1, 0) :=
      sliceOn_edge _ _ ((s.putLine_rehomed _ _).trans hrehomed)
    rw [hvit, htiles, List.filter_replicate, htile, if_pos (beq_self_eq_true _), List.length_replicate]
    decide

/-- The store is performed, and die 1, whose line it has become, holds no copy of it. -/
theorem edge_storeApply : ∃ t : State, exec .storeApply edge = .next t ∧ t.proxy edgeLine 1 = none := by
  have hexec := exec_storeApply_atProxy edge edgeStore ⟨edgeLine, 1, 0, 0⟩ 8 7 rfl rfl (by decide) rfl (by decide) (by decide) rfl (by decide)
    (by decide) (by decide) (by decide) (by decide)
  have hproxy : edge.setProxy ⟨edgeLine, 1, 1, 1⟩ = { edge with coh := edgeCoh edgeOwned ⟨edgeLine, 1, 1, 1⟩ } := by
    unfold State.setProxy
    rw [State.keepSlice_of_alone]
    · rfl
    · decide
    · decide
  have hline : ∃ l : Line, (edge.setProxy ⟨edgeLine, 1, 1, 1⟩).setLine edgeLine (edge.ownerWrote edgeLine 1)
      = { edge with coh := edgeCoh l ⟨edgeLine, 1, 1, 1⟩ }
      ∧ l.line = edgeLine ∧ l.cached = false ∧ l.reserved = none ∧ l.starving = [] ∧ l.awaiting = [] := by
    refine ⟨{ edge.ownerWrote edgeLine 1 edgeOwned with cached := false }, ?_, rfl, rfl, rfl, rfl, rfl⟩
    rw [hproxy]
    have : State.putLine { edge with coh := edgeCoh edgeOwned ⟨edgeLine, 1, 1, 1⟩ } edgeLine (edge.ownerWrote edgeLine 1)
      = { edge with coh := edgeCoh { edge.ownerWrote edgeLine 1 edgeOwned with cached := false } ⟨edgeLine, 1, 1, 1⟩ } := by
      rfl
    unfold State.setLine
    rw [this, State.keepSlice_of_alone]
    · decide
    · decide
  obtain ⟨l, hset, hl, hcached, hr, hs, ha⟩ := hline
  obtain ⟨em, po, cs, hperf⟩ := State.performStore_eq { edge with coh := edgeCoh l ⟨edgeLine, 1, 1, 1⟩ } edgeStore 1 8 7 rfl rfl
  refine ⟨_, hexec, ?_⟩
  change ((((edge.setProxy ⟨edgeLine, 1, 1, 1⟩).setLine edgeLine (edge.ownerWrote edgeLine 1)).performStore edgeStore 1).noteServed
    edgeStore).proxy edgeLine 1 = none
  rw [hset]
  refine noteServed_edge _ l ⟨edgeLine, 1, 1, 1⟩ ?_ ?_ hl hcached hr hs ha rfl rfl
  · rw [hperf]
    rfl
  · rw [hperf]
    rfl

/-- Refutes O26, by its clause on STORE_APPLY at a die that owns the line: nothing there keeps the store within one line. One that crosses
into the first line of its own die's home gives up what it had reserved there, that line's slice makes room for it, and the copy of the line
that the die owns may be what goes (R113, R117; log entry 77). -/
theorem not_directorySteps : ¬ Obligations.DirectorySteps := by
  unfold Obligations.DirectorySteps
  rintro ⟨-, hstore, -⟩
  obtain ⟨t, r', ht, -, -, -, -, -, hproxy, -⟩ := hstore edge edgeStore ⟨edgeLine, 1, 0, 0⟩ 8 7 rfl rfl (by decide) rfl (by decide)
    (by decide) rfl (by decide) (by decide) (by decide) (by decide) (by decide) (by decide) (by decide)
  obtain ⟨t', ht', hnone⟩ := edge_storeApply
  obtain rfl := Host.Outcome.next.inj (ht.symm.trans ht')
  exact Option.some_ne_none _ (hproxy.symm.trans hnone)

end Sys2Proof.Machine
end


section
/-! SUPPORT. Registers that a value fills, lanes of a register, and strands of which nothing but registers has changed (spec/02 R42,
spec/11 R208, spec/13 R244). -/

namespace Sys2Proof.Machine

/-! ### Full bits -/

theorem getLsbD_bitAt (r q : Reg) : (bitAt r).getLsbD q.toNat = decide (q = r) := by
  have h : bitAt r = BitVec.ofNat 32 (2 ^ r.toNat) := congrArg (BitVec.ofNat 32) (Nat.one_shiftLeft _)
  have hq : q.toNat < 32 := q.isLt
  rw [h, BitVec.getLsbD_ofNat, Nat.testBit_two_pow, decide_eq_true hq, Bool.true_and]
  exact decide_eq_decide.2 (BitVec.toNat_inj.trans eq_comm)

theorem Strand.fillX_fullX (t : Strand) (r q : Reg) (w : Word) : (t.fillX r w).fullX q = (decide (q = r) || t.fullX q) := by
  unfold Strand.fillX Strand.fullX
  by_cases hr : r = 0
  · subst hr
    by_cases hq : q = 0
    · simp [hq]
    · simp [show ¬q = 0#5 from hq]
  · rw [if_neg hr]
    simp only [BitVec.getLsbD_or, getLsbD_bitAt]
    cases q == 0 <;> simp [Bool.or_comm]

theorem Strand.fillX_getX_same (t : Strand) (r : Reg) (w : Word) : (t.fillX r w).getX r = if r = 0 then 0 else w := by
  unfold Strand.fillX
  split
  · next h => rw [h, Strand.getX_zero]
  · next h =>
    have hx : (t.putX r w).wake.getX r = (t.putX r w).getX r := by
      unfold Strand.getX
      rw [Strand.wake_x]
    exact hx.trans (t.getX_putX_same r w h)

theorem Strand.fillX_getX_other (t : Strand) (r q : Reg) (w : Word) (h : q ≠ r) : (t.fillX r w).getX q = t.getX q := by
  unfold Strand.fillX
  split
  · rfl
  · have hx : (t.putX r w).wake.getX q = (t.putX r w).getX q := by
      unfold Strand.getX
      rw [Strand.wake_x]
    exact hx.trans (t.getX_putX_other r q w h)

theorem Strand.fillX_v (t : Strand) (r : Reg) (w : Word) : (t.fillX r w).v = t.v ∧ (t.fillX r w).vfull = t.vfull := by
  unfold Strand.fillX Strand.putX
  split
  · exact ⟨rfl, rfl⟩
  · exact ⟨Strand.wake_v _, Strand.wake_vfull _⟩

theorem Strand.fillV_fullV (t : Strand) (r q : Reg) (w : VReg) : (t.fillV r w).fullV q = (decide (q = r) || t.fullV q) := by
  unfold Strand.fillV Strand.fullV
  simp only [BitVec.getLsbD_or, getLsbD_bitAt, Bool.or_comm]

theorem Strand.fillV_getV (t : Strand) (r q : Reg) (w : VReg) : (t.fillV r w).getV q = (t.putV r w).getV q := by
  unfold Strand.fillV Strand.getV
  simp only [Strand.wake_v]

theorem Strand.fillV_x (t : Strand) (r : Reg) (w : VReg) : (t.fillV r w).x = t.x ∧ (t.fillV r w).xfull = t.xfull :=
  ⟨Strand.wake_x _, Strand.wake_xfull _⟩

/-! ### Only registers -/

/-- From t to u nothing but registers has changed, and a wait for one may have ended. -/
structure OnlyRegs (t u : Strand) : Prop where
  eq : u = { t with x := u.x, v := u.v, xfull := u.xfull, vfull := u.vfull, wait := u.wait }
  wait : t.wait ≠ some .empty → u.wait = t.wait

theorem OnlyRegs.refl (t : Strand) : OnlyRegs t t := ⟨rfl, fun _ => rfl⟩

theorem OnlyRegs.trans {t u v : Strand} (h : OnlyRegs t u) (k : OnlyRegs u v) : OnlyRegs t v := by
  have hw : t.wait ≠ some .empty → v.wait = t.wait := fun hne => (k.wait (h.wait hne ▸ hne)).trans (h.wait hne)
  refine ⟨?_, hw⟩
  have h1 := h.eq
  have h2 := k.eq
  generalize u.x = x1, u.v = v1, u.xfull = xf1, u.vfull = vf1, u.wait = w1 at h1
  generalize v.x = x2, v.v = v2, v.xfull = xf2, v.vfull = vf2, v.wait = w2 at h2 ⊢
  subst h1
  exact h2

theorem OnlyRegs.sid {t u : Strand} (h : OnlyRegs t u) : u.sid = t.sid := (congrArg Strand.sid h.eq :)
theorem OnlyRegs.mode {t u : Strand} (h : OnlyRegs t u) : u.mode = t.mode := (congrArg Strand.mode h.eq :)
theorem OnlyRegs.pend {t u : Strand} (h : OnlyRegs t u) : u.pend = t.pend := (congrArg Strand.pend h.eq :)

theorem Strand.wake_onlyRegs (t : Strand) : OnlyRegs t t.wake := by
  unfold Strand.wake
  split
  · next h => exact ⟨rfl, fun hne => absurd h hne⟩
  · exact OnlyRegs.refl t

theorem Strand.putX_onlyRegs (t : Strand) (r : Reg) (w : Word) : OnlyRegs t (t.putX r w) := by
  unfold Strand.putX
  split
  · exact OnlyRegs.refl t
  · exact ⟨rfl, fun _ => rfl⟩

theorem Strand.putV_onlyRegs (t : Strand) (r : Reg) (w : VReg) : OnlyRegs t (t.putV r w) := ⟨rfl, fun _ => rfl⟩

theorem Strand.fillX_onlyRegs (t : Strand) (r : Reg) (w : Word) : OnlyRegs t (t.fillX r w) := by
  unfold Strand.fillX
  split
  · exact OnlyRegs.refl t
  · exact ((t.putX_onlyRegs r w).trans (Strand.wake_onlyRegs _)).trans ⟨rfl, fun _ => rfl⟩

theorem Strand.fillV_onlyRegs (t : Strand) (r : Reg) (w : VReg) : OnlyRegs t (t.fillV r w) :=
  ((t.putV_onlyRegs r w).trans (Strand.wake_onlyRegs _)).trans ⟨rfl, fun _ => rfl⟩

theorem Strand.fillX_foldl_onlyRegs (t : Strand) (l : List Nat) (r : Nat → Reg) (w : Nat → Word) :
    OnlyRegs t (l.foldl (fun u i => u.fillX (r i) (w i)) t) :=
  List.foldlRecOn l _ (OnlyRegs.refl t) fun u hu _ _ => hu.trans (u.fillX_onlyRegs _ _)

/-- A value that arrives changes nothing of its strand but registers. -/
theorem deliverTo_onlyRegs (k : ReqKind) (v : Nat) (t : Strand) : OnlyRegs t (deliverTo k v t) := by
  cases k with
  | remRead n sg reg vec =>
    unfold deliverTo
    dsimp only
    split
    · exact t.fillV_onlyRegs _ _
    split
    · exact t.fillX_onlyRegs _ _
    · exact t.fillX_foldl_onlyRegs _ _ _
  | tagged op d reg =>
    unfold deliverTo
    dsimp only
    split
    · exact t.fillX_onlyRegs _ _
    · exact OnlyRegs.refl t
  | recv ws reg => exact t.fillX_foldl_onlyRegs _ _ _
  | vload reg => exact t.fillV_onlyRegs _ _
  | remoteVec reg => exact t.fillV_onlyRegs _ _
  | vlane reg l n => exact t.putV_onlyRegs _ _
  | load n sg reg => exact t.fillX_onlyRegs _ _
  | remote n sg reg => exact t.fillX_onlyRegs _ _
  | atomic op n sg a b reg => exact t.fillX_onlyRegs _ _
  | remAmo op n sg a b reg => exact t.fillX_onlyRegs _ _
  | topk s e reg => exact t.fillX_onlyRegs _ _
  | divide v reg => exact t.fillX_onlyRegs _ _
  | fill v reg => exact t.fillX_onlyRegs _ _
  | conserv reg => exact t.fillX_onlyRegs _ _
  | pref => exact OnlyRegs.refl t
  | store n d => exact OnlyRegs.refl t
  | row op e n d => exact OnlyRegs.refl t
  | ldrow n st lm d l => exact OnlyRegs.refl t
  | watch => exact OnlyRegs.refl t
  | fence reg => exact OnlyRegs.refl t

/-! ### What arrives for one request -/

/-- What is filled is the register that the answer names. -/
theorem deliverTo_answerX (k : ReqKind) (v : Nat) (d : Reg) (y : Word) (t : Strand) (h : answerX k v = some (d, y)) :
    deliverTo k v t = t.fillX d y := by
  have hext (signed : Bool) (n : Nat) : extend signed (8 * n) v = extended signed n v := by cases signed <;> rfl
  cases k with
  | load n sg reg =>
    obtain ⟨rfl, rfl⟩ := Prod.mk.inj (Option.some.inj h)
    exact congrArg (t.fillX reg) (hext sg n)
  | atomic op n sg a b reg =>
    obtain ⟨rfl, rfl⟩ := Prod.mk.inj (Option.some.inj h)
    exact congrArg (t.fillX reg) (hext sg n)
  | topk s e reg =>
    obtain ⟨rfl, rfl⟩ := Prod.mk.inj (Option.some.inj h)
    exact congrArg (t.fillX reg) (hext true 1)
  | tagged op w reg =>
    unfold answerX at h
    dsimp only at h
    split at h
    · next hop =>
      obtain ⟨rfl, rfl⟩ := Prod.mk.inj (Option.some.inj h)
      exact if_pos hop
    · exact absurd h (by simp)
  | conserv reg =>
    obtain ⟨rfl, rfl⟩ := Prod.mk.inj (Option.some.inj h)
    rfl
  | _ => exact absurd h (by simp [answerX])

theorem inGroup_inj (d : Reg) {j k : Nat} (hj : j < 32) (hk : k < 32) (h : inGroup d j = inGroup d k) : j = k := by
  have := congrArg BitVec.toNat (BitVec.add_right_inj d |>.1 h)
  simpa [Nat.mod_eq_of_lt hj, Nat.mod_eq_of_lt hk] using this

/-- Values that arrive for the first n registers of a group fill those and leave the others. -/
theorem Strand.fillX_group (t : Strand) (d : Reg) (w : Nat → Word) (n : Nat) (hn : n ≤ 32) :
    let u := (List.range n).foldl (fun u i => u.fillX (inGroup d i) (w i)) t
    (∀ k, k < n → u.fullX (inGroup d k) = true ∧ u.getX (inGroup d k) = if inGroup d k = 0 then 0 else w k)
      ∧ (∀ q, (∀ k, k < n → q ≠ inGroup d k) → u.getX q = t.getX q ∧ u.fullX q = t.fullX q) ∧ u.v = t.v ∧ u.vfull = t.vfull := by
  induction n with
  | zero => exact ⟨fun k hk => absurd hk (Nat.not_lt_zero k), fun q _ => ⟨rfl, rfl⟩, rfl, rfl⟩
  | succ n ih =>
    obtain ⟨hin, hout, hv, hvf⟩ := ih (Nat.le_of_succ_le hn)
    rw [List.range_succ, List.foldl_append, List.foldl_cons, List.foldl_nil]
    generalize (List.range n).foldl (fun u i => u.fillX (inGroup d i) (w i)) t = u at hin hout hv hvf
    refine ⟨fun k hk => ?_, fun q hq => ?_, (u.fillX_v _ _).1.trans hv, (u.fillX_v _ _).2.trans hvf⟩
    · rw [Strand.fillX_fullX]
      rcases Nat.lt_succ_iff_lt_or_eq.1 hk with hlt | rfl
      · have hne : inGroup d k ≠ inGroup d n := fun h => Nat.ne_of_lt hlt (inGroup_inj d (by omega) (by omega) h)
        rw [u.fillX_getX_other _ _ _ hne, (hin k hlt).1, (hin k hlt).2]
        exact ⟨Bool.or_true _, rfl⟩
      · exact ⟨by simp, u.fillX_getX_same _ _⟩
    · have hne := hq n (Nat.lt_succ_self n)
      obtain ⟨hx, hf⟩ := hout q fun k hk => hq k (Nat.lt_succ_of_lt hk)
      rw [u.fillX_getX_other _ _ _ hne, Strand.fillX_fullX, hx, hf]
      exact ⟨rfl, by simp [hne]⟩

/-! ### Lanes -/

theorem joinBits_lt (w : Nat) (l : List Nat) : joinBits w l < 2 ^ (w * l.length) := by
  induction l with
  | nil => simp [joinBits]
  | cons b l ih =>
    have hb : b % 2 ^ w < 2 ^ w := Nat.mod_lt _ (Nat.two_pow_pos w)
    rw [joinBits, List.length_cons, Nat.mul_add, Nat.mul_one, Nat.add_comm (w * l.length), Nat.pow_add]
    calc b % 2 ^ w + 2 ^ w * joinBits w l < 2 ^ w + 2 ^ w * joinBits w l := Nat.add_lt_add_right hb _
      _ = 2 ^ w * (joinBits w l + 1) := by rw [Nat.mul_add, Nat.mul_one, Nat.add_comm]
      _ ≤ 2 ^ w * 2 ^ (w * l.length) := Nat.mul_le_mul_left _ ih

/-- A part of a number is what it was joined from. -/
theorem joinBits_part (w : Nat) (l : List Nat) (j : Nat) (hj : j < l.length) : joinBits w l / 2 ^ (w * j) % 2 ^ w = l[j] % 2 ^ w := by
  have hpos := Nat.two_pow_pos w
  induction l generalizing j with
  | nil => exact absurd hj (Nat.not_lt_zero j)
  | cons b l ih =>
    cases j with
    | zero => simp [joinBits]
    | succ j =>
      rw [joinBits, Nat.mul_add, Nat.mul_one, Nat.add_comm (w * j), Nat.pow_add, ← Nat.div_div_eq_div_mul,
        Nat.add_mul_div_left _ _ hpos, Nat.div_eq_of_lt (Nat.mod_lt _ hpos), Nat.zero_add]
      exact ih j (Nat.lt_of_succ_lt_succ hj)

/-- A lane of a register in which one lane has been replaced. -/
theorem unlanes_set_part (v : VReg) (n l x j : Nat) (hn : n ∈ [1, 2, 4, 8]) (hj : j < 256 / (8 * n)) :
    (unlanes (8 * n) ((lanes v (8 * n)).set l x)).toNat / 2 ^ (8 * n * j) % 2 ^ (8 * n) =
      if j = l then x % 2 ^ (8 * n) else v.toNat / 2 ^ (8 * n * j) % 2 ^ (8 * n) := by
  have hlen : ((lanes v (8 * n)).set l x).length = 256 / (8 * n) := by simp [lanes, lanesOf]
  have hbits : 8 * n * (256 / (8 * n)) = 256 := by
    simp only [List.mem_cons, List.not_mem_nil, or_false] at hn
    rcases hn with rfl | rfl | rfl | rfl <;> rfl
  have hlt := joinBits_lt (8 * n) ((lanes v (8 * n)).set l x)
  rw [hlen, hbits] at hlt
  unfold unlanes
  rw [BitVec.toNat_ofNat, Nat.mod_eq_of_lt hlt, joinBits_part _ _ _ (by rwa [hlen]), List.getElem_set]
  by_cases h : l = j
  · rw [if_pos h, if_pos h.symm]
  · rw [if_neg h, if_neg (Ne.symm h)]
    simp [lanes, lane, Nat.shiftRight_eq_div_pow]

end Sys2Proof.Machine
end


section
/-! SUPPORT. LOAD_RETURN: what the return of an answer does to its core, to its strand and to the requests beside it (spec/06 R109,
spec/20 R376, R381). -/

namespace Sys2Proof.Machine

/-! ### Strands -/

/-- A change to one strand that leaves it its number is none to another. -/
theorem State.strand?_setStrand_other (s : State) (sid q : Nat) (f : Strand → Strand) (hs : ∀ t, (f t).sid = t.sid) (h : q ≠ sid) :
    (s.setStrand sid f).strand? q = s.strand? q := by
  refine find?_map_ite_of_not _ (fun t : Strand => t.sid == sid && t.exists?) f (fun t ht => ?_) s.strands
  have ht' : t.sid ≠ q := fun e => h (e.symm.trans (by simpa using (Bool.and_eq_true_iff.1 ht).1))
  simp [hs, ht']

theorem State.strand?_setStrand_regs {s : State} {sid : Nat} {u : Strand} (hu : s.strand? sid = some u) (f : Strand → Strand)
    (hf : ∀ t, OnlyRegs t (f t)) : (s.setStrand sid f).strand? sid = some (f u) :=
  State.strand?_setStrand_of hu f (fun t => (hf t).sid) (fun t => (hf t).mode)

/-! ### The requests and the core -/

theorem State.req?_dropReq (s : State) (id : Nat) : (s.dropReq id).req? id = none :=
  List.find?_eq_none.2 fun q hq => by simpa using (List.mem_filter.1 hq).2

/-- A stamp that reaches a core raises its lt and leaves the rest of its record; of the requests only stamps rise. -/
theorem State.raiseLt_eq (s : State) (core wts : Nat) : ∃ (cs : List Core) (f : Req → Req),
    s.raiseLt core wts = { s with cores := cs, reqs := s.reqs.map f } ∧ (∀ r, ∃ lt, f r = { r with lt := lt })
      ∧ (s.raiseLt core wts).core core = { s.core core with lt := max (s.core core).lt wts } := by
  obtain ⟨cs, hcs⟩ := s.setCore_onlyCores core (fun c => { c with lt := max c.lt wts })
  refine ⟨cs, fun r => if r.core = core ∧ r.order.releases ∧ !r.done then
    { r with lt := max r.lt ((s.setCore core (fun c => { c with lt := max c.lt wts })).core core).lt } else r, ?_, fun r => ?_, ?_⟩
  · unfold State.raiseLt
    dsimp only
    rw [hcs]
  · dsimp only
    split
    · exact ⟨_, rfl⟩
    · exact ⟨r.lt, rfl⟩
  · exact s.core_setCore core _ fun _ => rfl

theorem State.core_acquire_lt (s : State) (core : Nat) : ((s.acquire core).core core).lt = (s.core core).lt := by
  unfold State.acquire
  rw [State.core_setCore]
  exact fun _ => rfl

/-- An answer has reached its core: the request is gone and the core's lt has the answer's stamp; nothing else has happened. -/
def State.received (s : State) (r : Req) : State :=
  let s1 := s.raiseLt r.core r.wts
  (if r.order.acquires && r.kind.reads then s1.acquire r.core else s1).dropReq r.id

theorem State.received_eq (s : State) (r : Req) : ∃ (cs : List Core) (f : Req → Req),
    s.received r = { s with cores := cs, reqs := (s.reqs.map f).filter (fun q => q.id != r.id) } ∧ (∀ q, ∃ lt, f q = { q with lt := lt })
      ∧ ((s.received r).core r.core).lt = max (s.core r.core).lt r.wts := by
  obtain ⟨cs, f, heq, hf, hcore⟩ := s.raiseLt_eq r.core r.wts
  have hlt : ((s.raiseLt r.core r.wts).core r.core).lt = max (s.core r.core).lt r.wts := by rw [hcore]
  unfold State.received
  dsimp only
  split
  · obtain ⟨cs', hcs⟩ := (s.raiseLt r.core r.wts).acquire_onlyCores r.core
    refine ⟨cs', f, ?_, hf, (State.core_acquire_lt _ _).trans hlt⟩
    rw [hcs, heq]
    rfl
  · refine ⟨cs, f, ?_, hf, hlt⟩
    rw [heq]
    rfl

/-! ### A trap that a read makes pending -/

/-- A trap that becomes pending, even where it stops the strand's job, leaves the strand its registers and memory its bytes. -/
theorem State.pendTrap_keepsRegs (s : State) (sid : Nat) (p : Trap) (u : Strand) (hu : s.strand? sid = some u) :
    ∃ u', (s.pendTrap sid p).strand? sid = some u' ∧ (s.pendTrap sid p).mem = s.mem ∧ (s.pendTrap sid p).cores = s.cores
      ∧ (∀ id, s.req? id = none → (s.pendTrap sid p).req? id = none)
      ∧ u'.x = u.x ∧ u'.v = u.v ∧ u'.xfull = u.xfull ∧ u'.vfull = u.vfull
      ∧ (u.pend.length < 16 → (∀ q, q ≠ sid → (s.pendTrap sid p).strand? q = s.strand? q) ∧ u'.wait = u.wait)
      ∧ (u.mode ≠ .stopped 5 → u.pend.length < 16 → u' = { u with pend := u.pend ++ [p] }) := by
  unfold State.pendTrap
  rw [hu]
  dsimp only
  split
  · next hm => exact ⟨u, hu, rfl, rfl, fun _ h => h, rfl, rfl, rfl, rfl, fun _ => ⟨fun _ _ => rfl, rfl⟩, fun h => absurd hm h⟩
  split
  · next hfull =>
    have hroom : ¬u.pend.length < 16 := Nat.not_lt.2 hfull
    unfold State.stopFor State.stopJob
    dsimp only
    split
    · exact ⟨u, hu, rfl, rfl, fun _ h => h, rfl, rfl, rfl, rfl, fun h => absurd h hroom, fun _ h => absurd h hroom⟩
    · have hstrand := State.strand?_of_strands_map (s.haltJob_strands (s.troupe u.troupe).job) (s.haltStrand_sid _) (s.haltStrand_exists _) sid
      rw [hu] at hstrand
      have hregs : (s.haltStrand (s.troupe u.troupe).job u).x = u.x ∧ (s.haltStrand (s.troupe u.troupe).job u).v = u.v
          ∧ (s.haltStrand (s.troupe u.troupe).job u).xfull = u.xfull ∧ (s.haltStrand (s.troupe u.troupe).job u).vfull = u.vfull := by
        unfold State.haltStrand
        split <;> exact ⟨rfl, rfl, rfl, rfl⟩
      obtain ⟨hx, hv, hxf, hvf⟩ := hregs
      refine ⟨_, hstrand, rfl, rfl, fun id h => ?_, hx, hv, hxf, hvf, fun h => absurd h hroom, fun _ h => absurd h hroom⟩
      exact List.find?_eq_none.2 fun q hq => List.find?_eq_none.1 h q (List.mem_filter.1 hq).1
  · exact ⟨_, State.strand?_setStrand_of hu _ (fun _ => rfl) (fun _ => rfl), rfl, rfl, fun _ h => h, rfl, rfl, rfl, rfl,
      fun _ => ⟨fun q hq => s.strand?_setStrand_other sid q _ (fun _ => rfl) hq, rfl⟩, fun _ _ => rfl⟩

/-! ### The return -/

/-- The answer of request r is in the registers of its strand, which was u and is w; a trap that it makes pending is still to come. -/
structure Delivered (s t : State) (r : Req) (u w : Strand) : Prop where
  gone : t.req? r.id = none
  mem : t.mem = s.mem
  now : t.now = s.now
  lt : (t.core r.core).lt = max (s.core r.core).lt r.wts
  strand : t.strand? r.sid = some w
  others : ∀ q, q ≠ r.sid → t.strand? q = s.strand? q
  regs : OnlyRegs u w

/-- What POISON names of an access is its kind and its size. -/
def ReqKind.namedByPoison (k : ReqKind) : Prop := poisonedAs k = (k.acc, k.span) ∧ k ≠ .watch

/-- What a return does once its registers are filled, and POISON is pending where a word was poisoned. -/
theorem Delivered.returnedTo {s t : State} {r : Req} {u w : Strand} (h : Delivered s t r u w) (ok : Bool)
    (hk : ok = false → r.kind.namedByPoison) :
    ∃ t' u', (if ok ∨ r.kind = .watch then t
        else t.poisonRead r.sid r.ptr r.kind.acc r.kind.span (BitVec.ofNat 64 (r.page * 256 + r.opcode))) = t'
      ∧ ReturnedTo s t' r ok u u' ∧ u'.x = w.x ∧ u'.v = w.v ∧ u'.xfull = w.xfull ∧ u'.vfull = w.vfull := by
  cases ok with
  | true =>
    refine ⟨t, w, by simp, ⟨h.gone, h.mem, h.strand, h.lt, fun _ => ⟨h.others, h.regs.wait⟩, fun _ => h.regs.eq, fun e => ?_⟩,
      rfl, rfl, rfl, rfl⟩
    exact absurd e.symm Bool.false_ne_true
  | false =>
    obtain ⟨hname, hwatch⟩ := hk rfl
    obtain ⟨u', hu', hmem, hcores, hreq, hx, hv, hxf, hvf, hroom, hpend⟩ := t.pendTrap_keepsRegs r.sid
      (poisonTrap r.ptr r.kind.acc r.kind.span (BitVec.ofNat 64 (r.page * 256 + r.opcode)) t.now) w h.strand
    have hcore : (t.pendTrap r.sid (poisonTrap r.ptr r.kind.acc r.kind.span (BitVec.ofNat 64 (r.page * 256 + r.opcode)) t.now)).core r.core
        = t.core r.core := by
      unfold State.core
      rw [hcores]
    rw [h.regs.pend] at hroom hpend
    rw [h.regs.mode] at hpend
    refine ⟨_, u', if_neg (by simp [hwatch]), ⟨hreq _ h.gone, hmem.trans h.mem, hu', (congrArg Core.lt hcore).trans h.lt, ?_, ?_, ?_⟩,
      hx, hv, hxf, hvf⟩
    · rintro (e | hl)
      · exact absurd e Bool.false_ne_true
      · obtain ⟨hothers, hwait⟩ := hroom hl
        exact ⟨fun q hq => (hothers q hq).trans (h.others q hq), fun hne => hwait.trans (h.regs.wait hne)⟩
    · exact fun e => absurd e Bool.false_ne_true
    · intro _ hm hl
      rw [hpend hm hl, h.regs.eq, hname, h.now]
      rfl

/-- The registers of one request's strand once its answer has come. -/
theorem State.received_delivered (s : State) (r : Req) (u : Strand) (hu : s.strand? r.sid = some u) (f : Strand → Strand)
    (hf : ∀ t, OnlyRegs t (f t)) : Delivered s ((s.received r).setStrand r.sid f) r u (f u) := by
  obtain ⟨cs, g, heq, -, hlt⟩ := s.received_eq r
  have hstrand (q : Nat) : (s.received r).strand? q = s.strand? q := by
    rw [heq]
    rfl
  have hreq : (s.received r).req? r.id = none := State.req?_dropReq _ _
  exact {
    gone := hreq
    mem := by rw [State.setStrand_mem, heq]
    now := by rw [State.setStrand_now, heq]
    lt := hlt
    strand := State.strand?_setStrand_regs ((hstrand _).trans hu) f hf
    others := fun q hq => ((s.received r).strand?_setStrand_other r.sid q f (fun t => (hf t).sid) hq).trans (hstrand q)
    regs := hf u }

/-- More registers of the strand change after its answer has come. -/
theorem Delivered.setStrand {s t : State} {r : Req} {u w : Strand} (h : Delivered s t r u w) (f : Strand → Strand)
    (hf : ∀ t, OnlyRegs t (f t)) : Delivered s (t.setStrand r.sid f) r u (f w) where
  gone := h.gone
  mem := h.mem
  now := h.now
  lt := h.lt
  strand := State.strand?_setStrand_regs h.strand f hf
  others := fun q hq => (t.strand?_setStrand_other r.sid q f (fun t => (hf t).sid) hq).trans (h.others q hq)
  regs := h.regs.trans (hf w)

/-- A result that is no LDROW's and no lane fills its registers. -/
theorem exec_loadReturn (s : State) (r : Req) (v : VReg) (ok : Bool) (hr : s.req? s.arg.id = some r) (ha : r.state = .answered v ok)
    (hk : ∀ n st lm d l, r.kind ≠ .ldrow n st lm d l) : exec .loadReturn s = .next (s.returnValue r v ok) := by
  change execLoadReturn s = _
  unfold execLoadReturn
  rw [hr]
  dsimp only
  rw [ha]
  cases h : r.kind with
  | ldrow n st lm d l => exact absurd h (hk n st lm d l)
  | _ => rfl

theorem State.returnValue_of_notLane (s : State) (r : Req) (v : VReg) (ok : Bool) (hk : ∀ d l n, r.kind ≠ .vlane d l n) :
    s.returnValue r v ok =
      let t := (s.received r).setStrand r.sid (deliverTo r.kind (if ok then v.toNat else 0))
      if ok ∨ r.kind = .watch then t
      else t.poisonRead r.sid r.ptr r.kind.acc r.kind.span (BitVec.ofNat 64 (r.page * 256 + r.opcode)) := by
  have hvoid (t : State) : t.voidLanes r.sid r.group r.kind = t := by
    unfold State.voidLanes
    split
    · next h => exact absurd h (hk _ _ _)
    · rfl
  have hclose (t : State) : t.closeLanes r = t := by
    unfold State.closeLanes
    split
    · next h => exact absurd h (hk _ _ _)
    · rfl
  unfold State.returnValue
  dsimp only
  rw [hvoid, ite_self, hclose]
  rfl

/-- What LOAD_RETURN does with an answer that no lane awaits. -/
theorem loadReturn_fills (s : State) (r : Req) (v : VReg) (ok : Bool) (u : Strand) (hr : s.req? s.arg.id = some r)
    (ha : r.state = .answered v ok) (hu : s.strand? r.sid = some u) (hl : ∀ d l n, r.kind ≠ .vlane d l n)
    (hrow : ∀ n st lm d l, r.kind ≠ .ldrow n st lm d l) (hk : ok = false → r.kind.namedByPoison) :
    ∃ t u', exec .loadReturn s = .next t ∧ ReturnedTo s t r ok u u'
      ∧ u'.x = (deliverTo r.kind (if ok then v.toNat else 0) u).x ∧ u'.v = (deliverTo r.kind (if ok then v.toNat else 0) u).v
      ∧ u'.xfull = (deliverTo r.kind (if ok then v.toNat else 0) u).xfull
      ∧ u'.vfull = (deliverTo r.kind (if ok then v.toNat else 0) u).vfull := by
  have hd := s.received_delivered r u hu (deliverTo r.kind (if ok then v.toNat else 0)) (deliverTo_onlyRegs _ _)
  obtain ⟨t, u', ht, hret, hregs⟩ := hd.returnedTo ok hk
  refine ⟨t, u', ?_, hret, hregs⟩
  rw [exec_loadReturn s r v ok hr ha hrow, s.returnValue_of_notLane r v ok hl, ← ht]

/-- An answer for one x register. -/
theorem loadReturn_x (s : State) (r : Req) (v : VReg) (ok : Bool) (u : Strand) (hr : s.req? s.arg.id = some r)
    (ha : r.state = .answered v ok) (hu : s.strand? r.sid = some u) (d : Reg) (y : Word)
    (hy : answerX r.kind (if ok then v.toNat else 0) = some (d, y)) :
    ∃ t : State, ∃ u', exec .loadReturn s = .next t ∧ ReturnedTo s t r ok u u' ∧ u'.v = u.v ∧ u'.vfull = u.vfull
      ∧ u'.getX d = (if d = 0 then 0 else y) ∧ u'.fullX d = true ∧ ∀ q, q ≠ d → u'.getX q = u.getX q ∧ u'.fullX q = u.fullX q := by
  have hkinds : (∀ d l n, r.kind ≠ .vlane d l n) ∧ (∀ n st lm d l, r.kind ≠ .ldrow n st lm d l) ∧ r.kind.namedByPoison := by
    generalize r.kind = k at hy
    cases k with
    | load | atomic | topk | tagged | conserv => exact ⟨nofun, nofun, rfl, nofun⟩
    | _ => exact absurd hy (by simp [answerX])
  obtain ⟨hl, hrow, hname⟩ := hkinds
  obtain ⟨t, u', ht, hret, hx, hv, hxf, hvf⟩ := loadReturn_fills s r v ok u hr ha hu hl hrow fun _ => hname
  rw [deliverTo_answerX _ _ d y u hy] at hx hv hxf hvf
  have hget (q : Reg) : u'.getX q = (u.fillX d y).getX q := by
    unfold Strand.getX
    rw [hx]
  have hfull (q : Reg) : u'.fullX q = (u.fillX d y).fullX q := by
    unfold Strand.fullX
    rw [hxf]
  refine ⟨t, u', ht, hret, hv.trans (u.fillX_v d y).1, hvf.trans (u.fillX_v d y).2, (hget d).trans (u.fillX_getX_same d y), ?_,
    fun q hq => ⟨(hget q).trans (u.fillX_getX_other d q y hq), ?_⟩⟩
  · rw [hfull, Strand.fillX_fullX]
    simp
  · rw [hfull, Strand.fillX_fullX]
    simp [hq]

/-- An answer for one v register. -/
theorem loadReturn_v (s : State) (r : Req) (v : VReg) (ok : Bool) (u : Strand) (hr : s.req? s.arg.id = some r)
    (ha : r.state = .answered v ok) (hu : s.strand? r.sid = some u) (d : Reg) (hk : r.kind = .vload d) :
    ∃ t : State, ∃ u', exec .loadReturn s = .next t ∧ ReturnedTo s t r ok u u' ∧ u'.x = u.x ∧ u'.xfull = u.xfull
      ∧ u'.getV d = (if ok then v else 0) ∧ u'.fullV d = true ∧ ∀ q, q ≠ d → u'.getV q = u.getV q ∧ u'.fullV q = u.fullV q := by
  obtain ⟨t, u', ht, hret, hx, hv, hxf, hvf⟩ := loadReturn_fills s r v ok u hr ha hu (by rw [hk]; nofun) (by rw [hk]; nofun)
    fun _ => by rw [hk]; exact ⟨rfl, nofun⟩
  have hdel : deliverTo r.kind (if ok then v.toNat else 0) u = u.fillV d (if ok then v else 0) := by
    rw [hk]
    cases ok
    · rfl
    · exact congrArg (u.fillV d) (by simp)
  rw [hdel] at hx hv hxf hvf
  have hget (q : Reg) : u'.getV q = (u.putV d (if ok then v else 0)).getV q := by
    rw [← u.fillV_getV d q]
    unfold Strand.getV
    rw [hv]
  have hfull (q : Reg) : u'.fullV q = (u.fillV d (if ok then v else 0)).fullV q := by
    unfold Strand.fullV
    rw [hvf]
  refine ⟨t, u', ht, hret, hx.trans (u.fillV_x d _).1, hxf.trans (u.fillV_x d _).2, (hget d).trans (u.getV_putV_same d _), ?_,
    fun q hq => ⟨(hget q).trans (u.getV_putV_other d q _ hq), ?_⟩⟩
  · rw [hfull, Strand.fillV_fullV]
    simp
  · rw [hfull, Strand.fillV_fullV]
    simp [hq]

/-- The eight words of a message. -/
theorem loadReturn_recv (s : State) (r : Req) (v : VReg) (u : Strand) (hr : s.req? s.arg.id = some r)
    (ha : r.state = .answered v true) (hu : s.strand? r.sid = some u) (ws : List Word) (d : Reg) (hk : r.kind = .recv ws d) :
    ∃ t : State, ∃ u', exec .loadReturn s = .next t ∧ ReturnedTo s t r true u u' ∧ u'.v = u.v ∧ u'.vfull = u.vfull
      ∧ (∀ k, k < 8 → u'.fullX (inGroup d k) = true
          ∧ u'.getX (inGroup d k) = (if inGroup d k = 0 then 0 else ws.getD k 0))
      ∧ ∀ q, (∀ k, k < 8 → q ≠ inGroup d k) → u'.getX q = u.getX q ∧ u'.fullX q = u.fullX q := by
  obtain ⟨t, u', ht, hret, hx, hv, hxf, hvf⟩ := loadReturn_fills s r v true u hr ha hu (by rw [hk]; nofun) (by rw [hk]; nofun) nofun
  obtain ⟨hin, hout, hgv, hgvf⟩ := u.fillX_group d (fun i => ws.getD i 0) 8 (by decide)
  have hdel : deliverTo r.kind v.toNat u = (List.range 8).foldl (fun u i => u.fillX (inGroup d i) (ws.getD i 0)) u := by
    rw [hk]
    rfl
  rw [if_pos rfl, hdel] at hx hv hxf hvf
  generalize (List.range 8).foldl (fun u i => u.fillX (inGroup d i) (ws.getD i 0)) u = g at hin hout hgv hgvf hx hv hxf hvf
  have hget (q : Reg) : u'.getX q = g.getX q := by
    unfold Strand.getX
    rw [hx]
  have hfull (q : Reg) : u'.fullX q = g.fullX q := by
    unfold Strand.fullX
    rw [hxf]
  refine ⟨t, u', ht, hret, hv.trans hgv, hvf.trans hgvf, fun k hk => ?_, fun q hq => ?_⟩
  · rw [hget, hfull]
    exact hin k hk
  · rw [hget, hfull]
    exact hout q hq

/-! ### A lane -/

/-- A request is a lane that the VGATH of r awaits. -/
def Req.laneWith (q r : Req) : Prop := q.sid = r.sid ∧ q.group = r.group ∧ ∃ d l n, q.kind = .vlane d l n

theorem Req.laneWith_iff (q r : Req) :
    (q.sid == r.sid && q.group == r.group && (match q.kind with | .vlane _ _ _ => true | _ => false)) = true ↔ q.laneWith r := by
  unfold Req.laneWith
  cases q.kind <;> simp

/-- The register of a VGATH is full with the last of its lanes. -/
theorem State.closeLanes_fills (s : State) (r : Req) (d : Reg) (l n : Nat) (hk : r.kind = .vlane d l n) (h : ∀ q ∈ s.reqs, ¬q.laneWith r) :
    s.closeLanes r = s.setStrand r.sid (fun t => t.fillV d (t.getV d)) := by
  unfold State.closeLanes
  rw [hk]
  refine if_neg fun hany => ?_
  obtain ⟨q, hq, hl⟩ := List.any_eq_true.1 hany
  exact h q hq ((q.laneWith_iff r).1 hl)

theorem State.closeLanes_waits (s : State) (r : Req) (h : ∃ q ∈ s.reqs, q.laneWith r) : s.closeLanes r = s := by
  obtain ⟨q, hq, hl⟩ := h
  unfold State.closeLanes
  split
  · exact if_pos (List.any_eq_true.2 ⟨q, hq, (q.laneWith_iff r).2 hl⟩)
  · rfl

/-- A poisoned lane leaves every request of its VGATH a lane. -/
theorem State.voidLanes_eq (s : State) (sid group : Nat) (d : Reg) (l n : Nat) : ∃ f : Req → Req,
    s.voidLanes sid group (.vlane d l n) = { s.setStrand sid (fun t => t.putV d 0) with reqs := s.reqs.map f }
      ∧ ∀ q, (f q).id = q.id ∧ ∀ r, (f q).laneWith r ↔ q.laneWith r := by
  refine ⟨_, rfl, fun q => ?_⟩
  split
  · next reg l' n' hk =>
    split
    · refine ⟨rfl, fun r => ?_⟩
      unfold Req.laneWith
      rw [hk]
      exact ⟨fun h => ⟨h.1, h.2.1, _, _, _, rfl⟩, fun h => ⟨h.1, h.2.1, _, _, _, rfl⟩⟩
    · exact ⟨rfl, fun _ => Iff.rfl⟩
  · exact ⟨rfl, fun _ => Iff.rfl⟩

/-- The lane's value is in the register, which is 0 for a poisoned word; that the register may be full is still to be said. -/
def State.laneIn (s : State) (r : Req) (v : VReg) (ok : Bool) : State :=
  let t := (s.received r).setStrand r.sid (deliverTo r.kind (if ok then v.toNat else 0))
  if ok then t else t.voidLanes r.sid r.group r.kind

/-- The strand of the lane then. -/
def Strand.laneIn (u : Strand) (d : Reg) (l n : Nat) (v : VReg) (ok : Bool) : Strand :=
  if ok then u.putV d (unlanes (8 * n) ((lanes (u.getV d) (8 * n)).set l v.toNat))
  else (u.putV d (unlanes (8 * n) ((lanes (u.getV d) (8 * n)).set l 0))).putV d 0

theorem State.laneIn_delivered (s : State) (r : Req) (v : VReg) (ok : Bool) (u : Strand) (hu : s.strand? r.sid = some u) (d : Reg)
    (l n : Nat) (hk : r.kind = .vlane d l n) : Delivered s (s.laneIn r v ok) r u (u.laneIn d l n v ok)
      ∧ ((∃ q ∈ (s.laneIn r v ok).reqs, q.laneWith r) ↔ ∃ q ∈ s.reqs, q.id ≠ r.id ∧ q.laneWith r) := by
  have hd := s.received_delivered r u hu (deliverTo r.kind (if ok then v.toNat else 0)) (deliverTo_onlyRegs _ _)
  obtain ⟨cs, g, heq, hg, -⟩ := s.received_eq r
  have hreqs : (∃ q ∈ (s.received r).reqs, q.laneWith r) ↔ ∃ q ∈ s.reqs, q.id ≠ r.id ∧ q.laneWith r := by
    have hlane (q : Req) : ((g q).id ≠ r.id ∧ (g q).laneWith r) ↔ q.id ≠ r.id ∧ q.laneWith r := by
      obtain ⟨lt, hq⟩ := hg q
      rw [hq]
      rfl
    rw [heq]
    constructor
    · rintro ⟨q, hq, hl⟩
      obtain ⟨hmap, hid⟩ := List.mem_filter.1 hq
      obtain ⟨p, hp, rfl⟩ := List.mem_map.1 hmap
      exact ⟨p, hp, (hlane p).1 ⟨by simpa using hid, hl⟩⟩
    · rintro ⟨q, hq, hl⟩
      obtain ⟨hid, hl'⟩ := (hlane q).2 hl
      exact ⟨g q, List.mem_filter.2 ⟨List.mem_map_of_mem hq, by simpa using hid⟩, hl'⟩
  unfold State.laneIn Strand.laneIn
  rw [hk] at hd ⊢
  cases ok with
  | true => exact ⟨hd, hreqs⟩
  | false =>
    rw [if_neg Bool.false_ne_true] at hd
    rw [if_neg Bool.false_ne_true, if_neg Bool.false_ne_true, if_neg Bool.false_ne_true]
    obtain ⟨f, hvoid, hf⟩ := State.voidLanes_eq ((s.received r).setStrand r.sid (deliverTo (.vlane d l n) 0)) r.sid r.group d l n
    have hd' := hd.setStrand (fun t => t.putV d 0) (fun t => t.putV_onlyRegs d 0)
    rw [hvoid]
    refine ⟨{ hd' with gone := ?_ }, Iff.trans ?_ hreqs⟩
    · refine List.find?_eq_none.2 fun q hq => ?_
      obtain ⟨p, hp, rfl⟩ := List.mem_map.1 hq
      rw [(hf p).1]
      exact List.find?_eq_none.1 hd'.gone p hp
    · constructor
      · rintro ⟨q, hq, hl⟩
        obtain ⟨p, hp, rfl⟩ := List.mem_map.1 hq
        exact ⟨p, hp, ((hf p).2 r).1 hl⟩
      · rintro ⟨q, hq, hl⟩
        exact ⟨f q, List.mem_map_of_mem hq, ((hf q).2 r).2 hl⟩

theorem Strand.laneIn_getV_same (u : Strand) (d : Reg) (l n : Nat) (v : VReg) (ok : Bool) :
    (u.laneIn d l n v ok).getV d = if ok then unlanes (8 * n) ((lanes (u.getV d) (8 * n)).set l v.toNat) else 0 := by
  cases ok <;> exact Strand.getV_putV_same _ _ _

theorem Strand.laneIn_getV_other (u : Strand) (d q : Reg) (l n : Nat) (v : VReg) (ok : Bool) (h : q ≠ d) :
    (u.laneIn d l n v ok).getV q = u.getV q := by
  cases ok with
  | true => exact u.getV_putV_other d q _ h
  | false => exact (Strand.getV_putV_other _ d q _ h).trans (u.getV_putV_other d q _ h)

theorem Strand.laneIn_keeps (u : Strand) (d : Reg) (l n : Nat) (v : VReg) (ok : Bool) : (u.laneIn d l n v ok).x = u.x
    ∧ (u.laneIn d l n v ok).xfull = u.xfull ∧ (u.laneIn d l n v ok).vfull = u.vfull := by
  cases ok <;> exact ⟨rfl, rfl, rfl⟩

/-- An answer for one lane. -/
theorem loadReturn_lane (s : State) (r : Req) (v : VReg) (ok : Bool) (u : Strand) (hr : s.req? s.arg.id = some r)
    (ha : r.state = .answered v ok) (hu : s.strand? r.sid = some u) (d : Reg) (l n : Nat) (hk : r.kind = .vlane d l n)
    (hn : n ∈ [1, 2, 4, 8]) :
    ∃ t : State, ∃ u', exec .loadReturn s = .next t ∧ ReturnedTo s t r ok u u' ∧ u'.x = u.x ∧ u'.xfull = u.xfull
      ∧ (ok = false → u'.getV d = 0)
      ∧ (ok = true → ∀ j, j < 256 / (8 * n) → (u'.getV d).toNat / 2 ^ (8 * n * j) % 2 ^ (8 * n) =
          (if j = l then v.toNat % 2 ^ (8 * n) else (u.getV d).toNat / 2 ^ (8 * n * j) % 2 ^ (8 * n)))
      ∧ (u'.fullV d = true ↔ u.fullV d = true ∨ ∀ q ∈ s.reqs, q.id ≠ r.id → q.sid = r.sid → q.group = r.group →
          ∀ d' l' n', q.kind ≠ .vlane d' l' n')
      ∧ ∀ q, q ≠ d → u'.getV q = u.getV q ∧ u'.fullV q = u.fullV q := by
  obtain ⟨hd, hreqs⟩ := s.laneIn_delivered r v ok u hu d l n hk
  obtain ⟨hwx, hwxf, hwvf⟩ := u.laneIn_keeps d l n v ok
  have hsame := u.laneIn_getV_same d l n v ok
  have hother := fun q => u.laneIn_getV_other d q l n v ok
  have hlast : (∀ q ∈ s.reqs, q.id ≠ r.id → q.sid = r.sid → q.group = r.group → ∀ d' l' n', q.kind ≠ .vlane d' l' n')
      ↔ ¬∃ q ∈ (s.laneIn r v ok).reqs, q.laneWith r := by
    rw [hreqs]
    unfold Req.laneWith
    constructor
    · rintro h ⟨q, hq, hid, hsid, hgroup, d', l', n', hq'⟩
      exact h q hq hid hsid hgroup d' l' n' hq'
    · exact fun h q hq hid hsid hgroup d' l' n' hq' => h ⟨q, hq, hid, hsid, hgroup, d', l', n', hq'⟩
  rw [hlast]
  generalize u.laneIn d l n v ok = w at hd hwx hwxf hwvf hsame hother
  have hclosed : ∃ w', Delivered s ((s.laneIn r v ok).closeLanes r) r u w' ∧ w'.x = w.x ∧ w'.xfull = w.xfull
      ∧ (∀ q, w'.getV q = w.getV q) ∧ (∀ q, q ≠ d → w'.fullV q = w.fullV q)
      ∧ (w'.fullV d = true ↔ w.fullV d = true ∨ ¬∃ q ∈ (s.laneIn r v ok).reqs, q.laneWith r) := by
    by_cases hw : ∃ q ∈ (s.laneIn r v ok).reqs, q.laneWith r
    · rw [State.closeLanes_waits _ r hw]
      exact ⟨w, hd, rfl, rfl, fun _ => rfl, fun _ _ => rfl, by simp [hw]⟩
    · rw [State.closeLanes_fills _ r d l n hk fun q hq hl => hw ⟨q, hq, hl⟩]
      refine ⟨_, hd.setStrand _ fun t => t.fillV_onlyRegs d _, (w.fillV_x d _).1, (w.fillV_x d _).2, fun q => ?_, fun q hq => ?_, ?_⟩
      · rw [w.fillV_getV]
        by_cases hq : q = d
        · rw [hq, Strand.getV_putV_same]
        · rw [Strand.getV_putV_other _ _ _ _ hq]
      · rw [Strand.fillV_fullV]
        simp [hq]
      · rw [Strand.fillV_fullV]
        simp [hw]
  obtain ⟨w', hd', hx', hxf', hget, hfull, hfulld⟩ := hclosed
  obtain ⟨t, u', ht, hret, hx, hv, hxf, hvf⟩ := hd'.returnedTo ok fun _ => by rw [hk]; exact ⟨rfl, nofun⟩
  have hget' (q : Reg) : u'.getV q = w.getV q := by
    rw [← hget]
    unfold Strand.getV
    rw [hv]
  have hfull' (q : Reg) : u'.fullV q = w'.fullV q := by
    unfold Strand.fullV
    rw [hvf]
  have hkeep (q : Reg) : w.fullV q = u.fullV q := by
    unfold Strand.fullV
    rw [hwvf]
  refine ⟨t, u', ?_, hret, hx.trans (hx'.trans hwx), hxf.trans (hxf'.trans hwxf), fun hok => ?_, fun hok j hj => ?_, ?_, fun q hq => ⟨?_, ?_⟩⟩
  · rw [exec_loadReturn s r v ok hr ha (by rw [hk]; nofun), ← ht]
    rfl
  · rw [hget', hsame, hok]
    rfl
  · rw [hget', hsame, hok]
    exact unlanes_set_part _ n l _ j hn hj
  · rw [hfull', hfulld, hkeep]
  · rw [hget', hother q hq]
  · rw [hfull', hfull q hq, hkeep]

end Sys2Proof.Machine
end


section
/-! SUPPORT. What the home serves: the way of a request of one line to it, and the stamps of the line when it has been served (spec/06 R109,
R110, R116, R117, R122). -/

namespace Sys2Proof.Machine

theorem OnlyCores.req? {s t : State} (h : OnlyCores s t) (id : Nat) : t.req? id = s.req? id := by
  obtain ⟨_, rfl⟩ := h
  rfl

theorem OnlyCores.coh {s t : State} (h : OnlyCores s t) : t.coh = s.coh := by
  obtain ⟨_, rfl⟩ := h
  rfl

theorem OnlyCores.mgmt {s t : State} (h : OnlyCores s t) : t.mgmt = s.mgmt := by
  obtain ⟨_, rfl⟩ := h
  rfl

theorem OnlyCores.cur {s t : State} (h : OnlyCores s t) : t.cur = s.cur := by
  obtain ⟨_, rfl⟩ := h
  rfl

theorem OnlyCores.rest {s t : State} (h : OnlyCores s t) : t.rest = s.rest := by
  obtain ⟨_, rfl⟩ := h
  rfl

theorem OnlyCoh.mgmt {s t : State} (h : OnlyCoh s t) : t.mgmt = s.mgmt := by
  obtain ⟨_, rfl⟩ := h
  rfl

theorem OnlyCoh.cur {s t : State} (h : OnlyCoh s t) : t.cur = s.cur := by
  obtain ⟨_, rfl⟩ := h
  rfl

theorem OnlyCoh.rest {s t : State} (h : OnlyCoh s t) : t.rest = s.rest := by
  obtain ⟨_, rfl⟩ := h
  rfl

theorem State.giveUp_onlyCoh (s : State) (r : Req) (ln : Nat) : OnlyCoh s (s.giveUp r ln) := by
  unfold State.giveUp
  split
  · exact s.setLine_onlyCoh ln _
  · exact OnlyCoh.refl s

theorem Line.atFloor_wts (l : Line) (n : Nat) : (l.atFloor n).wts = n :=
  rfl

theorem Line.atFloor_rts (l : Line) (n : Nat) : (l.atFloor n).rts = n :=
  rfl

/-- Giving up what was reserved at a line leaves its stamps, or they are the floor's, which has not fallen. -/
theorem State.giveUp_stamps (s : State) (r : Req) (ln : Nat) :
    ((s.line ln).cached = true → ((s.giveUp r ln).line ln).wts = (s.line ln).wts ∧ ((s.giveUp r ln).line ln).rts = (s.line ln).rts)
      ∧ ((s.line ln).cached = false → (s.giveUp r ln).StampsAtFloor ln ∧ (s.line ln).rts ≤ ((s.giveUp r ln).line ln).rts) := by
  unfold State.giveUp
  split
  · rw [s.line_setLine ln (fun l => l.served r.id) fun _ => rfl]
    constructor
    · intro hc
      have hh : s.holds ln ((s.line ln).served r.id) = true := by
        unfold State.holds
        rw [s.homeGated_of_cached ln hc]
        simp [Line.served, hc]
      rw [if_pos hh]
      exact ⟨rfl, rfl⟩
    · intro hc
      obtain ⟨hw, hr⟩ := s.line_of_uncached ln hc
      have hh : s.holds ln ((s.line ln).served r.id) = false := by
        simp [State.holds, Line.served, hc, hw, hr]
      rw [State.StampsAtFloor, s.line_setLine ln (fun l => l.served r.id) fun _ => rfl, hh, if_neg Bool.false_ne_true,
        State.sliceOf_setLine, hr, Line.atFloor_wts, Line.atFloor_rts]
      exact ⟨⟨rfl, rfl⟩, s.floorOf_le_setLine ln _ _⟩
  · exact ⟨fun _ => ⟨rfl, rfl⟩, fun hc => ⟨s.line_of_uncached ln hc, Nat.le_refl _⟩⟩

/-- The stamps of a line that has been set to serve a request: those it was given while its slice holds it, else the floor's. -/
theorem State.setLine_giveUp_stamps (s t : State) (r : Req) (ln : Nat) (f : Line → Line) (hf : ∀ l, (f l).line = l.line)
    (hc : t.coh = (s.setLine ln f).coh) (hm : t.mgmt = s.mgmt) :
    (s.holds ln (f (s.line ln)) = true →
      ((t.giveUp r ln).line ln).wts = (f (s.line ln)).wts ∧ ((t.giveUp r ln).line ln).rts = (f (s.line ln)).rts)
    ∧ (s.holds ln (f (s.line ln)) = false → (t.giveUp r ln).StampsAtFloor ln ∧ (f (s.line ln)).rts ≤ ((t.giveUp r ln).line ln).rts) := by
  obtain ⟨hheld, hfloor⟩ := t.giveUp_stamps r ln
  have hline : t.line ln = (s.setLine ln f).line ln := State.line_congr hc (hm.trans (s.setLine_onlyCoh ln f).mgmt.symm) ln
  rw [hline, s.line_setLine ln f hf] at hheld hfloor
  constructor
  · intro hh
    rw [if_pos hh] at hheld
    exact hheld rfl
  · intro hh
    rw [hh, if_neg Bool.false_ne_true, Line.atFloor_rts] at hfloor
    obtain ⟨hstamps, hle⟩ := hfloor rfl
    exact ⟨hstamps, (s.le_floorOf_setLine ln f hh).trans hle⟩

/-- A request for one line that the home can serve now is served, and gives up what it had reserved there. -/
theorem State.atHome_serves (s : State) (r : Req) (write : Bool) (k : State → State) (ln : Nat) (hm : s.mayServe r = true)
    (hb : s.coh.rebasing = false) (hl : linesOf r.addr (max r.kind.span 1) = [ln]) (hf : s.lineFree r ln = true)
    (hc : write = true → s.conflicts (tileOf r.addr) true = [])
    (hr : (if write then s.homeWritable ln else s.homeReadable ln) = true) : s.atHome r write k = (k s).giveUp r ln := by
  have hready : (linesOf r.addr (max r.kind.span 1)).all (fun ln => if write then s.homeWritable ln else s.homeReadable ln) = true := by
    rw [hl, List.all_cons, hr]
    rfl
  unfold State.atHome
  dsimp only
  rw [if_neg (by simp [hm]), if_neg (by simp [hb]), if_neg (by simp [hl, hf]), if_neg, if_pos hready, State.noteServed_eq, hl]
  · rfl
  · intro h
    obtain ⟨hw, hn⟩ := Bool.and_eq_true_iff.1 h
    simp [hc hw] at hn

/-! ### Reads -/

theorem State.installLease_onlyCores (s : State) (core ln wts rts : Nat) : OnlyCores s (s.installLease core ln wts rts) := by
  unfold State.installLease
  dsimp only
  split <;> exact s.setCore_onlyCores core _

/-- The line of an answered renewal: the lease reaches 256 beyond the requester's lt. -/
def Line.leased (l : Line) (lt : Nat) : Line := { l with rts := max l.rts (lt + 256) }

/-- A request `q` with the answer to the read `r`: the bytes there, and the line's wts. -/
def State.readAnswer (s : State) (r q : Req) : Req :=
  { q with state := .answered (BitVec.ofNat 256 (Memory.readN s.mem r.addr r.kind.span)) (!s.anyPoison r.addr r.kind.span)
           wts := (s.line (lineOf r.addr)).wts }

/-- The home answers a renewal with the bytes there and the line's wts; a leased copy goes to the core. -/
theorem State.answerRead_eq (s : State) (r : Req) (hk : r.kind ≠ .pref) :
    ∃ u, OnlyCores (s.setLine (lineOf r.addr) (fun l => l.leased r.lt)) u
      ∧ s.answerRead r none = u.setReq r.id (s.readAnswer r) := by
  refine ⟨_, State.installLease_onlyCores _ r.core (lineOf r.addr) (s.line (lineOf r.addr)).wts
    (max (s.line (lineOf r.addr)).rts (r.lt + 256)), ?_⟩
  unfold State.answerRead
  dsimp only
  rw [if_neg hk]
  rfl

/-- A renewal or a fresh read for one line that the home can serve now. -/
theorem exec_serveRead (s : State) (i : Instr) (r : Req) (hi : (i = .leaseRenewal ∧ s.arg.id = r.id)
      ∨ (i = .freshRead ∧ s.reqs.find? (fun q => q.isLeased && q.state = .sent && lineOf q.addr == s.arg.id
          && homeDie q.addr == dieOfCore q.core) = some r)) (hr : s.req? r.id = some r) : exec i s = .next (s.serveRead r) := by
  rcases hi with ⟨rfl, hid⟩ | ⟨rfl, hfind⟩
  · change execLeaseRenewal s = _
    unfold execLeaseRenewal
    rw [hid, hr]
  · change execFreshRead s = _
    unfold execFreshRead
    rw [hfind]

/-- The slice holds the line that it grants a lease on, unless it is gated, or did not and has to grant no more than its floor. -/
theorem State.holds_leased (s : State) (ln lt : Nat) : s.holds ln ((s.line ln).leased lt) = true ↔
    s.homeGated ln = false ∧ ((s.line ln).cached = true ∨ (s.line ln).rts < lt + 256) := by
  unfold State.holds
  cases hc : (s.line ln).cached with
  | true => simp [Line.leased, hc]
  | false =>
    obtain ⟨hw, hrts⟩ := s.line_of_uncached ln hc
    simp only [Line.leased, hc, hw, hrts, Bool.false_or, bne_self_eq_false, Bool.and_eq_true, Bool.not_eq_true', bne_iff_ne,
      Bool.false_eq_true, false_or]
    refine and_congr_right fun _ => ?_
    omega

/-- What a read that the home serves now does to the request, to the line and to the rest (spec/06 R109, R117). -/
theorem State.serveRead_answers (s : State) (r : Req) (hr : s.req? r.id = some r) (hl : r.isLeased = true) (hk : r.kind ≠ .pref)
    (hh : homeDie r.addr = dieOfCore r.core) (hm : s.mayServe r = true) (hb : s.coh.rebasing = false)
    (hln : linesOf r.addr (max r.kind.span 1) = [lineOf r.addr]) (hf : s.lineFree r (lineOf r.addr) = true)
    (hready : s.homeReadable (lineOf r.addr) = true) :
    ∃ r', (s.serveRead r).req? r.id = some r' ∧ r'.kind = r.kind ∧ r'.wts = (s.line (lineOf r.addr)).wts
      ∧ r'.state = .answered (BitVec.ofNat 256 (Memory.readN s.mem r.addr r.kind.span)) (!s.anyPoison r.addr r.kind.span)
      ∧ max (s.line (lineOf r.addr)).rts (r.lt + 256) ≤ ((s.serveRead r).line (lineOf r.addr)).rts
      ∧ (let held := s.homeGated (lineOf r.addr) = false
            ∧ ((s.line (lineOf r.addr)).cached = true ∨ (s.line (lineOf r.addr)).rts < r.lt + 256)
        (held → ((s.serveRead r).line (lineOf r.addr)).wts = (s.line (lineOf r.addr)).wts
            ∧ ((s.serveRead r).line (lineOf r.addr)).rts = max (s.line (lineOf r.addr)).rts (r.lt + 256))
        ∧ (¬held → (s.serveRead r).StampsAtFloor (lineOf r.addr)))
      ∧ (s.serveRead r).mem = s.mem ∧ (s.serveRead r).cur = s.cur ∧ (s.serveRead r).rest = s.rest := by
  obtain ⟨u, hcores, hanswer⟩ := s.answerRead_eq r hk
  have hset := s.setLine_onlyCoh (lineOf r.addr) (fun l => l.leased r.lt)
  have hserve : s.serveRead r = (s.answerRead r none).giveUp r (lineOf r.addr) := by
    unfold State.serveRead
    rw [if_neg (by simp [hl]), if_pos hh]
    exact s.atHome_serves r false (fun s => s.answerRead r none) (lineOf r.addr) hm hb hln hf nofun hready
  have hcoh := (s.answerRead r none).giveUp_onlyCoh r (lineOf r.addr)
  rw [hanswer] at hserve hcoh
  obtain ⟨hheld, hfloor⟩ := s.setLine_giveUp_stamps (u.setReq r.id (s.readAnswer r)) r (lineOf r.addr) (fun l => l.leased r.lt) (fun _ => rfl)
    hcores.coh (hcores.mgmt.trans hset.mgmt)
  rw [← hserve] at hcoh hheld hfloor
  rw [← s.holds_leased (lineOf r.addr) r.lt]
  refine ⟨s.readAnswer r r, ?_, rfl, rfl, rfl, ?_, ⟨hheld, fun hn => (hfloor (Bool.not_eq_true _ ▸ hn)).1⟩, ?_, ?_, ?_⟩
  · rw [hcoh.req?, State.req?_setReq u r.id (s.readAnswer r) fun _ => rfl, hcores.req?, hset.req?, hr]
    rfl
  · cases hh : s.holds (lineOf r.addr) ((s.line (lineOf r.addr)).leased r.lt) with
    | true => exact (hheld hh).2.ge
    | false => exact (hfloor hh).2
  · exact hcoh.mem.trans (hcores.mem.trans hset.mem)
  · exact hcoh.cur.trans (hcores.cur.trans hset.cur)
  · exact hcoh.rest.trans (hcores.rest.trans hset.rest)

end Sys2Proof.Machine
end


section
/-! SUPPORT. A store that the home performs (spec/06 R110). -/

namespace Sys2Proof.Machine

/-- A request that is found is found by its own number. -/
theorem State.req?_id {s : State} {n : Nat} {r : Req} (h : s.req? n = some r) : s.req? r.id = some r := by
  have hid : r.id = n := by simpa using List.find?_some h
  rwa [hid]

/-- A state whose memory is that of s with n bytes written. -/
theorem sameBytesBut_of_writeN {s t : State} {a n v : Nat} (h : t.mem = Memory.writeN s.mem a n v) : SameBytesBut s t a n := by
  intro b hb
  unfold State.byte
  rw [h]
  exact Memory.get_setBytes_other _ s.mem a b (by rwa [natBytes_length])

/-- A performed store request, with the stamp that it has got. -/
def Req.stored (w : Nat) (q : Req) : Req := { q with state := .performed, wts := w }

/-- A store that no poison refuses writes its bytes, is performed with its stamp, and leaves the lines alone. -/
theorem State.performStore_effects (s : State) (r : Req) (w n : Nat) (d : VReg) (hk : r.kind = .store n d)
    (h : s.refusesWrite r.addr n = false) :
    (s.performStore r w).mem = Memory.writeN s.mem r.addr n d.toNat ∧ (s.performStore r w).coh = s.coh
      ∧ (s.performStore r w).mgmt = s.mgmt ∧ (s.performStore r w).req? r.id = (s.req? r.id).map (Req.stored w) := by
  obtain ⟨em, po, cs, hst⟩ := s.performStore_eq r w n d hk h
  rw [hst]
  exact ⟨rfl, rfl, rfl, State.req?_setReq _ r.id (Req.stored w) fun _ => rfl⟩

/-- A store for one line that the home can serve now: the line is stamped, the store performed, and what it had reserved is given up. -/
theorem exec_storeApply_atHome (s : State) (r : Req) (n : Nat) (d : VReg) (hr : s.req? s.arg.id = some r)
    (hk : r.kind = .store n d) (hn : 0 < n) (ht : r.tx = false) (hh : homeDie r.addr = dieOfCore r.core) (hm : s.mayServe r = true)
    (hb : s.coh.rebasing = false) (hl : linesOf r.addr (max n 1) = [lineOf r.addr]) (hf : s.lineFree r (lineOf r.addr) = true)
    (hw : s.homeWritable (lineOf r.addr) = true) (hc : s.conflicts (tileOf r.addr) true = []) :
    exec .storeApply s = .next (((s.setLine (lineOf r.addr) (fun l => l.stampWrite r.lt)).performStore r
      (max r.lt ((s.line (lineOf r.addr)).rts + 1))).giveUp r (lineOf r.addr)) := by
  have hspan : r.kind.span = n := by rw [hk]; rfl
  change execStoreApply s = _
  unfold execStoreApply
  rw [hr]
  dsimp only
  rw [if_neg (by simp [r.storeBytes_nonempty hk hn, ht]), if_pos hh]
  exact congrArg Host.Outcome.next (s.atHome_serves r true (fun s => (s.setLine (lineOf r.addr) (fun l => l.stampWrite r.lt)).performStore r
    (max r.lt ((s.line (lineOf r.addr)).rts + 1))) (lineOf r.addr) hm hb (hspan ▸ hl) hf (fun _ => hc) hw)

/-- A slice that is not gated holds a line that has been stamped for a store: the stamp is above the floor. -/
theorem State.holds_stampWrite (s : State) (ln lt : Nat) (hg : s.homeGated ln = false) :
    s.holds ln ((s.line ln).stampWrite lt) = true := by
  unfold State.holds
  rw [hg]
  cases hc : (s.line ln).cached with
  | true => simp [Line.stampWrite, hc]
  | false =>
    obtain ⟨-, hrts⟩ := s.line_of_uncached ln hc
    simp only [Line.stampWrite, hrts, Bool.not_false, Bool.true_and, Bool.or_eq_true, bne_iff_ne]
    right
    omega

/-- A line that was stamped for a store, when the store has been served: no stamp is below the store's, and both are it unless the slice is
gated. -/
theorem State.giveUp_stampWrite (s t : State) (r : Req) (ln : Nat) (hc : t.coh = (s.setLine ln (fun l => l.stampWrite r.lt)).coh)
    (hm : t.mgmt = s.mgmt) :
    let w := max r.lt ((s.line ln).rts + 1)
    w ≤ ((t.giveUp r ln).line ln).wts ∧ w ≤ ((t.giveUp r ln).line ln).rts
      ∧ (s.homeGated ln = false → ((t.giveUp r ln).line ln).wts = w ∧ ((t.giveUp r ln).line ln).rts = w) := by
  obtain ⟨hheld, hfloor⟩ := s.setLine_giveUp_stamps t r ln (fun l => l.stampWrite r.lt) (fun _ => rfl) hc hm
  cases hh : s.holds ln ((s.line ln).stampWrite r.lt) with
  | true =>
    obtain ⟨hwts, hrts⟩ := hheld hh
    exact ⟨hwts.ge, hrts.ge, fun _ => ⟨hwts, hrts⟩⟩
  | false =>
    obtain ⟨⟨hwts, hrts⟩, hle⟩ := hfloor hh
    refine ⟨?_, hle, fun hg => ?_⟩
    · rw [hwts, ← hrts]
      exact hle
    · rw [s.holds_stampWrite ln r.lt hg] at hh
      exact absurd hh.symm Bool.false_ne_true

/-- What a store that the home performs now does to memory, to the request and to the line. -/
theorem storeApply_atHome (s : State) (r : Req) (n : Nat) (d : VReg) (hr : s.req? s.arg.id = some r)
    (hk : r.kind = .store n d) (hn : 0 < n) (ht : r.tx = false) (hh : homeDie r.addr = dieOfCore r.core) (hm : s.mayServe r = true)
    (hb : s.coh.rebasing = false) (hl : linesOf r.addr (max n 1) = [lineOf r.addr]) (hf : s.lineFree r (lineOf r.addr) = true)
    (hw : s.homeWritable (lineOf r.addr) = true) (hc : s.conflicts (tileOf r.addr) true = []) (hp : s.refusesWrite r.addr n = false)
    (hsafe : Safe s) :
    let w := max r.lt ((s.line (lineOf r.addr)).rts + 1)
    ∃ t : State, ∃ r', exec .storeApply s = .next t ∧ SameBytesBut s t r.addr n ∧ Memory.readN t.mem r.addr n = d.toNat % 2 ^ (8 * n)
      ∧ t.req? r.id = some r' ∧ r'.state = .performed ∧ r'.wts = w
      ∧ w ≤ (t.line (lineOf r.addr)).wts ∧ w ≤ (t.line (lineOf r.addr)).rts
      ∧ (s.homeGated (lineOf r.addr) = false → (t.line (lineOf r.addr)).wts = w ∧ (t.line (lineOf r.addr)).rts = w) := by
  have hexec := exec_storeApply_atHome s r n d hr hk hn ht hh hm hb hl hf hw hc
  have hset := s.setLine_onlyCoh (lineOf r.addr) (fun l => l.stampWrite r.lt)
  have hpoison : (s.setLine (lineOf r.addr) (fun l => l.stampWrite r.lt)).refusesWrite r.addr n = false := by
    obtain ⟨c, hset⟩ := hset
    rw [hset]
    exact hp
  obtain ⟨hmem, hcoh, hmgmt, hreq⟩ := (s.setLine (lineOf r.addr) (fun l => l.stampWrite r.lt)).performStore_effects r
    (max r.lt ((s.line (lineOf r.addr)).rts + 1)) n d hk hpoison
  generalize (s.setLine (lineOf r.addr) (fun l => l.stampWrite r.lt)).performStore r (max r.lt ((s.line (lineOf r.addr)).rts + 1)) = t
    at hexec hmem hcoh hmgmt hreq
  have hgive := t.giveUp_onlyCoh r (lineOf r.addr)
  have hmem' : (t.giveUp r (lineOf r.addr)).mem = Memory.writeN s.mem r.addr n d.toNat := by rw [hgive.mem, hmem, hset.mem]
  refine ⟨t.giveUp r (lineOf r.addr), r.stored _, hexec, sameBytesBut_of_writeN hmem', ?_, ?_, rfl, rfl,
    s.giveUp_stampWrite t r (lineOf r.addr) hcoh (hmgmt.trans hset.mgmt)⟩
  · rw [hmem', Memory.readN_writeN s.mem r.addr n d.toNat hsafe.1, pow_mul]
    rfl
  · rw [hgive.req?, hreq, hset.req?, State.req?_id hr]
    rfl

end Sys2Proof.Machine
end

section
/-! SUPPORT. A store's acknowledgement, and a retry (spec/06 R110, R116). -/

namespace Sys2Proof.Machine

/-- The L1 once an acknowledgement has reached the core: its copy of the line takes what the acknowledgement brings, unless it is younger. -/
theorem Core.takeAck_l1 (c : Core) (id : Nat) :
    (∀ a, c.acks.find? (fun a => a.1 == id) = some a →
        (c.takeAck id).l1 = c.l1.map (fun l => if l.line = a.2.line ∧ l.wts < a.2.wts then a.2 else l))
      ∧ (c.acks.find? (fun a => a.1 == id) = none → (c.takeAck id).l1 = c.l1) := by
  unfold Core.takeAck
  constructor
  · intro a ha
    rw [ha]
  · intro hn
    rw [hn]

theorem Core.takeAck_num (c : Core) (id : Nat) : (c.takeAck id).num = c.num := by
  unfold Core.takeAck
  split <;> rfl

theorem Core.takeAck_lt (c : Core) (id : Nat) : (c.takeAck id).lt = c.lt := by
  unfold Core.takeAck
  split <;> rfl

/-- What the acknowledgement of a store does to the request, to the core's lt and to its L1 (spec/06 R110). -/
theorem storeAck_effects (s : State) (r : Req) (hr : s.req? s.arg.id = some r) (hp : r.state = .performed) :
    ∃ t : State, exec .storeAck s = .next t ∧ t.req? r.id = none ∧ (t.core r.core).lt = max (s.core r.core).lt r.wts ∧ t.mem = s.mem
      ∧ t.cur = s.cur ∧ t.rest = s.rest
      ∧ (∀ a, (s.core r.core).acks.find? (fun a => a.1 == r.id) = some a →
          (t.core r.core).l1 = (s.core r.core).l1.map (fun l => if l.line = a.2.line ∧ l.wts < a.2.wts then a.2 else l))
      ∧ ((s.core r.core).acks.find? (fun a => a.1 == r.id) = none → (t.core r.core).l1 = (s.core r.core).l1) := by
  have hexec : exec .storeAck s = .next (((s.raiseLt r.core r.wts).dropReq r.id).setCore r.core (fun c => c.takeAck r.id)) := by
    change execStoreAck s = _
    unfold execStoreAck
    rw [hr]
    exact if_neg (by simp [hp])
  obtain ⟨cs, f, hraise, -, hlt⟩ := s.raiseLt_eq r.core r.wts
  have hset := ((s.raiseLt r.core r.wts).dropReq r.id).setCore_onlyCores r.core (fun c => c.takeAck r.id)
  have hcore : (((s.raiseLt r.core r.wts).dropReq r.id).setCore r.core (fun c => c.takeAck r.id)).core r.core
      = Core.takeAck { s.core r.core with lt := max (s.core r.core).lt r.wts } r.id := by
    rw [State.core_setCore _ _ _ fun c => c.takeAck_num r.id, ← hlt]
    rfl
  refine ⟨_, hexec, ?_, ?_, ?_, ?_, ?_, ?_⟩
  · rw [hset.req?, State.req?_dropReq]
  · rw [hcore, Core.takeAck_lt]
  · rw [hset.mem, State.dropReq_mem, hraise]
  · rw [hset.cur, State.dropReq_cur, hraise]
  · rw [hset.rest, State.dropReq_rest, hraise]
  · rw [hcore]
    exact Core.takeAck_l1 { s.core r.core with lt := max (s.core r.core).lt r.wts } r.id

/-- A refused request whose time has come is sent again (spec/06 R116). -/
theorem coherenceRetry_effects (s : State) (r : Req) (hr : s.req? s.arg.id = some r) (hf : r.state = .refused) (ht : r.retryAt ≤ s.now) :
    ∃ t : State, ∃ r', exec .coherenceRetry s = .next t ∧ t.req? r.id = some r' ∧ r' = { r with state := .sent } ∧ t.mem = s.mem := by
  refine ⟨s.setReq r.id (fun q => { q with state := .sent }), { r with state := .sent }, ?_, ?_, rfl, rfl⟩
  · change execCoherenceRetry s = _
    unfold execCoherenceRetry
    rw [hr]
    exact if_pos ⟨hf, ht⟩
  · rw [State.req?_setReq s r.id (fun q => { q with state := .sent }) fun _ => rfl, State.req?_id hr]
    rfl

end Sys2Proof.Machine
end

section
/-! Renewals, stores, their answers and retries at a line's home (spec/06 R109 to R119, spec/20 R376, R381). -/

namespace Sys2Proof.Machine

/-- Settles O25: each of the events by what it does to the request, to the line at its home and to the strand or the core that waits. -/
theorem accessesServed : Obligations.AccessesServed := by
  unfold Obligations.AccessesServed
  refine ⟨?_, ?_, storeApply_atHome, storeAck_effects, coherenceRetry_effects⟩
  · intro s i r hi hr hl hk hh hm hb hln hf hready
    obtain ⟨r', h⟩ := s.serveRead_answers r hr hl hk hh hm hb hln hf hready
    exact ⟨s.serveRead r, r', exec_serveRead s i r hi hr, h⟩
  · intro s r v ok u hr ha hu
    refine ⟨loadReturn_x s r v ok u hr ha hu, loadReturn_v s r v ok u hr ha hu, loadReturn_lane s r v ok u hr ha hu, ?_⟩
    rintro ws d hk rfl
    exact loadReturn_recv s r v u hr ha hu ws d hk

end Sys2Proof.Machine
end


section
/-! SUPPORT. The pairwise trees of the reductions, node by node (spec/07 R137), and an instruction counted in a troupe that has no limit set
(spec/13 R247). -/

namespace Sys2Proof.Machine

/-! ### Trees -/

section
variable {α σ : Type} {f : σ → α → α → α × σ} {g : Nat → α → α → α} {q : Nat → σ}

/-- One level over 2m values: node i combines values 2i and 2i + 1 and is the one that is formed i nodes after the level begins. -/
theorem pairLevel_range (hf : ∀ k a b, f (q k) a b = (g k a b, q (k + 1))) (m k : Nat) (v : Nat → α) :
    pairLevel f (q k) ((List.range (2 * m)).map v)
      = ((List.range m).map (fun i => g (k + i) (v (2 * i)) (v (2 * i + 1))), q (k + m)) := by
  induction m generalizing k v with
  | zero => rfl
  | succ m ih =>
    have hl : (List.range (2 * (m + 1))).map v = v 0 :: v 1 :: (List.range (2 * m)).map (fun i => v (i + 2)) := by
      rw [show 2 * (m + 1) = 2 * m + 1 + 1 by omega, List.range_succ_eq_map, List.map_cons, List.map_map, List.range_succ_eq_map,
        List.map_cons, List.map_map]
      rfl
    rw [hl, pairLevel, hf]
    simp only [ih, List.range_succ_eq_map, List.map_cons, List.map_map, Function.comp_def, Nat.succ_eq_add_one, Nat.mul_add, mul_one,
      Nat.add_right_comm, ← Nat.add_assoc]
    rfl

/-- The tree over 2^n values of a level: `K h` nodes are formed before level h. -/
theorem pairTree_range (hf : ∀ k a b, f (q k) a b = (g k a b, q (k + 1))) (K : Nat → Nat) (leaf : Nat → α) (n h : Nat)
    (hK : ∀ j, j < n → K (h + j + 1) = K (h + j) + 2 ^ (n - j - 1)) :
    let node := nodesOf (fun h i a b => g (K h + i) a b) leaf
    pairTree f n (q (K h)) ((List.range (2 ^ n)).map (node h)) = ([node (h + n) 0], q (K (h + n))) := by
  intro node
  induction n generalizing h with
  | zero => rfl
  | succ n ih =>
    have h0 : K (h + 1) = K h + 2 ^ n := hK 0 (Nat.succ_pos n)
    rw [pairTree, pow_succ', pairLevel_range hf, ← h0]
    have hi := ih (h + 1) fun j hj => by
      have := hK (j + 1) (Nat.succ_lt_succ hj)
      rw [← Nat.add_assoc, Nat.add_right_comm h j 1] at this
      rwa [Nat.add_sub_add_right] at this
    rw [Nat.add_right_comm, Nat.add_assoc h] at hi
    exact hi

/-- The tree over 2^n values from its leaves on: 2^n − 2^(n − h) nodes are formed before level h. -/
theorem pairTree_nodes (hf : ∀ k a b, f (q k) a b = (g k a b, q (k + 1))) (leaf : Nat → α) (n : Nat) :
    pairTree f n (q 0) ((List.range (2 ^ n)).map leaf)
      = ([nodesOf (fun h i a b => g (2 ^ n - 2 ^ n / 2 ^ h + i) a b) leaf n 0], q (2 ^ n - 1)) := by
  have h := pairTree_range hf (fun h => 2 ^ n - 2 ^ n / 2 ^ h) leaf n 0 fun j hj => by
    obtain ⟨m, rfl⟩ : ∃ m, n = j + 1 + m := ⟨n - (j + 1), by omega⟩
    have e1 : 2 ^ (j + 1 + m) / 2 ^ j = 2 ^ m * 2 := by
      rw [show j + 1 + m = j + (m + 1) by omega, pow_add, Nat.mul_div_cancel_left _ (Nat.two_pow_pos j), pow_succ]
    have e2 : 2 ^ (j + 1 + m) / 2 ^ (j + 1) = 2 ^ m := by rw [pow_add, Nat.mul_div_cancel_left _ (Nat.two_pow_pos _)]
    have e3 : 2 ^ m * 2 ≤ 2 ^ (j + 1 + m) := by
      rw [← pow_succ]
      exact Nat.pow_le_pow_right Nat.two_pos (by omega)
    simp only [Nat.zero_add, e1, e2, show j + 1 + m - j - 1 = m by omega]
    omega
  have h0 : 2 ^ n - 2 ^ n / 2 ^ 0 = 0 := by rw [pow_zero, Nat.div_one, Nat.sub_self]
  have h1 : 2 ^ n - 2 ^ n / 2 ^ (0 + n) = 2 ^ n - 1 := by rw [Nat.zero_add, Nat.div_self (Nat.two_pow_pos n)]
  dsimp only at h
  rwa [h0, h1, Nat.zero_add] at h

end

/-- A tree whose nodes do not ask for their place. -/
theorem nodesOf_eq_treeOf {α : Type} (f : α → α → α) (g : Nat → α) (n i : Nat) :
    nodesOf (fun _ _ => f) g n i = treeOf f g n i := by
  induction n generalizing i with
  | zero => rfl
  | succ n ih => rw [nodesOf, treeOf, ih, ih]

/-- The lanes of a class F type are a power of two. -/
theorem two_pow_log2_lanes (ty : FTy) : 2 ^ Nat.log2 (256 / (ftyFF ty).width) = 256 / (ftyFF ty).width := by
  cases ty <;> decide

theorem drawn_succ (rm : Rm) (k : Nat) (l : Quad) : drawn rm 1 (drawn rm k l) = drawn rm (k + 1) l := (drawn_add rm k 1 l).symm

/-- What enters the tree of a reduction at lane l: the lane where it is active, else the identity. -/
def State.enters (s : State) (o : FRedOp) (ident l : Nat) : Nat :=
  if s.active o.pred (ftyFF o.m.ty).width 0 l then s.laneOf o.a (ftyFF o.m.ty).width 0 l else ident

theorem treeLanes_eq (s : State) (o : FRedOp) (ident : Nat) :
    treeLanes (ftyFF o.m.ty) (s.p o.pred) (s.v o.a) ident = (List.range (256 / (ftyFF o.m.ty).width)).map (s.enters o ident) := by
  refine List.map_congr_left fun l _ => ?_
  have ha : s.v (inGroup o.a 0) = s.v o.a := congrArg s.v (BitVec.add_zero _)
  unfold State.enters
  rw [← lane_eq_laneOf, ha]
  simp only [State.active, activeLane, Nat.zero_mul, Nat.zero_add]
  rfl

/-- The maximum or minimum of the lanes is the root of the tree over them. -/
theorem pickTree_eq (s : State) (o : FRedOp) (wantMax : Bool) :
    let ff := ftyFF o.m.ty
    pickTree ff wantMax (s.p o.pred) (s.v o.a)
      = treeOf (ff.pick wantMax) (s.enters o (ff.encode (.inf wantMax))) (Nat.log2 (256 / ff.width)) 0 := by
  intro ff
  have h := pairTree_nodes (f := fun (u : Unit) a b => (ff.pick wantMax a b, u)) (q := fun _ => ()) (fun _ _ _ => rfl)
    (s.enters o (ff.encode (.inf wantMax))) (Nat.log2 (256 / ff.width))
  rw [two_pow_log2_lanes, ← treeLanes_eq, nodesOf_eq_treeOf] at h
  exact congrArg (fun r => r.1.headD 0) h

/-- The f32 sum of the lanes before it is narrowed: every node draws once, level by level and left to right. -/
theorem pairTree_sum (s : State) (o : FRedOp) (rm : Rm) (l : Quad) :
    let ff := ftyFF o.m.ty
    let n := 256 / ff.width
    pairTree (fun q a b => ((ffF32.bin .add a b rm false q).bits, (ffF32.bin .add a b rm false q).lfsr)) (Nat.log2 (lanesOf ff.width)) l
        ((treeLanes ff (s.p o.pred) (s.v o.a) (2 ^ (ff.width - 1))).map (fun b => ffF32.encode (ff.decode b)))
      = ([nodesOf (fun h k a b => (ffF32.bin .add a b rm false (drawn rm (n - n / 2 ^ h + k) l)).bits)
          (fun i => ffF32.encode (ff.decode (s.enters o (2 ^ (ff.width - 1)) i))) (Nat.log2 n) 0], drawn rm (n - 1) l) := by
  intro ff n
  have h := pairTree_nodes (f := fun q a b => ((ffF32.bin .add a b rm false q).bits, (ffF32.bin .add a b rm false q).lfsr))
    (q := fun k => drawn rm k l) (g := fun k a b => (ffF32.bin .add a b rm false (drawn rm k l)).bits)
    (fun k a b => by simp only [FF.bin_lfsr, drawn_succ])
    (fun i => ffF32.encode (ff.decode (s.enters o (2 ^ (ff.width - 1)) i))) (Nat.log2 n)
  rw [two_pow_log2_lanes, drawn_zero] at h
  rw [treeLanes_eq, List.map_map]
  exact h

theorem ftyFF_eq_ffF32 (ty : FTy) : ftyFF ty = ffF32 ↔ ty = .f32 := by
  cases ty <;> decide

/-- The sum of the lanes: the root of the tree, that of narrow lanes rounded once more, after the last node. -/
theorem sumTree_eq (s : State) (o : FRedOp) (rm : Rm) (l : Quad) :
    let ff := ftyFF o.m.ty
    let n := 256 / ff.width
    let root := nodesOf (fun h k a b => (ffF32.bin .add a b rm false (drawn rm (n - n / 2 ^ h + k) l)).bits)
      (fun i => ffF32.encode (ff.decode (s.enters o (2 ^ (ff.width - 1)) i))) (Nat.log2 n) 0
    let y := ffF32.decode root
    sumTree ff (s.p o.pred) (s.v o.a) rm l
      = (if o.m.ty = .f32 then root else (ff.finish y.exact rm false (drawn rm (n - 1) l) none y.isNan y.isInf).bits,
        drawn rm (n - 1 + (if o.m.ty = .f32 then 0 else 1)) l) := by
  have hp := pairTree_sum s o rm l
  dsimp only at hp
  unfold sumTree
  dsimp only
  rw [hp, List.headD_cons]
  by_cases h : o.m.ty = .f32
  · rw [if_pos ((ftyFF_eq_ffF32 _).2 h), if_pos h, if_pos h, Nat.add_zero]
  · rw [if_neg (mt (ftyFF_eq_ffF32 _).1 h), if_neg h, if_neg h, FF.finish_lfsr, drawn_succ]

/-! ### Counting -/

/-- Where no counter has a limit an instruction counts its events and goes on. -/
theorem State.advanceCounting_noLimits (s : State) (evs : List Ev) (fa fb : Nat) (h : s.noLimits) :
    s.advanceCounting evs fa fb = (s.counted s.cur.troupe evs).wentOn := by
  have hc : ∀ c : Fin 5, ¬Crosses (s.troupe s.cur.troupe).arith[c] (s.troupe s.cur.troupe).alimit[c] (tally evs c) := by
    rintro c ⟨hl, -⟩
    rw [h c] at hl
    exact absurd hl (Nat.not_lt_zero _)
  unfold State.advanceCounting
  rw [State.countEvents_eq]
  simp only [arithTrap_none _ evs _ fa fb s.cur.pc s.now hc]
  rfl

/-- A reduction counts its root at most once as a NaN and at most once as an infinity, and as nothing else (R247). -/
theorem tally_rootEvents (ff : FF) (a : Reg) (root : Nat) (ins : List Num) :
    let n := tally (rootEvents ff a root ins)
    (∀ k, n k ≤ 1) ∧ n 2 = 0 ∧ n 3 = 0 ∧ n 4 = 0 := by
  unfold rootEvents
  dsimp only
  generalize ((ff.decode root).isNan && !ins.any Num.isNan) = nan
  generalize ((ff.decode root).isInf && !ins.any Num.isInf) = inf
  cases nan <;> cases inf <;> simp [tally, Fin.forall_fin_succ]

/-- With its registers full and no limit set a reduction writes its root and the LFSR and counts the events of the root. -/
theorem freduce_ready (o : FRedOp) (f : FF → Rm → Quad → VReg → Quad → Nat × Quad) (s : State) (ha : s.readyV .g1 o.a)
    (hd : s.readyX o.d) (hl : s.noLimits) :
    let ff := ftyFF o.m.ty
    let r := f ff (s.mode o.m.rm) (s.p o.pred) (s.v o.a) s.lfsr
    freduce o f s = .next ({ s with
      cur := { s.cur.putX o.d (BitVec.ofNat 64 r.1) with sr := { s.cur.sr with lfsr := r.2.setWidth 64 } },
      troupes := s.troupes.map (fun u : Troupe => if u.uid = s.cur.troupe then
        { u with arith := Vector.ofFn (fun i => u.arith[i]
          + BitVec.ofNat 32 (tally (rootEvents ff o.a r.1 (activeVals ff (s.p o.pred) (s.v o.a))) i)) } else u) }.wentOn) := by
  intro ff r
  have ht : ((s.setX o.d (BitVec.ofNat 64 r.1)).setLfsr r.2).cur.troupe = s.cur.troupe := s.cur.putX_troupe o.d _
  have hn : ((s.setX o.d (BitVec.ofNat 64 r.1)).setLfsr r.2).noLimits := fun i => by
    rw [ht]
    exact hl i
  have hs : (s.setX o.d (BitVec.ofNat 64 r.1)).setLfsr r.2 = { s with
      cur := { s.cur.putX o.d (BitVec.ofNat 64 r.1) with sr := { s.cur.sr with lfsr := r.2.setWidth 64 } } } := by
    unfold State.setLfsr State.setSr
    rw [State.setX_cur, Strand.putX_sr]
    rfl
  unfold freduce
  rw [withRegs_ready]
  · dsimp only
    rw [State.advanceCounting_noLimits _ _ _ _ hn, ht, hs]
    rfl
  · intro q hq
    obtain rfl := List.mem_singleton.1 hq
    exact fullV_rv s 1 .g1 o.a o.ta ha
  · simp [wx, Strand.full]; exact hd

theorem exec_vrsumFloat (o : FRedOp) (s : State) : exec (.vrsumFloat o) s = freduce o (fun ff rm p v l => sumTree ff p v rm l) s := rfl

theorem exec_vrmaxFloat (o : FRedOp) (s : State) : exec (.vrmaxFloat o) s = freduce o (fun ff _ p v l => (pickTree ff true p v, l)) s := rfl

theorem exec_vrminFloat (o : FRedOp) (s : State) : exec (.vrminFloat o) s = freduce o (fun ff _ p v l => (pickTree ff false p v, l)) s := rfl

end Sys2Proof.Machine
end

section
/-! The reductions of floating-point lanes (spec/07 R137, spec/13 R247, R254). -/

namespace Sys2Proof.Machine

/-- Settles O18: each reduction writes the root of its tree and counts the root's events, of which there is at most one of a kind. That
the last rounding of a narrow sum takes 16 random bits is the model's choice (log entry 61). -/
theorem floatReductionResults : Obligations.FloatReductionResults := by
  unfold Obligations.FloatReductionResults
  rintro o s ha hd hl ff n x i hi
  rcases hi with rfl | rfl | rfl
  · have hr := freduce_ready o (fun ff rm p v l => sumTree ff p v rm l) s ha hd hl
    dsimp only at hr
    rw [sumTree_eq] at hr
    refine ⟨_, _, _, (exec_vrsumFloat o s).trans hr, ?_⟩
    obtain ⟨h1, h2, h3, h4⟩ := tally_rootEvents (ftyFF o.m.ty) o.a _ _
    exact ⟨h1, h2, h3, h4, fun _ => rfl, fun _ => rfl, nofun, nofun⟩
  · have hr := freduce_ready o (fun ff _ p v l => (pickTree ff true p v, l)) s ha hd hl
    refine ⟨_, _, _, (exec_vrmaxFloat o s).trans hr, ?_⟩
    obtain ⟨h1, h2, h3, h4⟩ := tally_rootEvents (ftyFF o.m.ty) o.a _ _
    exact ⟨h1, h2, h3, h4, nofun, nofun, fun _ => ⟨rfl, congrArg _ (pickTree_eq s o true)⟩, nofun⟩
  · have hr := freduce_ready o (fun ff _ p v l => (pickTree ff false p v, l)) s ha hd hl
    refine ⟨_, _, _, (exec_vrminFloat o s).trans hr, ?_⟩
    obtain ⟨h1, h2, h3, h4⟩ := tally_rootEvents (ftyFF o.m.ty) o.a _ _
    exact ⟨h1, h2, h3, h4, nofun, nofun, nofun, fun _ => ⟨rfl, congrArg _ (pickTree_eq s o false)⟩⟩

end Sys2Proof.Machine
end


section
/-! SUPPORT. Rounding an exact magnitude to whole units of a spacing (spec/07 R128 to R130), over the reals. -/

namespace Sys2Proof.Machine

/-! ### Powers of two -/

/-- A whole number of a spacing, counted in a finer one. -/
theorem mul_two_pow_toNat (m : Nat) {q e : Int} (h : q ≤ e) : ((m * 2 ^ (e - q).toNat : Nat) : ℝ) * 2 ^ q = m * 2 ^ e := by
  have hp : (2 : ℝ) ^ (e - q).toNat * 2 ^ q = 2 ^ e := by
    rw [← zpow_natCast, Int.toNat_of_nonneg (by omega), ← zpow_add₀ two_ne_zero, Int.sub_add_cancel]
  rw [Nat.cast_mul, Nat.cast_pow, Nat.cast_ofNat, mul_assoc, hp]

theorem two_zpow_log2_le {m : Nat} (e : Int) (h : m ≠ 0) : (2 : ℝ) ^ ((Nat.log2 m : Int) + e) ≤ m * 2 ^ e := by
  rw [zpow_add₀ two_ne_zero, zpow_natCast]
  exact mul_le_mul_of_nonneg_right (mod_cast Nat.log2_self_le h) (zpow_nonneg zero_le_two e)

theorem succ_mul_le_two_zpow_log2 (m : Nat) (e : Int) : ((m : ℝ) + 1) * 2 ^ e ≤ 2 ^ ((Nat.log2 m : Int) + e + 1) := by
  rw [add_right_comm, zpow_add₀ two_ne_zero]
  exact mul_le_mul_of_nonneg_right (mod_cast Nat.lt_log2_self) (zpow_nonneg zero_le_two e)

theorem lt_two_zpow_log2 (m : Nat) (e : Int) : (m : ℝ) * 2 ^ e < 2 ^ ((Nat.log2 m : Int) + e + 1) :=
  lt_of_lt_of_le (mul_lt_mul_of_pos_right (lt_add_one _) (zpow_pos two_pos e)) (succ_mul_le_two_zpow_log2 m e)

/-! ### Whole units -/

section
variable {rm : Rm} {neg : Bool} {x u : ℝ} {d : Nat} {s : Quad} {n : Nat}

/-- The random addend is less than a unit. -/
theorem random_lt_unit (hu : 0 < u) (d : Nat) (s : Quad) :
    0 ≤ ((s.toNat % 2 ^ d : Nat) : ℝ) * u / 2 ^ d ∧ ((s.toNat % 2 ^ d : Nat) : ℝ) * u / 2 ^ d < u := by
  have hr : ((s.toNat % 2 ^ d : Nat) : ℝ) < 2 ^ d := mod_cast Nat.mod_lt _ (Nat.two_pow_pos d)
  refine ⟨by positivity, ?_⟩
  rw [div_lt_iff₀ (by positivity), mul_comm]
  exact mul_lt_mul_of_pos_left hr hu

/-- In every mode the result is less than one unit away. -/
theorem RoundsToUnits.near (hu : 0 < u) (h : RoundsToUnits rm neg x u d s n) : n * u < x + u ∧ x < (n + 1) * u := by
  obtain ⟨hr0, hr1⟩ := random_lt_unit hu d s
  cases rm with
  | rne | dyn =>
    obtain ⟨ha, hb⟩ := abs_le.1 h.1
    constructor <;> linarith
  | rtz =>
    obtain ⟨ha, hb⟩ := h
    constructor <;> linarith
  | rdn | rup =>
    cases neg <;> obtain ⟨ha, hb⟩ := h <;> constructor <;> linarith
  | sr =>
    obtain ⟨ha, hb⟩ := h
    constructor <;> linarith

theorem RoundsToUnits.le_of_lt (hu : 0 < u) (h : RoundsToUnits rm neg x u d s n) {k : Nat} (hx : x < k * u) : n ≤ k := by
  have hn : (n : ℝ) * u < (k + 1) * u := by linarith [(h.near hu).1]
  have hk := lt_of_mul_lt_mul_right hn hu.le
  exact Nat.lt_succ_iff.1 (mod_cast hk)

theorem RoundsToUnits.ge_of_le (hu : 0 < u) (h : RoundsToUnits rm neg x u d s n) {k : Nat} (hx : k * u ≤ x) : k ≤ n := by
  have hn : (k : ℝ) * u < (n + 1) * u := lt_of_le_of_lt hx (h.near hu).2
  have hk := lt_of_mul_lt_mul_right hn hu.le
  exact Nat.lt_succ_iff.1 (mod_cast hk)

theorem RoundsToUnits.zero (hu : 0 < u) (h : RoundsToUnits rm neg 0 u d s n) : n = 0 := by
  have hn : (n : ℝ) * u < 1 * u := by linarith [(h.near hu).1]
  have hk := lt_of_mul_lt_mul_right hn hu.le
  exact Nat.lt_one_iff.1 (mod_cast hk)

/-- A whole number of units stays. -/
theorem RoundsToUnits.exact (hu : 0 < u) : RoundsToUnits rm neg (n * u) u d s n := by
  have hlt : (n : ℝ) * u < (n + 1) * u := mul_lt_mul_of_pos_right (lt_add_one _) hu
  have hup : (n : ℝ) * u < n * u + u := lt_add_of_pos_right _ hu
  obtain ⟨hr0, hr1⟩ := random_lt_unit hu d s
  cases rm with
  | rne | dyn =>
    refine ⟨?_, ?_⟩ <;> rw [sub_self, abs_zero]
    · exact (half_pos hu).le
    · exact fun h => absurd h (half_pos hu).ne
  | rtz => exact ⟨le_rfl, hlt⟩
  | rdn =>
    cases neg with
    | false => exact ⟨le_rfl, hlt⟩
    | true => exact ⟨le_rfl, hup⟩
  | rup =>
    cases neg with
    | false => exact ⟨le_rfl, hup⟩
    | true => exact ⟨le_rfl, hlt⟩
  | sr => exact ⟨le_add_of_nonneg_right hr0, by linarith⟩

/-- Rounding does not depend on the scale. -/
theorem RoundsToUnits.scale {c : ℝ} (hc : 0 < c) (h : RoundsToUnits rm neg x u d s n) : RoundsToUnits rm neg (x * c) (u * c) d s n := by
  have hle : ∀ {a b : ℝ}, a ≤ b → a * c ≤ b * c := fun h => mul_le_mul_of_nonneg_right h hc.le
  have hlt : ∀ {a b : ℝ}, a < b → a * c < b * c := fun h => mul_lt_mul_of_pos_right h hc
  cases rm with
  | rne | dyn =>
    have he : |(n : ℝ) * (u * c) - x * c| = |n * u - x| * c := by rw [← mul_assoc, ← sub_mul, abs_mul, abs_of_pos hc]
    obtain ⟨ha, hb⟩ := h
    refine ⟨?_, ?_⟩ <;> rw [he, mul_div_right_comm]
    · exact hle ha
    · exact fun h => hb (mul_right_cancel₀ hc.ne' h)
  | rtz =>
    obtain ⟨ha, hb⟩ := h
    exact ⟨by linarith [hle ha], by linarith [hlt hb]⟩
  | rdn | rup =>
    cases neg <;> obtain ⟨ha, hb⟩ := h <;> exact ⟨by linarith [hle ha], by linarith [hlt hb]⟩
  | sr =>
    obtain ⟨ha, hb⟩ := h
    refine ⟨(le_of_eq (by ring)).trans ((hle ha).trans (le_of_eq (by ring))),
      (le_of_eq (by ring)).trans_lt ((hlt hb).trans_le (le_of_eq (by ring)))⟩

end

/-! ### Exact magnitudes -/

/-- The magnitude that an exact value stands for: its digits, or with the mark something strictly between them and the next. -/
def Ex.Stands (x : Ex) (v : ℝ) : Prop :=
  if x.more = true then (x.m : ℝ) * 2 ^ x.e < v ∧ v < (x.m + 1) * 2 ^ x.e else v = x.m * 2 ^ x.e

theorem Ex.Stands.bounds {x : Ex} {v : ℝ} (h : x.Stands v) : (x.m : ℝ) * 2 ^ x.e ≤ v ∧ v < (x.m + 1) * 2 ^ x.e := by
  have hp : (0 : ℝ) < 2 ^ x.e := zpow_pos two_pos _
  unfold Ex.Stands at h
  split at h
  · exact ⟨h.1.le, h.2⟩
  · exact ⟨h.ge, h.trans_lt (mul_lt_mul_of_pos_right (lt_add_one _) hp)⟩

/-- A magnitude in units of its digits' own spacing: w lies from m on and below m + 1, and is m just when there is no mark. -/
theorem Ex.Stands.scaled {x : Ex} {v : ℝ} (h : x.Stands v) :
    ∃ w : ℝ, v = w * 2 ^ x.e ∧ (x.m : ℝ) ≤ w ∧ w < x.m + 1 ∧ (w = x.m ↔ x.more = false) := by
  have hp : (0 : ℝ) < 2 ^ x.e := zpow_pos two_pos _
  have hv : v = v / 2 ^ x.e * 2 ^ x.e := (div_mul_cancel₀ v hp.ne').symm
  refine ⟨v / 2 ^ x.e, hv, (le_div_iff₀ hp).2 h.bounds.1, (div_lt_iff₀ hp).2 h.bounds.2, ?_⟩
  rw [div_eq_iff hp.ne']
  unfold Ex.Stands at h
  split at h
  · rename_i hm
    simp [hm, h.1.ne']
  · rename_i hm
    simp [h, Bool.not_eq_true _ ▸ hm]

/-! ### Rounding to a coarser spacing -/

section
variable {m hi lo unit : Nat} {more : Bool} {w : ℝ} (hm : m = hi * unit + lo) (hlt : lo < unit) (hlo : (m : ℝ) ≤ w) (hhi : w < m + 1)
  (hw : w = m ↔ more = false)
include hm hlt hlo hhi

/-- The quotient is the number of whole units in w. -/
theorem quotient_is_floor : (hi : ℝ) * unit ≤ w ∧ w < (hi + 1) * unit := by
  have hm' : (m : ℝ) = hi * unit + lo := mod_cast hm
  have hl : (lo : ℝ) + 1 ≤ unit := mod_cast hlt
  have hz : (0 : ℝ) ≤ lo := Nat.cast_nonneg lo
  constructor <;> linarith

include hw

omit hlt hhi in
/-- Above the whole units there is a remainder or a mark, or nothing. -/
theorem quotient_exact : w = hi * unit ↔ ¬(lo ≠ 0 ∨ more = true) := by
  have hm' : (m : ℝ) = hi * unit + lo := mod_cast hm
  have hz : (0 : ℝ) ≤ lo := Nat.cast_nonneg lo
  rw [not_or, not_not, Bool.not_eq_true, ← hw]
  constructor
  · intro h
    have h0 : (lo : ℝ) = 0 := by linarith
    exact ⟨mod_cast h0, by linarith⟩
  · rintro ⟨rfl, h⟩
    rw [h, hm', Nat.cast_zero, add_zero]

/-- The quotient, one more where something is left, is the least number of units that w does not exceed. -/
theorem quotient_up_is_ceil : let n := if lo ≠ 0 ∨ more = true then hi + 1 else hi
    w ≤ n * unit ∧ (n : ℝ) * unit < w + unit := by
  obtain ⟨h1, h2⟩ := quotient_is_floor hm hlt hlo hhi
  have he := quotient_exact hm hlo hw
  have hu : (0 : ℝ) < unit := mod_cast Nat.zero_lt_of_lt hlt
  intro n
  by_cases h : lo ≠ 0 ∨ more = true
  · have hn : (n : ℝ) = hi + 1 := by simp only [n, if_pos h, Nat.cast_add, Nat.cast_one]
    have hne := lt_of_le_of_ne h1 (Ne.symm fun e => he.1 e h)
    rw [hn]
    exact ⟨h2.le, by linarith⟩
  · have hn : (n : ℝ) = hi := by simp only [n, if_neg h]
    rw [hn, he.2 h]
    exact ⟨le_rfl, by linarith⟩

/-- Half a unit and more goes up, a tie to the even side, all else down. -/
theorem quotient_nearest {half : Nat} (hh : unit = 2 * half) :
    let n := if half < lo ∨ (lo = half ∧ (more = true ∨ hi % 2 = 1)) then hi + 1 else hi
    |(n : ℝ) * unit - w| ≤ unit / 2 ∧ (|(n : ℝ) * unit - w| = unit / 2 → n % 2 = 0) := by
  have hm' : (m : ℝ) = hi * unit + lo := mod_cast hm
  have hh' : (unit : ℝ) = 2 * half := mod_cast hh
  have hl : (lo : ℝ) + 1 ≤ unit := mod_cast hlt
  have hz : (0 : ℝ) ≤ lo := Nat.cast_nonneg lo
  intro n
  by_cases h : half < lo ∨ (lo = half ∧ (more = true ∨ hi % 2 = 1))
  · have hn : n = hi + 1 := if_pos h
    have hn' : (n : ℝ) * unit - w = hi * unit + unit - w := by rw [hn]; push_cast; ring
    have hge : (half : ℝ) ≤ lo := mod_cast h.elim Nat.le_of_lt fun e => e.1.ge
    rw [hn', abs_of_nonneg (by linarith)]
    refine ⟨by linarith, fun e => ?_⟩
    have hlo' : (lo : ℝ) = half := by linarith
    have hmore : more = false := hw.1 (by linarith)
    rcases h with h | ⟨-, h | h⟩
    · exact absurd (mod_cast hlo' : lo = half) h.ne'
    · simp [hmore] at h
    · omega
  · have hn : n = hi := if_neg h
    rw [hn, abs_sub_comm, abs_of_nonneg (by linarith)]
    rcases Nat.lt_or_ge lo half with hl' | hl'
    · have hl'' : (lo : ℝ) + 1 ≤ half := mod_cast hl'
      exact ⟨by linarith, fun e => by linarith⟩
    · have hl'' : lo = half := by omega
      have hmore : more = false := by
        by_contra hc
        exact h (.inr ⟨hl'', .inl (by simpa using hc)⟩)
      have hwm := hw.2 hmore
      have hlo' : (lo : ℝ) = half := mod_cast hl''
      exact ⟨by linarith, fun _ => by_contra fun hc => h (.inr ⟨hl'', .inr (by omega)⟩)⟩

omit hlt hm in
/-- The random bits are added below the unit, the rest cut off. Where w is not m, a random bit is worth a whole number. -/
theorem random_floor {d r : Nat} (hu : 0 < unit) (hd : more = true → 2 ^ d ∣ unit) :
    let n := (m * 2 ^ d + r * unit) / (unit * 2 ^ d)
    (n : ℝ) * unit ≤ w + r * unit / 2 ^ d ∧ w + r * unit / 2 ^ d < (n + 1) * unit := by
  intro n
  have hp : (0 : ℝ) < 2 ^ d := by positivity
  have hlow : (n : ℝ) * (unit * 2 ^ d) ≤ m * 2 ^ d + r * unit := mod_cast Nat.div_mul_le_self _ _
  have hup : m * 2 ^ d + r * unit < (n + 1) * (unit * 2 ^ d) :=
    Nat.lt_mul_of_div_lt (Nat.lt_succ_self _) (Nat.mul_pos hu (Nat.two_pow_pos d))
  have hs : w + r * unit / 2 ^ d = (w * 2 ^ d + r * unit) / 2 ^ d := by rw [add_div, mul_div_cancel_right₀ _ hp.ne']
  rw [hs, le_div_iff₀ hp, div_lt_iff₀ hp]
  have hmw : (m : ℝ) * 2 ^ d ≤ w * 2 ^ d := mul_le_mul_of_nonneg_right hlo hp.le
  refine ⟨by linarith, ?_⟩
  cases hmore : more with
  | false =>
    rw [hw.2 hmore]
    have hup' : (m : ℝ) * 2 ^ d + r * unit < (n + 1) * (unit * 2 ^ d) := mod_cast hup
    linarith
  | true =>
    obtain ⟨k, hk⟩ := hd hmore
    have hnext : (m + 1) * 2 ^ d + r * unit ≤ (n + 1) * (unit * 2 ^ d) := by
      have h1 : m + r * k < (n + 1) * unit := by
        refine Nat.lt_of_mul_lt_mul_right (a := 2 ^ d) ?_
        calc (m + r * k) * 2 ^ d = m * 2 ^ d + r * unit := by rw [hk]; ring
          _ < (n + 1) * (unit * 2 ^ d) := hup
          _ = (n + 1) * unit * 2 ^ d := by ring
      calc (m + 1) * 2 ^ d + r * unit = (m + r * k + 1) * 2 ^ d := by rw [hk]; ring
        _ ≤ (n + 1) * unit * 2 ^ d := Nat.mul_le_mul_right _ h1
        _ = (n + 1) * (unit * 2 ^ d) := by ring
    have hnext' : ((m : ℝ) + 1) * 2 ^ d + r * unit ≤ (n + 1) * (unit * 2 ^ d) := mod_cast hnext
    have hwm : w * 2 ^ d < (m + 1) * 2 ^ d := mul_lt_mul_of_pos_right hhi hp
    linarith

end

/-- Rounding w, which lies from m on and below m + 1, to units of 2^sh. Where w is not m, the unit holds every random bit. -/
theorem roundUnits_coarse (x : Ex) (q : Int) (rm : Rm) (d : Nat) (s : Quad) (w : ℝ) (hq : x.e < q) (hlo : (x.m : ℝ) ≤ w)
    (hhi : w < x.m + 1) (hw : w = x.m ↔ x.more = false) (hd : x.more = true → d ≤ (q - x.e).toNat) :
    RoundsToUnits rm x.neg w (2 ^ (q - x.e).toNat) d s (roundUnits x q rm d s) := by
  have hu : ((2 ^ (q - x.e).toNat : Nat) : ℝ) = 2 ^ (q - x.e).toNat := by push_cast; rfl
  have hm := (Nat.div_add_mod' x.m (2 ^ (q - x.e).toNat)).symm
  have hlt := Nat.mod_lt x.m (Nat.two_pow_pos (q - x.e).toNat)
  have hfloor := quotient_is_floor hm hlt hlo hhi
  have hceil := quotient_up_is_ceil hm hlt hlo hhi hw
  have hnear := quotient_nearest hm hlt hlo hhi hw (half := 2 ^ ((q - x.e).toNat - 1)) (by
    rw [← pow_succ', Nat.sub_add_cancel (by omega)])
  have hsr := random_floor hlo hhi hw (d := d) (r := s.toNat % 2 ^ d) (Nat.two_pow_pos (q - x.e).toNat)
    fun h => Nat.pow_dvd_pow 2 (hd h)
  rw [hu] at hfloor hceil hnear hsr
  unfold roundUnits
  rw [if_neg (not_le.2 hq)]
  cases rm with
  | rne | dyn => exact hnear
  | rtz => exact hfloor
  | rdn =>
    cases x.neg with
    | false =>
      simp only [Bool.false_eq_true, false_and, if_false]
      exact hfloor
    | true =>
      simp only [true_and]
      exact hceil
  | rup =>
    cases x.neg with
    | false =>
      simp only [Bool.false_eq_true, not_false_eq_true, true_and]
      exact hceil
    | true =>
      simp only [not_true_eq_false, false_and, if_false]
      exact hfloor
  | sr =>
    rw [← Nat.pow_add] at hsr
    exact hsr

/-- The rounding of the model is that of the modes. -/
theorem roundUnits_rounds (x : Ex) (q : Int) (rm : Rm) (d : Nat) (s : Quad) (v : ℝ) (hx : x.Stands v)
    (hd : x.more = true → x.e + d + 1 ≤ q) : RoundsToUnits rm x.neg v (2 ^ q) d s (roundUnits x q rm d s) := by
  by_cases hq : q ≤ x.e
  · have hm : x.more = false := by
      by_contra hm
      have := hd (by simpa using hm)
      omega
    unfold Ex.Stands at hx
    rw [if_neg (by simp [hm]), ← mul_two_pow_toNat x.m hq] at hx
    unfold roundUnits
    rw [if_pos hq, hx]
    exact RoundsToUnits.exact (zpow_pos two_pos q)
  · obtain ⟨w, rfl, hlo, hhi, hw⟩ := hx.scaled
    have hu : (2 : ℝ) ^ q = 2 ^ (q - x.e).toNat * 2 ^ x.e := by
      have := mul_two_pow_toNat 1 (le_of_not_ge hq)
      push_cast at this
      linarith
    rw [hu]
    refine (roundUnits_coarse x q rm d s w (not_le.1 hq) hlo hhi hw fun hm => ?_).scale (zpow_pos two_pos _)
    have := hd hm
    omega

end Sys2Proof.Machine
end


section
/-! SUPPORT. Patterns and values of the formats, and an exact value rounded to one (spec/07 R124, R125, R129). -/

namespace Sys2Proof.Machine

/-! ### Patterns -/

/-- The pattern of a sign, an exponent field and a fraction (R124). -/
def FF.pattern (f : FF) (neg : Bool) (ex frac : Nat) : Nat := (if neg then 2 ^ (f.eb + f.fb) else 0) + (ex * 2 ^ f.fb + frac)

section
variable (f : FF) (neg : Bool) {ex frac : Nat} (he : ex < 2 ^ f.eb) (hf : frac < 2 ^ f.fb)
include hf

theorem FF.pattern_mod : f.pattern neg ex frac % 2 ^ f.fb = frac := by
  have h : f.pattern neg ex frac = ((if neg then 2 ^ f.eb else 0) + ex) * 2 ^ f.fb + frac := by
    cases neg <;> simp [FF.pattern, pow_add, add_mul, add_assoc]
  rw [h, Nat.mul_add_mod', Nat.mod_eq_of_lt hf]

theorem FF.pattern_div : f.pattern neg ex frac / 2 ^ f.fb = (if neg then 2 ^ f.eb else 0) + ex := by
  have h : f.pattern neg ex frac = frac + ((if neg then 2 ^ f.eb else 0) + ex) * 2 ^ f.fb := by
    cases neg <;> simp [FF.pattern, pow_add, add_mul] <;> omega
  rw [h, Nat.add_mul_div_right _ _ (Nat.two_pow_pos _), Nat.div_eq_of_lt hf, Nat.zero_add]

include he

theorem FF.pattern_exponent : f.pattern neg ex frac / 2 ^ f.fb % 2 ^ f.eb = ex := by
  rw [f.pattern_div neg hf]
  cases neg <;> simp [Nat.mod_eq_of_lt he]

theorem FF.pattern_sign : f.pattern neg ex frac / 2 ^ (f.eb + f.fb) = neg.toNat := by
  rw [add_comm f.eb, pow_add, ← Nat.div_div_eq_div_mul, f.pattern_div neg hf]
  cases neg <;> simp [Nat.div_eq_of_lt he, Nat.add_div_left]

theorem FF.pattern_lt : f.pattern neg ex frac < 2 ^ f.width := by
  have h : f.pattern neg ex frac / 2 ^ (f.eb + f.fb) < 2 := by
    rw [f.pattern_sign neg he hf]
    cases neg <;> decide
  rw [FF.width, Nat.add_assoc, pow_add]
  exact Nat.lt_mul_of_div_lt (by simpa using h) (Nat.two_pow_pos _)

end

/-- A pattern of a format is that of its sign, exponent field and fraction. -/
theorem FF.eq_pattern (f : FF) {b : Nat} (hb : b < 2 ^ f.width) :
    b = f.pattern (decide (b / 2 ^ (f.eb + f.fb) = 1)) (b / 2 ^ f.fb % 2 ^ f.eb) (b % 2 ^ f.fb) := by
  have hlt : b / 2 ^ (f.eb + f.fb) < 2 := by
    rw [Nat.div_lt_iff_lt_mul (Nat.two_pow_pos _), ← pow_succ']
    rwa [FF.width, Nat.add_assoc, Nat.add_comm 1] at hb
  have h1 := Nat.div_add_mod' b (2 ^ f.fb)
  have h2 := Nat.div_add_mod' (b / 2 ^ f.fb) (2 ^ f.eb)
  rw [Nat.div_div_eq_div_mul, ← pow_add, add_comm f.fb] at h2
  have hs : (if decide (b / 2 ^ (f.eb + f.fb) = 1) = true then 2 ^ (f.eb + f.fb) else 0)
      = b / 2 ^ (f.eb + f.fb) * 2 ^ (f.eb + f.fb) := by
    rcases Nat.le_one_iff_eq_zero_or_eq_one.1 (Nat.lt_succ_iff.1 hlt) with h | h <;> simp [h]
  calc b = (b / 2 ^ (f.eb + f.fb) * 2 ^ f.eb + b / 2 ^ f.fb % 2 ^ f.eb) * 2 ^ f.fb + b % 2 ^ f.fb := by rw [h2, h1]
    _ = b / 2 ^ (f.eb + f.fb) * 2 ^ (f.eb + f.fb) + (b / 2 ^ f.fb % 2 ^ f.eb * 2 ^ f.fb + b % 2 ^ f.fb) := by ring
    _ = _ := by rw [FF.pattern, hs]

/-! ### The formats -/

/-- The exponent fields and fractions that stand for no finite number (R125). -/
def FF.Special (f : FF) (ex frac : Nat) : Prop := (f.hasInf = true ∧ ex = 2 ^ f.eb - 1) ∨ (f = ffE4m3 ∧ ex = 15 ∧ frac = 7)

/-- What the formats have in common: the fields that are finite are those up to the largest magnitude, whose significand has all its bits. -/
structure FF.Row (f : FF) (lm : Nat) (le : Int) (nb : Nat) : Prop where
  fb_le : f.fb ≤ 23
  lm_ge : 2 ^ f.fb ≤ lm
  lm_lt : lm < 2 ^ (f.fb + 1)
  le_ge : 1 - (f.bias : Int) - f.fb ≤ le
  le_lt : le + f.bias + f.fb < 2 ^ f.eb
  largest : f.largest = (lm, le)
  nan : f.encode .nan = nb
  onlyNan : f.hasNan = true ∧ f.hasInf = false ↔ f = ffE4m3
  finite : ∀ ex frac, ex < 2 ^ f.eb → frac < 2 ^ f.fb →
    (¬f.Special ex frac ↔ (ex : Int) - f.bias - f.fb < le ∨ ((ex : Int) - f.bias - f.fb = le ∧ 2 ^ f.fb + frac ≤ lm))

theorem formatRows_row {f : FF} {lm : Nat} {le : Int} {nb : Nat} (h : (f, lm, le, nb) ∈ formatRows) : f.Row lm le nb := by
  simp only [formatRows, List.mem_cons, List.not_mem_nil, or_false, Prod.mk.injEq] at h
  rcases h with ⟨rfl, rfl, rfl, rfl⟩ | ⟨rfl, rfl, rfl, rfl⟩ | ⟨rfl, rfl, rfl, rfl⟩ | ⟨rfl, rfl, rfl, rfl⟩ | ⟨rfl, rfl, rfl, rfl⟩
    | ⟨rfl, rfl, rfl, rfl⟩
  all_goals
    refine ⟨by decide, by decide, by decide, by decide, by decide, by decide, by decide, by decide, fun ex frac he hf => ?_⟩
    simp [FF.Special, ffF32, ffF16, ffBf16, ffE4m3, ffE5m2, ffE2m1] at he hf ⊢
    omega

section
variable {f : FF} {lm : Nat} {le : Int} {nb : Nat} (row : f.Row lm le nb)
include row

/-! ### Decoding -/

/-- Fields that stand for no finite number: an infinity with fraction 0 in a format that has infinities, else NaN. -/
theorem FF.Row.decode_special {b : Nat} (h : f.Special (b / 2 ^ f.fb % 2 ^ f.eb) (b % 2 ^ f.fb)) :
    f.decode b = if f.hasInf = true ∧ b % 2 ^ f.fb = 0 then .inf (b / 2 ^ (f.eb + f.fb) % 2 == 1) else .nan := by
  unfold FF.decode
  rcases h with ⟨hi, hx⟩ | ⟨rfl, hx, hm⟩
  · simp [hi, hx]
  · simp only [hx, hm]
    rfl

/-- All other fields: a subnormal or a normal number. -/
theorem FF.Row.decode_finite {b : Nat} (h : ¬f.Special (b / 2 ^ f.fb % 2 ^ f.eb) (b % 2 ^ f.fb)) :
    let x := b / 2 ^ f.fb % 2 ^ f.eb
    f.decode b = .fin (b / 2 ^ (f.eb + f.fb) % 2 == 1) (if x = 0 then b % 2 ^ f.fb else 2 ^ f.fb + b % 2 ^ f.fb)
      ((max x 1 : Nat) - f.bias - f.fb : Int) := by
  intro x
  obtain ⟨hi, hn⟩ := not_or.1 h
  have h1 : ¬(f.hasInf && x == 2 ^ f.eb - 1) = true := by simpa using hi
  have h2 : ¬(f.hasNan && !f.hasInf && x == 2 ^ f.eb - 1 && b % 2 ^ f.fb == 2 ^ f.fb - 1) = true := by
    intro hc
    simp only [Bool.and_eq_true, Bool.not_eq_true', beq_iff_eq] at hc
    obtain ⟨⟨hf, hx⟩, hm⟩ := hc
    have he := row.onlyNan.1 hf
    subst he
    exact hn ⟨rfl, hx, hm⟩
  unfold FF.decode
  simp only [if_neg h1, if_neg h2, x]
  split
  · rename_i hx
    rw [hx]
    rfl
  · rename_i hx
    rw [Nat.max_eq_left (Nat.one_le_iff_ne_zero.2 hx)]

/-- The value of a pattern that stands for a finite number. -/
theorem FF.Row.decode_pattern (neg : Bool) {ex frac : Nat} (he : ex < 2 ^ f.eb) (hf : frac < 2 ^ f.fb) (h : ¬f.Special ex frac) :
    f.decode (f.pattern neg ex frac)
      = .fin neg (if ex = 0 then frac else 2 ^ f.fb + frac) ((max ex 1 : Nat) - f.bias - f.fb : Int) := by
  have hd := row.decode_finite (b := f.pattern neg ex frac)
  simp only [f.pattern_exponent neg he hf, f.pattern_mod neg hf, f.pattern_sign neg he hf] at hd
  rw [hd h]
  cases neg <;> rfl

end

/-! ### Encoding -/

section
variable (f : FF) (neg : Bool) {n : Nat} {q : Int}

theorem FF.encode_zero (q : Int) : f.encode (.fin neg 0 q) = f.pattern neg 0 0 := by
  cases neg <;> simp [FF.encode, FF.pattern]

theorem FF.encode_inf (hi : f.hasInf = true) : f.encode (.inf neg) = f.pattern neg (2 ^ f.eb - 1) 0 := by
  simp [FF.encode, FF.pattern, hi]

/-- A number below the normal range has exponent field 0. -/
theorem FF.encode_subnormal (hn : n ≠ 0) (h : n < 2 ^ f.fb) : f.encode (.fin neg n (1 - f.bias - f.fb)) = f.pattern neg 0 n := by
  have hl : Nat.log2 n < f.fb := (Nat.log2_lt hn).2 h
  have hlt : (Nat.log2 n : Int) + (1 - f.bias - f.fb) < 1 - f.bias := by omega
  simp only [FF.encode, if_neg hn, if_pos hlt, max_eq_right hlt.le, le_refl, if_true, sub_self, Int.toNat_zero, pow_zero, mul_one,
    FF.pattern, Nat.zero_mul, Nat.zero_add]

/-- A number with a full significand has the exponent field of its place. -/
theorem FF.encode_normal (h1 : 2 ^ f.fb ≤ n) (h2 : n < 2 ^ (f.fb + 1)) (hq : 1 - (f.bias : Int) - f.fb ≤ q) :
    f.encode (.fin neg n q) = f.pattern neg (q + f.bias + f.fb).toNat (n - 2 ^ f.fb) := by
  have hn : n ≠ 0 := (Nat.lt_of_lt_of_le (Nat.two_pow_pos _) h1).ne'
  have hl : Nat.log2 n = f.fb := (Nat.log2_eq_iff hn).2 ⟨h1, h2⟩
  have hge : ¬(f.fb : Int) + q < 1 - f.bias := by omega
  have hs : (f.fb : Int) + q - f.fb = q := by omega
  simp only [FF.encode, if_neg hn, hl, if_neg hge, max_eq_left (not_lt.1 hge), hs, le_refl, if_true, sub_self, Int.toNat_zero, pow_zero,
    mul_one, FF.pattern, Nat.add_assoc, show (f.fb : Int) + q + f.bias = q + f.bias + f.fb by omega]

/-- A significand that has been rounded up to the next power of two is the least one of the next place. -/
theorem FF.encode_carry (hq : 1 - (f.bias : Int) - f.fb ≤ q) :
    f.encode (.fin neg (2 ^ (f.fb + 1)) q) = f.encode (.fin neg (2 ^ f.fb) (q + 1)) := by
  have h0 : (2 : Nat) ^ (f.fb + 1) ≠ 0 := (Nat.two_pow_pos _).ne'
  have hge : ¬((f.fb + 1 : Nat) : Int) + q < 1 - f.bias := by omega
  have hs : ((f.fb + 1 : Nat) : Int) + q - f.fb = q + 1 := by omega
  have hlt : ¬q + 1 ≤ q := by omega
  rw [f.encode_normal neg le_rfl (Nat.pow_lt_pow_right Nat.one_lt_two (Nat.lt_succ_self _)) (by omega)]
  simp only [FF.encode, if_neg h0, Nat.log2_two_pow, if_neg hge, max_eq_left (not_lt.1 hge), hs, if_neg hlt]
  have h1 : (q + 1 - q).toNat = 1 := by omega
  have h2 : 2 ^ (f.fb + 1) / 2 ^ 1 = 2 ^ f.fb := by rw [pow_succ, pow_one, Nat.mul_div_cancel _ Nat.two_pos]
  have h3 : ((f.fb + 1 : Nat) : Int) + q + f.bias = q + 1 + f.bias + f.fb := by omega
  rw [h1, h2, h3, FF.pattern, Nat.add_assoc]

end

section
variable {f : FF} {lm : Nat} {le : Int} {nb : Nat} (row : f.Row lm le nb)
include row

/-- A pattern that stands for a finite number is that of its value. -/
theorem FF.Row.encode_decode_pattern (neg : Bool) {ex frac : Nat} (he : ex < 2 ^ f.eb) (hf : frac < 2 ^ f.fb)
    (h : ¬f.Special ex frac) : f.encode (f.decode (f.pattern neg ex frac)) = f.pattern neg ex frac := by
  rw [row.decode_pattern neg he hf h]
  by_cases hx : ex = 0
  · subst hx
    rw [if_pos rfl]
    by_cases h0 : frac = 0
    · rw [h0, f.encode_zero]
    · exact f.encode_subnormal neg h0 hf
  · rw [if_neg hx, Nat.max_eq_left (Nat.one_le_iff_ne_zero.2 hx),
      f.encode_normal neg (Nat.le_add_right _ _) (by rw [pow_succ]; omega) (by omega), Nat.add_sub_cancel_left,
      show ((ex : Int) - f.bias - f.fb + f.bias + f.fb).toNat = ex by omega]

/-- A pattern is decoded as its fields say, and encoding its value gives it back, or the canonical NaN. -/
theorem FF.Row.decode_rules {b : Nat} (hb : b < 2 ^ f.width) :
    let x := b / 2 ^ f.fb % 2 ^ f.eb
    let m := b % 2 ^ f.fb
    let neg := decide (b / 2 ^ (f.eb + f.fb) = 1)
    (f.Special x m → f.decode b = if f.hasInf = true ∧ m = 0 then .inf neg else .nan)
    ∧ (¬f.Special x m →
        Num.Is (f.decode b) neg ((((if x = 0 then m else 2 ^ f.fb + m : Nat)) : ℝ) * 2 ^ ((max x 1 : Nat) - f.bias - f.fb : Int)))
    ∧ f.encode (f.decode b) = if f.decode b = .nan then nb else b := by
  intro x m neg
  have hx : x < 2 ^ f.eb := Nat.mod_lt _ (Nat.two_pow_pos _)
  have hm : m < 2 ^ f.fb := Nat.mod_lt _ (Nat.two_pow_pos _)
  have hbp : b = f.pattern neg x m := f.eq_pattern hb
  have hsign : (b / 2 ^ (f.eb + f.fb) % 2 == 1) = neg := by
    conv_lhs => rw [hbp, f.pattern_sign neg hx hm]
    cases neg <;> rfl
  have hspec : f.Special x m → f.decode b = if f.hasInf = true ∧ m = 0 then .inf neg else .nan := fun h => by
    rw [row.decode_special h, hsign]
  have hfin : ¬f.Special x m → f.decode b = .fin neg (if x = 0 then m else 2 ^ f.fb + m) ((max x 1 : Nat) - f.bias - f.fb : Int) := fun h => by
    rw [row.decode_finite h, hsign]
  refine ⟨hspec, fun h => ⟨_, _, hfin h, rfl⟩, ?_⟩
  by_cases h : f.Special x m
  · rw [hspec h]
    by_cases hi : f.hasInf = true ∧ m = 0
    · have hxt : x = 2 ^ f.eb - 1 := by
        rcases h with h | ⟨he, -⟩
        · exact h.2
        · exact absurd hi.1 (he ▸ by decide)
      rw [if_pos hi, if_neg nofun, f.encode_inf neg hi.1, ← hxt, ← hi.2, ← hbp]
    · rw [if_neg hi, if_pos rfl, row.nan]
  · have hn : f.decode b ≠ .nan := by
      rw [hfin h]
      exact nofun
    rw [if_neg hn]
    conv_lhs => rw [hbp, row.encode_decode_pattern neg hx hm h]
    exact hbp.symm

/-- The largest magnitude and what lies below it in the format stand for finite numbers. -/
theorem FF.Row.shows_normal (neg : Bool) {n : Nat} {q : Int} (h1 : 2 ^ f.fb ≤ n) (h2 : n < 2 ^ (f.fb + 1))
    (hq : 1 - (f.bias : Int) - f.fb ≤ q) (hle : q < le ∨ (q = le ∧ n ≤ lm)) :
    f.Shows (f.encode (.fin neg n q)) neg (n * 2 ^ q) := by
  have hr := row.le_lt
  have hex : (((q + f.bias + f.fb).toNat : Nat) : Int) = q + f.bias + f.fb := Int.toNat_of_nonneg (by omega)
  have he : (q + f.bias + f.fb).toNat < 2 ^ f.eb := by
    zify
    omega
  have hf : n - 2 ^ f.fb < 2 ^ f.fb := by
    rw [pow_succ] at h2
    omega
  have hs : ¬f.Special (q + f.bias + f.fb).toNat (n - 2 ^ f.fb) := (row.finite _ _ he hf).2 (by omega)
  rw [f.encode_normal neg h1 h2 hq]
  refine ⟨f.pattern_lt neg he hf, n, q, ?_, rfl⟩
  rw [row.decode_pattern neg he hf hs, if_neg (by omega), Nat.add_sub_cancel' h1, Nat.max_eq_left (by omega), hex,
    show q + (f.bias : Int) + f.fb - f.bias - f.fb = q by omega]

theorem FF.Row.shows_largest (neg : Bool) : f.Shows (f.encode (.fin neg lm le)) neg (lm * 2 ^ le) :=
  row.shows_normal neg row.lm_ge row.lm_lt row.le_ge (.inr ⟨rfl, le_rfl⟩)

/-- A full significand that is not above the largest magnitude has no place above it. -/
theorem FF.Row.place_le {n : Nat} {q : Int} (h1 : 2 ^ f.fb ≤ n) (h : (n : ℝ) * 2 ^ q ≤ lm * 2 ^ le) :
    q < le ∨ (q = le ∧ n ≤ lm) := by
  have hlm : (lm : ℝ) < 2 ^ (f.fb + 1) := mod_cast row.lm_lt
  have hn : (2 : ℝ) ^ f.fb ≤ n := mod_cast h1
  rcases lt_trichotomy q le with hq | rfl | hq
  · exact .inl hq
  · have hnl := le_of_mul_le_mul_right h (zpow_pos two_pos q)
    exact .inr ⟨rfl, mod_cast hnl⟩
  · exfalso
    have hp : (2 : ℝ) ^ (le + 1) ≤ 2 ^ q := zpow_le_zpow_right₀ one_le_two hq
    have : (lm : ℝ) * 2 ^ le < n * 2 ^ q := by
      calc (lm : ℝ) * 2 ^ le < 2 ^ (f.fb + 1) * 2 ^ le := mul_lt_mul_of_pos_right hlm (zpow_pos two_pos le)
        _ = 2 ^ f.fb * 2 ^ (le + 1) := by rw [zpow_add_one₀ two_ne_zero]; ring
        _ ≤ n * 2 ^ q := mul_le_mul hn hp (zpow_pos two_pos _).le (Nat.cast_nonneg n)
    exact absurd h this.not_ge

/-- A number on the grid that is not above the largest magnitude is encoded by a pattern that stands for it. -/
theorem FF.Row.shows_encode (neg : Bool) {n : Nat} {q : Int} (hq : 1 - (f.bias : Int) - f.fb ≤ q) (h2 : n ≤ 2 ^ (f.fb + 1))
    (h1 : q = 1 - (f.bias : Int) - f.fb ∨ 2 ^ f.fb ≤ n) (hle : (n : ℝ) * 2 ^ q ≤ lm * 2 ^ le) :
    f.Shows (f.encode (.fin neg n q)) neg (n * 2 ^ q) := by
  have hr := row.le_ge
  rcases Nat.lt_or_ge n (2 ^ f.fb) with hn | hn
  · obtain rfl : q = 1 - (f.bias : Int) - f.fb := h1.resolve_right (not_le.2 hn)
    have he : 0 < 2 ^ f.eb := Nat.two_pow_pos _
    have henc : f.encode (.fin neg n (1 - f.bias - f.fb)) = f.pattern neg 0 n := by
      by_cases h0 : n = 0
      · rw [h0, f.encode_zero]
      · exact f.encode_subnormal neg h0 hn
    rw [henc]
    exact ⟨f.pattern_lt neg he hn, _, _, row.decode_pattern neg he hn ((row.finite _ _ he hn).2 (.inl (by omega))), rfl⟩
  · rcases Nat.lt_or_eq_of_le h2 with h2 | rfl
    · exact row.shows_normal neg hn h2 hq (row.place_le hn hle)
    · have hv : ((2 ^ (f.fb + 1) : Nat) : ℝ) * 2 ^ q = (2 ^ f.fb : Nat) * 2 ^ (q + 1) := by
        rw [zpow_add_one₀ two_ne_zero]
        push_cast
        ring
      rw [f.encode_carry neg hq, hv]
      rw [hv] at hle
      exact row.shows_normal neg le_rfl (Nat.pow_lt_pow_right Nat.one_lt_two (Nat.lt_succ_self _)) (by omega)
        (row.place_le le_rfl hle)

/-- The pattern of an infinity in a format that has them. -/
theorem FF.Row.decode_encode_inf (neg : Bool) (hi : f.hasInf = true) : f.decode (f.encode (.inf neg)) = .inf neg := by
  have he : 2 ^ f.eb - 1 < 2 ^ f.eb := Nat.sub_lt (Nat.two_pow_pos _) Nat.one_pos
  have hf : 0 < 2 ^ f.fb := Nat.two_pow_pos _
  rw [f.encode_inf neg hi, row.decode_special]
  · simp only [f.pattern_mod neg hf, f.pattern_sign neg he hf, hi, and_self, if_true]
    cases neg <;> rfl
  · rw [f.pattern_exponent neg he hf, f.pattern_mod neg hf]
    exact .inl ⟨hi, rfl⟩

/-! ### Results -/

/-- An infinite result is clamped, an infinity, or what the format has instead (R129). -/
theorem FF.Row.finish_inf (neg : Bool) (rm : Rm) (sat : Bool) (l : Quad) (src : Option Int) (inNan inInf : Bool) :
    f.GivesInf lm le neg sat inInf (f.finish (.inf neg) rm sat l src inNan inInf) := by
  cases sat with
  | true =>
    refine ⟨fun _ => ?_, nofun⟩
    simp only [FF.finish, row.largest, if_true, and_self, and_true]
    exact row.shows_largest neg
  | false =>
    refine ⟨nofun, fun _ => ⟨rfl, fun hi => ⟨row.decode_encode_inf neg hi, ?_, ?_⟩, ?_, ?_⟩⟩
    · simp [FF.finish, hi]
    · simp [FF.finish, hi]
    · rintro rfl
      exact ⟨rfl, rfl, rfl⟩
    · rintro rfl
      have hl := row.largest
      obtain ⟨rfl, rfl⟩ := Prod.mk.inj hl
      have hb : (ffE2m1.finish (.inf neg) rm false l src inNan inInf).bits = ffE2m1.encode (.inf neg) := rfl
      rw [hb]
      refine ⟨?_, rfl, rfl, rfl⟩
      cases neg with
      | false => exact ⟨by decide, 3, 1, by decide, rfl⟩
      | true => exact ⟨by decide, 3, 1, by decide, rfl⟩

theorem FF.Row.finish_nan (rm : Rm) (sat : Bool) (l : Quad) (src : Option Int) (inNan inInf : Bool) :
    f.finish .nan rm sat l src inNan inInf = ⟨nb, drawn rm 1 l, f.hasNan && !inNan, false, false⟩ := by
  rw [← row.nan]
  rfl

/-- Whether a multiple of the spacing is above the largest magnitude, as the model finds it: by the places, then by the digits. -/
theorem exceeds_iff {n : Nat} (hn : n ≠ 0) (q : Int) :
    (decide (q + Nat.log2 n > le + Nat.log2 lm) || (decide (q + Nat.log2 n = le + Nat.log2 lm) &&
      (if q ≤ le then decide (lm * 2 ^ (le - q).toNat < n) else decide (lm < n * 2 ^ (q - le).toNat)))) = true
    ↔ (lm : ℝ) * 2 ^ le < n * 2 ^ q := by
  have hlm : lm ≠ 0 := (Nat.lt_of_lt_of_le (Nat.two_pow_pos _) row.lm_ge).ne'
  rcases lt_trichotomy (q + (Nat.log2 n : Int)) (le + Nat.log2 lm) with h | h | h
  · have hlt : (n : ℝ) * 2 ^ q ≤ lm * 2 ^ le :=
      (lt_two_zpow_log2 n q).le.trans ((zpow_le_zpow_right₀ one_le_two (by omega)).trans (two_zpow_log2_le le hlm))
    simp [h.not_gt, h.ne, hlt.not_gt]
  · simp only [h, gt_iff_lt, lt_self_iff_false, decide_false, decide_true, Bool.true_and, Bool.false_or]
    split
    · rename_i hq
      rw [decide_eq_true_iff, ← mul_two_pow_toNat lm hq, mul_lt_mul_iff_left₀ (zpow_pos two_pos q), Nat.cast_lt]
    · rename_i hq
      rw [decide_eq_true_iff, ← mul_two_pow_toNat n (not_le.1 hq).le, mul_lt_mul_iff_left₀ (zpow_pos two_pos le), Nat.cast_lt]
  · have hlt : (lm : ℝ) * 2 ^ le < n * 2 ^ q :=
      (lt_two_zpow_log2 lm le).trans_le ((zpow_le_zpow_right₀ one_le_two (by omega)).trans (two_zpow_log2_le q hn))
    simp [h, hlt]

/-- A rounded magnitude that is not above the largest stays as it is. -/
theorem FF.Row.roundNum_of_le (x : Ex) (rm : Rm) (d : Nat) (s : Quad)
    (h : (roundUnits x (f.spacing x) rm d s : ℝ) * 2 ^ f.spacing x ≤ lm * 2 ^ le) :
    f.roundNum x rm d s = .fin x.neg (roundUnits x (f.spacing x) rm d s) (f.spacing x) := by
  unfold FF.roundNum
  simp only [row.largest]
  refine if_neg ?_
  rintro ⟨hn, ht⟩
  exact absurd ((exceeds_iff row hn _).1 ht) h.not_gt

/-- One above it becomes the largest magnitude or an infinity, as the mode says. -/
theorem FF.Row.roundNum_of_lt (x : Ex) (rm : Rm) (d : Nat) (s : Quad)
    (h : (lm : ℝ) * 2 ^ le < roundUnits x (f.spacing x) rm d s * 2 ^ f.spacing x) :
    f.roundNum x rm d s = if rm = .rtz ∨ (rm = .rdn ∧ x.neg = false) ∨ (rm = .rup ∧ x.neg = true) then .fin x.neg lm le else .inf x.neg := by
  have hn : roundUnits x (f.spacing x) rm d s ≠ 0 := by
    intro hz
    rw [hz, Nat.cast_zero, zero_mul] at h
    exact absurd h (not_lt.2 (by positivity))
  unfold FF.roundNum
  simp only [row.largest]
  rw [if_pos ⟨hn, (exceeds_iff row hn _).2 h⟩]
  cases rm <;> cases x.neg <;> rfl

end

end Sys2Proof.Machine
end


section
/-! SUPPORT. Rounding an exact value to a format: the spacing of its grid, and the result (spec/07 R129, R130). -/

namespace Sys2Proof.Machine

/-- A mark stands only after more digits than any format keeps with its random bits. -/
def Ex.Fine (x : Ex) : Prop := x.more = true → 2 ^ 40 ≤ x.m

theorem Ex.fine_of_exact {x : Ex} (h : x.more = false) : x.Fine := fun hm => absurd (h.symm.trans hm) Bool.false_ne_true

theorem Ex.stands_exact (neg : Bool) (m : Nat) (e : Int) : Ex.Stands ⟨neg, m, e, false⟩ (m * 2 ^ e) := by
  simp [Ex.Stands]

theorem Ex.Stands.eq_zero {x : Ex} {v : ℝ} (h : x.Stands v) (hf : x.Fine) (hm : x.m = 0) : v = 0 := by
  have hmore : x.more = false := by
    by_contra hc
    have h0 := hf (by simpa using hc)
    rw [hm] at h0
    exact absurd h0 (by decide)
  unfold Ex.Stands at h
  rw [if_neg (by simp [hmore]), hm, Nat.cast_zero, zero_mul] at h
  exact h

theorem Ex.Stands.lg_bounds {x : Ex} {v : ℝ} (h : x.Stands v) (hm : x.m ≠ 0) : (2 : ℝ) ^ x.lg ≤ v ∧ v < 2 ^ (x.lg + 1) :=
  ⟨(two_zpow_log2_le x.e hm).trans h.bounds.1, h.bounds.2.trans_le (succ_mul_le_two_zpow_log2 x.m x.e)⟩

/-- The spacing at a magnitude: that of the subnormal numbers, or the one at which the magnitude has a full significand. -/
theorem FF.spacing_bounds (f : FF) {x : Ex} {v : ℝ} (h : x.Stands v) (hf : x.Fine) :
    1 - (f.bias : Int) - f.fb ≤ f.spacing x ∧ v < (2 : ℝ) ^ (f.spacing x + f.fb + 1)
    ∧ (f.spacing x = 1 - (f.bias : Int) - f.fb ∨ (2 : ℝ) ^ (f.spacing x + f.fb) ≤ v) := by
  unfold FF.spacing
  by_cases hm : x.m = 0
  · rw [if_pos hm, h.eq_zero hf hm]
    exact ⟨le_rfl, zpow_pos two_pos _, .inl rfl⟩
  · obtain ⟨h1, h2⟩ := h.lg_bounds hm
    rw [if_neg hm, sub_add_cancel]
    refine ⟨by omega, h2.trans_le (zpow_le_zpow_right₀ one_le_two (by omega)), ?_⟩
    rcases le_total x.lg (1 - f.bias) with hl | hl
    · exact .inl (by rw [max_eq_right hl])
    · exact .inr (by rwa [max_eq_left hl])

/-- The random bits of a rounding in sr: 16, and in a conversion no more than the source's bits below the spacing. -/
def randomBits (q : Int) : Option Int → Nat
  | none => 16
  | some lsb => min 16 (q - lsb).toNat

theorem randomBits_le (q : Int) (src : Option Int) : randomBits q src ≤ 16 := by
  cases src with
  | none => exact le_rfl
  | some lsb => exact min_le_left _ _

/-- The digits of a marked value reach below the spacing by more than the random bits. -/
theorem FF.spacing_fine (f : FF) (hfb : f.fb ≤ 23) {x : Ex} (hf : x.Fine) (hm : x.more = true) : x.e + 16 + 1 ≤ f.spacing x := by
  have h40 := hf hm
  have h0 : x.m ≠ 0 := (Nat.lt_of_lt_of_le (Nat.two_pow_pos 40) h40).ne'
  have hl : 40 ≤ Nat.log2 x.m := (Nat.le_log2 h0).2 h40
  unfold FF.spacing Ex.lg
  rw [if_neg h0]
  omega

section
variable (f : FF) (x : Ex) (rm : Rm) (sat : Bool) (l : Quad) (src : Option Int) (inNan inInf : Bool)

theorem FF.finish_of_fin {neg : Bool} {n : Nat} {q : Int}
    (h : f.roundNum x rm (randomBits (f.spacing x) src) (drawn rm 1 l) = .fin neg n q) :
    f.finish (.ex x) rm sat l src inNan inInf = ⟨f.encode (.fin neg n q), drawn rm 1 l, false, false, false⟩ := by
  have hd : (if rm = .sr then lfsrStep l else l) = drawn rm 1 l := rfl
  cases src <;> simp only [randomBits] at h <;> simp only [FF.finish, hd, h]

theorem FF.finish_of_inf {neg : Bool} (h : f.roundNum x rm (randomBits (f.spacing x) src) (drawn rm 1 l) = .inf neg) :
    f.finish (.ex x) rm sat l src inNan inInf = f.finish (.inf neg) rm sat l src inNan inInf := by
  have hd : (if rm = .sr then lfsrStep l else l) = drawn rm 1 l := rfl
  cases src <;> simp only [randomBits] at h <;> simp only [FF.finish, hd, h]

end

section
variable {f : FF} {lm : Nat} {le : Int} {nb : Nat} (row : f.Row lm le nb)
include row

/-- An exact value is rounded as the mode asks. Only a zero may come of an infinite operand. -/
theorem FF.Row.finish_rounds {x : Ex} {v : ℝ} (hx : x.Stands v) (hf : x.Fine) (rm : Rm) (sat : Bool) (l : Quad) (src : Option Int)
    (inNan : Bool) {inInf : Bool} (hi : inInf = true → v = 0) :
    f.Rounds lm le x.neg v rm sat l src (f.finish (.ex x) rm sat l src inNan inInf) := by
  obtain ⟨hq, hlt, hge⟩ := f.spacing_bounds hx hf
  have hu : (0 : ℝ) < 2 ^ f.spacing x := zpow_pos two_pos _
  have hr := roundUnits_rounds x (f.spacing x) rm (randomBits (f.spacing x) src) (drawn rm 1 l) v hx fun hm => by
    have h1 := randomBits_le (f.spacing x) src
    have h2 := f.spacing_fine row.fb_le hf hm
    omega
  have hpow : ∀ k : Nat, (2 : ℝ) ^ (f.spacing x + k) = (2 ^ k : Nat) * 2 ^ f.spacing x := fun k => by
    rw [zpow_add₀ two_ne_zero, zpow_natCast, mul_comm]
    push_cast
    rfl
  refine ⟨f.finish_lfsr _ rm sat l src inNan inInf, f.spacing x,
    roundUnits x (f.spacing x) rm (randomBits (f.spacing x) src) (drawn rm 1 l), hq, hlt, hge, by cases src <;> exact hr, fun hle => ?_,
    fun hgt => ?_⟩
  · rw [f.finish_of_fin x rm sat l src inNan inInf (row.roundNum_of_le x rm _ _ hle)]
    refine ⟨row.shows_encode x.neg hq ?_ ?_ hle, rfl, rfl, rfl⟩
    · refine hr.le_of_lt hu ?_
      rwa [← hpow, Nat.cast_add, Nat.cast_one, ← add_assoc]
    · refine hge.imp_right fun h => hr.ge_of_le hu ?_
      rwa [← hpow]
  · have hn := row.roundNum_of_lt x rm _ _ hgt
    split
    · rename_i hrm
      rw [if_pos hrm] at hn
      rw [f.finish_of_fin x rm sat l src inNan inInf hn]
      exact ⟨row.shows_largest x.neg, rfl, rfl, rfl⟩
    · rename_i hrm
      rw [if_neg hrm] at hn
      have hinf : inInf = false := by
        by_contra hc
        rw [hi (by simpa using hc)] at hr
        rw [hr.zero hu, Nat.cast_zero, zero_mul] at hgt
        exact absurd hgt (not_lt.2 (by positivity))
      rw [f.finish_of_inf x rm sat l src inNan inInf hn, hinf]
      exact row.finish_inf x.neg rm sat l src inNan false

end

end Sys2Proof.Machine
end


section
/-! SUPPORT. The exact results of the arithmetic operations over the reals (spec/07 R129, R132, spec/13 R252). -/

namespace Sys2Proof.Machine

/-! ### Signed values -/

/-- A magnitude with a sign. -/
def signed (neg : Bool) (v : ℝ) : ℝ := if neg then -v else v

/-- The sign of a real result: that of its value, or of a zero the one given. -/
def SignOf (neg : Bool) (v : ℝ) (zero : Bool) : Prop := (v < 0 → neg = true) ∧ (0 < v → neg = false) ∧ (v = 0 → neg = zero)

theorem SignOf.unique {a b : Bool} {v : ℝ} {zero : Bool} (ha : SignOf a v zero) (hb : SignOf b v zero) : a = b := by
  obtain ⟨a1, a2, a3⟩ := ha
  obtain ⟨b1, b2, b3⟩ := hb
  rcases lt_trichotomy v 0 with h | h | h
  · rw [a1 h, b1 h]
  · rw [a3 h, b3 h]
  · rw [a2 h, b2 h]

theorem sint_cast (neg : Bool) (m : Nat) : (sint neg m : ℝ) = signed neg m := by
  cases neg <;> simp [sint, signed]

theorem signed_mul (neg : Bool) (v c : ℝ) : signed neg v * c = signed neg (v * c) := by
  cases neg <;> simp [signed]

/-- A magnitude as a signed integer in units of a smaller exponent. -/
theorem sint_mul_two_zpow (neg : Bool) (m : Nat) {q e : Int} (h : q ≤ e) :
    (sint neg (m * 2 ^ (e - q).toNat) : ℝ) * 2 ^ q = signed neg (m * 2 ^ e) := by
  rw [sint_cast, signed_mul, mul_two_pow_toNat m h]

/-! ### Sign changes -/

/-- A value negated when asked. -/
def Num.flip (c : Bool) (x : Num) : Num := if c then x.negate else x

@[simp] theorem Num.flip_nan (c : Bool) : Num.nan.flip c = .nan := by cases c <;> rfl
@[simp] theorem Num.flip_inf (c neg : Bool) : (Num.inf neg).flip c = .inf (neg != c) := by cases c <;> cases neg <;> rfl
@[simp] theorem Num.flip_fin (c neg : Bool) (m : Nat) (e : Int) : (Num.fin neg m e).flip c = .fin (neg != c) m e := by
  cases c <;> cases neg <;> rfl

theorem Num.Is.flip {x : Num} {neg : Bool} {v : ℝ} (h : x.Is neg v) (c : Bool) : (x.flip c).Is (neg != c) v := by
  obtain ⟨m, e, rfl, hv⟩ := h
  exact ⟨m, e, Num.flip_fin c neg m e, hv⟩

theorem Num.Is.sign_eq {x : Num} {neg : Bool} {v : ℝ} (h : x.Is neg v) : x.sign = neg := by
  obtain ⟨m, e, rfl, -⟩ := h
  rfl

theorem Num.Is.isInf_eq {x : Num} {neg : Bool} {v : ℝ} (h : x.Is neg v) : x.isInf = false := by
  obtain ⟨m, e, rfl, -⟩ := h
  rfl

@[simp] theorem Num.isNan_nan : Num.nan.isNan = true := rfl

theorem Num.isNan_iff (x : Num) : x.isNan = true ↔ x = .nan := by cases x <;> simp [Num.isNan]

theorem Num.isNan_eq_false {x : Num} (h : x ≠ .nan) : x.isNan = false := by
  rw [← Bool.not_eq_true, x.isNan_iff]
  exact h

theorem Num.isInf_iff (x : Num) : x.isInf = true ↔ x = .inf x.sign := by cases x <;> simp [Num.isInf, Num.sign]

/-! ### Sums -/

theorem Num.add_nan_left (rdn : Bool) (y : Num) : Num.add rdn .nan y = .nan := rfl
theorem Num.add_nan_right (rdn : Bool) (x : Num) : Num.add rdn x .nan = .nan := by cases x <;> rfl

theorem Num.add_inf_opposite (rdn : Bool) {a b : Bool} (h : a ≠ b) : Num.add rdn (.inf a) (.inf b) = .nan := if_neg h

/-- An infinity stays one but where its opposite is added. -/
theorem Num.add_inf_left (rdn s : Bool) {y : Num} (hn : y ≠ .nan) (hi : y ≠ .inf (!s)) : Num.add rdn (.inf s) y = .inf s := by
  cases y with
  | nan => exact absurd rfl hn
  | inf b =>
    have hb : s = b := by
      by_contra hc
      exact hi (congrArg Num.inf (Bool.eq_not.2 (Ne.symm hc)))
    exact if_pos hb
  | fin n m e => rfl

theorem Num.add_inf_right (rdn s : Bool) {x : Num} (hn : x ≠ .nan) (hi : x ≠ .inf (!s)) : Num.add rdn x (.inf s) = .inf s := by
  cases x with
  | nan => exact absurd rfl hn
  | inf b =>
    have hb : b = s := by
      by_contra hc
      exact hi (congrArg Num.inf (Bool.eq_not.2 hc))
    rw [hb]
    exact if_pos rfl
  | fin n m e => rfl

/-- The sum of finite values is exact; a zero has the common sign, or that of the mode (R132). -/
theorem Num.Is.add {x y : Num} {n1 n2 : Bool} {v1 v2 : ℝ} (hx : x.Is n1 v1) (hy : y.Is n2 v2) (rdn : Bool) :
    ∃ neg, (Num.add rdn x y).Is neg |signed n1 v1 + signed n2 v2|
      ∧ SignOf neg (signed n1 v1 + signed n2 v2) (if n1 = n2 then n1 else rdn) := by
  obtain ⟨m1, e1, rfl, rfl⟩ := hx
  obtain ⟨m2, e2, rfl, rfl⟩ := hy
  have hp : (0 : ℝ) < 2 ^ min e1 e2 := zpow_pos two_pos _
  have hv : signed n1 (m1 * 2 ^ e1) + signed n2 (m2 * 2 ^ e2) = ((sint n1 (m1 * 2 ^ (e1 - min e1 e2).toNat)
      + sint n2 (m2 * 2 ^ (e2 - min e1 e2).toNat) : Int) : ℝ) * 2 ^ min e1 e2 := by
    rw [Int.cast_add, add_mul, sint_mul_two_zpow n1 m1 (min_le_left _ _), sint_mul_two_zpow n2 m2 (min_le_right _ _)]
  rw [hv]
  unfold Num.add
  dsimp only
  generalize sint n1 (m1 * 2 ^ (e1 - min e1 e2).toNat) + sint n2 (m2 * 2 ^ (e2 - min e1 e2).toNat) = t
  by_cases ht : t = 0
  · rw [if_pos ht, ht, Int.cast_zero, zero_mul, abs_zero]
    exact ⟨_, ⟨0, _, rfl, by rw [Nat.cast_zero, zero_mul]⟩, fun h => absurd h (lt_irrefl _), fun h => absurd h (lt_irrefl _), fun _ => rfl⟩
  · rw [if_neg ht, abs_mul, abs_of_pos hp]
    refine ⟨_, ⟨_, _, rfl, by rw [Nat.cast_natAbs, Int.cast_abs]⟩, fun h => ?_, fun h => ?_, fun h => ?_⟩
    · exact decide_eq_true (mod_cast (neg_of_mul_neg_left h hp.le : (t : ℝ) < 0))
    · have h0 : (0 : ℝ) < t := (mul_pos_iff_of_pos_right hp).1 h
      exact decide_eq_false (not_lt.2 (mod_cast h0.le))
    · rcases mul_eq_zero.1 h with h | h
      · exact absurd (mod_cast h) ht
      · exact absurd h hp.ne'

/-! ### Products -/

theorem Num.mul_nan_left (y : Num) : Num.nan.mul y = .nan := rfl
theorem Num.mul_nan_right (x : Num) : x.mul .nan = .nan := by cases x <;> rfl

/-- Infinity times zero is invalid. -/
theorem Num.mul_invalid {x y : Num} (h : (x.isInf = true ∧ y.isZero = true) ∨ (x.isZero = true ∧ y.isInf = true)) :
    x.mul y = .nan := by
  rcases h with ⟨hi, hz⟩ | ⟨hz, hi⟩
  · rw [(x.isInf_iff).1 hi]
    cases y with
    | fin n m e => exact if_pos hz
    | nan => rfl
    | inf b => exact absurd hz Bool.false_ne_true
  · rw [(y.isInf_iff).1 hi]
    cases x with
    | fin n m e => exact if_pos hz
    | nan => rfl
    | inf b => exact absurd hz Bool.false_ne_true

/-- Infinity times anything else is infinity. -/
theorem Num.mul_infinite {x y : Num} (hx : x ≠ .nan) (hy : y ≠ .nan)
    (h : (x.isInf = true ∧ y.isZero = false) ∨ (x.isZero = false ∧ y.isInf = true)) : x.mul y = .inf (x.sign != y.sign) := by
  rcases h with ⟨hi, hz⟩ | ⟨hz, hi⟩
  · rw [(x.isInf_iff).1 hi]
    cases y with
    | nan => exact absurd rfl hy
    | inf b => rfl
    | fin n m e => exact if_neg (by simp [hz])
  · rw [(y.isInf_iff).1 hi]
    cases x with
    | nan => exact absurd rfl hx
    | inf b => rfl
    | fin n m e => exact if_neg (by simp [hz])

theorem Num.Is.mul {x y : Num} {n1 n2 : Bool} {v1 v2 : ℝ} (hx : x.Is n1 v1) (hy : y.Is n2 v2) :
    (x.mul y).Is (n1 != n2) (v1 * v2) := by
  obtain ⟨m1, e1, rfl, rfl⟩ := hx
  obtain ⟨m2, e2, rfl, rfl⟩ := hy
  refine ⟨m1 * m2, e1 + e2, rfl, ?_⟩
  rw [zpow_add₀ two_ne_zero, Nat.cast_mul]
  ring

/-! ### Quotients -/

theorem Num.div_nan_right (x : Num) : x.div .nan = .nan := by cases x <;> rfl

/-- Infinity over infinity and zero over zero are invalid. -/
theorem Num.div_invalid {x y : Num} (h : (x.isInf = true ∧ y.isInf = true) ∨ (x.isZero = true ∧ y.isZero = true)) :
    x.div y = .nan := by
  rcases h with ⟨hx, hy⟩ | ⟨hx, hy⟩
  · rw [(x.isInf_iff).1 hx, (y.isInf_iff).1 hy]
    rfl
  · cases x with
    | nan | inf a => exact absurd hx Bool.false_ne_true
    | fin n1 m1 e1 =>
      cases y with
      | nan | inf b => exact absurd hy Bool.false_ne_true
      | fin n2 m2 e2 =>
        have h1 : m1 = 0 := by simpa [Num.isZero] using hx
        have h2 : m2 = 0 := by simpa [Num.isZero] using hy
        simp only [Num.div, if_pos h1, if_pos h2]

/-- Infinity over a finite value and a value over zero are infinite. -/
theorem Num.div_infinite {x y : Num} (hx : x ≠ .nan) (hy : y ≠ .nan) (h : x.isInf = true ∨ y.isZero = true)
    (hv : ¬((x.isInf = true ∧ y.isInf = true) ∨ (x.isZero = true ∧ y.isZero = true))) : x.div y = .inf (x.sign != y.sign) := by
  obtain ⟨hii, hzz⟩ := not_or.1 hv
  cases x with
  | nan => exact absurd rfl hx
  | inf a =>
    cases y with
    | nan => exact absurd rfl hy
    | inf b => exact absurd ⟨rfl, rfl⟩ hii
    | fin n2 m2 e2 => rfl
  | fin n1 m1 e1 =>
    cases y with
    | nan => exact absurd rfl hy
    | inf b => exact absurd h (by simp [Num.isInf, Num.isZero])
    | fin n2 m2 e2 =>
      have h2 : m2 = 0 := by simpa [Num.isInf, Num.isZero] using h
      have h1 : m1 ≠ 0 := by
        rintro rfl
        exact hzz ⟨rfl, by simp [Num.isZero, h2]⟩
      simp only [Num.div, if_pos h2, if_neg h1]
      rfl

/-- An integer quotient, with a mark where a remainder is left, stands for the real one. -/
theorem Ex.stands_div (neg : Bool) (a : Nat) {b : Nat} (q : Int) (hb : b ≠ 0) :
    Ex.Stands ⟨neg, a / b, q, a % b != 0⟩ ((a : ℝ) / b * 2 ^ q) := by
  have hp : (0 : ℝ) < b := mod_cast Nat.pos_of_ne_zero hb
  have hq : (0 : ℝ) < 2 ^ q := zpow_pos two_pos _
  have hdm : (a : ℝ) = b * (a / b : Nat) + (a % b : Nat) := mod_cast (Nat.div_add_mod a b).symm
  have hlt : ((a % b : Nat) : ℝ) < b := mod_cast Nat.mod_lt a (Nat.pos_of_ne_zero hb)
  unfold Ex.Stands
  dsimp only
  split
  · rename_i hr
    have hr0 : (0 : ℝ) < (a % b : Nat) := mod_cast Nat.pos_of_ne_zero (by simpa using hr)
    refine ⟨mul_lt_mul_of_pos_right ?_ hq, mul_lt_mul_of_pos_right ?_ hq⟩
    · rw [lt_div_iff₀ hp]
      linarith
    · rw [div_lt_iff₀ hp]
      linarith
  · rename_i hr
    have hr0 : a % b = 0 := by simpa using hr
    rw [hr0, Nat.cast_zero, add_zero] at hdm
    rw [div_eq_of_eq_mul hp.ne' (hdm.trans (mul_comm _ _))]

/-- The quotient of finite values, to more digits than any format keeps, with a mark where a remainder is left. -/
theorem Num.Is.div {x y : Num} {n1 n2 : Bool} {v1 v2 : ℝ} (hx : x.Is n1 v1) (hy : y.Is n2 v2) (h2 : v2 ≠ 0) :
    ∃ q : Ex, x.div y = .ex q ∧ q.neg = (n1 != n2) ∧ q.Stands (v1 / v2) ∧ q.Fine := by
  obtain ⟨m1, e1, rfl, rfl⟩ := hx
  obtain ⟨m2, e2, rfl, rfl⟩ := hy
  have hm2 : m2 ≠ 0 := by
    rintro rfl
    exact h2 (by rw [Nat.cast_zero, zero_mul])
  have hv : (m1 : ℝ) * 2 ^ e1 / (m2 * 2 ^ e2)
      = (m1 * 2 ^ (96 + Nat.log2 m2) : Nat) / m2 * 2 ^ (e1 - e2 - (96 + Nat.log2 m2 : Nat)) := by
    have hp : (m2 : ℝ) ≠ 0 := mod_cast hm2
    rw [zpow_sub₀ two_ne_zero, zpow_sub₀ two_ne_zero, zpow_natCast]
    push_cast
    field_simp
  rw [hv]
  refine ⟨_, if_neg hm2, rfl, Ex.stands_div _ _ _ hm2, fun hr => ?_⟩
  have hm1 : m1 ≠ 0 := by
    rintro rfl
    simp at hr
  refine (Nat.le_div_iff_mul_le (Nat.pos_of_ne_zero hm2)).2 ?_
  calc 2 ^ 40 * m2 ≤ 2 ^ 40 * 2 ^ (Nat.log2 m2 + 1) := Nat.mul_le_mul_left _ Nat.lt_log2_self.le
    _ = 2 ^ (41 + Nat.log2 m2) := by rw [← pow_add]; congr 1; omega
    _ ≤ 2 ^ (96 + Nat.log2 m2) := Nat.pow_le_pow_right Nat.two_pos (by omega)
    _ ≤ m1 * 2 ^ (96 + Nat.log2 m2) := Nat.le_mul_of_pos_left _ (Nat.pos_of_ne_zero hm1)

/-! ### Square roots -/

/-- Bit by bit, the greatest number whose square is not above v. -/
theorem isqrt_bounds (v n r : Nat) (h1 : r * r ≤ v) (h2 : v < (r + 2 ^ (n + 1)) * (r + 2 ^ (n + 1))) :
    isqrt v n r * isqrt v n r ≤ v ∧ v < (isqrt v n r + 1) * (isqrt v n r + 1) := by
  induction n generalizing r with
  | zero =>
    unfold isqrt
    split
    · rename_i h
      exact ⟨h, h2⟩
    · rename_i h
      exact ⟨h1, not_le.1 h⟩
  | succ n ih =>
    unfold isqrt
    split
    · rename_i h
      refine ih _ h ?_
      rwa [pow_succ 2 (n + 1), mul_two, ← Nat.add_assoc] at h2
    · rename_i h
      exact ih _ h1 (not_le.1 h)

/-- The integer root of the model is the library's. -/
theorem isqrt_eq_sqrt (v : Nat) : isqrt v (Nat.log2 v / 2 + 1) 0 = Nat.sqrt v := by
  obtain ⟨h1, h2⟩ := isqrt_bounds v (Nat.log2 v / 2 + 1) 0 (Nat.zero_le v) (by
    rw [Nat.zero_add, ← pow_add]
    exact Nat.lt_log2_self.trans_le (Nat.pow_le_pow_right Nat.two_pos (by omega)))
  exact Nat.eq_sqrt.2 ⟨h1, h2⟩

/-- An integer root, with a mark where it is not exact, stands for the real one. -/
theorem Ex.stands_sqrt (w : Nat) (q : Int) :
    Ex.Stands ⟨false, Nat.sqrt w, q, Nat.sqrt w * Nat.sqrt w != w⟩ (Real.sqrt w * 2 ^ q) := by
  have hq : (0 : ℝ) < 2 ^ q := zpow_pos two_pos _
  unfold Ex.Stands
  dsimp only
  split
  · rename_i hne
    have hlt : Nat.sqrt w ^ 2 < w := by
      rw [sq]
      exact lt_of_le_of_ne (Nat.sqrt_le w) (by simpa using hne)
    have hgt : w < (Nat.sqrt w + 1) ^ 2 := by
      rw [sq]
      exact Nat.lt_succ_sqrt w
    exact ⟨mul_lt_mul_of_pos_right (Real.lt_sqrt_of_sq_lt (mod_cast hlt)) hq,
      mul_lt_mul_of_pos_right ((Real.sqrt_lt' (by positivity)).2 (mod_cast hgt)) hq⟩
  · rename_i he
    have he' : Nat.sqrt w * Nat.sqrt w = w := by simpa using he
    conv_lhs => rw [← he', Nat.cast_mul, Real.sqrt_mul_self (Nat.cast_nonneg _)]

/-- The bits that the model adds to a significand before it takes the root: they leave an even exponent. -/
def rootBits (e : Int) : Nat := 96 + (if e % 2 = 0 then 0 else 1)

theorem rootBits_even (e : Int) : e = rootBits e + (e - rootBits e) / 2 + (e - rootBits e) / 2 := by
  unfold rootBits
  split <;> push_cast <;> omega

theorem rootBits_ge (e : Int) : 80 ≤ rootBits e := (by decide : 80 ≤ 96).trans (Nat.le_add_right 96 _)

theorem Num.sqrt_fin {m : Nat} (e : Int) (hm : m ≠ 0) :
    let w := m * 2 ^ rootBits e
    Num.sqrt (.fin false m e) = .ex ⟨false, Nat.sqrt w, (e - rootBits e) / 2, Nat.sqrt w * Nat.sqrt w != w⟩ := by
  intro w
  rw [← isqrt_eq_sqrt]
  exact (if_neg hm).trans (if_neg Bool.false_ne_true)

/-- The root of a finite value that is not negative, to more digits than any format keeps, with a mark where it is not exact. -/
theorem Num.Is.sqrt {x : Num} {n : Bool} {v : ℝ} (hx : x.Is n v) (hn : v = 0 ∨ n = false) :
    ∃ q : Ex, x.sqrt = .ex q ∧ q.neg = n ∧ q.Stands (Real.sqrt v) ∧ q.Fine := by
  obtain ⟨m, e, rfl, rfl⟩ := hx
  by_cases hm : m = 0
  · refine ⟨_, if_pos hm, rfl, ?_, Ex.fine_of_exact rfl⟩
    rw [hm, Nat.cast_zero, zero_mul, Real.sqrt_zero]
    simpa using Ex.stands_exact n 0 0
  · obtain rfl : n = false := hn.resolve_left (mul_ne_zero (mod_cast hm) (zpow_ne_zero _ two_ne_zero))
    have hp : (0 : ℝ) < 2 ^ ((e - rootBits e) / 2) := zpow_pos two_pos _
    have hroot : Real.sqrt (m * 2 ^ e) = Real.sqrt (m * 2 ^ rootBits e : Nat) * 2 ^ ((e - rootBits e) / 2) := by
      rw [← Real.sqrt_sq hp.le, ← Real.sqrt_mul (Nat.cast_nonneg _)]
      congr 1
      conv_lhs => rw [rootBits_even e, zpow_add₀ two_ne_zero, zpow_add₀ two_ne_zero, zpow_natCast]
      push_cast
      ring
    have hw : 2 ^ 40 * 2 ^ 40 ≤ m * 2 ^ rootBits e := by
      rw [← pow_add]
      exact (Nat.pow_le_pow_right Nat.two_pos (rootBits_ge e)).trans (Nat.le_mul_of_pos_left _ (Nat.pos_of_ne_zero hm))
    rw [hroot]
    exact ⟨_, Num.sqrt_fin e hm, rfl, Ex.stands_sqrt _ _, fun _ => Nat.le_sqrt.2 hw⟩

end Sys2Proof.Machine
end


section
/-! SUPPORT. The arithmetic operations on patterns (spec/07 R132, spec/13 R252): NaN, invalid, infinite and finite results. -/

namespace Sys2Proof.Machine

theorem ftyFF_hasNan (ty : FTy) : (ftyFF ty).hasNan = true := by cases ty <;> rfl

/-! ### Two operands -/

/-- The exact result of a two-operand operation. -/
def FBin.result (op : FBin) (rdn : Bool) (x y : Num) : Exact :=
  match op with
  | .add => (Num.add rdn x y).exact
  | .sub => (Num.add rdn x (y.flip true)).exact
  | .mul => (x.mul y).exact
  | .div => x.div y

theorem FF.bin_eq (f : FF) (op : FBin) (a b : Nat) (rm : Rm) (sat : Bool) (l : Quad) :
    f.bin op a b rm sat l = f.finish (op.result (decide (rm = .rdn)) (f.decode a) (f.decode b)) rm sat l none
      ((f.decode a).isNan || (f.decode b).isNan) ((f.decode a).isInf || (f.decode b).isInf) := by
  cases op <;> rfl

theorem FBin.result_nan (op : FBin) (rdn : Bool) {x y : Num} (h : x = .nan ∨ y = .nan) : op.result rdn x y = .nan := by
  rcases h with rfl | rfl
  · cases op <;> rfl
  · cases op <;> simp only [FBin.result, Num.flip_nan, Num.add_nan_right, Num.mul_nan_right, Num.div_nan_right, Num.exact]

theorem Num.isNan_or {x y : Num} (h : x = .nan ∨ y = .nan) : (x.isNan || y.isNan) = true := by
  rcases h with rfl | rfl <;> simp

theorem FBin.result_invalid {op : FBin} (rdn : Bool) {x y : Num} (h : op.Invalid x y) : op.result rdn x y = .nan := by
  rcases h with ⟨rfl, s, rfl, rfl⟩ | ⟨rfl, s, rfl, rfl⟩ | ⟨rfl, h⟩ | ⟨rfl, h⟩
  · exact congrArg Num.exact (Num.add_inf_opposite rdn (by simp))
  · rw [FBin.result, Num.flip_inf, Bool.bne_true]
    exact congrArg Num.exact (Num.add_inf_opposite rdn (by simp))
  · exact congrArg Num.exact (Num.mul_invalid h)
  · exact Num.div_invalid h

theorem Num.isNan_of_isInf {x : Num} (h : x.isInf = true) : x.isNan = false := by
  rw [x.isInf_iff.1 h]
  rfl

theorem Num.isNan_of_isZero {x : Num} (h : x.isZero = true) : x.isNan = false := by
  cases x with
  | nan => exact h.symm.trans rfl
  | inf n | fin n m e => rfl

/-- An operation that is invalid has no NaN operand. -/
theorem FBin.Invalid.no_nan {op : FBin} {x y : Num} (h : op.Invalid x y) : x.isNan = false ∧ y.isNan = false := by
  rcases h with ⟨-, s, rfl, rfl⟩ | ⟨-, s, rfl, rfl⟩ | ⟨-, ⟨h1, h2⟩ | ⟨h1, h2⟩⟩ | ⟨-, ⟨h1, h2⟩ | ⟨h1, h2⟩⟩
  · exact ⟨rfl, rfl⟩
  · exact ⟨rfl, rfl⟩
  · exact ⟨Num.isNan_of_isInf h1, Num.isNan_of_isZero h2⟩
  · exact ⟨Num.isNan_of_isZero h1, Num.isNan_of_isInf h2⟩
  · exact ⟨Num.isNan_of_isInf h1, Num.isNan_of_isInf h2⟩
  · exact ⟨Num.isNan_of_isZero h1, Num.isNan_of_isZero h2⟩

theorem Num.flip_eq_nan {x : Num} {c : Bool} : x.flip c = .nan ↔ x = .nan := by
  cases x <;> simp

theorem Num.flip_eq_inf {x : Num} {c s : Bool} : x.flip c = .inf s ↔ x = .inf (s != c) := by
  cases x <;> cases c <;> simp [Bool.not_eq_eq_eq_not]

theorem FBin.result_infinite {op : FBin} (rdn : Bool) {x y : Num} {s : Bool} (h : op.Infinite x y s) :
    op.result rdn x y = .inf s := by
  obtain ⟨hx, hy, hv, h⟩ := h
  rcases h with ⟨rfl, h⟩ | ⟨rfl, h⟩ | ⟨rfl, h, rfl⟩ | ⟨rfl, h, rfl⟩
  · have ha : Num.add rdn x y = .inf s := by
      rcases h with rfl | rfl
      · exact Num.add_inf_left rdn s hy fun hc => hv (.inl ⟨rfl, s, rfl, hc⟩)
      · exact Num.add_inf_right rdn s hx fun hc => hv (.inl ⟨rfl, !s, hc, by rw [Bool.not_not]⟩)
    exact congrArg Num.exact ha
  · have ha : Num.add rdn x (y.flip true) = .inf s := by
      rcases h with rfl | rfl
      · refine Num.add_inf_left rdn s (mt Num.flip_eq_nan.1 hy) fun hc => hv (.inr (.inl ⟨rfl, s, rfl, ?_⟩))
        simpa using Num.flip_eq_inf.1 hc
      · rw [Num.flip_inf, Bool.bne_true, Bool.not_not]
        exact Num.add_inf_right rdn s hx fun hc => hv (.inr (.inl ⟨rfl, !s, hc, rfl⟩))
    exact congrArg Num.exact ha
  · have hm : ¬((x.isInf = true ∧ y.isZero = true) ∨ (x.isZero = true ∧ y.isInf = true)) :=
      fun hc => hv (.inr (.inr (.inl ⟨rfl, hc⟩)))
    obtain ⟨h1, h2⟩ := not_or.1 hm
    refine congrArg Num.exact (Num.mul_infinite hx hy ?_)
    rcases h with h | h
    · exact .inl ⟨h, by simpa using fun hc => h1 ⟨h, hc⟩⟩
    · exact .inr ⟨by simpa using fun hc => h2 ⟨hc, h⟩, h⟩
  · exact Num.div_infinite hx hy h fun hc => hv (.inr (.inr (.inr ⟨rfl, hc⟩)))

/-! ### Finite results -/

section
variable {f : FF} {lm : Nat} {le : Int} {nb : Nat} (row : f.Row lm le nb) (rm : Rm) (sat : Bool) (l : Quad) (src : Option Int) (inNan : Bool)
include row

/-- A finite value is rounded once. -/
theorem FF.Row.finish_is {z : Num} {neg : Bool} {v : ℝ} (hz : z.Is neg v) :
    f.Rounds lm le neg v rm sat l src (f.finish z.exact rm sat l src inNan false) := by
  obtain ⟨m, e, rfl, rfl⟩ := hz
  exact row.finish_rounds (Ex.stands_exact neg m e) (Ex.fine_of_exact rfl) rm sat l src inNan nofun

/-- A sum of finite values is rounded once; the sign of an exact zero is the common one, or that of the mode. -/
theorem FF.Row.finish_add {x y : Num} {n1 n2 neg : Bool} {v1 v2 : ℝ} (hx : x.Is n1 v1) (hy : y.Is n2 v2)
    (hs : SignOf neg (signed n1 v1 + signed n2 v2) (if n1 = n2 then n1 else decide (rm = .rdn))) :
    f.Rounds lm le neg |signed n1 v1 + signed n2 v2| rm sat l src
      (f.finish (Num.add (decide (rm = .rdn)) x y).exact rm sat l src inNan false) := by
  obtain ⟨neg', hz, hs'⟩ := hx.add hy (decide (rm = .rdn))
  obtain rfl := hs.unique hs'
  exact row.finish_is rm sat l src inNan hz

end

section
variable {ty : FTy} {lm : Nat} {le : Int} {nb : Nat} (row : (ftyFF ty).Row lm le nb) (rm : Rm) (sat : Bool) (l : Quad)
include row

/-- A NaN result of NaN operands counts nothing. -/
theorem FF.Row.finish_quiet (inInf : Bool) :
    (ftyFF ty).finish .nan rm sat l none true inInf = ⟨nb, drawn rm 1 l, false, false, false⟩ := by
  rw [row.finish_nan, Bool.not_true, Bool.and_false]

/-- A NaN result of operands that are not NaN is an event. -/
theorem FF.Row.finish_invalid (inInf : Bool) :
    (ftyFF ty).finish .nan rm sat l none false inInf = ⟨nb, drawn rm 1 l, true, false, false⟩ := by
  rw [row.finish_nan, ftyFF_hasNan]
  rfl

/-- Two finite operands: the real result rounded once. -/
theorem FF.Row.bin_finite (op : FBin) {a b : Nat} {n1 n2 : Bool} {v1 v2 : ℝ} (ha : Num.Is ((ftyFF ty).decode a) n1 v1)
    (hb : Num.Is ((ftyFF ty).decode b) n2 v2) :
    (op = .add ∨ op = .sub → ∀ neg n3 : Bool, n3 = (if op = .add then n2 else !n2) →
      SignOf neg (signed n1 v1 + signed n3 v2) (if n1 = n3 then n1 else decide (rm = .rdn)) →
      (ftyFF ty).Rounds lm le neg |signed n1 v1 + signed n3 v2| rm sat l none ((ftyFF ty).bin op a b rm sat l))
    ∧ (op = .mul → (ftyFF ty).Rounds lm le (n1 != n2) (v1 * v2) rm sat l none ((ftyFF ty).bin op a b rm sat l))
    ∧ (op = .div → v2 ≠ 0 → (ftyFF ty).Rounds lm le (n1 != n2) (v1 / v2) rm sat l none ((ftyFF ty).bin op a b rm sat l)) := by
  rw [FF.bin_eq, ha.isInf_eq, hb.isInf_eq, Bool.or_false]
  refine ⟨?_, ?_, ?_⟩
  · rintro (rfl | rfl) neg n3 rfl hs
    · exact row.finish_add rm sat l none _ ha hb hs
    · have hb' := hb.flip true
      rw [Bool.bne_true] at hb'
      exact row.finish_add rm sat l none _ ha hb' hs
  · rintro rfl
    exact row.finish_is rm sat l none _ (ha.mul hb)
  · rintro rfl h2
    obtain ⟨q, hq, hn, hst, hf⟩ := ha.div hb h2
    rw [FBin.result, hq, ← hn]
    exact row.finish_rounds hst hf rm sat l none _ nofun

/-- A finite value over an infinity is a zero, and no event though an operand is infinite. -/
theorem FF.Row.div_inf {a b : Nat} {n1 n2 : Bool} {v1 : ℝ} (ha : Num.Is ((ftyFF ty).decode a) n1 v1)
    (hb : (ftyFF ty).decode b = .inf n2) :
    (ftyFF ty).Rounds lm le (n1 != n2) 0 rm sat l none ((ftyFF ty).bin .div a b rm sat l) := by
  obtain ⟨m, e, hm, -⟩ := ha
  rw [FF.bin_eq, hm, hb]
  have hst : Ex.Stands ⟨n1 != n2, 0, 0, false⟩ 0 := by simpa using Ex.stands_exact (n1 != n2) 0 0
  exact row.finish_rounds hst (Ex.fine_of_exact rfl) rm sat l none _ fun _ => rfl

/-! ### Square root -/

omit row in
theorem FF.root_eq (f : FF) (a : Nat) (rm : Rm) (sat : Bool) (l : Quad) :
    f.root a rm sat l = f.finish (f.decode a).sqrt rm sat l none (f.decode a).isNan (f.decode a).isInf := rfl

theorem FF.Row.root_finite {a : Nat} {n : Bool} {v : ℝ} (ha : Num.Is ((ftyFF ty).decode a) n v) (hv : v = 0 ∨ n = false) :
    (ftyFF ty).Rounds lm le n (Real.sqrt v) rm sat l none ((ftyFF ty).root a rm sat l) := by
  obtain ⟨q, hq, hn, hst, hf⟩ := ha.sqrt hv
  rw [FF.root_eq, hq, ← hn, ha.isInf_eq]
  exact row.finish_rounds hst hf rm sat l none _ nofun

end

/-- The root of a value below −0 is invalid. -/
theorem Num.sqrt_negative {x : Num} (hs : x.sign = true) (hz : x.isZero = false) : x.sqrt = .nan := by
  cases x with
  | nan => rfl
  | inf n => exact if_pos hs
  | fin n m e =>
    have hm : m ≠ 0 := by simpa [Num.isZero] using hz
    exact (if_neg hm).trans (if_pos hs)

/-! ### Fused operations -/

theorem FF.fma_eq (f : FF) (a b c : Nat) (negP negC : Bool) (rm : Rm) (sat : Bool) (l : Quad) :
    f.fma a b c negP negC rm sat l
      = f.finish (Num.add (decide (rm = .rdn)) (((f.decode a).mul (f.decode b)).flip negP) ((f.decode c).flip negC)).exact rm sat l none
        ((f.decode a).isNan || (f.decode b).isNan || (f.decode c).isNan)
        ((f.decode a).isInf || (f.decode b).isInf || (f.decode c).isInf) := rfl

/-- Two values that are not NaN have a finite product unless it is invalid or infinite. -/
theorem Num.mul_cases {x y : Num} (hx : x ≠ .nan) (hy : y ≠ .nan) :
    FBin.Invalid .mul x y ∨ ((x.isInf = true ∧ y.isZero = false) ∨ (x.isZero = false ∧ y.isInf = true))
    ∨ ∃ n1 n2 m1 m2 e1 e2, x = .fin n1 m1 e1 ∧ y = .fin n2 m2 e2 := by
  cases x with
  | nan => exact absurd rfl hx
  | inf a =>
    cases hz : y.isZero with
    | true => exact .inl (.inr (.inr (.inl ⟨rfl, .inl ⟨rfl, hz⟩⟩)))
    | false => exact .inr (.inl (.inl ⟨rfl, rfl⟩))
  | fin n1 m1 e1 =>
    cases y with
    | nan => exact absurd rfl hy
    | inf b =>
      cases hz : (Num.fin n1 m1 e1).isZero with
      | true => exact .inl (.inr (.inr (.inl ⟨rfl, .inr ⟨hz, rfl⟩⟩)))
      | false => exact .inr (.inl (.inr ⟨rfl, rfl⟩))
    | fin n2 m2 e2 => exact .inr (.inr ⟨n1, n2, m1, m2, e1, e2, rfl, rfl⟩)

section
variable {x y z : Num} (negP negC rdn : Bool)

theorem Num.fused_nan (h : x = .nan ∨ y = .nan ∨ z = .nan) :
    Num.add rdn ((x.mul y).flip negP) (z.flip negC) = .nan ∧ (x.isNan || y.isNan || z.isNan) = true := by
  rcases h with rfl | rfl | rfl
  · simp [Num.mul_nan_left, Num.add_nan_left]
  · simp [Num.mul_nan_right, Num.add_nan_left]
  · simp [Num.add_nan_right]

/-- A fused operation is invalid where its product is, or where an infinite product meets the opposite infinity. -/
theorem Num.fused_invalid (hx : x ≠ .nan) (hy : y ≠ .nan)
    (h : FBin.Invalid .mul x y ∨ (((x.isInf = true ∧ y.isZero = false) ∨ (x.isZero = false ∧ y.isInf = true)) ∧ z.isInf = true
      ∧ ((x.sign != y.sign) != negP) ≠ (z.sign != negC))) :
    Num.add rdn ((x.mul y).flip negP) (z.flip negC) = .nan := by
  rcases h with h | ⟨he, hz, hs⟩
  · have hm : x.mul y = .nan := by
      rcases h with ⟨hc, -⟩ | ⟨hc, -⟩ | ⟨-, h⟩ | ⟨hc, -⟩
      · cases hc
      · cases hc
      · exact Num.mul_invalid h
      · cases hc
    rw [hm, Num.flip_nan, Num.add_nan_left]
  · rw [Num.mul_infinite hx hy he, z.isInf_iff.1 hz, Num.flip_inf, Num.flip_inf]
    exact Num.add_inf_opposite rdn hs

/-- It is infinite where its product is or its addend. -/
theorem Num.fused_infinite (hx : x ≠ .nan) (hy : y ≠ .nan) (hz : z ≠ .nan) (hv : ¬FBin.Invalid .mul x y) {s : Bool}
    (h : (((x.isInf = true ∧ y.isZero = false) ∨ (x.isZero = false ∧ y.isInf = true)) ∧ s = ((x.sign != y.sign) != negP)
        ∧ (z.isInf = true → s = (z.sign != negC)))
      ∨ (¬((x.isInf = true ∧ y.isZero = false) ∨ (x.isZero = false ∧ y.isInf = true)) ∧ z.isInf = true ∧ s = (z.sign != negC))) :
    Num.add rdn ((x.mul y).flip negP) (z.flip negC) = .inf s := by
  rcases h with ⟨he, rfl, hc⟩ | ⟨he, hzi, rfl⟩
  · rw [Num.mul_infinite hx hy he, Num.flip_inf]
    refine Num.add_inf_left rdn _ (mt Num.flip_eq_nan.1 hz) fun hi => ?_
    have hzi := Num.flip_eq_inf.1 hi
    have := hc (by rw [hzi]; rfl)
    rw [hzi] at this
    simp [Num.sign] at this
  · obtain hm | hm | ⟨n1, n2, m1, m2, e1, e2, rfl, rfl⟩ := Num.mul_cases hx hy
    · exact absurd hm hv
    · exact absurd hm he
    · rw [z.isInf_iff.1 hzi, Num.flip_inf]
      exact Num.add_inf_right rdn _ (mt Num.flip_eq_nan.1 nofun) fun hi => absurd (Num.flip_eq_inf.1 hi) nofun

end

/-- An infinite fused result has an infinite operand. -/
theorem Num.fused_isInf {x y z : Num} (h : ((x.isInf = true ∧ y.isZero = false) ∨ (x.isZero = false ∧ y.isInf = true)) ∨ z.isInf = true) :
    (x.isInf || y.isInf || z.isInf) = true := by
  rcases h with (⟨h, -⟩ | ⟨-, h⟩) | h <;> simp [h]

/-- Three finite operands: the real result rounded once. -/
theorem FF.Row.fma_finite {ty : FTy} {lm : Nat} {le : Int} {nb : Nat} (row : (ftyFF ty).Row lm le nb) (rm : Rm) (sat : Bool) (l : Quad)
    {a b c : Nat} (negP negC : Bool) {n1 n2 n3 neg : Bool} {v1 v2 v3 : ℝ} (ha : Num.Is ((ftyFF ty).decode a) n1 v1)
    (hb : Num.Is ((ftyFF ty).decode b) n2 v2) (hc : Num.Is ((ftyFF ty).decode c) n3 v3)
    (hs : SignOf neg (signed ((n1 != n2) != negP) (v1 * v2) + signed (n3 != negC) v3)
      (if ((n1 != n2) != negP) = (n3 != negC) then (n1 != n2) != negP else decide (rm = .rdn))) :
    (ftyFF ty).Rounds lm le neg |signed ((n1 != n2) != negP) (v1 * v2) + signed (n3 != negC) v3| rm sat l none
      ((ftyFF ty).fma a b c negP negC rm sat l) := by
  rw [FF.fma_eq, ha.isInf_eq, hb.isInf_eq, hc.isInf_eq]
  exact row.finish_add rm sat l none _ ((ha.mul hb).flip negP) (hc.flip negC) hs

end Sys2Proof.Machine
end


section
/-! SUPPORT. The order of values, the choices of minimum and maximum, and conversion to an integer (spec/07 R131, R132, spec/13 R252, R253). -/

namespace Sys2Proof.Machine

/-! ### Places -/

/-- Where a value stands among the extended reals. -/
noncomputable def Num.place : Num → EReal
  | .nan => 0
  | .inf neg => if neg then ⊥ else ⊤
  | .fin neg m e => (signed neg (m * 2 ^ e) : ℝ)

theorem Num.at_iff (x : Num) (a : EReal) : x.At a ↔ x ≠ .nan ∧ a = x.place := by
  cases x with
  | nan => simp [Num.At]
  | inf neg => simp [Num.At, Num.place]
  | fin neg m e =>
    have hs : (if neg then -1 else 1) * (m : ℝ) * 2 ^ e = signed neg (m * 2 ^ e) := by
      cases neg <;> simp [signed]
    simp only [Num.At, Num.place, hs, ne_eq, reduceCtorEq, not_false_eq_true, true_and]

theorem signed_eq_zero {neg : Bool} {v : ℝ} : signed neg v = 0 ↔ v = 0 := by
  cases neg <;> simp [signed]

/-- The values at zero are the zeros. -/
theorem Num.isZero_iff {x : Num} (h : x ≠ .nan) : x.isZero = true ↔ x.place = 0 := by
  cases x with
  | nan => exact absurd rfl h
  | inf neg => cases neg <;> simp [Num.isZero, Num.place]
  | fin neg m e =>
    have hp : (2 : ℝ) ^ e ≠ 0 := zpow_ne_zero e two_ne_zero
    simp [Num.isZero, Num.place, signed_eq_zero, hp]

/-- a lies below b by its place, or is −0 where b is no negative zero. -/
theorem Num.under_iff (a b : Num) : Num.Under a b ↔ a ≠ .nan ∧ b ≠ .nan
    ∧ (a.place < b.place ∨ (a.place = b.place ∧ a.isZero = true ∧ a.sign = true ∧ b.sign = false)) := by
  unfold Num.Under
  simp only [Num.at_iff]
  constructor
  · rintro ⟨x, y, ⟨ha, rfl⟩, ⟨hb, rfl⟩, h⟩
    exact ⟨ha, hb, h⟩
  · rintro ⟨ha, hb, h⟩
    exact ⟨_, _, ⟨ha, rfl⟩, ⟨hb, rfl⟩, h⟩

theorem Num.Under.irrefl (a : Num) : ¬Num.Under a a := by
  rw [Num.under_iff]
  rintro ⟨-, -, h | ⟨-, -, ht, hf⟩⟩
  · exact lt_irrefl _ h
  · exact Bool.false_ne_true (hf.symm.trans ht)

theorem Num.Under.asymm {a b : Num} (h : Num.Under a b) : ¬Num.Under b a := by
  rw [Num.under_iff] at h ⊢
  obtain ⟨-, -, h⟩ := h
  rintro ⟨-, -, h'⟩
  rcases h with h | ⟨he, -, ht, -⟩ <;> rcases h' with h' | ⟨he', -, -, hf'⟩
  · exact lt_asymm h h'
  · exact h.ne he'.symm
  · exact h'.ne he.symm
  · exact Bool.false_ne_true (hf'.symm.trans ht)

/-! ### The order of the model -/

/-- Finite values are compared as integers in units of the lesser exponent. -/
theorem Num.below_fin (n1 n2 : Bool) (m1 m2 : Nat) (e1 e2 : Int) :
    (Num.fin n1 m1 e1).below (.fin n2 m2 e2) = true ↔ Num.Under (.fin n1 m1 e1) (.fin n2 m2 e2) := by
  have hp : (0 : ℝ) < 2 ^ min e1 e2 := zpow_pos two_pos _
  have h1 := sint_mul_two_zpow n1 m1 (min_le_left e1 e2)
  have h2 := sint_mul_two_zpow n2 m2 (min_le_right e1 e2)
  rw [Num.under_iff, Num.place, Num.place, EReal.coe_lt_coe_iff, EReal.coe_eq_coe_iff, ← h1, ← h2, mul_lt_mul_iff_left₀ hp,
    mul_left_inj' hp.ne', Int.cast_lt, Int.cast_inj]
  have hz : ∀ {n : Bool} {m k : Nat}, sint n (m * 2 ^ k) = 0 ↔ m = 0 := by
    intro n m k
    cases n <;> simp [sint]
  have z1 : sint n1 (m1 * 2 ^ (e1 - min e1 e2).toNat) = 0 ↔ m1 = 0 := hz
  simp only [Num.below, Num.isZero, Num.sign, beq_iff_eq, ← z1]
  generalize sint n1 (m1 * 2 ^ (e1 - min e1 e2).toNat) = x
  generalize sint n2 (m2 * 2 ^ (e2 - min e1 e2).toNat) = y
  by_cases h : x = 0 ∧ y = 0
  · obtain ⟨rfl, rfl⟩ := h
    simp
  · rw [if_neg h, decide_eq_true_iff]
    refine ⟨fun hl => ⟨nofun, nofun, .inl hl⟩, ?_⟩
    rintro ⟨-, -, hl | ⟨rfl, hx, -⟩⟩
    · exact hl
    · exact absurd ⟨hx, hx⟩ h

theorem Num.below_iff (x y : Num) : x.below y = true ↔ Num.Under x y := by
  cases x with
  | nan => simp [Num.below, Num.under_iff]
  | inf a =>
    cases y with
    | nan => simp [Num.below, Num.under_iff]
    | inf b => cases a <;> cases b <;> simp [Num.below, Num.under_iff, Num.place, Num.isZero]
    | fin n m e => cases a <;> simp [Num.below, Num.under_iff, Num.place, Num.isZero]
  | fin n m e =>
    cases y with
    | nan => simp [Num.below, Num.under_iff]
    | inf b => cases b <;> simp [Num.below, Num.under_iff, Num.place]
    | fin n' m' e' => exact Num.below_fin n n' m m' e e'

/-- Less than: −0 does not lie below +0 (R253). -/
theorem Num.lt_iff {x y : Num} (hx : x ≠ .nan) (hy : y ≠ .nan) : Num.lt x y = true ↔ x.place < y.place := by
  have hz : (!(x.isZero && y.isZero)) = true ↔ ¬(x.place = 0 ∧ y.place = 0) := by
    rw [← Num.isZero_iff hx, ← Num.isZero_iff hy, ← Bool.and_eq_true, Bool.not_eq_true', Bool.not_eq_true]
  rw [Num.lt, Bool.and_eq_true, Num.below_iff, Num.under_iff, hz, Num.isZero_iff hx]
  constructor
  · rintro ⟨⟨-, -, h | ⟨he, hz, -⟩⟩, h0⟩
    · exact h
    · exact absurd ⟨hz, he ▸ hz⟩ h0
  · intro h
    refine ⟨⟨hx, hy, .inl h⟩, ?_⟩
    rintro ⟨h1, h2⟩
    rw [h1, h2] at h
    exact lt_irrefl _ h

theorem Num.eq_of_ne_nan {x y : Num} (hx : x ≠ .nan) (hy : y ≠ .nan) :
    Num.eq x y = ((!x.below y && !y.below x) || (x.isZero && y.isZero)) := by
  cases x with
  | nan => exact absurd rfl hx
  | inf a | fin n m e =>
    cases y with
    | nan => exact absurd rfl hy
    | inf b | fin n' m' e' => rfl

/-- Equal: also −0 and +0 (R253). -/
theorem Num.eq_iff {x y : Num} (hx : x ≠ .nan) (hy : y ≠ .nan) : Num.eq x y = true ↔ x.place = y.place := by
  rw [Num.eq_of_ne_nan hx hy]
  simp only [Bool.or_eq_true, Bool.and_eq_true, Bool.not_eq_true', ← Bool.not_eq_true, Num.below_iff, Num.under_iff, Num.isZero_iff hx,
    Num.isZero_iff hy]
  constructor
  · rintro (⟨h1, h2⟩ | ⟨h1, h2⟩)
    · exact le_antisymm (not_lt.1 fun h => h2 ⟨hy, hx, .inl h⟩) (not_lt.1 fun h => h1 ⟨hx, hy, .inl h⟩)
    · rw [h1, h2]
  · intro h
    by_cases hz : x.place = 0
    · exact .inr ⟨hz, h ▸ hz⟩
    · refine .inl ⟨?_, ?_⟩
      · rintro ⟨-, -, hl | ⟨-, h0, -⟩⟩
        · exact hl.ne h
        · exact hz h0
      · rintro ⟨-, -, hl | ⟨-, h0, -⟩⟩
        · exact hl.ne h.symm
        · exact hz (h.trans h0)

/-- Nothing compares with NaN. -/
theorem Num.compare_nan {x y : Num} (h : x = .nan ∨ y = .nan) : Num.lt x y = false ∧ Num.eq x y = false := by
  rcases h with rfl | rfl
  · exact ⟨rfl, rfl⟩
  · cases x <;> exact ⟨rfl, rfl⟩

/-! ### Minimum and maximum -/

/-- Of two patterns the second where it passes the first, else the first: one that neither passes. -/
theorem choice_unpassed {U : Num → Num → Prop} (irrefl : ∀ x, ¬U x x) (asymm : ∀ x y, U x y → ¬U y x) (g : Nat → Num) (a b : Nat)
    {c : Bool} (hc : c = true ↔ U (g a) (g b)) :
    ((if c then b else a) = a ∨ (if c then b else a) = b) ∧ ∀ z, z = a ∨ z = b → ¬U (g (if c then b else a)) (g z) := by
  cases c with
  | true =>
    refine ⟨.inr rfl, ?_⟩
    rintro z (rfl | rfl)
    · exact asymm _ _ (hc.1 rfl)
    · exact irrefl _
  | false =>
    refine ⟨.inl rfl, ?_⟩
    rintro z (rfl | rfl)
    · exact irrefl _
    · exact fun h => Bool.false_ne_true (hc.2 h)

section
variable {f : FF} {lm : Nat} {le : Int} {nb : Nat} (row : f.Row lm le nb)
include row

theorem FF.Row.pick_picks (hn : f.hasNan = true) (wantMax : Bool) (a b : Nat) : f.Picks wantMax nb a b (f.pick wantMax a b) := by
  have hnb : f.nanBits = nb := by
    rw [← row.nan]
    exact (if_pos hn).symm
  refine ⟨fun ha hb => ?_, fun ha hb => ?_, fun ha hb => ?_, fun ha hb => ?_⟩
  · simp [FF.pick, ha, hb, hnb]
  · simp [FF.pick, ha, Num.isNan_eq_false hb]
  · simp [FF.pick, hb, Num.isNan_eq_false ha]
  · have hp : f.pick wantMax a b = if wantMax then (if (f.decode a).below (f.decode b) then b else a)
        else (if (f.decode b).below (f.decode a) then b else a) := by
      simp [FF.pick, Num.isNan_eq_false ha, Num.isNan_eq_false hb]
    rw [hp]
    cases wantMax with
    | true => exact choice_unpassed Num.Under.irrefl (fun _ _ => Num.Under.asymm) f.decode a b (Num.below_iff _ _)
    | false =>
      exact choice_unpassed (U := fun x y => Num.Under y x) Num.Under.irrefl (fun _ _ => Num.Under.asymm) f.decode a b
        (Num.below_iff _ _)

omit row in
/-- A choice draws nothing and counts neither NaN nor infinity. -/
theorem FF.pickSat_frame (f : FF) (wantMax sat : Bool) (a b : Nat) (l : Quad) :
    (f.pickSat wantMax sat a b l).lfsr = l ∧ (f.pickSat wantMax sat a b l).nan = false ∧ (f.pickSat wantMax sat a b l).inf = false := by
  unfold FF.pickSat
  dsimp only
  split
  · cases sat <;> exact ⟨rfl, rfl, rfl⟩
  · exact ⟨rfl, rfl, rfl⟩

omit row in
/-- A choice that is kept as it is. -/
theorem FF.pickSat_kept (f : FF) (wantMax sat : Bool) (a b : Nat) (l : Quad)
    (h : sat = false ∨ (f.decode (f.pick wantMax a b)).isInf = false) :
    f.pickSat wantMax sat a b l = ⟨f.pick wantMax a b, l, false, false, false⟩ := by
  unfold FF.pickSat
  dsimp only
  split
  · rename_i neg hi
    rw [hi] at h
    exact if_neg (by simpa [Num.isInf] using h)
  · rfl

/-- An infinite choice that .sat clamps. -/
theorem FF.Row.pickSat_clamped (wantMax : Bool) (a b : Nat) (l : Quad) {neg : Bool} (h : f.decode (f.pick wantMax a b) = .inf neg) :
    f.pickSat wantMax true a b l = ⟨f.encode (.fin neg lm le), l, false, false, true⟩ := by
  simp only [FF.pickSat, h, row.largest, if_true]

end

/-! ### Conversion to an integer -/

theorem wrapInt_eq (n : Nat) (v : Int) : wrapInt n v = (v % 2 ^ n).toNat := by
  unfold wrapInt
  push_cast
  rfl

section
variable {sg sat : Bool} {n : Nat} {v : Int}

theorem narrowInt_kept (h : sat = false ∨ (intMin sg n ≤ v ∧ v ≤ intMax sg n)) : narrowInt sg n sat v = (wrapInt n v, false) := by
  have h1 : ¬(sat = true ∧ v < intMin sg n) := by
    rintro ⟨rfl, hl⟩
    exact absurd hl (h.resolve_left nofun).1.not_gt
  have h2 : ¬(sat = true ∧ v > intMax sg n) := by
    rintro ⟨rfl, hl⟩
    exact absurd hl (h.resolve_left nofun).2.not_gt
  rw [narrowInt, if_neg h1, if_neg h2]

theorem narrowInt_below (hs : sat = true) (h : v < intMin sg n) : narrowInt sg n sat v = (wrapInt n (intMin sg n), true) :=
  if_pos ⟨hs, h⟩

theorem intMin_le_intMax (sg : Bool) (n : Nat) : intMin sg n ≤ intMax sg n := by
  have h1 : (0 : Int) < (2 ^ (n - 1) : Nat) := mod_cast Nat.two_pow_pos _
  have h2 : (0 : Int) < (2 ^ n : Nat) := mod_cast Nat.two_pow_pos _
  cases sg <;> simp only [intMin, intMax, if_true, if_false, Bool.false_eq_true] <;> omega

theorem narrowInt_above (hs : sat = true) (h : intMax sg n < v) : narrowInt sg n sat v = (wrapInt n (intMax sg n), true) := by
  have hl := intMin_le_intMax sg n
  rw [narrowInt, if_neg (by omega), if_pos ⟨hs, h⟩]

end

theorem convertNum_float {dst : Fmt} {f : FF} (hf : fmtFF dst = some f) (x : Num) (lsb : Int) (rm : Rm) (sat : Bool) (l : Quad) :
    convertNum x lsb dst rm sat l = f.finish x.exact rm sat l (some lsb) x.isNan x.isInf := by
  simp only [convertNum, hf]

section
variable {dst : Fmt} (hd : fmtFF dst = none) (lsb : Int) (rm : Rm) (sat : Bool) (l : Quad)
include hd

theorem convertNum_nan : convertNum .nan lsb dst rm sat l = ⟨0, drawn rm 1 l, false, false, false⟩ := by
  simp only [convertNum, hd]
  rfl

/-- An infinity gives 0, or the bound of its sign. -/
theorem convertNum_inf (neg : Bool) : convertNum (.inf neg) lsb dst rm sat l
    = ⟨if sat then wrapInt (fmtBits dst) (if neg then intMin (fmtSigned dst) (fmtBits dst) else intMax (fmtSigned dst) (fmtBits dst)) else 0,
      drawn rm 1 l, false, false, sat⟩ := by
  simp only [convertNum, hd]
  cases sat <;> rfl

/-- A finite value becomes a whole number of the mode's choice, wrapped or clamped. -/
theorem convertNum_fin_eq (neg : Bool) (m : Nat) (e : Int) :
    let w := narrowInt (fmtSigned dst) (fmtBits dst) sat
      (sint neg (roundUnits ⟨neg, m, e, false⟩ 0 rm (min 16 (0 - lsb).toNat) (drawn rm 1 l)))
    convertNum (.fin neg m e) lsb dst rm sat l = ⟨w.1, drawn rm 1 l, false, false, w.2⟩ := by
  simp only [convertNum, hd]
  rfl

/-- A conversion to an integer draws once and counts neither NaN nor infinity. -/
theorem convertNum_int_frame (x : Num) : (convertNum x lsb dst rm sat l).lfsr = drawn rm 1 l
    ∧ (convertNum x lsb dst rm sat l).nan = false ∧ (convertNum x lsb dst rm sat l).inf = false := by
  cases x with
  | nan =>
    rw [convertNum_nan hd]
    exact ⟨rfl, rfl, rfl⟩
  | inf neg =>
    rw [convertNum_inf hd]
    exact ⟨rfl, rfl, rfl⟩
  | fin neg m e =>
    rw [convertNum_fin_eq hd]
    exact ⟨rfl, rfl, rfl⟩

/-- A finite value is rounded to a whole number, which is wrapped or clamped. -/
theorem convertNum_fin (neg : Bool) (m : Nat) (e : Int) :
    let lo := intMin (fmtSigned dst) (fmtBits dst)
    let hi := intMax (fmtSigned dst) (fmtBits dst)
    let low := fun v : Int => (v % 2 ^ fmtBits dst).toNat
    let r := convertNum (.fin neg m e) lsb dst rm sat l
    ∃ n : Nat, RoundsToUnits rm neg (m * 2 ^ e) 1 (min 16 (0 - lsb).toNat) (drawn rm 1 l) n
      ∧ let v : Int := if neg then -(n : Int) else n
        (sat = false ∨ (lo ≤ v ∧ v ≤ hi) → r.bits = low v ∧ r.sat = false)
        ∧ (sat = true → v < lo → r.bits = low lo ∧ r.sat = true) ∧ (sat = true → hi < v → r.bits = low hi ∧ r.sat = true) := by
  intro lo hi low r
  have hr := roundUnits_rounds ⟨neg, m, e, false⟩ 0 rm (min 16 (0 - lsb).toNat) (drawn rm 1 l) _ (Ex.stands_exact neg m e) nofun
  rw [zpow_zero] at hr
  refine ⟨_, hr, ?_⟩
  simp only [r, convertNum_fin_eq hd]
  refine ⟨fun h => ?_, fun hs h => ?_, fun hs h => ?_⟩
  · exact (narrowInt_kept h).symm ▸ ⟨wrapInt_eq _ _, rfl⟩
  · exact (narrowInt_below hs h).symm ▸ ⟨wrapInt_eq _ _, rfl⟩
  · exact (narrowInt_above hs h).symm ▸ ⟨wrapInt_eq _ _, rfl⟩

end

end Sys2Proof.Machine
end


section
/-! The number functions: formats, rounding, arithmetic, choices, comparisons and conversion to an integer (spec/07 R124 to R132, spec/13
R252, R253). -/

namespace Sys2Proof.Machine

/-- Settles O50, each clause by the lemmas of its own. How many random bits a conversion takes in sr is the model's reading (log entries
59 and 60). -/
theorem numberRules : Obligations.NumberRules := by
  unfold Obligations.NumberRules
  refine ⟨?_, ?_, ?_, ?_, ?_⟩
  · intro f lm le nb h
    have row := formatRows_row h
    refine ⟨fun b hb => row.decode_rules hb, fun rm sat l src inNan inInf => ⟨fun neg m e => ?_, row.finish_nan rm sat l src inNan inInf,
      fun neg => ⟨f.finish_lfsr _ rm sat l src inNan inInf, row.finish_inf neg rm sat l src inNan inInf⟩⟩⟩
    exact row.finish_is rm sat l src inNan ⟨m, e, rfl, rfl⟩
  · intro ty lm le nb rm sat l h
    have row := formatRows_row h
    refine ⟨fun op a b => ?_, fun a b c negP negC => ?_⟩
    · refine ⟨fun hn => ?_, fun hv => ?_, fun s hs => ⟨FF.bin_lfsr _ op a b rm sat l, ?_⟩, fun n1 n2 v1 v2 ha hb => ?_,
        fun n1 n2 v1 hop ha hb => ?_⟩
      · rw [FF.bin_eq, FBin.result_nan op _ hn, Num.isNan_or hn]
        exact row.finish_quiet rm sat l _
      · rw [FF.bin_eq, FBin.result_invalid _ hv, hv.no_nan.1, hv.no_nan.2]
        exact row.finish_invalid rm sat l _
      · rw [FF.bin_eq, FBin.result_infinite _ hs]
        exact row.finish_inf s rm sat l none _ _
      · obtain ⟨hsum, hmul, hdiv⟩ := row.bin_finite rm sat l op ha hb
        exact ⟨fun hop neg n3 h3 h1 h2 hz => hsum hop neg n3 h3 ⟨h1, h2, hz⟩, hmul, hdiv⟩
      · exact hop ▸ row.div_inf rm sat l ha hb
    · refine ⟨fun hn => ?_, fun ha hb hc => ⟨fun hv => ?_, fun hv s hs => ⟨FF.finish_lfsr _ _ rm sat l none _ _, ?_⟩, ?_⟩⟩
      · obtain ⟨hf, hi⟩ := Num.fused_nan negP negC (decide (rm = .rdn)) hn
        rw [FF.fma_eq, hf, hi]
        exact row.finish_quiet rm sat l _
      · rw [FF.fma_eq, Num.fused_invalid negP negC _ ha hb hv, Num.isNan_eq_false ha, Num.isNan_eq_false hb, Num.isNan_eq_false hc]
        exact row.finish_invalid rm sat l _
      · rw [FF.fma_eq, Num.fused_infinite negP negC _ ha hb hc hv hs, Num.fused_isInf (hs.imp And.left fun h => h.2.1)]
        exact row.finish_inf s rm sat l none _ true
      · intro n1 n2 n3 neg v1 v2 v3 hx hy hz
        rw [hx.sign_eq, hy.sign_eq, hz.sign_eq]
        exact fun h1 h2 h3 => row.fma_finite rm sat l negP negC hx hy hz ⟨h1, h2, h3⟩
  · intro ty lm le nb sat l h
    have row := formatRows_row h
    refine ⟨fun wantMax a b => ?_, fun a rm => ?_⟩
    · obtain ⟨hl, hnan, hinf⟩ := (ftyFF ty).pickSat_frame wantMax sat a b l
      refine ⟨row.pick_picks (ftyFF_hasNan ty) wantMax a b, hl, hnan, hinf, ?_, fun hk => ?_⟩
      · rintro rfl neg hp
        rw [row.pickSat_clamped wantMax a b l hp]
        exact ⟨row.shows_largest neg, rfl⟩
      · rw [(ftyFF ty).pickSat_kept wantMax sat a b l hk]
        exact ⟨rfl, rfl⟩
    · refine ⟨fun hn => ?_, fun hn hs hz => ?_, fun hi => ⟨FF.finish_lfsr _ _ rm sat l none _ _, ?_⟩,
        fun n v ha hv => row.root_finite rm sat l ha hv⟩
      · rw [FF.root_eq, hn]
        exact row.finish_quiet rm sat l false
      · rw [FF.root_eq, Num.sqrt_negative hs hz, Num.isNan_eq_false hn]
        exact row.finish_invalid rm sat l _
      · rw [FF.root_eq, hi]
        exact row.finish_inf false rm sat l none false true
  · refine fun x y => ⟨Num.compare_nan, fun a b ha hb => ?_⟩
    obtain ⟨hx, rfl⟩ := (x.at_iff a).1 ha
    obtain ⟨hy, rfl⟩ := (y.at_iff b).1 hb
    exact ⟨Num.lt_iff hx hy, Num.eq_iff hx hy⟩
  · intro x lsb dst rm sat l
    refine ⟨fun f hf => convertNum_float hf x lsb rm sat l, fun hd => ?_⟩
    obtain ⟨hl, hnan, hinf⟩ := convertNum_int_frame hd lsb rm sat l x
    refine ⟨hl, hnan, hinf, ?_, ?_, ?_⟩
    · rintro neg m e rfl
      exact convertNum_fin hd lsb rm sat l neg m e
    · rintro neg rfl
      rw [convertNum_inf hd lsb rm sat l neg]
      cases neg <;> simp only [wrapInt_eq, if_true, if_false, Bool.false_eq_true, and_self]
    · rintro rfl
      rw [convertNum_nan hd]
      exact ⟨rfl, rfl⟩

end Sys2Proof.Machine
end

section
/-! SUPPORT. A read behind the caches that finds a commit on its way: the commit is applied first, and a word that it loses is told to its strand
(spec/05 R105, spec/06 R115, spec/20 R381, R382); what a failed check of an object then adds (spec/21 R395). -/

namespace Sys2Proof.Machine

/-! ### A commit that loses what it would write -/

/-- A commit that loses every word of its cells writes nothing. -/
theorem State.writeCells_of_lost (s : State) (cells : List Host.Cell) (h : ∀ c ∈ cells, s.losesWord cells (wordOf c.1) = true) :
    s.writeCells cells = s := by
  have hlost : ∀ w ∈ (cells.map (fun c => wordOf c.1)).dedup, s.losesWord cells w = true := fun w hw => by
    obtain ⟨c, hc, rfl⟩ := List.mem_map.1 (List.mem_dedup.1 hw)
    exact h c hc
  have hwhole : (cells.map (fun c => wordOf c.1)).dedup.filter
      (fun w => s.isPoison w && decide (8 ≤ (cells.filter (fun c => wordOf c.1 == w)).length)) = [] :=
    List.filter_eq_nil_iff.2 fun w hw hin => by
      have hl := hlost w hw
      simp only [State.losesWord, Bool.and_eq_true, decide_eq_true_eq] at hl hin
      omega
  have hparts : (cells.map (fun c => wordOf c.1)).dedup.flatMap (s.commitWord cells) = [] :=
    List.flatMap_eq_nil_iff.2 fun w hw => by rw [State.commitWord_eq, hlost w hw]; rfl
  unfold State.writeCells
  dsimp only
  rw [hwhole, hparts]
  rfl

/-- A change to a core that leaves its deposits alone. -/
theorem State.setCore_upd (s : State) (n : Nat) (f : Core → Core) (hf : ∀ c, (f c).upd = c.upd) (h : ∀ c ∈ s.cores, c.upd = []) :
    ∀ c ∈ (s.setCore n f).cores, c.upd = [] := by
  unfold State.setCore
  split
  · intro c hc
    obtain ⟨d, hd, rfl⟩ := List.mem_map.1 hc
    split
    · exact (hf d).trans (h d hd)
    · exact h d hd
  · intro c hc
    rcases List.mem_append.1 hc with hc | hc
    · exact h c hc
    · obtain rfl := List.mem_singleton.1 hc
      exact hf _

/-- A core whose L1 has given up its copies of some lines. -/
def Core.withoutLines (c : Core) (lns : List Nat) : Core := { c with l1 := c.l1.filter (fun l => !lns.contains l.line) }

/-- A strand whose transaction some tiles have left. -/
def Strand.withoutTiles (v : Strand) (which : TxTile → Bool) (mine : List TxTile) : Strand := { v with tx := v.tx.without which mine }

/-- A strand for which one more trap is pending. -/
def Strand.pends (v : Strand) (x : Trap) : Strand := { v with pend := v.pend ++ [x] }

theorem State.applied_eq (s : State) (u : Strand) (which : TxTile → Bool) : s.applied u which
    = (((s.writeCells (u.tx.cellsOf (u.tx.tiles.filter which))).stampLines (writtenLines (u.tx.tiles.filter which))).setCore u.core
        (·.withoutLines (writtenLines (u.tx.tiles.filter which)))).setStrand u.sid (·.withoutTiles which (u.tx.tiles.filter which)) := rfl

/-- Some tiles of a strand's commit have left its transaction, and it has been told of a word that is lost. -/
def State.toldLost (s : State) (u : Strand) (which : TxTile → Bool) (x : Trap) : State :=
  (s.setStrand u.sid (·.withoutTiles which (u.tx.tiles.filter which))).setStrand u.sid (·.pends x)

theorem State.toldLost_strand? (s : State) (u : Strand) (which : TxTile → Bool) (x : Trap) (hu : s.strand? u.sid = some u) :
    ∃ u', (s.toldLost u which x).strand? u.sid = some u' ∧ u'.mode = u.mode ∧ u'.pend = u.pend ++ [x] := by
  have hu' := State.strand?_setStrand_of hu (·.withoutTiles which (u.tx.tiles.filter which)) (fun _ => rfl) (fun _ => rfl)
  exact ⟨_, State.strand?_setStrand_of hu' (·.pends x) (fun _ => rfl) (fun _ => rfl), rfl, rfl⟩

/-- Strand u is there, and its commit loses every word of some tiles, w the first of them; no core holds deposits, and a trap of u can become
pending. -/
structure State.LosesTiles (s : State) (u : Strand) (which : TxTile → Bool) (w : Nat) : Prop where
  found : s.strand? u.sid = some u
  lost : ∀ c ∈ u.tx.cellsOf (u.tx.tiles.filter which), s.losesWord (u.tx.cellsOf (u.tx.tiles.filter which)) (wordOf c.1) = true
  first : s.lostWord (u.tx.cellsOf (u.tx.tiles.filter which)) = some w
  alone : ∀ c ∈ s.cores, c.upd = []
  runs : u.mode ≠ .stopped 5
  room : u.pend.length < 16

/-- Of tiles that a commit loses nothing is written, and the strand is told (R382). -/
theorem State.applyTiles_loses {s : State} {u : Strand} {which : TxTile → Bool} {w : Nat} (h : s.LosesTiles u which w) :
    ∃ (x : Trap) (c : Coherence) (cs : List Core), (∀ k ∈ cs, k.upd = [])
      ∧ s.applyTiles u.sid which = { s with coh := c, cores := cs }.toldLost u which x := by
  obtain ⟨c, hc⟩ := s.stampLines_onlyCoh (writtenLines (u.tx.tiles.filter which))
  obtain ⟨cs, hcs⟩ := { s with coh := c }.setCore_onlyCores u.core (·.withoutLines (writtenLines (u.tx.tiles.filter which)))
  have hnone := { s with coh := c }.setCore_upd u.core (·.withoutLines (writtenLines (u.tx.tiles.filter which))) (fun _ => rfl) h.alone
  rw [hcs] at hnone
  have happlied : s.applied u which
      = { s with coh := c, cores := cs }.setStrand u.sid (·.withoutTiles which (u.tx.tiles.filter which)) := by
    rw [State.applied_eq, State.writeCells_of_lost s _ h.lost, hc, hcs]
  obtain ⟨x, htold⟩ : ∃ x, s.applyTiles u.sid which = (s.applied u which).pendTrap u.sid x := by
    rw [State.applyTiles_eq s u which h.found, h.first]
    exact ⟨_, rfl⟩
  obtain ⟨v, hv, hvm, -, hvp⟩ := s.applied_strand? u which h.found
  refine ⟨x, c, cs, hnone, ?_⟩
  rw [htold, State.pendTrap_eq _ _ _ v hv (hvm ▸ h.runs) (hvp ▸ h.room), happlied]
  rfl

/-! ### Settling a line -/

/-- Where no core holds deposits, settling a line changes the coherence records alone. -/
theorem State.settle_onlyCoh (s : State) (ln : Nat) (w : Bool) (h : ∀ c ∈ s.cores, c.upd = []) : OnlyCoh s (s.settle ln w) := by
  have hnone : s.cores.filter (fun c => c.upd.any (fun u => u.registered && u.dep.overlaps (ln * 128) 128)) = [] :=
    List.filter_eq_nil_iff.2 fun c hc => by simp [h c hc]
  unfold State.settle
  rw [hnone, List.foldl_nil]
  dsimp only
  split
  · exact OnlyCoh.refl s
  · exact OnlyCoh.trans (OnlyCoh.trans (s.setLine_onlyCoh ln _) ⟨_, rfl⟩) (State.reserveLine_onlyCoh _ ln)

/-- A read within one line, when one strand commits: its commit's part of the tile is applied, then the line settles. -/
theorem State.freshBytes_of_committing {s : State} {a n tile ln : Nat} {u : Strand} (ha : addrSpace a = 2 ∨ addrSpace a = 3)
    (ht : tilesOf a n = [tile]) (hl : linesOf a n = [ln]) (hu : s.strands.filter (fun t => t.tx.committing && t.exists?) = [u]) :
    (s.freshBytes a n).1 = (s.endRebase.applyTiles u.sid (fun e => e.tile == tile)).settle ln false := by
  have hu' : s.endRebase.strands.filter (fun t => t.tx.committing && t.exists?) = [u] := hu
  unfold State.freshBytes State.settleRange State.clearTiles
  rw [if_pos ha, ht, hl]
  simp only [List.foldl_cons, List.foldl_nil, hu', Bool.false_eq_true, if_false]

/-- Such a read when the commit loses the tile: the strand is told, and the machine but for records of coherence and of cores stays. -/
theorem State.freshBytes_loses {s : State} {a n tile ln w : Nat} {u : Strand} (ha : addrSpace a = 2 ∨ addrSpace a = 3)
    (ht : tilesOf a n = [tile]) (hl : linesOf a n = [ln]) (hu : s.strands.filter (fun t => t.tx.committing && t.exists?) = [u])
    (h : s.LosesTiles u (fun e => e.tile == tile) w) :
    ∃ (x : Trap) (c : Coherence) (cs : List Core),
      (s.freshBytes a n).1 = { s with coh := c, cores := cs }.toldLost u (fun e => e.tile == tile) x := by
  obtain ⟨hfound, hlost, hfirst, halone, hruns, hroom⟩ := h
  obtain ⟨x, c, cs, hnone, happly⟩ := State.applyTiles_loses (s := s.endRebase) ⟨hfound, hlost, hfirst, halone, hruns, hroom⟩
  obtain ⟨c', hsettle⟩ := State.settle_onlyCoh (s.endRebase.applyTiles u.sid (fun e => e.tile == tile)) ln false (by rw [happly]; exact hnone)
  refine ⟨x, c', cs, ?_⟩
  rw [State.freshBytes_of_committing ha ht hl hu, hsettle, happly]
  rfl

/-! ### Reading an object -/

/-- A read of an object ends at its second word where that is poisoned; what the read of the first has merged stays merged. -/
theorem objRead_second_poisoned {s t : State} {job a b : Nat} {area : Bool} {p : Word} (n : Nat)
    (ha : objWord s job area true false p = some a) (hp : s.isPoison a = false) (ht : (s.freshBytes a 8).1 = t)
    (hb : objWord t job area true false (ptrAt p 8) = some b) (hq : t.isPoison b = true) : objRead s job area p (n + 2) = (t, none) := by
  subst ht
  unfold objRead
  simp only [ha, hp, Bool.false_eq_true, if_false]
  unfold objRead
  simp only [hb, hq, if_true]

/-- An object that cannot be read is none (R395). -/
theorem State.checkObject_unread {s t : State} {job : Nat} {ptr : Word} {area : Bool} (kind right : Nat → Bool) (ho : ptrOff ptr % 256 = 0)
    (hr : objRead s job area ptr 32 = (t, none)) : s.checkObject job ptr area kind right = (t, .error ⟨.badCont, 1, 0, 0⟩) := by
  unfold State.checkObject
  rw [if_pos ho, hr]

/-! ### A check that has failed -/

theorem exec_cdiscardClear (s : State) : exec .cdiscardClear s = execCdiscardClear s := rfl

theorem exec_cdiscardClear_fails {s t : State} {r : ContReq} {f : ContFail} (hr : s.cont? s.arg.id 3 = some r)
    (hj : (s.job r.job).stopped = false)
    (hc : s.checkObject r.job r.obj false (fun k => k == 1 || k == 3) (fun n => n / 4 % 2 == 1) = (t, .error f)) :
    exec .cdiscardClear s = .next (t.failCont r f) := by
  rw [exec_cdiscardClear]
  unfold execCdiscardClear
  simp only [hr, hj, hc, Bool.false_eq_true, if_false]

/-- The trap of a request's failed check comes after those that its strand has pending already. -/
theorem State.failCont_pend {s : State} {r : ContReq} {u : Strand} (f : ContFail) (hk : r.kind ≠ 1) (hu : s.strand? r.sid = some u)
    (hm : u.mode ≠ .stopped 5) (hl : u.pend.length < 16) :
    ∃ (u' : Strand) (x : Trap), (s.failCont r f).strand? r.sid = some u' ∧ u'.pend = u.pend ++ [x] := by
  obtain ⟨v, hv, hvm, hvp⟩ : ∃ v, (s.answerCont r 0).strand? r.sid = some v ∧ v.mode = u.mode ∧ v.pend = u.pend := by
    unfold State.answerCont
    dsimp only
    rw [hu]
    dsimp only
    rw [if_neg hk]
    exact ⟨_, State.strand?_setStrand_of (s := s.dropCont r.id) hu _ (fun t => (t.fillX_onlyRegs r.reg _).sid)
      (fun t => (t.fillX_onlyRegs r.reg _).mode), (u.fillX_onlyRegs r.reg _).mode, (u.fillX_onlyRegs r.reg _).pend⟩
  unfold State.failCont
  dsimp only
  rw [if_neg hk, hv]
  dsimp only
  rw [State.pendTrap_eq _ _ _ v hv (hvm ▸ hm) (hvp ▸ hl)]
  exact ⟨_, _, State.strand?_setStrand_of hv _ (fun _ => rfl) (fun _ => rfl), congrArg (· ++ _) hvp⟩

end Sys2Proof.Machine
end

section
/-! Continuations: a request on an object whose check fails while its strand commits (spec/05 R105, spec/08 R156, spec/21 R395). -/

namespace Sys2Proof.Machine

/-- An object's place in the gallery of die 0, and the physical address of its first word. -/
def lossyObject : Word := 0x2000000000000000
def lossyAddr : Nat := galAddr 0 0

/-- A transaction that commits: it has written one byte of the object's second word, whose tile it holds. -/
def lossyTx : Tx :=
  { Tx.none with
    depth := 1, committing := true, tiles := [⟨tileOf lossyAddr, false, true, false, 0, ptrAt lossyObject 8⟩], spec := [(lossyAddr + 8, 1)] }

/-- The strand's CDISCARD of the object into x0, which keeps no register empty, so that the transaction could begin. -/
def lossyDiscard : ContReq :=
  { id := 1, kind := 3, sid := 1, troupe := 1, job := 1, obj := lossyObject, reg := 0, value := 0, dest := 0, rights := 0, target := 0, any := false,
    bay := 0 }

/-- The strand commits while its CDISCARD is outstanding; the word that it has written a part of is poisoned. -/
def lossy : State :=
  let s := State.reset.withProgram
  { s with
    jobs := s.jobs.map (fun j => { j with windows := [⟨0, 0, 1, 0, true, true⟩] }), cur := { s.cur with tx := lossyTx },
    poison := [lossyAddr + 8], reg := { s.reg with conts := [lossyDiscard] }, arg := { id := 1 } }

/-- The commit loses the one word that it would write. -/
theorem lossy_losesTiles : lossy.LosesTiles lossy.cur (fun e => e.tile == tileOf lossyAddr) (lossyAddr + 8) :=
  ⟨rfl, by decide, by decide, by decide, by decide, by decide⟩

/-- Reading the first word applies the commit, and the strand is told (R382). -/
theorem lossy_freshBytes : ∃ (x : Trap) (c : Coherence) (cs : List Core), (lossy.freshBytes lossyAddr 8).1
    = { lossy with coh := c, cores := cs }.toldLost lossy.cur (fun e => e.tile == tileOf lossyAddr) x :=
  State.freshBytes_loses (ln := lineOf lossyAddr) (by decide) (by decide) (by decide) rfl lossy_losesTiles

/-- The check of the object fails at the poisoned word, and the strand then has two traps pending. -/
theorem lossy_cdiscardClear : ∃ (s1 : State) (f : ContFail) (t : State) (w : Strand),
    lossy.checkObject 1 lossyObject false (fun k => k == 1 || k == 3) (fun n => n / 4 % 2 == 1) = (s1, .error f)
      ∧ exec .cdiscardClear lossy = .next t ∧ t.strand? 1 = some w ∧ w.pend.length = 2 := by
  obtain ⟨x, c, cs, hfresh⟩ := lossy_freshBytes
  have hread := objRead_second_poisoned (job := 1) (area := false) (p := lossyObject) (b := lossyAddr + 8) 30 (by decide) (by decide) hfresh
    rfl rfl
  have hcheck := State.checkObject_unread (fun k => k == 1 || k == 3) (fun n => n / 4 % 2 == 1) (by decide) hread
  obtain ⟨u, hu, hmode, hpend⟩ := State.toldLost_strand? { lossy with coh := c, cores := cs } lossy.cur (fun e => e.tile == tileOf lossyAddr) x rfl
  have hone : u.pend = [x] := hpend
  obtain ⟨w, y, hw, hwp⟩ := State.failCont_pend (r := lossyDiscard) ⟨.badCont, 1, 0, 0⟩ (by decide) hu (by rw [hmode]; decide) (by simp [hone])
  refine ⟨_, _, _, w, hcheck, exec_cdiscardClear_fails (r := lossyDiscard) rfl rfl hcheck, hw, ?_⟩
  rw [hwp, hone]
  rfl

/-- Refutes O43, by its clause on a check that fails: its trap need not be the only one that comes. The read of the object applies a commit
of the asking strand that is on its way to the object's tile (R105), and where that loses a poisoned word the strand has POISON pending
before the check's own trap (R381, R382). -/
theorem not_continuations : ¬ Obligations.Continuations := by
  unfold Obligations.Continuations
  rintro ⟨-, -, -, -, -, -, hrequests⟩
  obtain ⟨s1, f, t, w, hcheck, hexec, hw, htwo⟩ := lossy_cdiscardClear
  obtain ⟨hfails, -⟩ := hrequests lossy s1 lossyDiscard lossy.cur rfl rfl rfl .cdiscardClear _ (.inr (.inr (.inl ⟨rfl, rfl, rfl⟩)))
  obtain ⟨t', w', x, hexec', -, hw', -, -, -, hpend, -⟩ := hfails f hcheck (by decide) (by decide)
  obtain rfl := Host.Outcome.next.inj (hexec.symm.trans hexec')
  obtain rfl := Option.some.inj (hw.symm.trans hw')
  have hone : w.pend = [x] := hpend
  rw [hone] at htwo
  exact absurd htwo (by simp)

end Sys2Proof.Machine
end

section
/-! Switches of partitions: the job of an incoming partition that has no bay (spec/09 R178, spec/19 R359, R360). -/

namespace Sys2Proof.Machine

/-- A job that is not marked stopped though its fault has been reported. Its partition 0, on bay 0, goes out for partition 1, which has no
bay. -/
def reportedJob : Job :=
  { Job.blank with
    num := 1, stopReported := true,
    parts := (Job.blank.parts.set 0 { Part.blank with bays := 1, state := .switching }).set 1 { Part.blank with state := .switching } }

/-- The switch between its two partitions has begun to stop the outgoing one, which has no troupe. -/
def bayless : State :=
  { State.reset with
    jobs := [reportedJob], arg := { id := 1 }, reg := { Registrar.reset with switches := [⟨1, 1, 0, 1, 1, 0, 1⟩] } }

/-- SWITCH_COMPLETE leaves the job as it is: the conservator stops a job with its one report (R359, R360). -/
theorem bayless_switchComplete : ∃ t, exec .switchComplete bayless = .next t ∧ (t.job 1).stopped = false :=
  ⟨_, rfl, by decide⟩

/-- Refutes O46, by its clause on an incoming partition without a bay: unlike the clause on the forced stop it does not ask that no fault of
the job has been reported, and the stop of a job whose fault has been reported does nothing. The statement ranges over every state; in the
counterexample the mark `stopReported` stands without `stopped`, which no step of the machine brings about. -/
theorem not_switchesOfPartitions : ¬ Obligations.SwitchesOfPartitions := by
  unfold Obligations.SwitchesOfPartitions
  rintro ⟨-, hsteps⟩
  obtain ⟨-, -, hcomplete⟩ := hsteps bayless ⟨1, 1, 0, 1, 1, 0, 1⟩ rfl
  obtain ⟨hstops, -⟩ := hcomplete (by decide) rfl rfl (by decide) (by decide) (by decide) rfl rfl rfl (fun _ => rfl)
  obtain ⟨t, hexec, hruns⟩ := bayless_switchComplete
  obtain ⟨t', hexec', hstopped, -⟩ := hstops rfl
  obtain rfl := Host.Outcome.next.inj (hexec.symm.trans hexec')
  exact absurd (hstopped.symm.trans hruns) (by decide)

end Sys2Proof.Machine
end

section
/-! SUPPORT. What an access behind the caches leaves as it was, whatever it finds outstanding there: it may apply commits, merge deposits, abort
transactions, wake strands and stop jobs, and touches no launch, no troupe and no record of a queue (spec/05 R97, R105, spec/06 R115, R121). -/

namespace Sys2Proof.Machine

/-! ### Strands and jobs -/

/-- From s to t each strand has kept its place, its number and whether CANCEL is due at it. -/
def CancelsKept (s t : State) : Prop :=
  ∃ f : Strand → Strand, t.strands = s.strands.map f ∧ ∀ u, (f u).sid = u.sid ∧ (f u).cancelDue = u.cancelDue

theorem CancelsKept.of_eq {s t : State} (h : t.strands = s.strands) : CancelsKept s t :=
  ⟨id, h.trans (List.map_id _).symm, fun _ => ⟨rfl, rfl⟩⟩

theorem CancelsKept.trans {s t u : State} (h : CancelsKept s t) (k : CancelsKept t u) : CancelsKept s u := by
  obtain ⟨f, hf, hfk⟩ := h
  obtain ⟨g, hg, hgk⟩ := k
  exact ⟨g ∘ f, by rw [hg, hf, List.map_map], fun x => ⟨(hgk _).1.trans (hfk x).1, (hgk _).2.trans (hfk x).2⟩⟩

theorem State.setStrand_cancelsKept (s : State) (sid : Nat) (f : Strand → Strand)
    (hf : ∀ u, (f u).sid = u.sid ∧ (f u).cancelDue = u.cancelDue) : CancelsKept s (s.setStrand sid f) := by
  refine ⟨fun u => if u.sid == sid && u.exists? then f u else u, rfl, fun u => ?_⟩
  dsimp only
  split
  · exact hf u
  · exact ⟨rfl, rfl⟩

/-- From s to t a job may have stopped; no job has changed otherwise. -/
def JobsKept (s t : State) : Prop :=
  ∃ f : Job → Job, t.jobs = s.jobs.map f ∧ ∀ j, f j = j ∨ f j = { j with stopped := true, stopReported := true }

theorem JobsKept.of_eq {s t : State} (h : t.jobs = s.jobs) : JobsKept s t := ⟨id, h.trans (List.map_id _).symm, fun _ => .inl rfl⟩

theorem JobsKept.trans {s t u : State} (h : JobsKept s t) (k : JobsKept t u) : JobsKept s u := by
  obtain ⟨f, hf, hfj⟩ := h
  obtain ⟨g, hg, hgj⟩ := k
  refine ⟨g ∘ f, by rw [hg, hf, List.map_map], fun j => ?_⟩
  rcases hgj (f j) with k | k
  · exact (hfj j).imp k.trans k.trans
  · refine .inr (k.trans ?_)
    rcases hfj j with h | h <;> rw [h]

/-- A job is found as it was, but for its marks of a stop. -/
theorem JobsKept.job? {s t : State} (h : JobsKept s t) (n : Nat) :
    t.job? n = s.job? n ∨ t.job? n = (s.job? n).map (fun j => { j with stopped := true, stopReported := true }) := by
  obtain ⟨f, hf, hfj⟩ := h
  have hnum : ∀ j, (f j).num = j.num := fun j => by rcases hfj j with h | h <;> rw [h]
  have hp : ((fun j : Job => j.num == n) ∘ f) = fun j => j.num == n := funext fun j => by simp [hnum]
  unfold State.job?
  rw [hf, List.find?_map, hp]
  cases s.jobs.find? (fun j => j.num == n) with
  | none => exact .inl rfl
  | some j => exact (hfj j).imp (congrArg some) (congrArg some)

theorem JobsKept.isSome {s t : State} (h : JobsKept s t) (n : Nat) : (t.job? n).isSome = (s.job? n).isSome := by
  rcases h.job? n with h | h <;> simp [h]

/-- The record of a job has changed in its marks of a stop alone; one that stands for no job not at all. -/
theorem JobsKept.job {s t : State} (h : JobsKept s t) (n : Nat) :
    t.job n = s.job n ∨ t.job n = { s.job n with stopped := true, stopReported := true } := by
  unfold State.job
  rcases h.job? n with h | h
  · exact .inl (by rw [h])
  · rw [h]
    cases s.job? n with
    | none => exact .inl rfl
    | some j => exact .inr rfl

theorem JobsKept.parts {s t : State} (h : JobsKept s t) (n : Nat) : (t.job n).parts = (s.job n).parts := by
  rcases h.job n with h | h <;> rw [h]

theorem JobsKept.overflow {s t : State} (h : JobsKept s t) (n : Nat) : (t.job n).overflow = (s.job n).overflow := by
  rcases h.job n with h | h <;> rw [h]

theorem JobsKept.admissions {s t : State} (h : JobsKept s t) (n : Nat) : (t.job n).admissions = (s.job n).admissions := by
  rcases h.job n with h | h <;> rw [h]

/-! ### The frame -/

/-- What an access behind the caches keeps from s to t. -/
structure AgentKeeps (s t : State) : Prop where
  reg : t.reg = { s.reg with waits := t.reg.waits, conts := t.reg.conts, requests := t.reg.requests }
  launches : t.launches = s.launches
  troupes : t.troupes = s.troupes
  now : t.now = s.now
  jobs : JobsKept s t
  strands : CancelsKept s t

theorem AgentKeeps.refl (s : State) : AgentKeeps s s := ⟨rfl, rfl, rfl, rfl, .of_eq rfl, .of_eq rfl⟩

theorem AgentKeeps.trans {s t u : State} (h : AgentKeeps s t) (k : AgentKeeps t u) : AgentKeeps s u :=
  ⟨by rw [k.reg, h.reg], k.launches.trans h.launches, k.troupes.trans h.troupes, k.now.trans h.now, h.jobs.trans k.jobs,
    h.strands.trans k.strands⟩

theorem AgentKeeps.foldl {α : Type} {op : State → α → State} (h : ∀ t a, AgentKeeps t (op t a)) (l : List α) (s : State) :
    AgentKeeps s (l.foldl op s) :=
  List.foldlRecOn l op (AgentKeeps.refl s) fun t ht a _ => ht.trans (h t a)

theorem OnlyCoh.agentKeeps {s t : State} (h : OnlyCoh s t) : AgentKeeps s t := by
  obtain ⟨_, rfl⟩ := h
  exact ⟨rfl, rfl, rfl, rfl, .of_eq rfl, .of_eq rfl⟩

theorem OnlyCores.agentKeeps {s t : State} (h : OnlyCores s t) : AgentKeeps s t := by
  obtain ⟨_, rfl⟩ := h
  exact ⟨rfl, rfl, rfl, rfl, .of_eq rfl, .of_eq rfl⟩

theorem State.setStrand_agentKeeps (s : State) (sid : Nat) (f : Strand → Strand)
    (hf : ∀ u, (f u).sid = u.sid ∧ (f u).cancelDue = u.cancelDue) : AgentKeeps s (s.setStrand sid f) :=
  ⟨rfl, rfl, rfl, rfl, .of_eq rfl, s.setStrand_cancelsKept sid f hf⟩

theorem State.poke_agentKeeps (s : State) (a : Nat) (bs : List Byte) : AgentKeeps s (s.poke a bs) :=
  ⟨rfl, rfl, rfl, rfl, .of_eq rfl, .of_eq rfl⟩

theorem State.unpoison_agentKeeps (s : State) (a : Nat) : AgentKeeps s (s.unpoison a) := ⟨rfl, rfl, rfl, rfl, .of_eq rfl, .of_eq rfl⟩

theorem State.fabric_agentKeeps (s : State) (kind detail job site peer : Nat) (value : Word) :
    AgentKeeps s (s.fabric kind detail job site peer value) := ⟨rfl, rfl, rfl, rfl, .of_eq rfl, .of_eq rfl⟩

/-! ### Writes -/

theorem Strand.noteWrite_cancelDue (t : Strand) (m : Memory) (a n : Nat) : (t.noteWrite m a n).cancelDue = t.cancelDue := by
  unfold Strand.noteWrite
  split
  · dsimp only
    split
    · unfold Strand.putX
      split <;> rfl
    · rfl
  · rfl

theorem State.noteAt_agentKeeps (s : State) (a n : Nat) : AgentKeeps s (s.noteAt a n) :=
  AgentKeeps.trans (t := s.mapStrands (fun t => t.noteWrite s.mem a n)) ⟨rfl, rfl, rfl, rfl, .of_eq rfl, fun t => t.noteWrite s.mem a n, rfl,
    fun t => ⟨(t.noteWrite_keeps s.mem a n).1, t.noteWrite_cancelDue s.mem a n⟩⟩ (s.noteAt_onlyCores a n).agentKeeps

theorem State.putAll_agentKeeps (s : State) (parts : List (Nat × List Byte)) : AgentKeeps s (s.putAll parts) :=
  (AgentKeeps.foldl (fun t p => t.poke_agentKeeps p.1 p.2) parts s).trans (AgentKeeps.foldl (fun t p => t.noteAt_agentKeeps p.1 _) parts _)

theorem State.cleanse_agentKeeps (s : State) (a n : Nat) : AgentKeeps s (s.cleanse a n) :=
  AgentKeeps.foldl (fun t w => by split; exacts [t.unpoison_agentKeeps w, AgentKeeps.refl t]) _ s

theorem State.storeAt_agentKeeps (s : State) (a : Nat) (bs : List Byte) : AgentKeeps s (s.storeAt a bs) := by
  unfold State.storeAt
  split
  · exact AgentKeeps.refl s
  · exact (s.cleanse_agentKeeps a _).trans ((State.poke_agentKeeps _ a bs).trans (State.noteAt_agentKeeps _ a _))

/-! ### Stops, traps and aborts -/

theorem State.haltStrand_cancelDue (s : State) (n : Nat) (u : Strand) : (s.haltStrand n u).cancelDue = u.cancelDue := by
  unfold State.haltStrand
  split <;> rfl

theorem State.haltJob_agentKeeps (s : State) (n : Nat) : AgentKeeps s (s.haltJob n) := by
  refine ⟨rfl, rfl, rfl, rfl, ⟨fun j => if j.num == n then { j with stopped := true, stopReported := true } else j, rfl, fun j => ?_⟩,
    s.haltStrand n, s.haltJob_strands n, fun u => ⟨s.haltStrand_sid n u, s.haltStrand_cancelDue n u⟩⟩
  dsimp only
  split
  · exact .inr rfl
  · exact .inl rfl

theorem State.stopJob_agentKeeps (s : State) (n : Nat) (report : Sent) : AgentKeeps s (s.stopJob n report) := by
  unfold State.stopJob
  split
  · exact AgentKeeps.refl s
  · exact (s.haltJob_agentKeeps n).trans ⟨rfl, rfl, rfl, rfl, .of_eq rfl, .of_eq rfl⟩

theorem State.exhausted_agentKeeps (s : State) (job area site : Nat) : AgentKeeps s (s.exhausted job area site) :=
  (s.stopJob_agentKeeps job _).trans (State.fabric_agentKeeps _ _ _ _ _ _ _)

theorem State.pendTrap_agentKeeps (s : State) (sid : Nat) (p : Trap) : AgentKeeps s (s.pendTrap sid p) := by
  unfold State.pendTrap
  split
  · split
    · exact AgentKeeps.refl s
    · split
      · exact s.stopJob_agentKeeps _ _
      · exact s.setStrand_agentKeeps sid _ fun _ => ⟨rfl, rfl⟩
  · unfold State.reportDropped
    split <;> exact s.fabric_agentKeeps _ _ _ _ _ _

theorem State.abortTx_agentKeeps (s : State) (sid cause code : Nat) (tile : Option Word) : AgentKeeps s (s.abortTx sid cause code tile) :=
  (s.setStrand_agentKeeps sid (fun t => t.abort cause code tile) fun _ => ⟨rfl, rfl⟩).trans ⟨rfl, rfl, rfl, rfl, .of_eq rfl, .of_eq rfl⟩

/-! ### Commits and deposits -/

theorem State.applied_agentKeeps (s : State) (u : Strand) (which : TxTile → Bool) : AgentKeeps s (s.applied u which) := by
  have hwrite : ∀ cells, AgentKeeps s (s.writeCells cells) := fun _ =>
    (AgentKeeps.foldl State.unpoison_agentKeeps _ s).trans (State.putAll_agentKeeps _ _)
  rw [State.applied_eq]
  refine AgentKeeps.trans ?_ (State.setStrand_agentKeeps _ u.sid _ fun _ => ⟨rfl, rfl⟩)
  refine AgentKeeps.trans ?_ (State.setCore_onlyCores _ u.core _).agentKeeps
  exact (hwrite _).trans (State.stampLines_onlyCoh _ _).agentKeeps

theorem State.applyTiles_agentKeeps (s : State) (sid : Nat) (which : TxTile → Bool) : AgentKeeps s (s.applyTiles sid which) := by
  cases hu : s.strand? sid with
  | none =>
    have h : s.applyTiles sid which = s := by
      unfold State.applyTiles
      rw [hu]
    rw [h]
    exact AgentKeeps.refl s
  | some u =>
    obtain ⟨rfl, -⟩ := State.strand?_spec hu
    rw [State.applyTiles_eq s u which hu]
    cases s.lostWord (u.tx.cellsOf (u.tx.tiles.filter which)) with
    | none => exact s.applied_agentKeeps u which
    | some w => exact (s.applied_agentKeeps u which).trans (State.pendTrap_agentKeeps _ _ _)

theorem State.clearTiles_agentKeeps (s : State) (a n : Nat) (w : Bool) : AgentKeeps s (s.clearTiles a n w) := by
  refine AgentKeeps.foldl (fun t tile => ?_) _ s
  have happly := AgentKeeps.foldl (fun (y : State) (u : Strand) => y.applyTiles_agentKeeps u.sid (fun e => e.tile == tile))
    (t.strands.filter (fun t => t.tx.committing && t.exists?)) t
  dsimp only
  split
  · exact happly.trans (AgentKeeps.foldl (fun y (u : Strand) => y.abortTx_agentKeeps u.sid xConflict 0 (u.tilePtr tile)) _ _)
  · exact happly

theorem State.raiseLt_agentKeeps (s : State) (core wts : Nat) : AgentKeeps s (s.raiseLt core wts) :=
  (s.setCore_onlyCores core _).agentKeeps.trans ⟨rfl, rfl, rfl, rfl, .of_eq rfl, .of_eq rfl⟩

theorem State.mergeUnit_agentKeeps (s : State) (core : Nat) (d : Deposit) : AgentKeeps s (s.mergeUnit core d) :=
  ((((OnlyCoh.foldl State.callIn_onlyCoh _ s).agentKeeps.trans (State.putAll_agentKeeps _ _)).trans
    (State.setCore_onlyCores _ _ _).agentKeeps).trans (OnlyCoh.foldl (fun t ln => t.setLine_onlyCoh ln _) _ _).agentKeeps).trans
      ((State.raiseLt_agentKeeps _ _ _).trans (OnlyCoh.foldl State.reserveLine_onlyCoh _ _).agentKeeps)

/-- Deposits of a core are merged, the way cleared for each. -/
theorem State.mergeUnits_agentKeeps (s : State) (c : Core) (us : List UpdUnit) :
    AgentKeeps s (us.foldl (fun y u => (y.clearTiles u.dep.unit u.dep.bytes true).mergeUnit c.num u.dep) s) :=
  AgentKeeps.foldl (fun y _ => (y.clearTiles_agentKeeps _ _ _).trans (State.mergeUnit_agentKeeps _ _ _)) us s

theorem State.releaseBays_agentKeeps (s : State) (bays : List Nat) : AgentKeeps s (s.releaseBays bays) :=
  AgentKeeps.foldl (fun x c => x.mergeUnits_agentKeeps c c.upd) _ s

/-! ### Accesses -/

theorem State.settle_agentKeeps (s : State) (ln : Nat) (w : Bool) : AgentKeeps s (s.settle ln w) := by
  have hmerge := AgentKeeps.foldl (fun (x : State) (c : Core) =>
      x.mergeUnits_agentKeeps c (c.upd.filter (fun u => u.registered && u.dep.overlaps (ln * 128) 128)))
    (s.cores.filter (fun c => c.upd.any (fun u => u.registered && u.dep.overlaps (ln * 128) 128))) s
  unfold State.settle
  extract_lets s1 ps l left s2
  split
  · exact hmerge
  · exact hmerge.trans (((State.setLine_onlyCoh _ ln _).trans ⟨_, rfl⟩).trans (State.reserveLine_onlyCoh _ ln)).agentKeeps

theorem State.settleRange_agentKeeps (s : State) (a n : Nat) (w : Bool) : AgentKeeps s (s.settleRange a n w) := by
  unfold State.settleRange
  split
  · exact (OnlyCoh.agentKeeps ⟨_, rfl⟩).trans ((State.clearTiles_agentKeeps _ a n w).trans
      (AgentKeeps.foldl (fun x ln => x.settle_agentKeeps ln w) _ _))
  · exact AgentKeeps.refl s

theorem State.freshBytes_agentKeeps (s : State) (a n : Nat) : AgentKeeps s (s.freshBytes a n).1 := s.settleRange_agentKeeps a n false

theorem State.agentWrite_agentKeeps (s : State) (a : Nat) (bs : List Byte) : AgentKeeps s (s.agentWrite a bs) := by
  have hsettle := s.settleRange_agentKeeps a bs.length true
  unfold State.agentWrite
  dsimp only
  split
  · exact hsettle.trans ((OnlyCoh.foldl (fun x ln => x.setLine_onlyCoh ln _) _ _).agentKeeps.trans (State.storeAt_agentKeeps _ a bs))
  · exact hsettle.trans (State.storeAt_agentKeeps _ a bs)

theorem devReadWords_agentKeeps (n : Nat) (s : State) (job : Nat) (p : Word) : AgentKeeps s (devReadWords s job p n).1 := by
  induction n generalizing s p with
  | zero => exact AgentKeeps.refl s
  | succ n ih =>
    unfold devReadWords
    split
    · exact AgentKeeps.refl s
    · exact (s.freshBytes_agentKeeps _ 8).trans (ih _ _)

theorem devRead_agentKeeps (s : State) (job : Nat) (p : Word) (n : Nat) : AgentKeeps s (devRead s job p n).1 :=
  devReadWords_agentKeeps (n / 8) s job p

theorem devWriteWords_agentKeeps (ws : List Word) (s : State) (job : Nat) (p : Word) : AgentKeeps s (devWriteWords s job p ws) := by
  induction ws generalizing s p with
  | nil => exact AgentKeeps.refl s
  | cons w ws ih =>
    unfold devWriteWords
    split
    · exact AgentKeeps.refl s
    · exact (s.agentWrite_agentKeeps _ _).trans (ih _ _)

theorem devWrite_agentKeeps (s : State) (job : Nat) (p : Word) (bs : List Byte) : AgentKeeps s (devWrite s job p bs) :=
  devWriteWords_agentKeeps (wordsOfBytes bs) s job p

end Sys2Proof.Machine
end

section
/-! SUPPORT. The Registrar's lists: launches, troupes and jobs by number after a change of one, records that are taken, listed and admitted
(spec/09 R160 to R170). -/

namespace Sys2Proof.Machine

/-! ### Records by number -/

theorem State.launch?_setLaunch (s : State) (i : Word) (f : Launch → Launch) (hf : ∀ l, (f l).ident = l.ident) :
    (s.setLaunch i f).launch? i = (s.launch? i).map f :=
  find?_map_ite (fun l : Launch => l.ident == i) f (fun l hl => by rw [hf]; exact hl) s.launches

theorem State.troupe?_setTroupe (s : State) (n : Nat) (f : Troupe → Troupe) (hf : ∀ u, (f u).uid = u.uid) :
    (s.setTroupe n f).troupe? n = (s.troupe? n).map f :=
  find?_map_ite (fun u : Troupe => u.uid == n) f (fun u hu => by rw [hf]; exact hu) s.troupes

theorem State.job?_setJob (s : State) (n : Nat) (f : Job → Job) (hf : ∀ j, (f j).num = j.num) :
    (s.setJob n f).job? n = (s.job? n).map f :=
  find?_map_ite (fun j : Job => j.num == n) f (fun j hj => by rw [hf]; exact hj) s.jobs

theorem State.launch?_ident {s : State} {i : Word} {l : Launch} (h : s.launch? i = some l) : l.ident = i := by
  simpa using List.find?_some h

theorem State.troupe?_uid {s : State} {n : Nat} {u : Troupe} (h : s.troupe? n = some u) : u.uid = n := by
  simpa using List.find?_some h

theorem State.job?_num {s : State} {n : Nat} {j : Job} (h : s.job? n = some j) : j.num = n := by
  simpa using List.find?_some h

theorem State.troupe_of_some {s : State} {n : Nat} {u : Troupe} (h : s.troupe? n = some u) : s.troupe n = u := by
  unfold State.troupe
  rw [h]
  rfl

theorem State.job_of_some {s : State} {n : Nat} {j : Job} (h : s.job? n = some j) : s.job n = j := by
  unfold State.job
  rw [h]
  rfl

theorem State.job_setJob (s : State) (n : Nat) (f : Job → Job) (hf : ∀ j, (f j).num = j.num) (h : (s.job? n).isSome) :
    (s.setJob n f).job n = f (s.job n) := by
  obtain ⟨j, hj⟩ := Option.isSome_iff_exists.1 h
  unfold State.job
  rw [s.job?_setJob n f hf, hj]
  rfl

/-! ### Records of queues -/

/-- Two records are of one place in one queue and have the same words. -/
def Record.Same (r x : Record) : Prop := x.queue = r.queue ∧ x.recno = r.recno ∧ x.job = r.job ∧ x.words = r.words

theorem Record.Same.trans {r x y : Record} (h : r.Same x) (k : x.Same y) : r.Same y := by
  obtain ⟨hq, hn, hj, hw⟩ := h
  obtain ⟨kq, kn, kj, kw⟩ := k
  exact ⟨kq.trans hq, kn.trans hn, kj.trans hj, kw.trans hw⟩

/-- From s to t no queue's head has moved, and each record listed is still listed. -/
def RecordsKept (s t : State) : Prop := t.reg.heads = s.reg.heads ∧ ∀ r ∈ s.reg.records, ∃ x ∈ t.reg.records, r.Same x

theorem RecordsKept.of_eq {s t : State} (hh : t.reg.heads = s.reg.heads) (hr : t.reg.records = s.reg.records) : RecordsKept s t :=
  ⟨hh, fun r h => ⟨r, hr.symm ▸ h, rfl, rfl, rfl, rfl⟩⟩

theorem RecordsKept.trans {s t u : State} (h : RecordsKept s t) (k : RecordsKept t u) : RecordsKept s u := by
  refine ⟨k.1.trans h.1, fun r hr => ?_⟩
  obtain ⟨x, hx, hs⟩ := h.2 r hr
  obtain ⟨y, hy, ht⟩ := k.2 x hx
  exact ⟨y, hy, hs.trans ht⟩

/-- Records that each change in what they have gathered alone. -/
theorem RecordsKept.of_map {s t : State} (f : Record → Record) (hf : ∀ r : Record, r.Same (f r)) (hh : t.reg.heads = s.reg.heads)
    (hr : t.reg.records = s.reg.records.map f) : RecordsKept s t :=
  ⟨hh, fun r h => ⟨f r, hr.symm ▸ List.mem_map_of_mem h, hf r⟩⟩

theorem AgentKeeps.records {s t : State} (h : AgentKeeps s t) : t.reg.records = s.reg.records := by rw [h.reg]

theorem AgentKeeps.heads {s t : State} (h : AgentKeeps s t) : t.reg.heads = s.reg.heads := by rw [h.reg]

theorem AgentKeeps.recordsKept {s t : State} (h : AgentKeeps s t) : RecordsKept s t := .of_eq h.heads h.records

theorem State.setRecord_recordsKept (s : State) (q n : Nat) (f : Record → Record) (hf : ∀ r : Record, r.Same (f r)) :
    RecordsKept s (s.setRecord q n f) :=
  .of_map (fun r => if r.queue == q && r.recno == n then f r else r)
    (fun r => by split; exacts [hf r, ⟨rfl, rfl, rfl, rfl⟩]) rfl rfl

theorem State.ageRecords_recordsKept (s : State) : RecordsKept s s.ageRecords := by
  refine .of_map (fun r => match r.since with
      | none => if s.ages r then { r with since := some s.now } else r
      | some t => if s.ages r then r else { r with since := none, waited := r.waited + (s.now - t) }) (fun r => ?_) rfl rfl
  split <;> split <;> exact ⟨rfl, rfl, rfl, rfl⟩

/-- A waiter enters the list, or its job stops for want of room; no record of a queue changes. -/
theorem State.enterWait_recordsKept (s : State) (w : WaitEntry) : RecordsKept s (s.enterWait w) := by
  unfold State.enterWait
  extract_lets j used keep
  have hkeep : ∀ t v, RecordsKept t (keep t v) := fun _ _ => .of_eq rfl rfl
  split
  · exact hkeep s _
  · split
    · exact (s.exhausted_agentKeeps _ _ _).recordsKept
    · exact (s.agentWrite_agentKeeps _ _).recordsKept.trans (hkeep _ _)

theorem State.listWait_recordsKept (s : State) (r : Record) (i : Nat) : RecordsKept s (s.listWait r i) := by
  unfold State.listWait
  dsimp only
  split
  · exact s.setRecord_recordsKept _ _ _ fun _ => ⟨rfl, rfl, rfl, rfl⟩
  · exact RecordsKept.trans (.of_eq rfl rfl) (State.enterWait_recordsKept _ _)

theorem State.listWaits_recordsKept (s : State) (r : Record) (l : List Nat) : RecordsKept s (l.foldl (fun t i => t.listWait r i) s) :=
  List.foldlRecOn l _ (RecordsKept.of_eq rfl rfl) fun t ht i _ => ht.trans (t.listWait_recordsKept r i)

/-! ### RECORD_TAKEN (R165, R168) -/

theorem validRecord_of_jobsKept {s t : State} (h : JobsKept s t) (job : Nat) (b : List Byte) : validRecord t job b = validRecord s job b := by
  unfold validRecord Job.part
  rw [h.parts]

/-- The queue is not the system's, or nothing comes to it. -/
theorem State.feedSystem_eq_self (s : State) (d : QueueDesc) (h : d.feed ≠ 3 ∨ s.arg.yes = false) : s.feedSystem d = s := by
  unfold State.feedSystem
  rw [if_neg]
  rintro ⟨h3, -, hy, -⟩
  rcases h with h | h
  · exact h h3
  · rw [h] at hy
    exact absurd hy (by decide)

/-- The head of a queue stands at n. -/
def State.withHead (s : State) (q n : Nat) : State := { s with reg := { s.reg with heads := (q, n) :: s.reg.heads.filter (fun h => h.1 != q) } }

/-- A record is listed. -/
def State.withRecord (s : State) (r : Record) : State := { s with reg := { s.reg with records := s.reg.records ++ [r] } }

theorem State.headOf_withHead (s : State) (q n : Nat) : (s.withHead q n).headOf q = n := by
  simp [State.withHead, State.headOf]

theorem RecordsKept.headOf {s t : State} (h : RecordsKept s t) (q : Nat) : t.headOf q = s.headOf q := by
  unfold State.headOf
  rw [h.1]

/-- The state once a record has been read and the head of its queue, in memory too, has moved past it. -/
def State.pastRecord (s : State) (d : QueueDesc) (n : Nat) : State :=
  (devWrite (devRead s d.job (slotPtr d n) 64).1 d.job d.headAddr (natBytes 8 (n + 1))).withHead d.queue (n + 1)

theorem State.pastRecord_jobsKept (s : State) (d : QueueDesc) (n : Nat) : JobsKept s (s.pastRecord d n) :=
  JobsKept.trans ((devRead_agentKeeps s _ _ _).trans (devWrite_agentKeeps _ d.job d.headAddr _)).jobs (.of_eq rfl)

theorem State.pastRecord_records (s : State) (d : QueueDesc) (n : Nat) : (s.pastRecord d n).reg.records = s.reg.records :=
  Eq.trans (by rfl) ((devRead_agentKeeps s d.job (slotPtr d n) 64).trans (devWrite_agentKeeps _ d.job d.headAddr (natBytes 8 (n + 1)))).records

/-- What the Registrar lists of the bytes b that it has read at place n of a queue. -/
def newRecord (d : QueueDesc) (n : Nat) (b : List Byte) : Record :=
  { queue := d.queue, recno := n, job := d.job, words := wordsOfBytes b, met := List.replicate 4 (d.feed == 3), prio := fieldAt b 20 1 % 8,
    waited := 0, since := none }

/-- A record is listed, its wait slots are tested or wait, and its time begins. -/
def State.lists (s : State) (d : QueueDesc) (r : Record) : State :=
  if d.feed = 3 then (s.withRecord r).ageRecords else ((List.range 4).foldl (fun t i => t.listWait r i) (s.withRecord r)).ageRecords

theorem State.lists_recordsKept (s : State) (d : QueueDesc) (r : Record) : RecordsKept (s.withRecord r) (s.lists d r) := by
  unfold State.lists
  split
  · exact State.ageRecords_recordsKept _
  · exact (State.listWaits_recordsKept _ r _).trans (State.ageRecords_recordsKept _)

theorem exec_recordTaken (s : State) (d : QueueDesc) (hq : s.queue? s.arg.id = some d) (hn : s.headOf d.queue < s.tailOf d)
    (hj : (s.job d.job).stopped = false) (hf : d.feed ≠ 3 ∨ s.arg.yes = false) :
    let n := s.headOf d.queue
    let b := (devRead s d.job (slotPtr d n) 64).2
    exec .recordTaken s = .next (if validRecord s d.job b = true then (s.pastRecord d n).lists d (newRecord d n b)
      else (s.pastRecord d n).fabric 4 0 d.job d.queue 0 (BitVec.ofNat 64 n)) := by
  intro n b
  change execRecordTaken s = _
  unfold execRecordTaken
  rw [hq]
  dsimp only
  rw [s.feedSystem_eq_self d hf, if_neg (by simp [hj, hn]), ← validRecord_of_jobsKept (s.pastRecord_jobsKept d n) d.job b]
  change (if (!validRecord (s.pastRecord d n) d.job b) = true then _ else _) = _
  cases validRecord (s.pastRecord d n) d.job b <;> rfl

/-- RECORD_TAKEN moves the head by one and lists a valid record, and drops an invalid one. -/
theorem recordTaken_results (s : State) (d : QueueDesc) (hq : s.queue? s.arg.id = some d) (hn : s.headOf d.queue < s.tailOf d)
    (hj : (s.job d.job).stopped = false) (hf : d.feed ≠ 3 ∨ s.arg.yes = false) :
    let b := (devRead s d.job (slotPtr d (s.headOf d.queue)) 64).2
    ∃ t : State, exec .recordTaken s = .next t ∧ t.headOf d.queue = s.headOf d.queue + 1
      ∧ (validRecord s d.job b = false → t.reg.records = s.reg.records)
      ∧ (validRecord s d.job b = true → ∃ r ∈ t.reg.records, r.queue = d.queue ∧ r.recno = s.headOf d.queue ∧ r.job = d.job
          ∧ r.words = wordsOfBytes b) := by
  intro b
  have hhead : (s.pastRecord d (s.headOf d.queue)).headOf d.queue = s.headOf d.queue + 1 := State.headOf_withHead _ _ _
  refine ⟨_, exec_recordTaken s d hq hn hj hf, ?_⟩
  cases hv : validRecord s d.job b with
  | false =>
    have hkept := (s.pastRecord d (s.headOf d.queue)).fabric_agentKeeps 4 0 d.job d.queue 0 (BitVec.ofNat 64 (s.headOf d.queue))
    exact ⟨(hkept.recordsKept.headOf _).trans hhead, fun _ => hkept.records.trans (s.pastRecord_records d _), nofun⟩
  | true =>
    have hkept := (s.pastRecord d (s.headOf d.queue)).lists_recordsKept d (newRecord d (s.headOf d.queue) b)
    rw [if_pos rfl]
    exact ⟨(hkept.headOf _).trans hhead, nofun, fun _ => hkept.2 _ (List.mem_append_right _ (List.mem_singleton_self _))⟩

end Sys2Proof.Machine
end

section
/-! SUPPORT. Admission, the ageing of records and the wake (spec/09 R161 to R166, spec/02 R31 to R33). -/

namespace Sys2Proof.Machine

/-! ### LAUNCH_ADMISSION (R163, R166) -/

theorem readTemplates_agentKeeps (n : Nat) (s : State) (job : Nat) (tmpl : Word) : AgentKeeps s (readTemplates s job tmpl n).1 := by
  induction n with
  | zero => exact AgentKeeps.refl s
  | succ n ih =>
    unfold readTemplates
    split
    · next h => rwa [h] at ih
    · next s1 ts h =>
      have hk : AgentKeeps s s1 := by rwa [h] at ih
      dsimp only
      split
      · exact hk
      · exact hk.trans (s1.freshBytes_agentKeeps _ 16)

theorem templatesOf_agentKeeps (s : State) (job : Nat) (b : List Byte) : AgentKeeps s (templatesOf s job b).1 := by
  unfold templatesOf
  dsimp only
  split
  · exact AgentKeeps.refl s
  · split
    · exact readTemplates_agentKeeps _ s job _
    · exact AgentKeeps.refl s

/-- A record whose launch is no cohort fits at once (R35). -/
theorem State.fitsNow_of_single (s : State) (r : Record) (h : fieldAt r.bytes 21 1 % 2 = 0) : s.fitsNow r = true := by
  have hc : (launchOf s r []).cohort = false := by simp [launchOf, h]
  simp [State.fitsNow, hc]

theorem State.holdFor_nil (s : State) : s.holdFor [] = s := by simp [State.holdFor]

/-- The only record that may be admitted, of no cohort, is admitted. -/
theorem exec_launchAdmission (s : State) (r : Record) (hr : s.admissible = [r]) (hc : fieldAt r.bytes 21 1 % 2 = 0) :
    exec .launchAdmission s = .next (s.admitNext r) := by
  have hstuck : s.stuckCohorts [r] = [] := by simp [State.stuckCohorts, s.fitsNow_of_single r hc]
  change execLaunchAdmission s = _
  unfold execLaunchAdmission
  simp only [hr, hstuck, s.holdFor_nil]
  rfl

/-- Without wait slots no completion is widened, and a record of some troupes leaves its list for its launch. -/
theorem State.admitRecord_eq (s : State) (r : Record) (l : Launch) (hw : ∀ i, i < 4 → (waitSlot r.bytes i).2 = 0) (hn : l.rootCount ≠ 0) :
    s.admitRecord r l = s.noteAdmission r l (if l.system then (s.maskBlock r).1 else 0) := by
  have hfold : (List.range 4).foldl (fun t i => if (waitSlot r.bytes i).2 = 0 then t
      else t.widen r.job (waitSlot r.bytes i).1 ((l.shares.filter (fun x => x.2.2 != 0)).map (·.1))) s = s :=
    List.foldlRecOn (motive := (· = s)) (List.range 4) _ rfl fun t ht i hi => by
      rw [if_pos (hw i (List.mem_range.1 hi)), ht]
  unfold State.admitRecord
  simp only [hfold, if_neg hn, ite_self]

theorem launchAdmission_results (s s1 : State) (r : Record) (ts : List Template) (hr : s.admissible = [r])
    (ht : templatesOf s r.job r.bytes = (s1, some ts)) (hc : fieldAt r.bytes 21 1 % 2 = 0) (hn : fieldAt r.bytes 16 4 ≠ 0)
    (hj : (s.job? r.job).isSome) (hw : ∀ i : Nat, i < 4 → (waitSlot r.bytes i).2 = 0) :
    ∃ t : State, ∃ l : Launch, exec .launchAdmission s = .next t ∧ t.launches = s.launches ++ [l]
      ∧ l.ident = BitVec.ofNat 64 (r.job * 2 ^ 48 + (s.job r.job).admissions + 1) ∧ l.job = r.job ∧ l.part = r.part
      ∧ l.entry = fieldAt r.bytes 0 4 ∧ l.c = fieldAt r.bytes 4 1 ∧ l.s = fieldAt r.bytes 5 1 ∧ l.lm = fieldAt r.bytes 6 2
      ∧ l.arg = BitVec.ofNat 64 (fieldAt r.bytes 8 8) ∧ l.rootCount = fieldAt r.bytes 16 4 ∧ l.templates = ts ∧ l.complete = false
      ∧ (t.job r.job).admissions = (s.job r.job).admissions + 1 ∧ t.reg.lastAdmit = some s.now
      ∧ ∀ x ∈ t.reg.records, ¬(x.queue = r.queue ∧ x.recno = r.recno) := by
  have hk : AgentKeeps s s1 := by
    have h := templatesOf_agentKeeps s r.job r.bytes
    rwa [ht] at h
  have hcohort : (launchOf s1 r ts).cohort = false := by simp [launchOf, hc]
  have hadmit : s.admitNext r = s1.noteAdmission r (launchOf s1 r ts)
      (if (launchOf s1 r ts).system then (s1.maskBlock r).1 else 0) := by
    unfold State.admitNext
    rw [ht]
    dsimp only
    rw [hcohort, if_neg (by decide)]
    exact s1.admitRecord_eq r _ hw hn
  have hadm := hk.jobs.admissions r.job
  refine ⟨_, launchOf s1 r ts, exec_launchAdmission s r hr hc, ?_⟩
  rw [hadmit]
  refine ⟨congrArg (· ++ _) hk.launches, congrArg (fun n => BitVec.ofNat 64 (r.job * 2 ^ 48 + n + 1)) hadm, rfl, rfl, rfl, rfl, rfl, rfl, rfl,
    rfl, rfl, rfl, ?_, congrArg some hk.now, fun x hx hsame => ?_⟩
  · have hjob := s1.job_setJob r.job (fun j => { j with admissions := j.admissions + 1 }) (fun _ => rfl) ((hk.jobs.isSome r.job).trans hj)
    exact (congrArg Job.admissions hjob).trans (congrArg (· + 1) hadm)
  · obtain ⟨-, hne⟩ := List.mem_filter.1 hx
    simp [hsame.1, hsame.2] at hne

/-! ### PRIORITY_AGING (R166) -/

/-- A record once PRIORITY_AGING has taken up its time, if it is the one that the step names. -/
def Record.takenUp (r : Record) (s : State) : Record :=
  match r.since with
  | some t => if r.queue = s.arg.id ∧ r.recno = s.arg.sel then { r with waited := r.waited + (s.now - t), since := some s.now } else r
  | none => r

theorem exec_priorityAging (s : State) :
    exec .priorityAging s = .next { s with reg := { s.reg with records := s.reg.records.map (·.takenUp s) } } := by
  change execPriorityAging s = _
  unfold execPriorityAging State.setRecord
  refine congrArg (fun rs => Host.Outcome.next { s with reg := { s.reg with records := rs } }) (List.map_congr_left fun r _ => ?_)
  unfold Record.takenUp
  cases h : r.since with
  | none => simp [h]
  | some t => simp [h]

/-! ### WAKE_MESSAGE (R32, R33) -/

/-- The troupes of a bay's share, in index order, their numbers the next ones. -/
def State.shareList (s : State) (l : Launch) (bay first n : Nat) : List Troupe :=
  (List.range n).map (fun i => { newTroupe s l (first + i) 0 bay none l.shape (.fresh l.arg []) with uid := s.nextId + i })

theorem State.shareTroupes_eq (s : State) (l : Launch) (bay first n : Nat) :
    s.shareTroupes l bay first n = { s with troupes := s.troupes ++ s.shareList l bay first n, nextId := s.nextId + n } := by
  unfold State.shareTroupes State.shareList
  induction n with
  | zero => simp
  | succ n ih =>
    rw [List.range_succ, List.foldl_append, ih, List.map_append, ← List.append_assoc]
    rfl

theorem State.rouse_eq (s : State) (b : Nat) : ∃ m, s.rouse b = { s with mgmt := m } := by
  unfold State.rouse State.setBay
  split <;> split <;> exact ⟨_, rfl⟩

/-- The launch of a wake that has come to a bay and goes on from there. -/
def Launch.wakes (l : Launch) (s : State) (b : Nat) : Launch :=
  { l with wakePending := l.wakePending.filter (· != b) ++ s.treeBelow b }

theorem exec_wakeMessage (s : State) (l : Launch) (i n : Nat) (hl : s.launch? s.arg.word = some l) (hb : s.arg.id ∈ l.wakePending)
    (hs : l.shares.find? (fun x => x.1 == s.arg.id && x.2.2 != 0) = some (s.arg.id, i, n)) (hc : l.cohort = false)
    (hr : s.arg.id ∉ l.cancelReached) :
    exec .wakeMessage s = .next (((s.setLaunch l.ident (·.wakes s s.arg.id)).rouse s.arg.id).shareTroupes l s.arg.id i n) := by
  change execWakeMessage s = _
  unfold execWakeMessage
  simp only [hl, List.contains_eq_mem, hb, hs, hc, hr, decide_true, decide_false, Bool.not_true, Bool.false_eq_true, if_false]
  rfl

theorem wakeMessage_results (s : State) (l : Launch) (i n : Nat) (hl : s.launch? s.arg.word = some l) (hb : s.arg.id ∈ l.wakePending)
    (hs : l.shares.find? (fun x => x.1 == s.arg.id && x.2.2 != 0) = some (s.arg.id, i, n)) (hc : l.cohort = false)
    (hr : s.arg.id ∉ l.cancelReached) :
    ∃ (t : State) (us : List Troupe), exec .wakeMessage s = .next t ∧ t.troupes = s.troupes ++ us ∧ us.length = n ∧ t.mem = s.mem
      ∧ (∀ (k : Nat) (u : Troupe), us[k]? = some u → u.index = i + k ∧ u.bay = s.arg.id ∧ u.place = .waiting ∧ u.launch = l.ident
          ∧ u.start = .fresh l.arg [] ∧ u.c = l.c ∧ u.s = l.s ∧ u.lm = l.lm ∧ u.entry = l.entry ∧ u.parent = 0 ∧ u.children = 0)
      ∧ ∃ l' : Launch, t.launch? l.ident = some l' ∧ l'.wakePending = l.wakePending.filter (fun b => b != s.arg.id) ++ s.treeBelow s.arg.id := by
  obtain ⟨m, hm⟩ := (s.setLaunch l.ident (·.wakes s s.arg.id)).rouse_eq s.arg.id
  have hexec := exec_wakeMessage s l i n hl hb hs hc hr
  rw [State.shareTroupes_eq, hm] at hexec
  have hid : s.launch? l.ident = some l := State.launch?_ident hl ▸ hl
  refine ⟨_, _, hexec, rfl, by simp [State.shareList], rfl, fun k u hu => ?_, l.wakes s s.arg.id, ?_, rfl⟩
  · obtain ⟨j, hj, rfl⟩ := Option.map_eq_some_iff.1 ((List.getElem?_map ..).symm.trans hu)
    obtain ⟨-, rfl⟩ := List.getElem?_eq_some_iff.1 hj
    simp [newTroupe, Troupe.blank, Launch.shape]
  · exact (s.launch?_setLaunch l.ident (·.wakes s s.arg.id) (fun _ => rfl)).trans (by rw [hid]; rfl)

end Sys2Proof.Machine
end

section
/-! SUPPORT. The start of a troupe's strands, the end of a troupe and of its launch, and the cancel broadcast (spec/02 R26, R27, R32, R39, R40,
spec/09 R175). -/

namespace Sys2Proof.Machine

/-! ### TROUPE_PLACEMENT (R26, R27) -/

/-- No strand waits for an accumulator. -/
def State.NoneWaitsZ (s : State) : Prop := ∀ c ∈ s.cores, c.zwait = Vector.replicate 2 []

theorem State.NoneWaitsZ.core {s : State} (h : s.NoneWaitsZ) (n : Nat) : (s.core n).zwait = Vector.replicate 2 [] := by
  unfold State.core
  cases hf : s.cores.find? (fun c => c.num == n) with
  | none => rfl
  | some c => exact h c (List.mem_of_find?_eq_some hf)

theorem State.NoneWaitsZ.acquire {s : State} (h : s.NoneWaitsZ) (n : Nat) : (s.acquire n).NoneWaitsZ := by
  unfold State.acquire State.setCore
  split
  · intro c hc
    obtain ⟨d, hd, rfl⟩ := List.mem_map.1 hc
    split
    · exact h d hd
    · exact h d hd
  · intro c hc
    rcases List.mem_append.1 hc with hc | hc
    · exact h c hc
    · obtain rfl := List.mem_singleton.1 hc
      rfl

theorem State.NoneWaitsZ.addStrand {s : State} (h : s.NoneWaitsZ) (x : Strand) : (s.addStrand x).NoneWaitsZ :=
  State.NoneWaitsZ.acquire (s := { s with rest := s.rest ++ [x], nextId := s.nextId + 1 }) h x.core

theorem State.NoneWaitsZ.grantZ {s : State} (h : s.NoneWaitsZ) (core : Nat) (z : Fin 2) : s.grantZ core z = s := by
  have hz : (s.core core).zwait[z] = [] := by simp [h.core core]
  unfold State.grantZ
  rw [hz]
  cases (s.core core).zholder[z] with
  | none => rfl
  | some _ => rfl

theorem State.NoneWaitsZ.grantBay {s : State} (h : s.NoneWaitsZ) (bay : Nat) : s.grantBay bay = s :=
  List.foldlRecOn (motive := (· = s)) (List.range 8) _ rfl fun t ht i _ => by rw [ht, h.grantZ, h.grantZ]

/-- A strand of a troupe that starts afresh, by its strand index (R27). -/
def Troupe.StartsAs (u : Troupe) (s : State) (arg : Word) (payload : List Word) (k : Nat) (x : Strand) : Prop :=
  ∃ sid hw, x = freshStrand s u sid (u.core0 + k / max u.s 1) (k % max u.s 1) hw k arg payload

/-- From s to t strands l have been added, and nothing else has changed but what cores hold. -/
def Joined (s t : State) (l : List Strand) : Prop := ∃ n cs, t = { s with rest := s.rest ++ l, nextId := n, cores := cs }

theorem Joined.addStrand {s t : State} {l : List Strand} (h : Joined s t l) (x : Strand) : Joined s (t.addStrand x) (l ++ [x]) := by
  obtain ⟨n, cs, rfl⟩ := h
  obtain ⟨cs', hcs⟩ := State.acquire_onlyCores
    { s with rest := s.rest ++ l ++ [x], nextId := n + 1, cores := cs } x.core
  refine ⟨n + 1, cs', ?_⟩
  unfold State.addStrand
  rw [hcs, List.append_assoc]

/-- The strand of an index of a troupe as it starts: its number is the next one, its slot the lowest free one of its core. -/
def State.nextStrand (s : State) (u : Troupe) (arg : Word) (payload : List Word) (i : Nat) : Strand :=
  freshStrand s u s.nextId (u.core0 + i / max u.s 1) (i % max u.s 1) ((s.freeSlots (u.core0 + i / max u.s 1)).headD 0) i arg payload

/-- The first n strands of a troupe have started. -/
def State.startFirst (s : State) (u : Troupe) (arg : Word) (payload : List Word) (n : Nat) : State :=
  (List.range n).foldl (fun t i => t.addStrand (t.nextStrand u arg payload i)) s

theorem State.startFirst_succ (s : State) (u : Troupe) (arg : Word) (payload : List Word) (n : Nat) :
    s.startFirst u arg payload (n + 1) = (s.startFirst u arg payload n).addStrand ((s.startFirst u arg payload n).nextStrand u arg payload n) := by
  unfold State.startFirst
  rw [List.range_succ, List.foldl_append]
  rfl

theorem Joined.nextStrand {s t : State} {l : List Strand} (h : Joined s t l) (u : Troupe) (arg : Word) (payload : List Word) (n : Nat) :
    u.StartsAs s arg payload n (t.nextStrand u arg payload n) := by
  obtain ⟨_, _, rfl⟩ := h
  exact ⟨_, _, rfl⟩

/-- The strands of a troupe start on its cores, each by its index. -/
theorem State.startFirst_joined (s : State) (u : Troupe) (arg : Word) (payload : List Word) (hz : s.NoneWaitsZ) (n : Nat) :
    ∃ l, Joined s (s.startFirst u arg payload n) l ∧ (s.startFirst u arg payload n).NoneWaitsZ ∧ l.length = n
      ∧ ∀ (k : Nat) (x : Strand), l[k]? = some x → u.StartsAs s arg payload k x := by
  induction n with
  | zero => exact ⟨[], ⟨s.nextId, s.cores, by simp [State.startFirst]⟩, hz, rfl, fun k x hx => absurd hx (by simp)⟩
  | succ n ih =>
    obtain ⟨l, hj, hz', hl, hx⟩ := ih
    rw [State.startFirst_succ]
    refine ⟨_, hj.addStrand _, hz'.addStrand _, by simp [hl], fun k x hk => ?_⟩
    rcases Nat.lt_or_ge k n with h | h
    · exact hx k x (by rwa [List.getElem?_append_left (hl ▸ h)] at hk)
    · rw [List.getElem?_append_right (hl ▸ h), List.getElem?_singleton] at hk
      obtain ⟨h0, hnext⟩ := Option.ite_none_right_eq_some.1 hk
      obtain rfl := Option.some.inj hnext
      obtain rfl : k = n := by omega
      exact hj.nextStrand u arg payload k

theorem freshStrand_getX2 (s : State) (u : Troupe) (sid core slot hw index : Nat) (arg : Word) (payload : List Word) :
    (freshStrand s u sid core slot hw index arg payload).getX 2
      = BitVec.ofNat 64 (lmAddr core (u.lmOff + (slot + 1) * (u.lm * 1024 / max u.s 1))) := by
  simp [Strand.getX, freshStrand, regVector]

theorem freshStrand_getX3 (s : State) (u : Troupe) (sid core slot hw index : Nat) (arg : Word) (payload : List Word) :
    (freshStrand s u sid core slot hw index arg payload).getX 3 = arg := by
  simp [Strand.getX, freshStrand, regVector]

/-- A troupe on the cores from g on, its window at off. -/
def Troupe.placedAt (u : Troupe) (g off : Nat) : Troupe := { u with place := .placed, core0 := g, lmOff := off }

theorem exec_troupePlacement (s : State) (u : Troupe) (g off : Nat) (hu : s.troupe? s.arg.id = some u) (hr : s.roomFor u = some (g, off)) :
    exec .troupePlacement s = .next ((s.placeTroupe u g off).grantBay u.bay) := by
  have hp : u.place = .waiting := by
    unfold State.roomFor at hr
    split at hr
    · next h => exact h.1
    · exact absurd hr nofun
  change execTroupePlacement s = _
  unfold execTroupePlacement
  rw [State.troupe_of_some hu]
  dsimp only
  rw [hp]
  dsimp only
  rw [hr]

/-- TROUPE_PLACEMENT of a waiting troupe with room starts its strands. -/
theorem troupePlacement_results (s : State) (u : Troupe) (g off : Nat) (arg : Word) (payload : List Word) (hu : s.troupe? s.arg.id = some u)
    (hr : s.roomFor u = some (g, off)) (hs : u.start = .fresh arg payload) (hn : 1 ≤ u.s) (hz : s.NoneWaitsZ) :
    ∃ (t : State) (l : List Strand), exec .troupePlacement s = .next t ∧ t.rest = s.rest ++ l ∧ l.length = u.c * u.s ∧ t.cur = s.cur
      ∧ t.mem = s.mem ∧ (t.troupe u.uid).place = .placed ∧ (t.troupe u.uid).core0 = g ∧ (t.troupe u.uid).lmOff = off
      ∧ ∀ (k : Nat) (x : Strand), l[k]? = some x → x.mode = .running ∧ x.troupe = u.uid ∧ x.core = g + k / u.s ∧ x.sr.strand = k
          ∧ x.pc = padd (s.job u.job).codeBase (BitVec.ofNat 64 (2 * u.entry)) ∧ x.getX 3 = arg
          ∧ x.getX 2 = BitVec.ofNat 64 (lmAddr (g + k / u.s) (off + (k % u.s + 1) * (u.lm * 1024 / u.s))) := by
  obtain ⟨l, hj, hz', hl, hx⟩ := State.startFirst_joined
    (s.setTroupe u.uid (·.placedAt g off)) (u.placedAt g off) arg payload hz (u.c * u.s)
  have hplace : s.placeTroupe u g off
      = (s.setTroupe u.uid (·.placedAt g off)).startFirst (u.placedAt g off) arg payload (u.c * u.s) := by
    unfold State.placeTroupe
    rw [hs]
    rfl
  have hexec := exec_troupePlacement s u g off hu hr
  rw [hplace, hz'.grantBay] at hexec
  obtain ⟨n, cs, ht⟩ := hj
  rw [ht] at hexec
  have huid : s.troupe? u.uid = some u := State.troupe?_uid hu ▸ hu
  have htroupe := State.troupe_of_some ((s.troupe?_setTroupe u.uid (·.placedAt g off) (fun _ => rfl)).trans (congrArg _ huid))
  refine ⟨_, l, hexec, rfl, hl, rfl, rfl, congrArg Troupe.place htroupe, congrArg Troupe.core0 htroupe, congrArg Troupe.lmOff htroupe,
    fun k x hk => ?_⟩
  obtain ⟨sid, hw, rfl⟩ := hx k x hk
  have hmax : max (u.placedAt g off).s 1 = u.s := Nat.max_eq_left hn
  rw [freshStrand_getX2, freshStrand_getX3, hmax]
  exact ⟨rfl, rfl, rfl, rfl, rfl, rfl, rfl⟩

/-! ### The end of a launch (R39) -/

/-- Completing a launch leaves its count and the reach of its cancel; where its job runs it is complete then. -/
theorem State.completeLaunch_launch? (s : State) (i : Word) (l : Launch) (h : s.launch? i = some l) :
    ∃ l', (s.completeLaunch i).launch? i = some l' ∧ l'.rootCount = l.rootCount ∧ l'.cancelReached = l.cancelReached
      ∧ ((s.job l.job).stopped = false → l'.complete = true) := by
  unfold State.completeLaunch
  rw [h]
  dsimp only
  split
  · next hdone => exact ⟨l, h, rfl, rfl, fun hrun => by simpa [hrun] using hdone⟩
  · have hrel : (s.releaseBays (s.baysOf l)).launch? i = some l := by
      unfold State.launch?
      rw [(s.releaseBays_agentKeeps _).launches]
      exact h
    have hset := (State.launch?_setLaunch _ i (fun x => { x with complete := true, ran := s.baysOf l }) (fun _ => rfl)).trans
      (congrArg _ hrel)
    cases l.signal <;> cases l.system <;> exact ⟨_, hset, rfl, rfl, fun _ => rfl⟩

theorem State.completeLaunch_cancelsKept (s : State) (i : Word) : CancelsKept s (s.completeLaunch i) := by
  unfold State.completeLaunch
  split
  · exact .of_eq rfl
  · next l _ =>
    dsimp only
    split
    · exact .of_eq rfl
    · refine (s.releaseBays_agentKeeps (s.baysOf l)).strands.trans ?_
      cases l.signal <;> cases l.system <;> exact .of_eq rfl

/-- A launch with one child less at its root. -/
def Launch.lessOne (l : Launch) : Launch := { l with rootCount := l.rootCount - 1 }

theorem State.childDone_root {s : State} {i : Word} {l : Launch} (h : s.launch? i = some l) :
    s.childDone i 0 = if l.lessOne.rootCount = 0 then (s.setLaunch i Launch.lessOne).completeLaunch i else s.setLaunch i Launch.lessOne := by
  have hset : (s.setLaunch i Launch.lessOne).launch? i = some l.lessOne :=
    (s.launch?_setLaunch i Launch.lessOne (fun _ => rfl)).trans (congrArg _ h)
  unfold State.childDone
  rw [if_pos rfl]
  change (match (s.setLaunch i Launch.lessOne).launch? i with
    | some l => if l.rootCount = 0 then (s.setLaunch i Launch.lessOne).completeLaunch i else s.setLaunch i Launch.lessOne
    | none => s.setLaunch i Launch.lessOne) = _
  rw [hset]

/-- The launch root counts one less, and the last one completes the launch. -/
theorem State.childDone_launch? {s : State} {i : Word} {l : Launch} (h : s.launch? i = some l) :
    ∃ l', (s.childDone i 0).launch? i = some l' ∧ l'.rootCount = l.rootCount - 1 ∧ l'.cancelReached = l.cancelReached
      ∧ ((s.job l.job).stopped = false → l.rootCount = 1 → l'.complete = true) := by
  have hset : (s.setLaunch i Launch.lessOne).launch? i = some l.lessOne :=
    (s.launch?_setLaunch i Launch.lessOne (fun _ => rfl)).trans (congrArg _ h)
  rw [State.childDone_root h]
  split
  · obtain ⟨l', hl', hroot, hreach, hdone⟩ := State.completeLaunch_launch? _ i _ hset
    exact ⟨l', hl', hroot, hreach, fun hrun _ => hdone hrun⟩
  · next hmore => exact ⟨l.lessOne, hset, rfl, rfl, fun _ hone => absurd (by simp [Launch.lessOne, hone]) hmore⟩

/-- A troupe with one child less. -/
def Troupe.lessOne (u : Troupe) : Troupe := { u with children := u.children - 1 }

theorem State.childDone_child (s : State) (i : Word) (p : Nat) (h : p ≠ 0) : s.childDone i p = s.setTroupe p Troupe.lessOne := if_neg h

theorem State.setTroupe_lessOne_children (s : State) (n : Nat) : ((s.setTroupe n Troupe.lessOne).troupe n).children = (s.troupe n).children - 1 := by
  unfold State.troupe
  rw [State.troupe?_setTroupe s n Troupe.lessOne (fun _ => rfl)]
  cases s.troupe? n <;> rfl

/-! ### TROUPE_DONE (R39, R40) -/

/-- A launch once a bay has held a troupe of it. -/
def Launch.ranIn (l : Launch) (bay : Nat) : Launch := { l with ran := if l.ran.contains bay then l.ran else l.ran ++ [bay] }

/-- A troupe's record and those of its ended strands are freed. -/
def State.freeTroupe (s : State) (n : Nat) : State :=
  { s with
    troupes := s.troupes.filter (fun t => t.uid != n), cur := if s.cur.troupe = n ∧ s.cur.mode = .ended then Strand.blank else s.cur,
    rest := s.rest.filter (fun t => !(t.troupe == n && t.mode == .ended)) }

theorem State.freeTroupe_troupe (s : State) (n m : Nat) (h : m ≠ n) : (s.freeTroupe n).troupe m = s.troupe m := by
  have hp : (fun t : Troupe => decide ((t.uid != n) = true ∧ (t.uid == m) = true)) = fun t => t.uid == m := by
    funext t
    by_cases ht : t.uid = m
    · simp [ht, h]
    · simp [ht]
  unfold State.troupe State.troupe? State.freeTroupe
  rw [List.find?_filter, hp]

theorem exec_troupeDone (s : State) (u : Troupe) (hu : s.troupe? s.arg.id = some u) (hp : u.place = .ended) (hc : u.children = 0)
    (hq : s.troupeQuiet u.uid = true) (hj : (s.job u.job).stopped = false) :
    exec .troupeDone s = .next (((s.setLaunch u.launch (·.ranIn u.bay)).childDone u.launch u.parent).freeTroupe u.uid) := by
  change execTroupeDone s = _
  unfold execTroupeDone
  rw [State.troupe_of_some hu]
  dsimp only
  rw [if_pos ⟨hp, hc, hq, by simp [hj]⟩]
  rfl

theorem troupeDone_results (s : State) (u : Troupe) (hu : s.troupe? s.arg.id = some u) (hp : u.place = .ended) (hc : u.children = 0)
    (hq : s.troupeQuiet u.uid = true) (hj : (s.job u.job).stopped = false) :
    ∃ t : State, exec .troupeDone s = .next t ∧ (∀ v ∈ t.troupes, v.uid ≠ u.uid)
      ∧ (u.parent ≠ 0 → u.parent ≠ u.uid → (t.troupe u.parent).children = (s.troupe u.parent).children - 1)
      ∧ (u.parent = 0 → ∀ l : Launch, s.launch? u.launch = some l → l.job = u.job →
          ∃ l' : Launch, t.launch? u.launch = some l' ∧ l'.rootCount = l.rootCount - 1 ∧ (l.rootCount = 1 → l'.complete = true)) := by
  refine ⟨_, exec_troupeDone s u hu hp hc hq hj, fun v hv => ?_, fun h0 hself => ?_, fun h0 l hl hlj => ?_⟩
  · simpa using (List.mem_filter.1 hv).2
  · rw [State.freeTroupe_troupe _ _ _ hself, State.childDone_child _ _ _ h0]
    exact State.setTroupe_lessOne_children (s.setLaunch u.launch (·.ranIn u.bay)) u.parent
  · have hran : (s.setLaunch u.launch (·.ranIn u.bay)).launch? u.launch = some (l.ranIn u.bay) :=
      (s.launch?_setLaunch u.launch (·.ranIn u.bay) (fun _ => rfl)).trans (congrArg _ hl)
    obtain ⟨l', hl', hroot, -, hdone⟩ := State.childDone_launch? hran
    rw [h0]
    exact ⟨l', hl', hroot, hdone (by rw [← hj, ← hlj]; rfl)⟩

/-! ### CANCEL_BROADCAST (R175) -/

/-- From s to t CANCEL is due wherever it was, and the cancel of a launch has reached the bays that it had. -/
def CancelStands (i : Word) (s t : State) : Prop :=
  CancelsKept s t ∧ ∀ l, s.launch? i = some l → ∃ l', t.launch? i = some l' ∧ l'.cancelReached = l.cancelReached

theorem CancelStands.of_launches {i : Word} {s t : State} (h : CancelsKept s t) (hl : t.launches = s.launches) : CancelStands i s t :=
  ⟨h, fun l hs => ⟨l, by unfold State.launch? at hs ⊢; rwa [hl], rfl⟩⟩

theorem CancelStands.trans {i : Word} {s t u : State} (h : CancelStands i s t) (k : CancelStands i t u) : CancelStands i s u := by
  refine ⟨h.1.trans k.1, fun l hs => ?_⟩
  obtain ⟨l', hl', hr'⟩ := h.2 l hs
  obtain ⟨l'', hl'', hr''⟩ := k.2 l' hl'
  exact ⟨l'', hl'', hr''.trans hr'⟩

theorem CancelStands.foldl {i : Word} {α : Type} {op : State → α → State} (h : ∀ t a, CancelStands i t (op t a)) (l : List α) (s : State) :
    CancelStands i s (l.foldl op s) :=
  List.foldlRecOn l op (.of_launches (.of_eq rfl) rfl) fun t ht a _ => ht.trans (h t a)

theorem State.childDone_cancelsKept (s : State) (i : Word) (p : Nat) : CancelsKept s (s.childDone i p) := by
  unfold State.childDone
  split
  · dsimp only
    split
    · split
      · exact CancelsKept.trans (.of_eq rfl) (State.completeLaunch_cancelsKept _ _)
      · exact .of_eq rfl
    · exact .of_eq rfl
  · exact .of_eq rfl

theorem State.childDone_cancelStands (s : State) (i : Word) (p : Nat) : CancelStands i s (s.childDone i p) := by
  refine ⟨s.childDone_cancelsKept i p, fun l hl => ?_⟩
  by_cases hp : p = 0
  · obtain ⟨l', hl', -, hreach, -⟩ := State.childDone_launch? hl
    exact ⟨l', hp ▸ hl', hreach⟩
  · rw [s.childDone_child i p hp]
    exact ⟨l, hl, rfl⟩

theorem State.openLbar_cancelStands (s : State) (i : Word) : CancelStands i s (s.openLbar i) := by
  unfold State.openLbar
  extract_lets us mine started late
  split
  · split
    · refine CancelStands.foldl (fun t u => ?_) mine s
      have hwake : CancelStands i t (t.setStrand u.sid Strand.finishWait) :=
        .of_launches (t.setStrand_cancelsKept u.sid _ fun _ => ⟨rfl, rfl⟩) rfl
      have hacquire := (State.acquire_onlyCores (t.setStrand u.sid Strand.finishWait) u.core).agentKeeps
      exact hwake.trans (.of_launches hacquire.strands hacquire.launches)
    · refine CancelStands.foldl (fun t u => ?_) late s
      exact .of_launches (t.setStrand_cancelsKept u.sid _ fun _ => ⟨rfl, rfl⟩) rfl
  · exact .of_launches (.of_eq rfl) rfl

theorem State.dropWaiting_cancelStands (s : State) (i : Word) (b : Nat) : CancelStands i s (s.dropWaiting i b) := by
  unfold State.dropWaiting
  refine CancelStands.trans (CancelStands.foldl (fun t u => ?_) _ s) (State.openLbar_cancelStands _ i)
  exact CancelStands.trans (.of_launches (.of_eq rfl) rfl) (State.childDone_cancelStands _ i u.parent)

theorem State.dropStarts_cancelStands (s : State) (i : Word) (core : Nat) : CancelStands i s (s.dropStarts i core) := by
  unfold State.dropStarts
  extract_lets mine gone
  refine CancelStands.trans ?_ (CancelStands.foldl (fun t m => t.childDone_cancelStands i m.parent) gone _)
  have hk := (s.setCore_onlyCores core (fun c =>
    { c with starts := c.starts.filter (fun m => !mine m), parked := c.parked.filter (fun m => !mine m) })).agentKeeps
  exact .of_launches hk.strands hk.launches

/-- A launch whose cancel has come to a bay and goes on from there. -/
def Launch.cancelsIn (l : Launch) (s : State) (b : Nat) : Launch :=
  { l with cancelPending := l.cancelPending.filter (· != b) ++ s.treeBelow b, cancelReached := l.cancelReached ++ [b] }

/-- A strand as the cancel of a launch finds it in a bay. -/
def State.cancelStrand (s : State) (i : Word) (b : Nat) (t : Strand) : Strand :=
  if t.exists? ∧ bayOfCore t.core = b ∧ (s.troupe t.troupe).launch = i ∧ !t.cancelTaken then { t with cancelDue := true } else t

theorem exec_cancelBroadcast (s : State) (l : Launch) (hl : s.launch? s.arg.word = some l) (hb : s.arg.id ∈ l.cancelPending) :
    exec .cancelBroadcast s = .next ((List.range 8).foldl (fun t k => t.dropStarts l.ident (8 * s.arg.id + k))
      (((s.setLaunch l.ident (·.cancelsIn s s.arg.id)).mapStrands (s.cancelStrand l.ident s.arg.id)).dropWaiting l.ident s.arg.id)) := by
  change execCancelBroadcast s = _
  unfold execCancelBroadcast
  rw [hl]
  dsimp only
  rw [if_neg (by simp [hb])]
  rfl

theorem cancelBroadcast_results (s : State) (l : Launch) (hl : s.launch? s.arg.word = some l) (hb : s.arg.id ∈ l.cancelPending) :
    ∃ t : State, exec .cancelBroadcast s = .next t
      ∧ (∃ l' : Launch, t.launch? l.ident = some l' ∧ l'.cancelReached = l.cancelReached ++ [s.arg.id])
      ∧ ∀ x ∈ s.strands, x.exists? = true → bayOfCore x.core = s.arg.id → (s.troupe x.troupe).launch = l.ident → x.cancelTaken = false →
          ∃ y ∈ t.strands, y.sid = x.sid ∧ y.cancelDue = true := by
  have hid : s.launch? l.ident = some l := State.launch?_ident hl ▸ hl
  have hset : ((s.setLaunch l.ident (·.cancelsIn s s.arg.id)).mapStrands (s.cancelStrand l.ident s.arg.id)).launch? l.ident
      = some (l.cancelsIn s s.arg.id) := (s.launch?_setLaunch l.ident (·.cancelsIn s s.arg.id) (fun _ => rfl)).trans (congrArg _ hid)
  obtain ⟨⟨f, hf, hkeep⟩, hreach⟩ := (State.dropWaiting_cancelStands
    ((s.setLaunch l.ident (·.cancelsIn s s.arg.id)).mapStrands (s.cancelStrand l.ident s.arg.id)) l.ident s.arg.id).trans
      (CancelStands.foldl (fun t k => t.dropStarts_cancelStands l.ident (8 * s.arg.id + k)) (List.range 8) _)
  refine ⟨_, exec_cancelBroadcast s l hl hb, hreach _ hset, fun x hx he hbay hlaunch htaken => ?_⟩
  have hx' : s.cancelStrand l.ident s.arg.id x = { x with cancelDue := true } := if_pos ⟨he, hbay, hlaunch, by simp [htaken]⟩
  refine ⟨f (s.cancelStrand l.ident s.arg.id x), hf ▸ List.mem_map_of_mem (List.mem_map_of_mem hx), ?_⟩
  rw [(hkeep _).1, (hkeep _).2, hx']
  exact ⟨rfl, rfl⟩

end Sys2Proof.Machine
end

section
/-! SUPPORT. Writes of the hub when no deposit and no transaction is outstanding and no word is poisoned: the words land one after another, and a
record is appended to a queue (spec/06 R121, spec/09 R164, R172). -/

namespace Sys2Proof.Machine

/-! ### Words as bytes (R4) -/

theorem wordsOfBytes_natBytes (v : Nat) (bs : List Byte) : wordsOfBytes (natBytes 8 v ++ bs) = BitVec.ofNat 64 v :: wordsOfBytes bs := by
  have h : wordsOfBytes (natBytes 8 v ++ bs) = BitVec.ofNat 64 (leNat (natBytes 8 v)) :: wordsOfBytes bs := rfl
  rw [h, leNat_natBytes]
  congr 1
  exact BitVec.eq_of_toNat_eq (by simp)

theorem wordsOfBytes_bytesOfWords (ws : List Word) : wordsOfBytes (bytesOfWords ws) = ws := by
  induction ws with
  | nil => rfl
  | cons w ws ih =>
    have h : bytesOfWords (w :: ws) = natBytes 8 w.toNat ++ bytesOfWords ws := rfl
    rw [h, wordsOfBytes_natBytes, ih, BitVec.ofNat_toNat, BitVec.setWidth_eq]

theorem Memory.bytes_congr {m m' : Memory} {a n : Nat} (h : ∀ x, a ≤ x → x < a + n → Memory.get m' x = Memory.get m x) :
    Memory.bytes m' a n = Memory.bytes m a n := by
  induction n generalizing a with
  | zero => rfl
  | succ n ih =>
    unfold Memory.bytes
    rw [h a (Nat.le_refl a) (by omega), ih fun x h1 h2 => h x (by omega) (by omega)]

/-- A word reads as it did where none of its bytes has changed. -/
theorem State.word_congr {s t : State} {a : Nat} (h : ∀ x, a ≤ x → x < a + 8 → t.byte x = s.byte x) : t.word a = s.word a := by
  unfold State.word Memory.readN
  rw [Memory.bytes_congr h]

/-! ### Nothing outstanding -/

/-- No deposit and no transaction is outstanding, no word is poisoned, and memory is in its one form. -/
structure State.Settled (s : State) : Prop where
  upd : ∀ c ∈ s.cores, c.upd = []
  tx : ∀ u ∈ s.strands, u.tx.depth = 0 ∧ u.tx.committing = false
  poison : s.poison = []
  mem : Memory.wf s.mem = true

theorem OnlyCoh.settled {s t : State} (h : OnlyCoh s t) (k : s.Settled) : t.Settled := by
  obtain ⟨_, rfl⟩ := h
  exact ⟨k.upd, k.tx, k.poison, k.mem⟩

theorem State.Settled.isPoison {s : State} (h : s.Settled) (a : Nat) : s.isPoison a = false := by
  unfold State.isPoison
  rw [h.poison]
  rfl

theorem State.Settled.committedByte {s : State} (h : s.Settled) (a : Nat) : s.committedByte a = s.byte a := by
  have hnone : s.strands.find? (fun t => t.exists? && t.tx.committing && t.tx.spec.any (fun c => c.1 == a)) = none :=
    List.find?_eq_none.2 fun u hu => by simp [(h.tx u hu).2]
  unfold State.committedByte
  rw [hnone]
  rfl

/-- A fresh read then finds the bytes of memory. -/
theorem State.Settled.freshWord {s : State} (h : s.Settled) (a : Nat) :
    s.freshWord a = BitVec.ofNat 64 (leNat ((List.range 8).map (fun i => s.byte (a + i)))) := by
  have hfold : ∀ bs, s.cores.foldl (fun b c => (c.upd.filter (·.registered)).foldl (fun b u => u.dep.onWord a b) b) bs = bs := fun bs =>
    List.foldlRecOn (motive := (· = bs)) s.cores _ rfl fun b hb c hc => by rw [h.upd c hc, hb]; rfl
  unfold State.freshWord
  simp only [hfold, h.committedByte]

theorem State.Settled.clearTiles {s : State} (h : s.Settled) (a n : Nat) (w : Bool) : s.clearTiles a n w = s := by
  have hcommit : s.strands.filter (fun t => t.tx.committing && t.exists?) = [] := List.filter_eq_nil_iff.2 fun u hu => by simp [(h.tx u hu).2]
  have hconflict : ∀ tile, s.conflicts tile true = [] := fun tile => List.filter_eq_nil_iff.2 fun u hu => by simp [(h.tx u hu).1]
  refine List.foldlRecOn (motive := (· = s)) (tilesOf a n) _ rfl fun t ht tile _ => ?_
  simp only [ht, hcommit, hconflict, List.foldl_nil, ite_self]

theorem State.Settled.settleRange {s : State} (h : s.Settled) (a n : Nat) (w : Bool) : OnlyCoh s (s.settleRange a n w) := by
  have hrebase : OnlyCoh s s.endRebase := ⟨_, rfl⟩
  unfold State.settleRange
  split
  · rw [(hrebase.settled h).clearTiles]
    exact List.foldlRecOn (motive := OnlyCoh s) _ _ hrebase fun t ht ln _ => ht.trans (t.settle_onlyCoh ln w (ht.settled h).upd)
  · exact OnlyCoh.refl s

/-! ### Writes -/

/-- From s to t nothing has become outstanding, no job has changed, and only some of n bytes at a have. -/
structure Stored (s t : State) (a n : Nat) : Prop where
  settled : t.Settled
  jobs : t.jobs = s.jobs
  bytes : SameBytesBut s t a n

theorem Stored.refl {s : State} (h : s.Settled) (a n : Nat) : Stored s s a n := ⟨h, rfl, fun _ _ => rfl⟩

/-- Two runs of bytes within a longer one. -/
theorem Stored.trans {s t u : State} {a n b m c k : Nat} (h : Stored s t a n) (g : Stored t u b m) (ha : c ≤ a ∧ a + n ≤ c + k)
    (hb : c ≤ b ∧ b + m ≤ c + k) : Stored s u c k :=
  ⟨g.settled, g.jobs.trans h.jobs, fun x hx => (g.bytes x (by omega)).trans (h.bytes x (by omega))⟩

theorem Stored.freshWord {s t : State} {a n : Nat} (h : Stored s t a n) (hs : s.Settled) (x : Nat) (hx : x + 8 ≤ a ∨ a + n ≤ x) :
    t.freshWord x = s.freshWord x := by
  rw [h.settled.freshWord, hs.freshWord]
  congr 2
  refine List.map_congr_left fun i hi => h.bytes _ ?_
  have := List.mem_range.1 hi
  omega

theorem Stored.word {s t : State} {a n x : Nat} (h : Stored s t a n) (hx : x + 8 ≤ a ∨ a + n ≤ x) : t.word x = s.word x :=
  State.word_congr fun y h1 h2 => h.bytes y (by omega)

theorem State.Settled.storeAt {s : State} (h : s.Settled) (a : Nat) (bs : List Byte) :
    Stored s (s.storeAt a bs) a bs.length ∧ (s.storeAt a bs).mem = Memory.setBytes s.mem a bs := by
  have hcleanse : s.cleanse a bs.length = s :=
    List.foldlRecOn (motive := (· = s)) _ _ rfl fun t ht w _ => by rw [ht, h.isPoison]; rfl
  have hput : s.storeAt a bs = (s.poke a bs).noteAt a bs.length := by
    unfold State.storeAt State.refusesWrite
    rw [h.isPoison, Bool.and_false, hcleanse]
    rfl
  have hupd : ∀ c ∈ ((s.poke a bs).noteAt a bs.length).cores, c.upd = [] :=
    List.foldlRecOn (motive := fun t : State => ∀ c ∈ t.cores, c.upd = []) _ _ h.upd fun t ht core _ =>
      t.setCore_upd core _ (fun _ => rfl) ht
  obtain ⟨cs, hcs⟩ := (s.poke a bs).noteAt_onlyCores a bs.length
  rw [hcs] at hupd
  rw [hput, hcs]
  refine ⟨⟨⟨hupd, fun u hu => ?_, h.poison, Memory.wf_setBytes bs s.mem a h.mem⟩, rfl, fun x hx => Memory.get_setBytes_other bs s.mem a x hx⟩, rfl⟩
  obtain ⟨v, hv, rfl⟩ := List.mem_map.1 (show u ∈ s.strands.map (fun t => t.noteWrite (s.poke a bs).mem a bs.length) from hu)
  rw [(v.noteWrite_keeps _ a _).2.2.1]
  exact h.tx v hv

theorem State.Settled.agentWrite {s : State} (h : s.Settled) (a : Nat) (bs : List Byte) :
    Stored s (s.agentWrite a bs) a bs.length ∧ (s.agentWrite a bs).mem = Memory.setBytes s.mem a bs := by
  have hafter : ∀ t, OnlyCoh s t → Stored s (t.storeAt a bs) a bs.length ∧ (t.storeAt a bs).mem = Memory.setBytes s.mem a bs := by
    intro t ht
    have hstore := (ht.settled h).storeAt a bs
    obtain ⟨_, rfl⟩ := ht
    exact ⟨⟨hstore.1.settled, hstore.1.jobs, hstore.1.bytes⟩, hstore.2⟩
  have hsettle := h.settleRange a bs.length true
  unfold State.agentWrite
  dsimp only
  split
  · exact hafter _ (hsettle.trans (OnlyCoh.foldl (fun x ln => x.setLine_onlyCoh ln _) _ _))
  · exact hafter _ hsettle

/-- A word that the hub writes. -/
theorem State.Settled.writeWord {s : State} (h : s.Settled) (a : Nat) (w : Word) :
    Stored s (s.agentWrite a (natBytes 8 w.toNat)) a 8 ∧ (s.agentWrite a (natBytes 8 w.toNat)).word a = w := by
  obtain ⟨hstore, hmem⟩ := h.agentWrite a (natBytes 8 w.toNat)
  rw [natBytes_length] at hstore
  refine ⟨hstore, ?_⟩
  have hread : Memory.readN (Memory.setBytes s.mem a (natBytes 8 w.toNat)) a 8 = w.toNat % 256 ^ 8 := Memory.readN_writeN s.mem a 8 w.toNat h.mem
  unfold State.word
  rw [hmem, hread, Nat.mod_eq_of_lt (show w.toNat < 256 ^ 8 from w.isLt), BitVec.ofNat_toNat, BitVec.setWidth_eq]

/-- Words written from a pointer on, whose translation none of them disturbs, land one after another. -/
theorem devWriteWords_lands {s : State} (h : s.Settled) (job : Nat) (p : Word) (b : Nat) (ws : List Word)
    (hp : ∀ u, Stored s u b (8 * ws.length) → ∀ k, k < ws.length → physOf u job (ptrAt p (8 * k)) = some (b + 8 * k)) :
    Stored s (devWriteWords s job p ws) b (8 * ws.length)
      ∧ ∀ (k : Nat) (w : Word), ws[k]? = some w → (devWriteWords s job p ws).word (b + 8 * k) = w := by
  induction ws generalizing s p b with
  | nil => exact ⟨Stored.refl h b _, fun k w hk => absurd hk (by simp)⟩
  | cons w ws ih =>
    have h0 : physOf s job p = some b := by
      have h := hp s (Stored.refl h b _) 0 (by simp)
      rwa [Nat.mul_zero, ptrAt_zero] at h
    obtain ⟨hfirst, hword⟩ := h.writeWord b w
    have hstep : devWriteWords s job p (w :: ws) = devWriteWords (s.agentWrite b (natBytes 8 w.toNat)) job (ptrAt p 8) ws := by
      conv_lhs => unfold devWriteWords
      rw [h0]
    have hlen : 8 * (w :: ws).length = 8 + 8 * ws.length := by rw [List.length_cons]; omega
    obtain ⟨hrest, hwords⟩ := ih hfirst.settled (ptrAt p 8) (b + 8) fun u hu k hk => by
      rw [ptrAt_ptrAt, show 8 + 8 * k = 8 * (k + 1) by omega, hp u (hfirst.trans hu (by omega) (by omega)) (k + 1) (by simpa using hk)]
      congr 1
      omega
    rw [hstep]
    refine ⟨hfirst.trans hrest (by omega) (by omega), fun k x hk => ?_⟩
    cases k with
    | zero =>
      obtain rfl := Option.some.inj hk
      exact (hrest.word (by omega)).trans hword
    | succ k => exact (congrArg _ (by omega)).trans (hwords k x hk)

/-! ### A record at a queue's tail -/

theorem State.job_setJob_field {α : Type} (s : State) (n m : Nat) (f : Job → Job) (g : Job → α) (hf : ∀ j, (f j).num = j.num)
    (hg : ∀ j, g (f j) = g j) : g ((s.setJob n f).job m) = g (s.job m) := by
  have hp : ((fun j : Job => j.num == m) ∘ fun j => if j.num == n then f j else j) = fun j => j.num == m := by
    funext j
    by_cases h : j.num = n <;> simp [h, hf]
  unfold State.job State.job? State.setJob
  rw [List.find?_map, hp]
  cases s.jobs.find? (fun j => j.num == m) with
  | none => rfl
  | some j =>
    dsimp only [Option.map_some, Option.getD_some]
    split
    · exact hg j
    · rfl

/-- The slot and the tail word of a queue are where they were, while no byte but theirs changes. -/
theorem State.TailAt.phys {s s' : State} {d : QueueDesc} {b c : Nat} (h : s.TailAt d b c) (hs : s.Settled)
    (hw : (s'.job d.job).windows = (s.job d.job).windows) (hb : (s'.job d.job).ptBase = (s.job d.job).ptBase) (u : State) (hu : u.Settled)
    (hj : u.jobs = s'.jobs) (hbytes : ∀ x, x < b ∨ b + 64 ≤ x → x < c ∨ c + 8 ≤ x → u.byte x = s.byte x) :
    physOf u d.job d.tailAddr = some c ∧ ∀ k, k < 8 → physOf u d.job (ptrAt (slotPtr d (s.tailOf d)) (8 * k)) = some (b + 8 * k) := by
  have hjob : u.job d.job = s'.job d.job := by
    unfold State.job State.job?
    rw [hj]
  refine h.2 u (hjob ▸ hw) (hjob ▸ hb) (hu.poison.trans hs.poison.symm) fun x hx hy => ?_
  rw [hu.freshWord, hs.freshWord]
  congr 2
  refine List.map_congr_left fun i hi => ?_
  have := List.mem_range.1 hi
  exact hbytes _ (by omega) (by omega)

/-- The record lands in the slot at the tail, and the tail word counts it. -/
theorem State.TailAt.appendRecord {s s' : State} {d : QueueDesc} {b c : Nat} (h : s.TailAt d b c) (hs : s.Settled) (hs' : s'.Settled)
    (hm : s'.mem = s.mem) (hw : (s'.job d.job).windows = (s.job d.job).windows) (hb : (s'.job d.job).ptBase = (s.job d.job).ptBase)
    (ws : List Word) (hlen : ws.length = 8) : Appended s (s'.appendRecord d ws) d ws b c := by
  have hphys := h.phys hs hw hb
  have hbyte : ∀ x, s'.byte x = s.byte x := fun x => congrArg (Memory.get · x) hm
  have htail : s'.tailOf d = s.tailOf d := by
    unfold State.tailOf
    rw [(hphys s' hs' rfl fun x _ _ => hbyte x).1, (h.2 s rfl rfl rfl fun _ _ _ => rfl).1]
    exact congrArg (Memory.readN · c 8) hm
  obtain ⟨hslot, hwords⟩ := devWriteWords_lands hs' d.job (slotPtr d (s.tailOf d)) b ws fun u hu k hk =>
    (hphys u hu.settled hu.jobs fun x hx _ => (hu.bytes x (by omega)).trans (hbyte x)).2 k (by omega)
  rw [hlen] at hslot
  obtain ⟨hcount, hcounted⟩ := hslot.settled.writeWord c (BitVec.ofNat 64 (s.tailOf d + 1))
  have happend : s'.appendRecord d ws = (devWriteWords s' d.job (slotPtr d (s.tailOf d)) ws).agentWrite c
      (natBytes 8 (BitVec.ofNat 64 (s.tailOf d + 1)).toNat) := by
    have hlast : wordsOfBytes (natBytes 8 (s.tailOf d + 1)) = [BitVec.ofNat 64 (s.tailOf d + 1)] := wordsOfBytes_natBytes _ []
    unfold State.appendRecord devWrite
    simp only [htail, wordsOfBytes_bytesOfWords, hlast]
    conv_lhs => unfold devWriteWords
    rw [(hphys _ hslot.settled hslot.jobs fun x hx _ => (hslot.bytes x hx).trans (hbyte x)).1]
    rfl
  rw [happend]
  refine ⟨fun x hx hy => ((hcount.bytes x hy).trans (hslot.bytes x hx)).trans (hbyte x), fun k hk => ?_, hcounted⟩
  have hget : ws[k]? = some ws[k] := List.getElem?_eq_getElem (by omega)
  have hapart := h.1
  rw [hget, hcount.word (by omega), hwords k _ hget]

/-! ### LAUNCH_OVERFLOW_APPEND (R172, R314) -/

/-- A job that keeps its oldest record no more. -/
def Job.dropFirst (j : Job) : Job := { j with overflow := j.overflow.eraseIdx 0 }

theorem exec_launchOverflowAppend (s : State) (j : Job) (e : Nat × Nat × List Word) (l : List (Nat × Nat × List Word)) (d : QueueDesc)
    (hj : s.job? s.arg.id = some j) (hs : j.stopped = false) (ho : j.overflow = e :: l) (hq : s.queue? e.1 = some d)
    (hf : s.queueFull d = false) :
    exec .launchOverflowAppend s = .next ((s.setJob s.arg.id Job.dropFirst).appendRecord d e.2.2) := by
  change execLaunchOverflowAppend s = _
  unfold execLaunchOverflowAppend
  rw [State.job_of_some hj]
  simp only [hs, ho, List.findIdx?_cons, hq, hf, Bool.not_false, Bool.false_eq_true, if_true, if_false, List.getElem?_cons_zero,
    Option.bind_some, State.job?_num hj]
  rfl

theorem launchOverflowAppend_results (s : State) (j : Job) (e : Nat × Nat × List Word) (l : List (Nat × Nat × List Word)) (d : QueueDesc)
    (hj : s.job? s.arg.id = some j) (hs : j.stopped = false) (ho : j.overflow = e :: l) (hq : s.queue? e.1 = some d)
    (hf : s.queueFull d = false) :
    ∃ t : State, exec .launchOverflowAppend s = .next t ∧ (t.job s.arg.id).overflow = l
      ∧ ∀ b c : Nat, e.2.2.length = 8 → s.TailAt d b c → s.Quiet → s.poison = [] → Safe s → Appended s t d e.2.2 b c := by
  refine ⟨_, exec_launchOverflowAppend s j e l d hj hs ho hq hf, ?_, fun b c hlen ht hquiet hpoison hsafe => ?_⟩
  · have hkeeps := (devWrite_agentKeeps (s.setJob s.arg.id Job.dropFirst) d.job
      (slotPtr d ((s.setJob s.arg.id Job.dropFirst).tailOf d)) (bytesOfWords e.2.2)).trans (devWrite_agentKeeps _ d.job d.tailAddr
        (natBytes 8 ((s.setJob s.arg.id Job.dropFirst).tailOf d + 1)))
    have hdrop : ((s.setJob s.arg.id Job.dropFirst).job s.arg.id).overflow = l := by
      rw [s.job_setJob s.arg.id Job.dropFirst (fun _ => rfl) (by rw [hj]; rfl), State.job_of_some hj]
      exact congrArg (List.eraseIdx · 0) ho
    exact (hkeeps.jobs.overflow s.arg.id).trans hdrop
  · obtain ⟨hupd, -, -, htx⟩ := hquiet
    exact ht.appendRecord (s' := s.setJob s.arg.id Job.dropFirst) ⟨hupd, htx, hpoison, hsafe.1⟩ ⟨hupd, htx, hpoison, hsafe.1⟩ rfl
      (s.job_setJob_field _ _ Job.dropFirst Job.windows (fun _ => rfl) (fun _ => rfl))
      (s.job_setJob_field _ _ Job.dropFirst Job.ptBase (fun _ => rfl) (fun _ => rfl)) e.2.2 hlen

end Sys2Proof.Machine
end

section
/-! The life of a launch: its record taken, aged, kept for a full queue and admitted, its wake, its troupes placed and done, its cancel (spec/09
R160 to R175, spec/02 R26 to R40). -/

namespace Sys2Proof.Machine

/-- Settles O42, each clause by the lemmas of its own: what the hub reads and writes for the Registrar may apply commits and stop jobs on its way
and leaves the Registrar's lists as they are; a wake and a placement add to the lists of troupes and strands; a child done and a cancel change
their launch alone. -/
theorem launchLife : Obligations.LaunchLife := by
  unfold Obligations.LaunchLife
  refine ⟨?taken, ?admitted, ?aged, ?appended, ?woken, ?placed, ?done, ?cancelled⟩
  case taken => exact recordTaken_results
  case admitted => exact launchAdmission_results
  case aged => exact exec_priorityAging
  case appended => exact launchOverflowAppend_results
  case woken => exact wakeMessage_results
  case placed => exact troupePlacement_results
  case done => exact troupeDone_results
  case cancelled => exact cancelBroadcast_results

end Sys2Proof.Machine
end
